-- ==== Sys2Proof/Word.lean ====
section
/-! DEFINITION. The word types of the Kreune part, the container shapes its state is built from (sparse maps from
numbers, lane masks) and the small closed types that the instruction syntax and the state share. -/

namespace Sys2Proof

/-- One byte, the smallest addressable unit (R12). -/
abbrev Byte := BitVec 8

/-- A 32-bit register value (R39). -/
abbrev W32 := BitVec 32

/-- A 64-bit value: an address, a register pair, a Crumb register (R39, R40, R261). -/
abbrev W64 := BitVec 64

/-- A set of lanes of one group: bit `l` for lane `l` (R45, R363). -/
abbrev Mask := BitVec 32

/-- A sparse map: number and value pairs, numbers strictly rising. What an unlisted number reads as is said where the
map is read (`SMap.get`). -/
abbrev SMap (α : Type) := List (Nat × α)

/-- The width of a lane's work in the group: 32 lanes (R3). -/
abbrev nLanes : Nat := 32

/-! ## Small closed types shared by the instruction syntax and the state -/

/-- A unit that runs Crumb words (R260): a line-routine engine, numbered by its device index 64 × die + slice (R2), or a
walker processor 0–191 (R2). -/
inductive Engine where
  | slice (k : Nat)
  | walker (w : Nat)
deriving DecidableEq, Repr

/-- Who forms a walk request or an access that needs a translation: a group's lanes or fetch (R308, R324), or a command
front end for its packets, records and signals (R333, R341). -/
inductive Walked where
  | group (gid : Nat)
  | frontEnd (fe slot : Nat)
deriving DecidableEq, Repr

/-- Who asks the control pair for something: the control pair on its own account, the host, the second host or the board
controller (R431, R433, R442 class 0x84). -/
inductive Asker where
  | pair
  | host
  | host2
  | board
deriving DecidableEq, Repr

/-- The TDISP 1.0 state of a function's device interface as the rules of this part use it (R396, R429). -/
inductive Tdisp where
  | unlocked
  | locked
  | run
  | error
deriving DecidableEq, Repr

/-- What the request in a DOE mailbox carries (R431). -/
inductive DoeKind where
  | discovery
  | spdm
  | ideKeys
  | tdispLock (fn : Nat)
  | tdispStart (fn : Nat)
  | tdispStop (fn : Nat)
  | controlRead (code : Nat)
  | controlWrite (code : Nat)
deriving DecidableEq, Repr

/-- The field of a function's token bucket that a write names (R353). -/
inductive BucketField where
  | cap
  | rate
  | level
deriving DecidableEq, Repr

/-- An extent descriptor of a space's frame allowance (R318): BASE counted in 4 KiB frames (PA[51:12]), PAGES, and the
flags V, F, S, A and RWX. -/
structure Extent where
  base : Nat
  pages : Nat
  v : Bool
  f : Bool
  sealed : Bool
  arena : Bool
  rwx : BitVec 3
deriving DecidableEq, Repr

/-- One change of the layout by the control pair (R391). A unit is given to a world (`some w`) or to none. -/
inductive LayoutChange where
  | partition (fe : Nat) (valid : Bool) (part base limit : Nat)
  | colour (part sbase scount rbase rcount : Nat)
  | ways (part first count : Nat)
  | backstop (part bbase bcount : Nat)
  | lane (part credits : Nat)
  | quota (part cls ways : Nat)
  | subp (core subp : Nat) (world : Option Nat)
  | bank (core bank : Nat) (world : Option Nat)
  | portions (core world count : Nat)
  | transfer (world i space idx : Nat)
deriving DecidableEq, Repr

/-- A secret-bearing message (R393), its fields as they stand in the record. `reserved` is true when every reserved byte is
zero; `pub` is the tenant's ephemeral public key. -/
structure KeyMsg where
  typ : BitVec 32
  world : BitVec 16
  slot : BitVec 8
  reserved : Bool
  gen : BitVec 32
  pfx : BitVec 32
  pub : Nat
  iv : BitVec 96
  enc : BitVec 256
  tag : BitVec 128
deriving DecidableEq, Repr

/-- The pool that a compactor move acts on (R350, R351). -/
inductive PoolKind where
  | vector
  | tile
  | accumulator
  | scratchpad
deriving DecidableEq, Repr

end Sys2Proof
end

