-- ==== Sys2Proof/Syntax.lean ====
section
/-! DEFINITION. The instruction syntax: one constructor for each row of spec/opcode_table.json. The rows are of four
kinds: the single-form and immediate-form Fjodo words (R49, R55), the slots of a pair word (R56), the Crumb words (R260), and the part's events,
each whole and indivisible. An event that an outside request carries has the request as operands; an event of a unit alone
has none, and `State.args` says which unit. (Lean's runtime allows operands on the first 245 constructors only.) -/

namespace Sys2Proof

/-- The fields of a single-form word besides K and MAJ (R49). -/
structure SForm where
  pg : BitVec 4
  pn : Bool
  d : BitVec 8
  a : BitVec 8
  b : BitVec 8
  c : BitVec 8
  lq : BitVec 3
  nw : Bool
  hd : Bool
  ru : Bool
  fn : BitVec 13
deriving DecidableEq, Repr

/-- The fields of an immediate-form word besides K and MAJ (R55). -/
structure SIForm where
  pg : BitVec 4
  pn : Bool
  d : BitVec 8
  a : BitVec 8
  imm : BitVec 32
  ud : Bool
  f3 : BitVec 2
deriving DecidableEq, Repr

/-- The fields of one slot of a pair word besides POP (R56). -/
structure PSlot where
  pg3 : BitVec 3
  d : BitVec 8
  a : BitVec 8
  pm : BitVec 6
deriving DecidableEq, Repr

/-- The fields of a Crumb word besides OP6 (R260). -/
structure CForm where
  rd : BitVec 4
  ra : BitVec 4
  rb : BitVec 4
  imm : BitVec 14
deriving DecidableEq, Repr

/-- The operations and events of the part: one constructor for each row of spec/opcode_table.json. -/
inductive Instr where
  /-- NOP (R106). Does nothing. -/
  | nop (f : SForm)
  /-- IADD (R85). Integer add with optional saturation and carry. -/
  | iadd (f : SForm)
  /-- ISUB (R85). Integer subtract with optional saturation and borrow. -/
  | isub (f : SForm)
  /-- IADD3 (R85). Three-input integer add. -/
  | iadd3 (f : SForm)
  /-- IMUL (R85). Integer multiply, low bits. -/
  | imul (f : SForm)
  /-- IMAD (R85). Integer multiply-add, optionally wide. -/
  | imad (f : SForm)
  /-- IMULH (R85). Integer multiply, high bits. -/
  | imulh (f : SForm)
  /-- IMIN (R85). Integer minimum. -/
  | imin (f : SForm)
  /-- IMAX (R85). Integer maximum. -/
  | imax (f : SForm)
  /-- IABS (R85). Integer absolute value. -/
  | iabs (f : SForm)
  /-- AND (R86). Bitwise and, with optional complement of B. -/
  | and (f : SForm)
  /-- OR (R86). Bitwise or. -/
  | or (f : SForm)
  /-- XOR (R86). Bitwise exclusive-or. -/
  | xor (f : SForm)
  /-- TERN (R87). Ternary bitwise table lookup. -/
  | tern (f : SForm)
  /-- LEA (R88). Shifted add for address arithmetic. -/
  | lea (f : SForm)
  /-- MOVI (R89). Loads a 32-bit immediate, optionally extended to 64 bits. -/
  | movi (f : SIForm)
  /-- IADDI (R89). Adds a 32-bit immediate. -/
  | iaddi (f : SIForm)
  /-- SHL (R90). Shift left. -/
  | shl (f : SForm)
  /-- SHR (R90). Logical or arithmetic shift right. -/
  | shr (f : SForm)
  /-- FSH (R91). Funnel shift of a 64-bit concatenation. -/
  | fsh (f : SForm)
  /-- BFX (R92). Bit-field extract. -/
  | bfx (f : SForm)
  /-- BFI (R92). Bit-field insert. -/
  | bfi (f : SForm)
  /-- POPC (R93). Population count. -/
  | popc (f : SForm)
  /-- CLZ (R93). Count leading zeros. -/
  | clz (f : SForm)
  /-- BREV (R93). Bit reverse. -/
  | brev (f : SForm)
  /-- BSEL (R94). Byte select from two registers. -/
  | bsel (f : SForm)
  /-- ISETP (R95). Integer compare into a predicate. -/
  | isetp (f : SForm)
  /-- SEL (R96). Selects A or B by a predicate. -/
  | sel (f : SForm)
  /-- MOV (R97). Register move or uniform broadcast. -/
  | mov (f : SForm)
  /-- PSETP (R98). Predicate logic. -/
  | psetp (f : SForm)
  /-- P2V (R99). Packs the predicates into a register. -/
  | p2v (f : SForm)
  /-- V2P (R99). Sets predicates from a register under a mask. -/
  | v2p (f : SForm)
  /-- FADD (R136). FP32 add. -/
  | fadd (f : SForm)
  /-- FMUL (R136). FP32 multiply. -/
  | fmul (f : SForm)
  /-- FFMA (R136). FP32 fused multiply-add. -/
  | ffma (f : SForm)
  /-- FMIN (R138). Floating-point minimum. -/
  | fmin (f : SForm)
  /-- FMAX (R138). Floating-point maximum. -/
  | fmax (f : SForm)
  /-- FSETP (R139). Floating-point compare into a predicate. -/
  | fsetp (f : SForm)
  /-- FCLASS (R140). Floating-point classification. -/
  | fclass (f : SForm)
  /-- FRND (R141). Rounds to an integral value. -/
  | frnd (f : SForm)
  /-- FRCP (R142). FP32 reciprocal. -/
  | frcp (f : SForm)
  /-- FRSQ (R142). FP32 reciprocal square root. -/
  | frsq (f : SForm)
  /-- FSQRT (R142). FP32 square root. -/
  | fsqrt (f : SForm)
  /-- FEX2 (R142). FP32 base-2 exponential. -/
  | fex2 (f : SForm)
  /-- FLG2 (R142). FP32 base-2 logarithm. -/
  | flg2 (f : SForm)
  /-- FSIN (R142). FP32 sine. -/
  | fsin (f : SForm)
  /-- FCOS (R142). FP32 cosine. -/
  | fcos (f : SForm)
  /-- FTANH (R142). FP32 hyperbolic tangent. -/
  | ftanh (f : SForm)
  /-- DADD (R137). FP64 add. -/
  | dadd (f : SForm)
  /-- DMUL (R137). FP64 multiply. -/
  | dmul (f : SForm)
  /-- DFMA (R137). FP64 fused multiply-add. -/
  | dfma (f : SForm)
  /-- FSCL (R144). Scales an FP32 value by E8M0 scales or an integer exponent. -/
  | fscl (f : SForm)
  /-- HADD2 (R146). Paired-half add. -/
  | hadd2 (f : SForm)
  /-- HMUL2 (R146). Paired-half multiply. -/
  | hmul2 (f : SForm)
  /-- HFMA2 (R146). Paired-half fused multiply-add. -/
  | hfma2 (f : SForm)
  /-- HMNMX2 (R147). Paired-half minimum or maximum. -/
  | hmnmx2 (f : SForm)
  /-- PDOT4 (R149). Four-element packed dot product with accumulate. -/
  | pdot4 (f : SForm)
  /-- PDOT8 (R149). Eight-element packed dot product with accumulate. -/
  | pdot8 (f : SForm)
  /-- F2I (R150). Float to integer conversion. -/
  | f2i (f : SForm)
  /-- I2F (R151). Integer to float conversion. -/
  | i2f (f : SForm)
  /-- F2F (R151). Float to float conversion. -/
  | f2f (f : SForm)
  /-- PCVT (R152). Converts two FP32 values into a format slot's packed elements. -/
  | pcvt (f : SForm)
  /-- UNPK (R153). Unpacks one element of a format slot's format. -/
  | unpk (f : SForm)
  /-- LD (R178). Load from a memory space. -/
  | ld (f : SForm)
  /-- ST (R180). Store to a memory space. -/
  | st (f : SForm)
  /-- SLD (R179). Loads k words from one scratchpad sector. -/
  | sld (f : SForm)
  /-- LDA (R181). Load with acquire at a scope. -/
  | lda (f : SForm)
  /-- STREL (R181). Store with release at a scope. -/
  | strel (f : SForm)
  /-- ATOM (R183). Atomic read-modify-write that returns the old value. -/
  | atom (f : SForm)
  /-- ATOMX (R184). Atomic compare-and-exchange. -/
  | atomx (f : SForm)
  /-- RED (R183). Atomic reduction with no result. -/
  | red (f : SForm)
  /-- FENCE (R186). Full, acquire or release fence at a scope. -/
  | fence (f : SForm)
  /-- CCTL_IVL1 (R187). Invalidates the world's L1 copy of one line. -/
  | cctlIvl1 (f : SForm)
  /-- CCTL_IVL1_ALL (R187). Invalidates the world's whole L1 on the core. -/
  | cctlIvl1All (f : SForm)
  /-- CCTL_DEMOTE (R187). Marks a line least recently used in L2 or RDC. -/
  | cctlDemote (f : SForm)
  /-- PRF (R188). Prefetch into L1 and L2, or L2 only. -/
  | prf (f : SForm)
  /-- IFLUSH (R190). Invalidates instruction-cache lines over an address range. -/
  | iflush (f : SForm)
  /-- ISYNC (R191). Discards the group's fetched words after earlier IFLUSHes. -/
  | isync (f : SForm)
  /-- PRES_TEST (R189). Tests whether a run of presence bits is all set. -/
  | presTest (f : SForm)
  /-- PRES_SET (R189). Releases and sets a run of presence bits. -/
  | presSet (f : SForm)
  /-- PRES_CLR (R189). Clears a run of presence bits. -/
  | presClr (f : SForm)
  /-- ACP (R223). Starts per-thread 32-byte copies into scratchpad under a batch tag. -/
  | acp (f : SForm)
  /-- ACPC (R225). Closes a tag's open batch. -/
  | acpc (f : SForm)
  /-- ACPW (R225). Waits for a tag's closed batches to land. -/
  | acpw (f : SForm)
  /-- BCP_LD (R227). Bulk copy of a tensor box into scratchpad. -/
  | bcpLd (f : SForm)
  /-- BCP_ST (R227). Bulk copy from scratchpad out to a tensor box. -/
  | bcpSt (f : SForm)
  /-- RFENCE (R229). Drops one cached tensor record. -/
  | rfence (f : SForm)
  /-- RFENCE_ALL (R229). Drops every cached record of the space. -/
  | rfenceAll (f : SForm)
  /-- BINIT (R231). Initialises a barrier object with an expected count. -/
  | binit (f : SForm)
  /-- BARV (R232). Arrives at a barrier object and declares expected bytes, returning a phase token. -/
  | barv (f : SForm)
  /-- BWAIT (R233). Waits for the next phase of a barrier object. -/
  | bwait (f : SForm)
  /-- BWAIT_TOKEN (R233). Waits unless the phase differs from a token. -/
  | bwaitToken (f : SForm)
  /-- BWAIT_TEST (R233). Tests whether the phase differs from a token. -/
  | bwaitTest (f : SForm)
  /-- MLD_T (R253). Loads tile registers from scratchpad. -/
  | mldT (f : SForm)
  /-- MLD_A (R253). Loads A operand registers from scratchpad rows. -/
  | mldA (f : SForm)
  /-- MMA (R243). Declares a cooperative matrix operation in a convergence register. -/
  | mma (f : SForm)
  /-- MSG (R244). Signs a declared matrix operation for the lane, arming it at the last signature. -/
  | msg (f : SForm)
  /-- MOFN (R255). Makes the lane's earlier writes visible to the matrix unit. -/
  | mofn (f : SForm)
  /-- MWT (R247). Waits for a convergence register's operation to complete. -/
  | mwt (f : SForm)
  /-- MZ (R256). Zeroes accumulators and clears their divergence marks. -/
  | mz (f : SForm)
  /-- MDR_GET (R257). Copies accumulators into vector registers. -/
  | mdrGet (f : SForm)
  /-- MDR_PUT (R257). Copies vector registers into accumulators. -/
  | mdrPut (f : SForm)
  /-- MDRX (R259). Drains accumulators to memory, converting and optionally block-scaling. -/
  | mdrx (f : SForm)
  /-- BRA (R102). Relative branch. -/
  | bra (f : SForm)
  /-- BRX (R102). Indirect branch. -/
  | brx (f : SForm)
  /-- CALL (R103). Relative call writing a link. -/
  | call (f : SForm)
  /-- CALL_IND (R103). Indirect call writing a link. -/
  | callInd (f : SForm)
  /-- RET (R102). Return to a 64-bit target. -/
  | ret (f : SForm)
  /-- MEET (R104). Sets the meeting register to a relative target. -/
  | meet (f : SForm)
  /-- MEET_CLR (R104). Clears the meeting register. -/
  | meetClr (f : SForm)
  /-- MEET_REG (R104). Sets the meeting register from a pair. -/
  | meetReg (f : SForm)
  /-- EXIT (R105). Exits the issuing lanes, waiting for signed matrix operations. -/
  | exit (f : SForm)
  /-- YIELD (R106). Makes the group not ready for n core clocks. -/
  | yield (f : SForm)
  /-- VOTE_ALL (R107). Tests whether every contributing lane votes true. -/
  | voteAll (f : SForm)
  /-- VOTE_ANY (R107). Tests whether any contributing lane votes true. -/
  | voteAny (f : SForm)
  /-- VOTE_SAME (R107). Tests whether every contributing lane votes alike. -/
  | voteSame (f : SForm)
  /-- VOTE_BALLOT (R107). Writes the mask of lanes voting true. -/
  | voteBallot (f : SForm)
  /-- SHFL (R108). Lane shuffle by index, up, down or xor. -/
  | shfl (f : SForm)
  /-- MATCH_ANY (R109). Mask of lanes holding the same value. -/
  | matchAny (f : SForm)
  /-- MATCH_ALL (R109). Tests whether all lanes hold the same value. -/
  | matchAll (f : SForm)
  /-- ELECT (R110). Elects the lowest contributing lane. -/
  | elect (f : SForm)
  /-- GRED (R111). Group reduction over the contributing lanes. -/
  | gred (f : SForm)
  /-- SREAD (R112). Reads a special value. -/
  | sread (f : SForm)
  /-- TBAR (R113). Arrives at team barrier object 0 and waits for the phase. -/
  | tbar (f : SForm)
  /-- RGIVE (R115). Gives registers to the team pool. -/
  | rgive (f : SForm)
  /-- RCLAIM (R116). Claims registers from the team pool, blocking until granted. -/
  | rclaim (f : SForm)
  /-- LRINV (R282). Invokes a line routine on one line per lane. -/
  | lrinv (f : SForm)
  /-- LRLOAD (R286). Installs a line-routine image in the recipe table. -/
  | lrload (f : SForm)
  /-- TLBINV (R331). Drops translations over a virtual range and waits for earlier walks. -/
  | tlbinv (f : SForm)
  /-- TLBINV_ALL (R331). Drops every translation of the space. -/
  | tlbinvAll (f : SForm)
  /-- XOPEN (R403). Decrypts a GCM buffer from a transfer extent into scratchpad under a session slot. -/
  | xopen (f : SForm)
  /-- XSEAL (R404). Seals scratchpad bytes under a session slot into a transfer extent. -/
  | xseal (f : SForm)
  /-- RCHK (R423). Device-scope team barrier that closes a rollback interval. -/
  | rchk (f : SForm)
  /-- TRAP (R364). Raises SOFTWARE with a code. -/
  | trap (f : SForm)
  /-- RTT (R365). Returns from the handler to re-execute the word at TPC. -/
  | rtt (f : SForm)
  /-- RTT_SKIP (R365). Returns from the handler to TPC + 8. -/
  | rttSkip (f : SForm)
  /-- SRR (R366). Reads a system register. -/
  | srr (f : SForm)
  /-- SRW (R367). Writes a system register. -/
  | srw (f : SForm)
  /-- BKPT (R364). Raises BREAKPOINT. -/
  | bkpt (f : SForm)
  /-- WRLOAD (R329). Installs a walker routine image and records its measurement. -/
  | wrload (f : SForm)
  /-- PAIR_NOP (R59). Pair slot that does nothing. -/
  | pairNop (f : PSlot)
  /-- PAIR_MOV (R59). Pair slot move. -/
  | pairMov (f : PSlot)
  /-- PAIR_IADD (R59). Pair slot add. -/
  | pairIadd (f : PSlot)
  /-- PAIR_ISUB (R59). Pair slot subtract. -/
  | pairIsub (f : PSlot)
  /-- PAIR_AND (R59). Pair slot and. -/
  | pairAnd (f : PSlot)
  /-- PAIR_OR (R59). Pair slot or. -/
  | pairOr (f : PSlot)
  /-- PAIR_XOR (R59). Pair slot xor. -/
  | pairXor (f : PSlot)
  /-- PAIR_SHL (R59). Pair slot shift left by register. -/
  | pairShl (f : PSlot)
  /-- PAIR_SHR (R59). Pair slot shift right by register. -/
  | pairShr (f : PSlot)
  /-- PAIR_IMIN (R59). Pair slot integer minimum. -/
  | pairImin (f : PSlot)
  /-- PAIR_IMAX (R59). Pair slot integer maximum. -/
  | pairImax (f : PSlot)
  /-- PAIR_IMUL (R59). Pair slot integer multiply. -/
  | pairImul (f : PSlot)
  /-- PAIR_FADD (R59). Pair slot FP32 add. -/
  | pairFadd (f : PSlot)
  /-- PAIR_FMUL (R59). Pair slot FP32 multiply. -/
  | pairFmul (f : PSlot)
  /-- PAIR_FMIN (R59). Pair slot FP32 minimum. -/
  | pairFmin (f : PSlot)
  /-- PAIR_FMAX (R59). Pair slot FP32 maximum. -/
  | pairFmax (f : PSlot)
  /-- PAIR_HADD2 (R59). Pair slot paired-half add. -/
  | pairHadd2 (f : PSlot)
  /-- PAIR_HMUL2 (R59). Pair slot paired-half multiply. -/
  | pairHmul2 (f : PSlot)
  /-- PAIR_SHLI (R59). Pair slot shift left by immediate. -/
  | pairShli (f : PSlot)
  /-- PAIR_SHRI (R59). Pair slot shift right by immediate. -/
  | pairShri (f : PSlot)
  /-- PAIR_IADDI8 (R59). Pair slot add of an 8-bit immediate. -/
  | pairIaddi8 (f : PSlot)
  /-- PAIR_MOVI8 (R59). Pair slot load of an 8-bit immediate. -/
  | pairMovi8 (f : PSlot)
  /-- CRUMB_ADD (R264). Crumb add. -/
  | crumbAdd (f : CForm)
  /-- CRUMB_SUB (R264). Crumb subtract. -/
  | crumbSub (f : CForm)
  /-- CRUMB_MUL (R264). Crumb multiply. -/
  | crumbMul (f : CForm)
  /-- CRUMB_AND (R264). Crumb and. -/
  | crumbAnd (f : CForm)
  /-- CRUMB_OR (R264). Crumb or. -/
  | crumbOr (f : CForm)
  /-- CRUMB_XOR (R264). Crumb xor. -/
  | crumbXor (f : CForm)
  /-- CRUMB_SHL (R265). Crumb shift left. -/
  | crumbShl (f : CForm)
  /-- CRUMB_SHR (R265). Crumb logical shift right. -/
  | crumbShr (f : CForm)
  /-- CRUMB_SAR (R265). Crumb arithmetic shift right. -/
  | crumbSar (f : CForm)
  /-- CRUMB_ROTR (R265). Crumb rotate right. -/
  | crumbRotr (f : CForm)
  /-- CRUMB_MIN (R264). Crumb signed minimum. -/
  | crumbMin (f : CForm)
  /-- CRUMB_MAX (R264). Crumb signed maximum. -/
  | crumbMax (f : CForm)
  /-- CRUMB_MINZ (R264). Crumb unsigned minimum. -/
  | crumbMinz (f : CForm)
  /-- CRUMB_MAXZ (R264). Crumb unsigned maximum. -/
  | crumbMaxz (f : CForm)
  /-- CRUMB_SEQ (R264). Crumb set if equal. -/
  | crumbSeq (f : CForm)
  /-- CRUMB_SLT (R264). Crumb set if signed less. -/
  | crumbSlt (f : CForm)
  /-- CRUMB_SLTZ (R264). Crumb set if unsigned less. -/
  | crumbSltz (f : CForm)
  /-- CRUMB_SEL (R264). Crumb conditional select that keeps the destination when false. -/
  | crumbSel (f : CForm)
  /-- CRUMB_ADDI (R264). Crumb add of a signed immediate. -/
  | crumbAddi (f : CForm)
  /-- CRUMB_LI (R264). Crumb load of a signed immediate. -/
  | crumbLi (f : CForm)
  /-- CRUMB_LIH (R264). Crumb shift by 14 and insert an immediate. -/
  | crumbLih (f : CForm)
  /-- CRUMB_FADD (R266). Crumb FP32 add, evaluated twice. -/
  | crumbFadd (f : CForm)
  /-- CRUMB_FMIN (R266). Crumb FP32 minimum, evaluated twice. -/
  | crumbFmin (f : CForm)
  /-- CRUMB_FMAX (R266). Crumb FP32 maximum, evaluated twice. -/
  | crumbFmax (f : CForm)
  /-- CRUMB_BF (R267). Crumb forward branch if the register is non-zero. -/
  | crumbBf (f : CForm)
  /-- CRUMB_LDL (R269). Loads from the line's clear buffer. -/
  | crumbLdl (f : CForm)
  /-- CRUMB_STL (R269). Stores into the line's clear buffer. -/
  | crumbStl (f : CForm)
  /-- CRUMB_RETV (R269). Ends the line routine with c3 as its result. -/
  | crumbRetv (f : CForm)
  /-- CRUMB_LDP (R315). Walker read of 8 decrypted bytes from the walker arena. -/
  | crumbLdp (f : CForm)
  /-- CRUMB_HASH (R270). Walker hash of two registers. -/
  | crumbHash (f : CForm)
  /-- CRUMB_BR (R316). Walker branch in either direction, taken if RA is 0 or the register is non-zero. -/
  | crumbBr (f : CForm)
  /-- CRUMB_MAPOK (R317). Ends the walk proposing the frame in c5 to c7. -/
  | crumbMapok (f : CForm)
  /-- CRUMB_MAPNO (R317). Ends the walk as unmapped, or with a page request. -/
  | crumbMapno (f : CForm)
  /-- CRUMB_MAPFLT (R317). Ends the walk with a tenant fault code. -/
  | crumbMapflt (f : CForm)
  /-- LEASE_END (R174). An atomic lease ends 512 fabric clocks after the core's last atomic on the line, or at another agent's request; the line is written back and the held requests are served. -/
  | leaseEnd (line : Nat) (byRequest : Bool)
  /-- WALK_REQUEST (R308). A lane that misses in the TLB and the translation cache forms a walk request, merged with a matching request that has not yet begun. -/
  | walkRequest (who : Walked)
  /-- PAGE_REQUEST_RESPONSE (R326). A response naming SEQ grants, with new extents installed first, or denies; a grant walks the access again and a deny raises UNMAPPED. -/
  | pageRequestResponse (by_ : Asker) (part seq : Nat) (grant : Bool) (exts : List (Nat × Nat × Extent))
  /-- QUEUE_MAP (R443). The control pair maps a queue into a slot; the front end reads RPTR, starts from it, writes STATUS 0, and assigns a doorbell index. -/
  | queueMap (by_ : Asker) (fe slot q n world space fn : Nat)
  /-- QUEUE_UNMAP (R355). The control pair unmaps a queue, the front end keeping its state for a later mapping. -/
  | queueUnmap (by_ : Asker) (fe slot : Nat)
  /-- COMPACTOR_MOVE (R351). The compactor moves a block to a lower free address when it becomes movable, taking 2 x b core clocks, until the waiting allocation succeeds. -/
  | compactorMove (kind : PoolKind) (gid : Nat)
  /-- TOKEN_BUCKET_WRITE (R353). A write of CAP, RATE or LEVEL through the physical function takes effect at the next microsecond boundary, and LEVEL is clamped. -/
  | tokenBucketWrite (by_ : Asker) (fn : Nat) (fld : BucketField) (value : Int)
  /-- PREEMPT (R368). The control pair stops a context's groups at instruction boundaries, waits for every engine to acknowledge, and writes the save area. -/
  | preempt (by_ : Asker) (fe slot : Nat)
  /-- RESTORE (R376). The control pair places the context's teams in one step, writes the images, re-enqueues claims, issues the replays and makes the groups ready, or refuses the restore. -/
  | restore (by_ : Asker) (fe slot : Nat)
  /-- QUEUE_RESET (R378). A queue-level reset stops the context, discards its pending work, frees its resources and writes STATUS with a release. -/
  | queueReset (by_ : Asker) (fe slot : Nat)
  /-- EXTENT_GRANT (R319). The control pair grants an allowance extent, setting V and starting its zero fill under the world's key. -/
  | extentGrant (by_ : Asker) (space idx : Nat) (e : Extent)
  /-- EXTENT_CHANGE (R319). Before shrinking, removing or regranting an extent, the control pair drops cached translations and waits for earlier walks, then applies the change. -/
  | extentChange (by_ : Asker) (space idx : Nat) (e : Extent)
  /-- LAYOUT_CHANGE (R391). The control pair changes a partition register, colour, way assignment, lane, world register or portion, and increments the layout generation. -/
  | layoutChange (by_ : Asker) (c : LayoutChange)
  /-- WORLD_CREATE (R384). The control pair creates a world in a partition, generates its keys and places its event queue. -/
  | worldCreate (by_ : Asker) (world part : Nat) (test : Bool) (evFrame doorFrame : Nat)
  /-- EVIDENCE_REQUEST (R392). The control pair produces signed evidence for a world with a fresh ephemeral key. -/
  | evidenceRequest (by_ : Asker) (world : Nat) (nonce : BitVec 256)
  /-- KEY_INSTALL (R393). A secret-bearing message is checked and unwrapped, and installs a session key in a slot or is refused. -/
  | keyInstall (by_ : Asker) (m : KeyMsg)
  /-- MEASURED_LOAD (R395). The control pair copies bytes into a sealed extent, hashes them, and appends a measurement entry. -/
  | measuredLoad (by_ : Asker) (world space src len idx : Nat)
  /-- REVOCATION (R397). A world's queues are reset, its work ended, its caches dropped, its arrays zeroed, its keys erased and its resources released. -/
  | revocation (by_ : Asker) (world : Nat)
  /-- INTERFACE_UNLOCKED (R396). A bound TDISP interface leaves RUN for CONFIG_UNLOCKED or ERROR and is reported as event 0x72. -/
  | interfaceUnlocked (world : Nat) (err : Bool)
  /-- TDISP_BIND (R396). The control pair binds a virtual function's TDISP interface to a world. -/
  | tdispBind (by_ : Asker) (world fn : Nat)
  /-- ALLOWLIST_DENIED (R398). A host register access outside the allow-list reads zero or is ignored, and is reported as event 0x70. -/
  | allowlistDenied (fn bar offset : Nat) (write : Bool)
  /-- HOST_WINDOW_ACCESS (R440). A host or peer reads or writes raw bytes of a transfer extent through a BAR window; bytes elsewhere read as zero. -/
  | hostWindowAccess (fn offset : Nat) (write : Bool) (bytes : List Byte)
  /-- SUBMISSION_COMMIT (R429). Writing an entry's target field commits its 64 data bytes to the target, or only WPTR for a control block, or is dropped. -/
  | submissionCommit (fn e : Nat) (data : List Byte) (target q : Nat)
  /-- DOE_REQUEST (R431). A DOE mailbox request carries discovery, SPDM, secured sessions, or Novlek's type 0x80 control requests. -/
  | doeRequest (by_ : Asker) (fn : Nat) (k : DoeKind)
  /-- CLAIM (R433). The first CLAIM handled with no owner makes its master the owner. -/
  | claim (by_ : Asker)
  /-- HANDOVER (R433). The owner names a new master, which owns from its ACCEPT. -/
  | handover (by_ to_ : Asker)
  /-- ACCEPT (R433). The named master accepts a handover and becomes owner. -/
  | accept (by_ : Asker)
  /-- FORCE (R433). The board controller takes ownership after the owner has been silent for 10 s. -/
  | force (by_ : Asker)
  /-- DEVICE_RESET (R434). After PERST# is released the device boots, checks its firmware, trains links and memory, and enables configuration with no owner. -/
  | deviceReset (signed : Bool)
  /-- POWER_CAP_SET (R435). The host or board controller sets a power cap, and the lower of the two becomes the effective cap. -/
  | powerCapSet (by_ : Asker) (watts : Nat)
  /-- THERMAL_LIMIT (R436). At 100 °C N is held at 8; at 115 °C THERMTRIP_N is asserted and power is removed. -/
  | thermalLimit (nougat : Bool) (unit celsius : Nat)
  /-- SPACE_CREATE (R272). The control pair creates a space in a world, placing its zeroed routine arena and walker image area inside extents of its allowance. -/
  | spaceCreate (by_ : Asker) (space world arenaPa walkerPa : Nat)
  /-- ISSUE_CYCLE (R28). Each core clock a sub-partition picks the ready group with the largest wait count, or continues a hold chain, and issues one instruction word for it. It is of the core, sub-partition that `State.args` gives. -/
  | issueCycle
  /-- CLAIM_DEADLOCK (R21). When every non-exited group of a team is blocked in RCLAIM and the oldest claim cannot be met, all pending claims are withdrawn and CLAIM_DEADLOCK is raised in every claiming lane. It is of the team that `State.args` gives. -/
  | claimDeadlock
  /-- BARRIER_STARVED (R33). After a team has been starved for 65,536 consecutive core clocks, every blocked lane raises BARRIER_STARVED and its wait, arrival or claim is withdrawn. It is of the team that `State.args` gives. -/
  | barrierStarved
  /-- TRANSFER_LANDS (R223). A per-thread copy transfer writes its 32-byte sector, sets the sector's presence bit, updates its tag counters, and may release a tag or presence wait. It is of the operation that `State.args` gives. -/
  | transferLands
  /-- BULK_SECTOR_LANDS (R228). A sector of a bulk load is written to scratchpad, its presence bit is set, and 32 bytes are credited to the barrier object. It is of the operation, sector that `State.args` gives. -/
  | bulkSectorLands
  /-- BULK_STORE_SECTOR_CREDIT (R228). A source sector of a bulk store credits 32 bytes to its object once its in-range bytes have reached the home die's point of visibility. It is of the operation, sector that `State.args` gives. -/
  | bulkStoreSectorCredit
  /-- MATRIX_ARMED_START (R241). An armed operation becomes BUSY once every scratchpad sector of B and of its scales is present, and the unit begins reading its operands. It is of the convergence register that `State.args` gives. -/
  | matrixArmedStart
  /-- MATRIX_COMPLETE (R241). The matrix unit finishes an operation: accumulators are written and checked, the register returns to IDLE, PHASE advances and the waiters are released. It is of the convergence register that `State.args` gives. -/
  | matrixComplete
  /-- PREDICTOR_DECAY (R174). Every 4,096 core clocks all contention-predictor counters decrement, stopping at 0. -/
  | predictorDecay
  /-- SHIPPED_ATOMIC (R174). A shipped atomic arrives at its home slice and runs there as a built-in routine in the slice engine's clear buffer. It is of the operation that `State.args` gives. -/
  | shippedAtomic
  /-- L1_LINE_EXPIRY (R166). An L1 line is no longer served 16,384 core clocks after it was filled. It is of the core, line that `State.args` gives. -/
  | l1LineExpiry
  /-- INVOCATION_ARRIVAL (R276). A line-routine invocation arrives at its home slice and enters its partition's arrival queue. It is of the operation that `State.args` gives. -/
  | invocationArrival
  /-- INVOCATION_RUN (R276). The engine takes the next invocation in round robin over the partitions, obtains the image and the line, holds the line, decrypts it, runs the routine, writes the line back and releases it. It is of the slice that `State.args` gives. -/
  | invocationRun
  /-- INVOCATION_RETURN (R282). An invocation's result or fault returns to the issuing group, which resumes once every invocation of the LRINV has returned. It is of the operation that `State.args` gives. -/
  | invocationReturn
  /-- ROUTINE_IMAGE_DROP (R289). A drop sent by LRLOAD reaches a slice engine, which removes every cached image of that space and routine and acknowledges. It is of the slice, space, routine that `State.args` gives. -/
  | routineImageDrop
  /-- WALK_START (R309). A free walker takes the oldest request of the next space in round robin that has fewer than 32 walks outstanding, and sets its entry registers. It is of the walker that `State.args` gives. -/
  | walkStart
  /-- HELD_WALK_RECHECK (R322). A walk held on an extent with F=0 is checked again from step 2 once the extent's F becomes 1. It is of the operation that `State.args` gives. -/
  | heldWalkRecheck
  /-- RDS (R296). A request for an S copy is resolved at the Nougat die by the entry's state. It is of the die, line that `State.args` gives. -/
  | rds
  /-- RDX (R296). A request for an E or M copy is resolved at the Nougat die by the entry's state. It is of the die, line that `State.args` gives. -/
  | rdx
  /-- UPG (R296). A request to make an S or O copy M is resolved at the Nougat die, or handled as RDX when the requester is no longer a sharer. It is of the die, line that `State.args` gives. -/
  | upg
  /-- WBD (R296). An owner's dirty write-back on eviction is forwarded to the home as HWB, and the entry is updated. It is of the die, line that `State.args` gives. -/
  | wbd
  /-- EVC (R296). A clean holder's drop removes it from SHR and frees the entry when no other die holds the line. It is of the die, line that `State.args` gives. -/
  | evc
  /-- FWS (R295). A holder told to supply DAT to a requester supplies it, becoming S or O. It is of the message that `State.args` gives. -/
  | fws
  /-- FWX (R295). A holder supplies DAT, enters H, and invalidates on DAK. It is of the message that `State.args` gives. -/
  | fwx
  /-- INV (R295). A sharer invalidates its copy and answers IAK. It is of the message that `State.args` gives. -/
  | inv
  /-- RCL (R299). A holder invalidates for a recall, writing dirty data back in its IAK. It is of the message that `State.args` gives. -/
  | rcl
  /-- HRC (R299). The home's request to recall one exported line starts a recall of that entry, or is answered REL at once when no entry exists. It is of the line that `State.args` gives. -/
  | hrc
  /-- HRS (R296). The home fills its L2 if needed, supplies DAT granting S, and sets XP to 1, probing first when XP is 3. It is of the message that `State.args` gives. -/
  | hrs
  /-- HRX (R296). The home supplies DAT granting E or M, invalidates its data, and sets XP to 2. It is of the message that `State.args` gives. -/
  | hrx
  /-- HWB (R296). The home writes dirty data into its L2 and sends WAK. It is of the message that `State.args` gives. -/
  | hwb
  /-- REL (R294). The home learns that no other die holds the line and sets XP to 0. It is of the message that `State.args` gives. -/
  | rel
  /-- SPL (R300). The home records a spilled line in its backstop directory and sets XP to 3, waiting for a free entry if needed. It is of the message that `State.args` gives. -/
  | spl
  /-- PRB (R301). A die probed for a spilled line writes back dirty data or reports no copy, and invalidates. It is of the message that `State.args` gives. -/
  | prb
  /-- DAT (R298). A requester receives data, a dirty flag and the granted state, uses it at once, and sends DAK. It is of the message that `State.args` gives. -/
  | dat
  /-- DAK (R298). The supplier learns the data arrived and leaves H; the Nougat die clears PEND when every acknowledgement is in. It is of the message that `State.args` gives. -/
  | dak
  /-- IAK (R297). An invalidation is acknowledged, possibly carrying dirty data, toward the completion of the transaction or recall. It is of the message that `State.args` gives. -/
  | iak
  /-- WAK (R298). The writer learns that its write-back was accepted and leaves H. It is of the message that `State.args` gives. -/
  | wak
  /-- RECALL_TIMEOUT (R300). A recall that has not completed within 4,096 fabric clocks spills: SPL is sent to the home and the entry is freed. It is of the line that `State.args` gives. -/
  | recallTimeout
  /-- NOUGAT_LOST (R302). When a Nougat die stops answering or reports failure, the control pair runs recovery of its half into home mode, or stops the device if both are lost. It is of the Nougat die that `State.args` gives. -/
  | nougatLost
  /-- DOORBELL (R335). On a doorbell the front end acquires WPTR at .sys, checks it for overrun or regression, and accepts the new packets. It is of the front end, slot that `State.args` gives. -/
  | doorbell
  /-- NOP_PACKET (R339). A NOP packet retires in its turn and writes its signal, if any. It is of the front end, slot that `State.args` gives. -/
  | nopPacket
  /-- BUNDLE (R341). A BUNDLE packet's records are read and checked, and its sub-launches start together or the queue stops. It is of the front end, slot that `State.args` gives. -/
  | bundle
  /-- WAIT (R339). A WAIT packet holds later packets until a read of SIGADDR holds at least SIGVAL, then retires. It is of the front end, slot that `State.args` gives. -/
  | wait
  /-- WAIT_SATISFIED (R339). A repeated read of a WAIT's signal finds a value at least SIGVAL; the read is an acquire and the WAIT retires. It is of the front end, slot that `State.args` gives. -/
  | waitSatisfied
  /-- COPY_SUBLAUNCH (R340). A copy sub-launch moves sectors through the encryption engine, re-keying the tweak per address, and ends. It is of the front end, slot, sub-launch that `State.args` gives. -/
  | copySublaunch
  /-- FILL_SUBLAUNCH (R340). A fill sub-launch writes PATTERN over the destination sectors and ends. It is of the front end, slot, sub-launch that `State.args` gives. -/
  | fillSublaunch
  /-- GRID_END (R342). A grid ends when its last team ends, with its writes visible to the front end. It is of the front end, slot, sub-launch that `State.args` gives. -/
  | gridEnd
  /-- BUNDLE_RETIRE (R342). A bundle whose sub-launches have ended and whose earlier packets have retired is released at .sys, signalled, and RPTR advances. It is of the front end, slot that `State.args` gives. -/
  | bundleRetire
  /-- TEAM_PLACEMENT (R347). A waiting team is placed on the first set of cores that fits, its groups assigned round robin, and it becomes resident. It is of the front end, slot, sub-launch that `State.args` gives. -/
  | teamPlacement
  /-- CORESIDENT_PLACEMENT (R348). A co-resident grid is placed in one step once all its teams fit at once. It is of the front end, slot, sub-launch that `State.args` gives. -/
  | coresidentPlacement
  /-- TWIN_PLACEMENT (R349). A twin team's leading and trailing teams are placed in one step on two cores of a cluster. It is of the front end, slot, sub-launch that `State.args` gives. -/
  | twinPlacement
  /-- BUCKET_UPDATE (R354). Every 600 core clocks each enabled bucket is charged for its resident sub-partitions and refilled, and DRY is set or cleared, unmapping or remapping its queues. -/
  | bucketUpdate
  /-- ENGINE_QUIESCED (R369). The last engine class acknowledges, with replay entries recorded, and the context is written to its save area. It is of the front end, slot that `State.args` gives. -/
  | engineQuiesced
  /-- SCRUB (R412). The patrol scrubber reads a unit, corrects and writes it back unless a program write intervenes, or reports it as uncorrectable. It is of the unit that `State.args` gives. -/
  | scrub
  /-- ROLLBACK (R418). A consumed error in a clean interval stops the team, quiesces its engines, undoes the log, reapplies earlier copies, restores the image and resumes. It is of the team that `State.args` gives. -/
  | rollback
  /-- BUNDLE_DISCARDED (R417). A consumed error in an escaped interval, or from an operation issued before it, resets the queue with code 5. It is of the team that `State.args` gives. -/
  | bundleDiscarded
  /-- COMPARE_ENTRY (R421). A twin pair operation enters the compare buffer; when both teams' entries with one key are present they are compared and performed, or a mismatch rolls both back. It is of the team that `State.args` gives. -/
  | compareEntry
  /-- EXTENT_FILL_DONE (R319). An extent's zero fill ends and F is set, releasing walks held on it. It is of the space, extent that `State.args` gives. -/
  | extentFillDone
  /-- HOST_DOORBELL_WRITE (R429). A host doorbell write rings the queue that holds the index, or is dropped and reported as class 0x80. It is of the function, doorbell that `State.args` gives. -/
  | hostDoorbellWrite
  /-- DOORBELL_FRAME_STORE (R430). An aligned 8-byte store into a world's doorbell frame rings a front-end slot; other accesses are dropped and reported. -/
  | doorbellFrameStore
  /-- CONTROL_PAIR_MISMATCH (R432). On a mismatch between the control pair's cores, both stop, every queue is reset with code 7, and no work is accepted until reset. -/
  | controlPairMismatch
  /-- HANDOVER_TIMEOUT (R433). A handover without ACCEPT within 1 s changes nothing. -/
  | handoverTimeout
  /-- CXL_LINK_FAILURE (R427). A CXL link past its retry limit returns poison for later reads, drops writes, and reports class 0x83. It is of the port that `State.args` gives. -/
  | cxlLinkFailure
  /-- POWER_AVERAGE (R435). Each 10 ms average is compared with the cap, and N is lowered or raised. It is of the watts that `State.args` gives. -/
  | powerAverage
  /-- WALKER_STORE_DROP (R329). A drop sent by WRLOAD reaches a cluster walker store, which removes the space's image, restarts any overlapping fetch and acknowledges. It is of the cluster, space that `State.args` gives. -/
  | walkerStoreDrop
  /-- LOAD_RETURN (R178). The data of an outstanding load or atomic returns from L2, the RDC or memory and is written to the destination registers, ending the load's in-flight state. It is of the group, operation that `State.args` gives. -/
  | loadReturn
  /-- CONFIGURATION_REQUEST (R434). A PCIe configuration request is answered with Request Retry Status until bring-up step 6, and served normally afterwards. It is of the function that `State.args` gives. -/
  | configurationRequest
deriving DecidableEq, Repr

end Sys2Proof
end

