-- ==== Sys2Proof/Machine/Fields.lean ====
section
/-! DEFINITION. The fields of the instruction words by the names the manual gives them, and the bit-field and
sign-extension helpers of R12 and R13. -/

namespace Sys2Proof.Machine

/-- `sext(x, n)` of R13: the n-bit value `x` sign-extended to 64 bits. -/
def sext (n : Nat) (x : Nat) : W64 := (BitVec.ofNat n x).signExtend 64

/-- `zext(x, n)` of R13: the n-bit value `x` zero-extended to 64 bits. -/
def zext (n : Nat) (x : Nat) : W64 := (BitVec.ofNat n x).setWidth 64

/-- The slice `x[h:l]` of R12 of a number, `len` bits from bit `lo`. -/
def slice (x lo len : Nat) : Nat := (x >>> lo) % 2 ^ len

/-- The two 32-bit halves of a register pair as one 64-bit value: bits 31:0 in the even register (R40). -/
def pair64 (lo hi : W32) : W64 := hi.setWidth 64 <<< 32 ||| lo.setWidth 64

/-- Bits 31:0 of a 64-bit value. -/
def lo32 (x : W64) : W32 := x.setWidth 32

/-- Bits 63:32 of a 64-bit value. -/
def hi32 (x : W64) : W32 := x.extractLsb' 32 32

/-- The little-endian value of a list of bytes (R12). -/
def leNat : List Byte → Nat
  | [] => 0
  | b :: bs => b.toNat + 256 * leNat bs

/-- The `n` low bytes of a number, little-endian (R12). -/
def leBytes : Nat → Nat → List Byte
  | 0, _ => []
  | n + 1, x => BitVec.ofNat 8 x :: leBytes n (x / 256)

/-- Bits of FN that must be zero: the word has none of the bits of `m` set in FN. -/
def fnZero (f : SForm) (m : Nat) : Bool := f.fn.toNat &&& m == 0

/-- Bit `k` of FN. -/
def fnBit (f : SForm) (k : Nat) : Bool := f.fn.getLsbD k

/-- `len` bits of FN from bit `lo`. -/
def fnField (f : SForm) (lo len : Nat) : Nat := slice f.fn.toNat lo len

/-- SW, the uniform window in FN bits 12:11 (R53 and the entries). -/
def sw (f : SForm) : Nat := fnField f 11 2

/-- The number of the uniform register that a field names in the word's window: `s(256 × SW + field)` (R53). -/
def uni (f : SForm) (field : BitVec 8) : Nat := 256 * sw f + field.toNat

/-- UD of the ALU layout (R53), and of LD, LDA, ST, STREL, SREAD, SRR (R175, R112, R366). -/
def ud (f : SForm) : Bool := fnBit f 10

/-- LQ bit 18: the A field names a latch (R49, R62). -/
def lqA (f : SForm) : Bool := f.lq.getLsbD 2

/-- LQ bit 17: the B field names a latch (R49, R62). -/
def lqB (f : SForm) : Bool := f.lq.getLsbD 1

/-- LQ bit 16: the C field names a latch (R49, R62). -/
def lqC (f : SForm) : Bool := f.lq.getLsbD 0

/-- OFF32 of BRA and MEET: word bits 50:19, the D, A, B and C fields (R101). -/
def off32 (f : SForm) : BitVec 32 := f.d ++ f.a ++ f.b ++ f.c

/-- OFF24 of CALL: word bits 42:19, the A, B and C fields (R101). -/
def off24 (f : SForm) : BitVec 24 := f.a ++ f.b ++ f.c

/-- OFF16 of the memory instructions: word bits 34:19, B the high byte (R176). -/
def off16 (f : SForm) : BitVec 16 := f.b ++ f.c

/-! ### The memory layout of FN (R175) -/

/-- SPC, the memory space in FN bits 8:7 (R154, R175). -/
def memSpc (f : SForm) : Nat := fnField f 7 2

/-- SZ in FN bits 6:4 (R175). -/
def memSz (f : SForm) : Nat := fnField f 4 3

/-- SX in FN bit 3 (R175). -/
def memSx (f : SForm) : Bool := fnBit f 3

/-- SCOPE in FN bits 2:0 of LDA, STREL and FENCE (R175, R186). -/
def memScope (f : SForm) : Nat := fnField f 0 3

/-- ORD of an atomic and of LRINV in FN bits 6:5 (R182, R281). -/
def ordOf (f : SForm) : Nat := fnField f 5 2

/-- SCOPE of an atomic and of LRINV in FN bits 4:2 (R182, R281). -/
def atomScope (f : SForm) : Nat := fnField f 2 3

/-- OBJ, the barrier object in FN bits 9:4 of BCP, BINIT, BARV and BWAIT (R226, R230). -/
def objOf (f : SForm) : Nat := fnField f 4 6

/-- TAG, the batch tag in FN bits 6:4 of ACP, ACPC and ACPW (R222, R225). -/
def tagOf (f : SForm) : Nat := fnField f 4 3

/-! ### The widths and forms of the ALU majors -/

/-- OPX bit `k` of an ALU word (R53). -/
def opx (f : SForm) (k : Nat) : Bool := fnBit f k

/-- CMB of ISETP and FSETP, OPX bits 6:5 (R95, R139). -/
def cmb (f : SForm) : Nat := fnField f 5 2

/-- Rounding mode RM in two OPX bits from bit `lo` (R124). -/
def rm (f : SForm) (lo : Nat) : Nat := fnField f lo 2

end Sys2Proof.Machine
end

