-- ==== Sys2Proof/Machine/Flags.lean ====
section
/-! DEFINITION. The integer operations of the ALU majors and the carries, borrows and comparisons that go into predicates
(R85 to R99). Operands are the numbers of w bits that were read; w is 32 or 64. -/

namespace Sys2Proof.Machine

/-- The width that W selects (R79). -/
def wOf (w : Bool) : Nat := if w then 64 else 32

/-- `ext(x, n)` of R85 as an integer: signed or unsigned. -/
def extInt (s : Bool) (w x : Nat) : Int :=
  if s && x % 2 ^ w ≥ 2 ^ (w - 1) then ((x % 2 ^ w : Nat) : Int) - 2 ^ w else (x % 2 ^ w : Nat)

/-- An integer mod 2^w. -/
def wrap (w : Nat) (v : Int) : Nat := (v % 2 ^ w).toNat

/-- `clamp(v)` of R85. -/
def clampInt (s : Bool) (w : Nat) (v : Int) : Int :=
  if s then max (-(2 ^ (w - 1) : Int)) (min (2 ^ (w - 1) - 1) v) else max 0 (min (2 ^ w - 1) v)

/-- IADD (R85): the result and the carry out. -/
def opIadd (w : Nat) (s sat : Bool) (a b cin : Nat) : Nat × Bool :=
  let v := a % 2 ^ w + b % 2 ^ w + cin
  (if sat then wrap w (clampInt s w (extInt s w a + extInt s w b)) else v % 2 ^ w, decide (v ≥ 2 ^ w))

/-- ISUB (R85): the result and the borrow. -/
def opIsub (w : Nat) (s sat : Bool) (a b cin : Nat) : Nat × Bool :=
  let v : Int := (a % 2 ^ w : Nat) - (b % 2 ^ w : Nat) - cin
  (if sat then wrap w (clampInt s w (extInt s w a - extInt s w b)) else wrap w v, decide (v < 0))

/-- IADD3 (R85). -/
def opIadd3 (w : Nat) (s sat : Bool) (a b c : Nat) : Nat :=
  let v := extInt s w a + extInt s w b + extInt s w c
  wrap w (if sat then clampInt s w v else v)

/-- IMUL (R85). -/
def opImul (w a b : Nat) : Nat := a * b % 2 ^ w

/-- IMAD (R85); with WIDE a 32 × 32 product and a 64-bit C. -/
def opImad (w : Nat) (s wide : Bool) (a b c : Nat) : Nat :=
  if wide then wrap 64 (extInt s 32 a * extInt s 32 b + c) else (a * b + c) % 2 ^ w

/-- IMULH (R85). -/
def opImulh (w : Nat) (s : Bool) (a b : Nat) : Nat := wrap w (extInt s w a * extInt s w b / 2 ^ w)

/-- IMIN and IMAX (R85). -/
def opImin (w : Nat) (s : Bool) (a b : Nat) : Nat := if extInt s w a ≤ extInt s w b then a else b
def opImax (w : Nat) (s : Bool) (a b : Nat) : Nat := if extInt s w a ≥ extInt s w b then a else b

/-- IABS (R85). -/
def opIabs (w : Nat) (sat : Bool) (a : Nat) : Nat :=
  let v := extInt true w a
  if v = -(2 ^ (w - 1) : Int) then (if sat then 2 ^ (w - 1) - 1 else a % 2 ^ w) else v.natAbs

/-- The complement of w bits. -/
def notW (w x : Nat) : Nat := 2 ^ w - 1 - x % 2 ^ w

/-- TERN (R87): `lut` holds lut[7:1]; lut[0] is 0. -/
def opTern (lut a b c : Nat) : Nat :=
  (List.range 32).foldl (fun r i =>
    let k := a / 2 ^ i % 2 + 2 * (b / 2 ^ i % 2) + 4 * (c / 2 ^ i % 2)
    r + 2 ^ i * (2 * lut / 2 ^ k % 2)) 0

/-- LEA (R88). -/
def opLea (wide s : Bool) (sh a b : Nat) : Nat :=
  if wide then wrap 64 (extInt s 32 a * 2 ^ sh + b) else (a * 2 ^ sh + b) % 2 ^ 32

/-- SHL and SHR (R90). -/
def opShl (w a n : Nat) : Nat := if n < w then a * 2 ^ n % 2 ^ w else 0
def opShr (w : Nat) (ari : Bool) (a n : Nat) : Nat :=
  if ari then wrap w (extInt true w a / 2 ^ (min n w)) else if n < w then a % 2 ^ w / 2 ^ n else 0

/-- FSH (R91). -/
def opFsh (left : Bool) (a b n : Nat) : Nat :=
  let hl := b % 2 ^ 32 * 2 ^ 32 + a % 2 ^ 32
  if left then hl * 2 ^ n / 2 ^ 32 % 2 ^ 32 else hl / 2 ^ n % 2 ^ 32

/-- BFX and BFI (R92). -/
def opBfx (w : Nat) (s : Bool) (a pos len : Nat) : Nat :=
  if len = 0 || pos ≥ w then 0
  else
    let e := min len (w - pos)
    wrap w (extInt s e (a / 2 ^ pos))
def opBfi (w a c pos len : Nat) : Nat :=
  if len = 0 || pos ≥ w then c
  else
    let e := min len (w - pos)
    c - c / 2 ^ pos % 2 ^ e * 2 ^ pos + a % 2 ^ e * 2 ^ pos

/-- POPC, CLZ and BREV (R93). -/
def opPopc (w a : Nat) : Nat := (List.range w).foldl (fun r i => r + a / 2 ^ i % 2) 0
def opClz (w a : Nat) : Nat := if a % 2 ^ w = 0 then w else w - 1 - Nat.log2 (a % 2 ^ w)
def opBrev (w a : Nat) : Nat := (List.range w).foldl (fun r i => 2 * r + a / 2 ^ i % 2) 0

/-- BSEL (R94): the bytes in ascending order, each with the one below it. -/
def opBselStep (ba c : Nat) : Nat → Nat × Nat
  | 0 => (0, 0)
  | i + 1 =>
    let (r, below) := opBselStep ba c i
    let k := c / 16 ^ i % 16
    let byte := if k < 8 then ba / 256 ^ k % 256
      else if k = 9 then 0xFF
      else if k = 10 then (if below ≥ 128 then 0xFF else 0)
      else 0
    (r + byte * 256 ^ i, byte)
def opBsel (a b c : Nat) : Nat := (opBselStep (b % 2 ^ 32 * 2 ^ 32 + a % 2 ^ 32) c 4).1

/-- ISETP's comparison (R95). -/
def opIcmp (w : Nat) (s : Bool) (cnd a b : Nat) : Bool :=
  let x := extInt (s && 2 ≤ cnd) w a
  let y := extInt (s && 2 ≤ cnd) w b
  match cnd with
  | 0 => x == y
  | 1 => x != y
  | 2 => x < y
  | 3 => x ≤ y
  | 4 => x > y
  | _ => x ≥ y

/-- A two-input predicate operation: 0 and, 1 or, 2 xor (R95, R98, R139). -/
def predOp (op : Nat) (x y : Bool) : Bool :=
  match op with
  | 0 => x && y
  | 1 => x || y
  | _ => x != y

/-- The combination of a comparison with pC by CMB (R95, R139). -/
def combine (cmb : Nat) (t pc : Bool) : Bool := if cmb = 0 then t else predOp (cmb - 1) t pc

/-- The new memory value of an atomic (R183) on w bits; FADD is `fadd`. -/
def aopNew (fadd : Nat → Nat → Nat) (w aop old b : Nat) : Nat :=
  match aop with
  | 0 => (old + b) % 2 ^ w
  | 1 => opImin w true old b
  | 2 => opImax w true old b
  | 3 => opImin w false old b
  | 4 => opImax w false old b
  | 5 => old &&& b
  | 6 => old ||| b
  | 7 => old ^^^ b
  | 8 => b
  | 9 => fadd old b
  | 10 => if old ≥ b then 0 else old + 1
  | _ => if old = 0 || old > b then b else old - 1

end Sys2Proof.Machine
end

