-- ==== Sys2Proof/Config.lean ====
section
/-! DEFINITION. What an implementation fixes and the free values of the manual. An `opaque` has no body that a proof can see:
a statement about it holds whatever it is. The assumption log names each. -/

namespace Sys2Proof.Config

/-- Contents of a vector register given to a group and not yet written: by the seed of the giving, the register and the lane
(R20; DESIGN CHOICE, log 3). -/
opaque freeReg (seed reg lane : Nat) : BitVec 32

/-- Contents of a tile byte and of an accumulator element not yet written (R43; DESIGN CHOICE, log 3). -/
opaque freeTile (seed tile byte : Nat) : BitVec 8
opaque freeAcc (seed acc elem : Nat) : BitVec 32

/-- An undefined value of the matrix engine (R206, R248): made of the words that the team itself holds, by the value counter and the
place (DESIGN CHOICE, log 6). -/
opaque freeMatrix (own : List (BitVec 32)) (n place : Nat) : BitVec 32

/-- The unit's reading of a byte of its scratchpad operand that was stored to in the window (R206): made of the bytes of the team's
slot. -/
opaque freeByte (own : List (BitVec 8)) (n place : Nat) : BitVec 8

/-- The bits of the FSPEC functions of major 0x28 other than FRCP and FSQRT, by OPX 2:0 and the operand (R142; DEDUCED, log 4). -/
opaque fspec (op : Nat) (a : BitVec 32) : BitVec 32

/-- Where the manual lets a read return old or new bytes, which of them, by the value counter (R192, R220, R249; DESIGN CHOICE, log 24). -/
opaque takesNew (n place : Nat) : Bool

/-- The keys drawn from the CTR_DRBG, by the number of the draw: the XTS key and the tag key of a world (R387), and the
private ephemeral key of an evidence request (R392). -/
opaque xtsKey (n : Nat) : BitVec 512
opaque tagKey (n : Nat) : BitVec 256

/-- The public half of the ephemeral key of a draw, as its 97 bytes (R392), and the ECDH secret with a tenant's public key
(R393). -/
opaque ephemPublic (n : Nat) : BitVec 776
opaque ecdhSecret (n pub : Nat) : BitVec 384

/-- The device's ECDSA signature over the bytes of the evidence (R392). -/
opaque sign (bytes : List (BitVec 8)) : BitVec 768

/-- SHA-384 of the firmware images, and the entries of the allow-list, as booted: offset, count and BAR (R392, R398; DESIGN CHOICE, log 27). -/
opaque firmwareDigest : BitVec 384
opaque allowList : List (Nat × Nat × Nat)

/-- SHA-384 over the partition registers, colours, lanes and world registers, in the part's own order and form, which the manual does
not give (R392). -/
opaque layoutDigest (registers : List Nat) : BitVec 384

/-- The bytes of type-3 memory that bring-up enumerates on a CXL port (R6, R434). -/
opaque cxlBytes (port : Nat) : Nat

/-- The value that a permitted read of a power, temperature or health register returns (R398). -/
opaque healthRegister (bar offset clock : Nat) : BitVec 32

end Sys2Proof.Config
end

