-- ==== Sys2Proof/Machine/Float.lean ====
section
/-! DEFINITION. The number formats and their exact arithmetic: decoding, rounding, flushing, saturation, the arithmetic of
R136, comparisons, conversions, the exact groups of R128, and block scales (R117 to R130). -/

namespace Sys2Proof.Machine

/-- A floating-point value: NaN, an infinity, or (−1)^s × m × 2^e; m = 0 is a zero with its sign. -/
inductive FV where
  | nan
  | inf (s : Bool)
  | fin (s : Bool) (m : Nat) (e : Int)
deriving DecidableEq, Repr

/-- What the all-ones exponent means in a format (R118). -/
inductive TopExp where
  | ieee
  | oneNan
  | plain
deriving DecidableEq, Repr

/-- A floating-point format (R118). -/
structure Fmt where
  ebits : Nat
  mbits : Nat
  bias : Int
  top : TopExp
deriving DecidableEq, Repr

def fp64 : Fmt := ⟨11, 52, 1023, .ieee⟩
def fp32 : Fmt := ⟨8, 23, 127, .ieee⟩
def fp16 : Fmt := ⟨5, 10, 15, .ieee⟩
def bf16 : Fmt := ⟨8, 7, 127, .ieee⟩
def e4m3 : Fmt := ⟨4, 3, 7, .oneNan⟩
def e5m2 : Fmt := ⟨5, 2, 15, .ieee⟩
def e3m2 : Fmt := ⟨3, 2, 3, .plain⟩
def e2m3 : Fmt := ⟨2, 3, 1, .plain⟩
def e2m1 : Fmt := ⟨2, 1, 1, .plain⟩

/-- Width in bits. -/
def Fmt.width (f : Fmt) : Nat := 1 + f.ebits + f.mbits

/-- The bit at the sign position. -/
def Fmt.signBit (f : Fmt) : Nat := 2 ^ (f.ebits + f.mbits)

/-- The canonical NaN (R119); E5M2's is 0x7F. A format without NaN gives +0 (R126). -/
def Fmt.nanBits (f : Fmt) : Nat :=
  match f.top with
  | .plain => 0
  | .oneNan => 2 ^ (f.ebits + f.mbits) - 1
  | .ieee =>
    if f = e5m2 then 0x7F else (2 ^ f.ebits - 1) * 2 ^ f.mbits + 2 ^ (f.mbits - 1)

/-- Infinity without its sign. -/
def Fmt.infBits (f : Fmt) : Nat := (2 ^ f.ebits - 1) * 2 ^ f.mbits

/-- The largest finite magnitude as bits (R118). -/
def Fmt.maxBits (f : Fmt) : Nat :=
  match f.top with
  | .ieee => f.infBits - 1
  | .oneNan => 2 ^ (f.ebits + f.mbits) - 2
  | .plain => 2 ^ (f.ebits + f.mbits) - 1

/-- The value that the bits of a format stand for (R118). -/
def Fmt.value (f : Fmt) (x : Nat) : FV :=
  let s := x / f.signBit % 2 == 1
  let ex := x / 2 ^ f.mbits % 2 ^ f.ebits
  let m := x % 2 ^ f.mbits
  let special := ex == 2 ^ f.ebits - 1
  match f.top with
  | .ieee =>
    if special then (if m = 0 then .inf s else .nan)
    else if ex = 0 then .fin s m (1 - f.bias - f.mbits)
    else .fin s (2 ^ f.mbits + m) (ex - f.bias - f.mbits)
  | .oneNan =>
    if special && m == 2 ^ f.mbits - 1 then .nan
    else if ex = 0 then .fin s m (1 - f.bias - f.mbits)
    else .fin s (2 ^ f.mbits + m) (ex - f.bias - f.mbits)
  | .plain =>
    if ex = 0 then .fin s m (1 - f.bias - f.mbits)
    else .fin s (2 ^ f.mbits + m) (ex - f.bias - f.mbits)

/-- Whether bits are a subnormal (R118). -/
def Fmt.subnormal (f : Fmt) (x : Nat) : Bool := x / 2 ^ f.mbits % 2 ^ f.ebits == 0 && x % 2 ^ f.mbits != 0

/-- Flush an input under `.ftz` (R125). -/
def Fmt.flushIn (f : Fmt) (ftz : Bool) (x : Nat) : Nat :=
  if ftz && f.subnormal x then x / f.signBit % 2 * f.signBit else x

/-- Negate an operand: flip the sign bit (R134). -/
def Fmt.neg (f : Fmt) (n : Bool) (x : Nat) : Nat := if n then x ^^^ f.signBit else x

/-- Whether a rounding mode rounds toward zero for a sign (R124, R126): RZ, RD for a positive, RU for a negative value. -/
def towardZero (rm : Nat) (s : Bool) : Bool := rm == 1 || (rm == 3 && !s) || (rm == 2 && s)

/-- Round the quotient of `m` by `2^k` to an integer in a mode (R124). -/
def roundShift (rm : Nat) (s : Bool) (m k : Nat) : Nat :=
  let hi := m / 2 ^ k
  let lo := m % 2 ^ k
  if lo = 0 then hi
  else if rm = 0 then
    (if 2 * lo > 2 ^ k || (2 * lo == 2 ^ k && hi % 2 == 1) then hi + 1 else hi)
  else if towardZero rm s then hi else hi + 1

/-- Round m × 2^e, m > 0, to a multiple of the format's quantum as if the exponent had no upper limit (R124): the rounded
significand and its exponent. -/
def Fmt.roundMag (f : Fmt) (rm : Nat) (s : Bool) (m : Nat) (e : Int) : Nat × Int :=
  let top : Int := e + Nat.log2 m
  let q : Int := max (top - f.mbits) (1 - f.bias - f.mbits)
  if q ≤ e then (m * 2 ^ (e - q).toNat, q) else (roundShift rm s m (q - e).toNat, q)

/-- Magnitude bits of r × 2^q, r at most 2^(mbits + 1), as if the exponent field had no upper limit. -/
def Fmt.magBits (f : Fmt) (r : Nat) (q : Int) : Nat :=
  if r < 2 ^ f.mbits then r
  else ((q + f.mbits + f.bias).toNat - 1) * 2 ^ f.mbits + r

/-- Sign bit of a result. -/
def Fmt.withSign (f : Fmt) (s : Bool) (mag : Nat) : Nat := if s then f.signBit + mag else mag

/-- Round a value into FP64, FP32, FP16 or BF16 with the overflow of R124 and the flush of R125. -/
def Fmt.round (f : Fmt) (rm : Nat) (ftz : Bool) : FV → Nat
  | .nan => f.nanBits
  | .inf s => f.withSign s f.infBits
  | .fin s m e =>
    if m = 0 then f.withSign s 0
    else
      let (r, q) := f.roundMag rm s m e
      let mag := f.magBits r q
      if mag > f.maxBits then f.withSign s (if towardZero rm s then f.maxBits else f.infBits)
      else if ftz && f.subnormal mag then f.withSign s 0
      else f.withSign s mag

/-- Convert a value into a narrow format (R126), or into BF16 or FP16 under a slot's saturate bit (R126). -/
def Fmt.convert (f : Fmt) (rm : Nat) (sat : Bool) (v : FV) : Nat :=
  match v with
  | .nan => f.nanBits
  | .inf s =>
    if f.top = .plain || sat then f.withSign s f.maxBits
    else if f.top = .oneNan then f.nanBits
    else f.withSign s f.infBits
  | .fin s m e =>
    if m = 0 then f.withSign s 0
    else
      let (r, q) := f.roundMag rm s m e
      let mag := f.magBits r q
      if mag > f.maxBits then
        (if f.top = .plain || sat || towardZero rm s then f.withSign s f.maxBits
         else if f.top = .oneNan then f.nanBits else f.withSign s f.infBits)
      else f.withSign s mag

/-! ### Exact arithmetic -/

/-- A signed dyadic number n × 2^e. -/
structure Dy where
  n : Int
  e : Int
deriving DecidableEq, Repr

/-- Sum of dyadics. -/
def Dy.add (a b : Dy) : Dy :=
  if a.e ≤ b.e then ⟨a.n + b.n * 2 ^ (b.e - a.e).toNat, a.e⟩ else ⟨a.n * 2 ^ (a.e - b.e).toNat + b.n, b.e⟩

/-- The dyadic of a finite value. -/
def Dy.ofFin (s : Bool) (m : Nat) (e : Int) : Dy := ⟨if s then -(m : Int) else m, e⟩

/-- A dyadic as a value; a zero takes the sign given. -/
def Dy.toFV (d : Dy) (zs : Bool) : FV := if d.n = 0 then .fin zs 0 0 else .fin (decide (d.n < 0)) d.n.natAbs d.e

/-- Sum of two values (R124, R136): the sign of an exact zero is + but in RD, and two zeros of one sign keep it. -/
def FV.add (rm : Nat) : FV → FV → FV
  | .nan, _ => .nan
  | _, .nan => .nan
  | .inf s, .inf t => if s = t then .inf s else .nan
  | .inf s, .fin _ _ _ => .inf s
  | .fin _ _ _, .inf t => .inf t
  | .fin s m e, .fin t n g =>
    ((Dy.ofFin s m e).add (Dy.ofFin t n g)).toFV (if m = 0 && n = 0 && s == t then s else rm == 3)

/-- Product of two values (R136). -/
def FV.mul : FV → FV → FV
  | .nan, _ => .nan
  | _, .nan => .nan
  | .inf s, .inf t => .inf (s != t)
  | .inf s, .fin t n _ => if n = 0 then .nan else .inf (s != t)
  | .fin s m _, .inf t => if m = 0 then .nan else .inf (s != t)
  | .fin s m e, .fin t n g => .fin (s != t) (m * n) (e + g)

/-- FADD, FMUL and FFMA of R136 in a format, with the negations, the flush and the rounding; SAT apart. -/
def fpAdd (f : Fmt) (rm : Nat) (ftz : Bool) (a b : Nat) : Nat :=
  f.round rm ftz (FV.add rm (f.value (f.flushIn ftz a)) (f.value (f.flushIn ftz b)))
def fpMul (f : Fmt) (rm : Nat) (ftz : Bool) (a b : Nat) : Nat :=
  f.round rm ftz (FV.mul (f.value (f.flushIn ftz a)) (f.value (f.flushIn ftz b)))
def fpFma (f : Fmt) (rm : Nat) (ftz : Bool) (a b c : Nat) : Nat :=
  f.round rm ftz (FV.add rm (FV.mul (f.value (f.flushIn ftz a)) (f.value (f.flushIn ftz b))) (f.value (f.flushIn ftz c)))

/-- SAT of R136: NaN to +0, else clamp to [+0, 1.0] in FP32. -/
def fpSat (x : Nat) : Nat :=
  match fp32.value x with
  | .nan => 0
  | .inf s => if s then 0 else 0x3F800000
  | .fin s _ _ => if s then 0 else min x 0x3F800000

/-- The sign of a − b of two values that are not NaN, zeros equal (R138, R139). -/
def FV.cmp : FV → FV → Int
  | .nan, _ => 0
  | _, .nan => 0
  | .inf s, .inf t => if s = t then 0 else if s then -1 else 1
  | .inf s, .fin _ _ _ => if s then -1 else 1
  | .fin _ _ _, .inf t => if t then 1 else -1
  | .fin s m e, .fin t n g => ((Dy.ofFin s m e).add (Dy.ofFin (!t) n g)).n.sign

/-- Whether a value is NaN. -/
def FV.isNan : FV → Bool
  | .nan => true
  | _ => false

/-- The sign of a value. -/
def FV.sign : FV → Bool
  | .nan => false
  | .inf s => s
  | .fin s _ _ => s

/-- Whether a orders below b with −0 below +0 (R138). -/
def FV.below (a b : FV) : Bool :=
  let c := FV.cmp a b
  c < 0 || (c == 0 && a.sign && !b.sign)

/-- FMIN and FMAX of R138 in a format. -/
def fpMinMax (f : Fmt) (isMax nanp ftz : Bool) (a b : Nat) : Nat :=
  let a' := f.flushIn ftz a
  let b' := f.flushIn ftz b
  let va := f.value a'
  let vb := f.value b'
  if va.isNan && vb.isNan then f.nanBits
  else if va.isNan then (if nanp then f.nanBits else b')
  else if vb.isNan then (if nanp then f.nanBits else a')
  else if isMax then (if FV.below va vb then b' else a') else (if FV.below vb va then b' else a')

/-- The relation that a CND names on a comparison's sign (R139). -/
def relHolds (cnd : Nat) (c : Int) : Bool :=
  match cnd with
  | 0 => c == 0
  | 1 => c != 0
  | 2 => c < 0
  | 3 => c ≤ 0
  | 4 => c > 0
  | _ => c ≥ 0

/-- FSETP's comparison (R139). -/
def fpCmp (f : Fmt) (cnd a b : Nat) : Bool :=
  let va := f.value a
  let vb := f.value b
  let un := va.isNan || vb.isNan
  if cnd = 6 then !un
  else if cnd = 14 then un
  else if cnd < 6 then !un && relHolds cnd (FV.cmp va vb)
  else un || relHolds (cnd - 8) (FV.cmp va vb)

/-- FCLASS's one-hot class (R140). -/
def fpClass (f : Fmt) (x : Nat) : Nat :=
  let s := x / f.signBit % 2 == 1
  match f.value x with
  | .nan => if x / 2 ^ (f.mbits - 1) % 2 = 1 then 2 ^ 9 else 2 ^ 8
  | .inf _ => if s then 1 else 2 ^ 7
  | .fin _ m _ =>
    if m = 0 then (if s then 2 ^ 3 else 2 ^ 4)
    else if f.subnormal x then (if s then 2 ^ 2 else 2 ^ 5)
    else (if s then 2 else 2 ^ 6)

/-- The class of a result under R131: zero, subnormal, normal, infinity, NaN. -/
def Fmt.kind (f : Fmt) (x : Nat) : Nat :=
  match f.value x with
  | .nan => 4
  | .inf _ => 3
  | .fin _ m _ => if m = 0 then 0 else if f.subnormal x then 1 else 2

/-- The exponent field and the top `n` bits of the mantissa, as a number (R131). -/
def Fmt.key (f : Fmt) (n x : Nat) : Nat := x / 2 ^ (f.mbits - n) % 2 ^ (f.ebits + n)

/-- Whether a result passes beside its shadow (R131): `n` is 4 for vector results and 3 for matrix results, or the mantissa's width if
that is smaller. -/
def Fmt.passes (f : Fmt) (n main shadow : Nat) : Bool :=
  let n := min n f.mbits
  f.kind main == f.kind shadow && (f.kind main == 4 || main / f.signBit % 2 == shadow / f.signBit % 2) &&
    decide (f.key n main ≤ f.key n shadow + 1) && decide (f.key n shadow ≤ f.key n main + 1)

/-- Round a finite magnitude to an integer in a mode (R127 step 1, R141). -/
def roundInt (rm : Nat) (s : Bool) (m : Nat) (e : Int) : Nat :=
  if e ≥ 0 then m * 2 ^ e.toNat else roundShift rm s m (-e).toNat

/-- FRND (R141): the integral value in A's format with A's sign. -/
def fpRnd (f : Fmt) (rm : Nat) (ftz : Bool) (a : Nat) : Nat :=
  match f.value (f.flushIn ftz a) with
  | .nan => f.nanBits
  | .inf s => f.withSign s f.infBits
  | .fin s m e => f.round 0 false (.fin s (roundInt rm s m e) 0)

/-- Convert a value to an integer with saturation (R127). -/
def toInt (rm : Nat) (lo hi : Int) : FV → Int
  | .nan => 0
  | .inf s => if s then lo else hi
  | .fin s m e =>
    let r : Int := roundInt rm s m e
    max lo (min hi (if s then -r else r))

/-- The value of an integer. -/
def FV.ofInt (x : Int) : FV := .fin (decide (x < 0)) x.natAbs 0

/-- The range of an integer destination of w bits (R127, R150). -/
def intRange (signed : Bool) (w : Nat) : Int × Int :=
  if signed then (-(2 ^ (w - 1) : Int), 2 ^ (w - 1) - 1) else (0, 2 ^ w - 1)

/-! ### Sums of products (R128, R129, R149) -/

/-- An exact sum under construction: whether it is NaN, the infinities met, the finite part, and whether every term was a
negative zero. -/
structure Acc where
  nan : Bool
  posInf : Bool
  negInf : Bool
  sum : Dy
  negZero : Bool
deriving DecidableEq, Repr

/-- One more term. (DEDUCED, log 47.) -/
def Acc.add (a : Acc) : FV → Acc
  | .nan => { a with nan := true }
  | .inf s => if s then { a with negInf := true } else { a with posInf := true }
  | .fin s m e => { a with sum := a.sum.add (Dy.ofFin s m e), negZero := a.negZero && s && m == 0 }

/-- The empty sum. -/
def Acc.start : Acc := ⟨false, false, false, ⟨0, 0⟩, true⟩

/-- The value of a sum: NaN when a term is, or when infinities of both signs meet (R129, R149). -/
def Acc.value (a : Acc) : FV :=
  if a.nan || (a.posInf && a.negInf) then .nan
  else if a.posInf then .inf false
  else if a.negInf then .inf true
  else a.sum.toFV a.negZero

/-- PDOT4 and PDOT8 of the floating kinds (R149): FP32 in RNE; with SAT a finite overflow gives ±maximum. -/
def fpDot (sat : Bool) (c : Nat) (prods : List FV) : Nat :=
  let v := (prods.foldl Acc.add (Acc.start.add (fp32.value c))).value
  if sat then
    match v with
    | .fin s m e =>
      let r := fp32.round 0 false (.fin s m e)
      if fp32.value r = .inf s then fp32.withSign s fp32.maxBits else r
    | v => fp32.round 0 false v
  else fp32.round 0 false v

/-- Scale by an E8M0 byte: 2^(e − 127), NaN for 0xFF (R120). -/
def scaleBy (scale : Nat) (v : FV) : FV :=
  if scale = 0xFF then .nan
  else match v with
    | .fin s m e => .fin s m (e + (scale : Int) - 127)
    | v => v

/-- One group of 16 products added to an FP32 accumulator (R128, R129). -/
def accGroup (acc : Nat) (terms : List FV) : Nat :=
  fp32.round 0 false (terms.foldl Acc.add (Acc.start.add (fp32.value acc))).value

/-! ### Element formats of the slots (R120 to R122) -/

/-- Storage width of a slot format in registers, tiles and scratchpad (R235). -/
def slotWidth (fmt : Nat) : Nat :=
  if fmt = 0 then 32 else if fmt ≤ 2 then 16 else if fmt = 7 || fmt = 9 then 4 else 8

/-- Whether a slot format is an integer format. -/
def slotIsInt (fmt : Nat) : Bool := 8 ≤ fmt && fmt ≤ 10

/-- The floating format of a slot's FMT (R122). -/
def slotFmt (fmt : Nat) : Fmt :=
  match fmt with
  | 0 => fp32
  | 1 => bf16
  | 2 => fp16
  | 3 => e4m3
  | 4 => e5m2
  | 5 => e3m2
  | 6 => e2m3
  | _ => e2m1

/-- Sign-extend an n-bit number. -/
def sextInt (n x : Nat) : Int := if x % 2 ^ n < 2 ^ (n - 1) then (x % 2 ^ n : Nat) else (x % 2 ^ n : Nat) - (2 ^ n : Int)

/-- The value of an element of a slot format; an FP6 element lies in bits 5:0 of its container (R121). -/
def slotValue (fmt x : Nat) : FV :=
  if fmt = 8 then FV.ofInt (sextInt 8 x)
  else if fmt = 9 then FV.ofInt (sextInt 4 x)
  else if fmt = 10 then FV.ofInt (x % 256 : Nat)
  else (slotFmt fmt).value (x % 2 ^ (slotFmt fmt).width)

/-- The fields of a format slot descriptor (R122). -/
def fsFmt (d : BitVec 32) : Nat := slice d.toNat 0 4
def fsScl (d : BitVec 32) : Nat := slice d.toNat 4 2
def fsBlock (d : BitVec 32) : Nat := if d.getLsbD 6 then 16 else 32
def fsRnd (d : BitVec 32) : Nat := slice d.toNat 7 2
def fsSat (d : BitVec 32) : Bool := d.getLsbD 9

/-- Convert a value into a slot's format under its rounding and saturation (R126, R127). -/
def slotConvert (d : BitVec 32) (v : FV) : Nat :=
  let fmt := fsFmt d
  if fmt = 8 then ((toInt (fsRnd d) (-128) 127 v) % 256).toNat
  else if fmt = 9 then ((toInt (fsRnd d) (-8) 7 v) % 16).toNat
  else if fmt = 10 then (toInt (fsRnd d) 0 255 v).toNat
  else if fmt = 0 then fp32.round (fsRnd d) false v
  else (slotFmt fmt).convert (fsRnd d) (fsSat d) v

/-- emax of a format (R130). -/
def slotEmax (fmt : Nat) : Int :=
  match fmt with
  | 3 => 8
  | 4 => 15
  | 5 => 4
  | 6 => 2
  | 7 => 2
  | 8 => 6
  | 9 => 2
  | _ => 7

/-- floor(log2) of a finite magnitude, for comparison. -/
def magExp : FV → Option Int
  | .fin _ m e => if m = 0 then none else some (e + Nat.log2 m)
  | _ => none

/-- A block quantised with its scale (R130): the scale byte and the elements. -/
def quantise (d : BitVec 32) (vs : List FV) : Nat × List Nat :=
  if vs.any (fun v => match v with | .fin _ _ _ => false | _ => true) then (0xFF, vs.map (fun _ => 0))
  else
    match (vs.filterMap magExp).max? with
    | none => (0x00, vs.map (fun _ => 0))
    | some top =>
      let x := max (-127) (min 127 (top - slotEmax (fsFmt d)))
      ((x + 127).toNat, vs.map (fun v => slotConvert d (match v with | .fin s m e => .fin s m (e - x) | v => v)))

end Sys2Proof.Machine
end

