-- ==== Sys2Proof/Machine/Crypto.lean ====
section
/-! DEFINITION. The cryptographic functions that the manual names: AES-256 and its XTS, GCM and CMAC modes (R388, R403, R404,
R408), SHA-384 and HKDF (R329, R393, R395), CRC-64 (R420) and the Reed–Solomon code (R407). -/

namespace Sys2Proof.Machine

/-! ### AES-256 -/

/-- Multiplication by x in GF(2^8) modulo `poly` (0x11B for AES, 0x11D for R407). -/
def gfDouble (poly x : Nat) : Nat := if x ≥ 128 then (2 * x) ^^^ poly else 2 * x

/-- Multiplication in GF(2^8). -/
def gfMul (poly a b : Nat) : Nat :=
  ((List.range 8).foldl (fun (s : Nat × Nat) i =>
    (if b / 2 ^ i % 2 = 1 then s.1 ^^^ s.2 else s.1, gfDouble poly s.2)) (0, a)).1

/-- A power in GF(2^8). -/
def gfPow (poly a : Nat) : Nat → Nat
  | 0 => 1
  | n + 1 => gfMul poly a (gfPow poly a n)

/-- Rotate a byte left. -/
def rotl8 (x n : Nat) : Nat := (x * 2 ^ n % 256) ||| (x / 2 ^ (8 - n))

/-- The AES S-box, from the inverse and the affine map. -/
def aesSub (x : Nat) : Nat :=
  let i := gfPow 0x11B x 254
  i ^^^ rotl8 i 1 ^^^ rotl8 i 2 ^^^ rotl8 i 3 ^^^ rotl8 i 4 ^^^ 0x63

/-- The table of the S-box. -/
def aesSbox : List Nat := (List.range 256).map aesSub

/-- The S-box by table. -/
def sbox (x : Nat) : Nat := aesSbox.getD x 0

/-- Exclusive-OR of byte lists. -/
def xorL (a b : List Nat) : List Nat := List.zipWith (fun x y => x ^^^ y) a b

/-- The next word of the AES-256 key schedule, words newest first. -/
def aesNextWord (i : Nat) (ws : List (List Nat)) : List Nat :=
  let t := ws.getD 0 []
  let t' :=
    if i % 8 = 0 then
      match t with
      | [a, b, c, d] => [sbox b ^^^ gfPow 0x11B 2 (i / 8 - 1), sbox c, sbox d, sbox a]
      | _ => t
    else if i % 8 = 4 then t.map sbox else t
  xorL (ws.getD 7 []) t'

/-- The 60 words of the AES-256 key schedule, newest first. -/
def aesSchedule (key : List Nat) : List (List Nat) :=
  let w0 := (List.range 8).map (fun i => (key.drop (4 * i)).take 4)
  (List.range 52).foldl (fun ws k => aesNextWord (k + 8) ws :: ws) w0.reverse

/-- The 15 round keys of 16 bytes. -/
def aesKeys (key : List Nat) : List (List Nat) :=
  let ws := (aesSchedule key).reverse
  (List.range 15).map (fun r => ((ws.drop (4 * r)).take 4).flatten)

/-- ShiftRows on the 16 bytes in column order. -/
def aesShift (s : List Nat) : List Nat := (List.range 16).map (fun i => s.getD ((i + 4 * (i % 4)) % 16) 0)
def aesUnshift (s : List Nat) : List Nat := (List.range 16).map (fun i => s.getD ((i + 16 - 4 * (i % 4)) % 16) 0)

/-- MixColumns with the first row of its matrix. -/
def aesMix (m : List Nat) (s : List Nat) : List Nat :=
  (List.range 16).map (fun i =>
    let c := i / 4 * 4
    (List.range 4).foldl (fun r k => r ^^^ gfMul 0x11B (m.getD ((k + 4 - i % 4) % 4) 0) (s.getD (c + k) 0)) 0)

/-- AES-256 encryption of a block of 16 bytes. -/
def aesEnc (key blk : List Nat) : List Nat :=
  let ks := aesKeys key
  let s := (List.range 13).foldl (fun s r => xorL (aesMix [2, 3, 1, 1] (aesShift (s.map sbox))) (ks.getD (r + 1) []))
    (xorL blk (ks.getD 0 []))
  xorL (aesShift (s.map sbox)) (ks.getD 14 [])

/-- The inverse S-box. -/
def sboxInv (x : Nat) : Nat := (aesSbox.findIdx? (· == x)).getD 0

/-- AES-256 decryption of a block. -/
def aesDec (key blk : List Nat) : List Nat :=
  let ks := aesKeys key
  let s := (List.range 13).foldl (fun s r =>
      aesMix [14, 11, 13, 9] (xorL ((aesUnshift s).map sboxInv) (ks.getD (13 - r) [])))
    (xorL blk (ks.getD 14 []))
  xorL ((aesUnshift s).map sboxInv) (ks.getD 0 [])

/-- Bytes of a number, most significant first and least significant first. -/
def beBytes (n x : Nat) : List Nat := (List.range n).map (fun i => x / 256 ^ (n - 1 - i) % 256)
def leNats (n x : Nat) : List Nat := (List.range n).map (fun i => x / 256 ^ i % 256)

/-- The number of a list of bytes, most significant first. -/
def beNum (l : List Nat) : Nat := l.foldl (fun a b => a * 256 + b) 0

/-- Lists of numbers and of bytes. -/
def toNats (l : List Byte) : List Nat := l.map BitVec.toNat
def toBytes (l : List Nat) : List Byte := l.map (BitVec.ofNat 8)

/-- The XTS transform of the 16-byte unit number `unit` (R388): K1 the first half of the key, K2 the second. -/
def xtsUnit (enc : Bool) (key : BitVec 512) (unit : Nat) (blk : List Byte) : List Byte :=
  let k := beBytes 64 key.toNat
  let t := aesEnc (k.drop 32) (leNats 16 unit)
  let x := xorL (toNats blk) t
  toBytes (xorL (if enc then aesEnc (k.take 32) x else aesDec (k.take 32) x) t)

/-! ### GCM -/

/-- Multiplication in the field of GHASH, blocks as numbers with bit 127 first. -/
def ghashMul (x y : Nat) : Nat :=
  ((List.range 128).foldl (fun (s : Nat × Nat) i =>
    (if x / 2 ^ (127 - i) % 2 = 1 then s.1 ^^^ s.2 else s.1,
     if s.2 % 2 = 1 then s.2 / 2 ^^^ (0xE1 * 2 ^ 120) else s.2 / 2)) (0, y)).1

/-- Blocks of 16 bytes, the last padded with zeros. -/
def blocks16 : Nat → List Nat → List (List Nat)
  | 0, _ => []
  | fuel + 1, l => if l.isEmpty then [] else (l.take 16 ++ List.replicate (16 - l.length) 0) :: blocks16 fuel (l.drop 16)

/-- GHASH over AAD and ciphertext. -/
def ghash (h : Nat) (aad ct : List Nat) : Nat :=
  let bs := blocks16 (aad.length + 1) aad ++ blocks16 (ct.length + 1) ct ++
    [beBytes 8 (8 * aad.length) ++ beBytes 8 (8 * ct.length)]
  bs.foldl (fun y b => ghashMul (y ^^^ beNum b) h) 0

/-- The keystream of GCM from counter 2. -/
def gcmXor (key iv data : List Nat) : List Nat :=
  ((blocks16 (data.length + 1) data).zipIdx.flatMap (fun p =>
    xorL p.1 (aesEnc key (iv ++ beBytes 4 (p.2 + 2))))).take data.length

/-- The tag of GCM. -/
def gcmTag (key iv aad ct : List Nat) : List Nat :=
  xorL (beBytes 16 (ghash (beNum (aesEnc key (List.replicate 16 0))) aad ct)) (aesEnc key (iv ++ [0, 0, 0, 1]))

/-- AES-256-GCM encryption with a 12-byte IV: ciphertext and tag. -/
def gcmEnc (key : BitVec 256) (iv : List Nat) (aad : List Nat) (p : List Byte) : List Byte × List Byte :=
  let k := beBytes 32 key.toNat
  let ct := gcmXor k iv (toNats p)
  (toBytes ct, toBytes (gcmTag k iv aad ct))

/-- AES-256-GCM decryption; none when the tag fails. -/
def gcmDec (key : BitVec 256) (iv : List Nat) (aad : List Nat) (ct tag : List Byte) : Option (List Byte) :=
  let k := beBytes 32 key.toNat
  if toBytes (gcmTag k iv aad (toNats ct)) = tag then some (toBytes (gcmXor k iv (toNats ct))) else none

/-! ### CMAC -/

/-- Doubling of a CMAC subkey. -/
def cmacDouble (x : Nat) : Nat := if x ≥ 2 ^ 127 then (2 * x % 2 ^ 128) ^^^ 0x87 else 2 * x

/-- AES-256-CMAC of a message. -/
def cmac (key : BitVec 256) (msg : List Nat) : List Nat :=
  let k := beBytes 32 key.toNat
  let k1 := cmacDouble (beNum (aesEnc k (List.replicate 16 0)))
  let n := (msg.length + 15) / 16
  let full := msg.length % 16 = 0 && n > 0
  let last := msg.drop (16 * (n - 1))
  let tail := if full then xorL last (beBytes 16 k1)
    else xorL (last ++ [0x80] ++ List.replicate (15 - last.length) 0) (beBytes 16 (cmacDouble k1))
  let x := (blocks16 n (msg.take (16 * (n - 1)))).foldl (fun x b => aesEnc k (xorL x b)) (List.replicate 16 0)
  aesEnc k (xorL x tail)

/-- The integrity tag of a 64-byte unit (R408). -/
def unitTag (key : BitVec 256) (unit : Nat) (stored : List Byte) : List Byte :=
  toBytes ((cmac key (leNats 8 unit ++ toNats stored)).take 4)

/-! ### SHA-384, HMAC and HKDF -/

/-- The first `n` primes from a candidate. -/
def primesFrom : Nat → Nat → Nat → List Nat
  | 0, _, _ => []
  | _, 0, _ => []
  | fuel + 1, n + 1, k =>
    if (List.range k).all (fun d => d < 2 || k % d != 0) then k :: primesFrom fuel n (k + 1) else primesFrom fuel (n + 1) (k + 1)

/-- Integer cube root by bisection. -/
def cbrtStep : Nat → Nat → Nat → Nat → Nat
  | 0, lo, _, _ => lo
  | fuel + 1, lo, hi, x =>
    let m := (lo + hi) / 2
    if m * m * m ≤ x then cbrtStep fuel m hi x else cbrtStep fuel lo m x

/-- The round constants of SHA-512: fraction bits of cube roots of primes. -/
def shaK : List Nat := (primesFrom 500 80 2).map (fun p => cbrtStep 80 0 (2 ^ 70) (p * 2 ^ 192) % 2 ^ 64)

/-- SHA-384's initial values: fraction bits of square roots of the 9th to 16th primes. -/
def shaH : List Nat := ((primesFrom 500 16 2).drop 8).map (fun p => Nat.sqrt (p * 2 ^ 128) % 2 ^ 64)

/-- Rotate 64 bits right. -/
def rotr64 (x n : Nat) : Nat := x / 2 ^ n ||| (x * 2 ^ (64 - n) % 2 ^ 64)

/-- The message schedule of a block, newest first. -/
def shaSchedule (blk : List Nat) : List Nat :=
  (List.range 64).foldl (fun ws _ =>
    let w15 := ws.getD 14 0
    let w2 := ws.getD 1 0
    let s0 := rotr64 w15 1 ^^^ rotr64 w15 8 ^^^ w15 / 2 ^ 7
    let s1 := rotr64 w2 19 ^^^ rotr64 w2 61 ^^^ w2 / 2 ^ 6
    ((ws.getD 15 0 + s0 + ws.getD 6 0 + s1) % 2 ^ 64) :: ws) blk.reverse

/-- One block of SHA-512's compression. -/
def shaBlock (h : List Nat) (blk : List Nat) : List Nat :=
  let ws := (shaSchedule blk).reverse
  let r := (List.zip ws shaK).foldl (fun v (p : Nat × Nat) =>
    match v with
    | [a, b, c, d, e, f, g, hh] =>
      let t1 := (hh + (rotr64 e 14 ^^^ rotr64 e 18 ^^^ rotr64 e 41) + ((e &&& f) ^^^ ((2 ^ 64 - 1 - e) &&& g)) + p.2 + p.1) % 2 ^ 64
      let t2 := ((rotr64 a 28 ^^^ rotr64 a 34 ^^^ rotr64 a 39) + ((a &&& b) ^^^ (a &&& c) ^^^ (b &&& c))) % 2 ^ 64
      [(t1 + t2) % 2 ^ 64, a, b, c, (d + t1) % 2 ^ 64, e, f, g]
    | v => v) h
  List.zipWith (fun x y => (x + y) % 2 ^ 64) h r

/-- Blocks of 16 64-bit words. -/
def shaBlocks : Nat → List Nat → List (List Nat)
  | 0, _ => []
  | fuel + 1, l =>
    if l.isEmpty then []
    else ((List.range 16).map (fun i => beNum ((l.drop (8 * i)).take 8))) :: shaBlocks fuel (l.drop 128)

/-- SHA-384 of a message. -/
def sha384N (msg : List Nat) : List Nat :=
  let n := msg.length
  let padded := msg ++ [0x80] ++ List.replicate ((128 + 111 - n % 128) % 128) 0 ++ beBytes 16 (8 * n)
  (((shaBlocks (n / 128 + 2) padded).foldl shaBlock shaH).take 6).flatMap (beBytes 8)

/-- SHA-384 as a digest. -/
def sha384 (msg : List Byte) : BitVec 384 := BitVec.ofNat 384 (beNum (sha384N (toNats msg)))

/-- HMAC-SHA384. -/
def hmac384 (key msg : List Nat) : List Nat :=
  let k0 := if key.length > 128 then sha384N key else key
  let k := k0 ++ List.replicate (128 - k0.length) 0
  sha384N (k.map (· ^^^ 0x5C) ++ sha384N (k.map (· ^^^ 0x36) ++ msg))

/-- The 32-byte wrapping key of R393: HKDF-SHA384 with an empty salt and the info string "Kreune key install". -/
def wrapKey (secret : BitVec 384) : BitVec 256 :=
  let prk := hmac384 (List.replicate 48 0) (beBytes 48 secret.toNat)
  let info := [0x4B, 0x72, 0x65, 0x75, 0x6E, 0x65, 0x20, 0x6B, 0x65, 0x79, 0x20, 0x69, 0x6E, 0x73, 0x74, 0x61, 0x6C, 0x6C]
  BitVec.ofNat 256 (beNum ((hmac384 prk (info ++ [1])).take 32))

/-! ### CRC-64 of a signature (R420) -/

/-- CRC-64 with polynomial 0x42F0_E1EB_A9EA_3693, initial value 0, no reflection. -/
def crc64 (bytes : List Byte) : BitVec 64 :=
  bytes.foldl (fun c b =>
    (List.range 8).foldl (fun c _ => if c.getLsbD 63 then (c <<< 1) ^^^ 0x42F0E1EBA9EA3693#64 else c <<< 1)
      (c ^^^ ((b.setWidth 64 : BitVec 64) <<< 56))) 0#64

/-! ### The Reed–Solomon code of R407 -/

/-- The syndromes of an error pattern: symbols (position k of 0–71, value). -/
def rsSyndromes (err : List (Nat × Nat)) : List Nat :=
  (List.range 4).map (fun j =>
    err.foldl (fun a (p : Nat × Nat) => a ^^^ gfMul 0x11D p.2 (gfPow 0x11D 2 ((j * (71 - p.1)) % 255))) 0)

/-- Inverse in GF(2^8) of R407. -/
def gfInv (x : Nat) : Nat := gfPow 0x11D x 254

/-- Whether a pattern of one or two symbols has the given syndromes: the decoder then corrects to it. -/
def rsCorrectable (s : List Nat) : Bool :=
  if s.all (· == 0) then true
  else
    (List.range 72).any (fun p =>
      let x := gfPow 0x11D 2 (71 - p)
      let one := rsSyndromes [(p, s.getD 0 0)]
      one == s ||
      (List.range p).any (fun q =>
        let y := gfPow 0x11D 2 (71 - q)
        let d := gfInv (x ^^^ y)
        let e1 := gfMul 0x11D ((s.getD 1 0) ^^^ gfMul 0x11D y (s.getD 0 0)) d
        rsSyndromes [(p, e1), (q, (s.getD 0 0) ^^^ e1)] == s))

/-- How the decoder and the tag check answer a unit's error pattern (R407, R408): no error; corrected; uncorrectable; or a
miscorrection that the tag check then fails. -/
inductive UnitRead where
  | clean
  | corrected
  | uncorrectable
  | integrity
deriving DecidableEq, Repr

/-- The answer for an error pattern of distinct symbols with non-zero values. (DEDUCED, log 96.) -/
def rsRead (err : List (Nat × Byte)) : UnitRead :=
  let e := err.filterMap (fun p => if p.2 = 0#8 then none else some (p.1, p.2.toNat))
  if e.isEmpty then .clean
  else if e.length ≤ 2 then .corrected
  else if rsCorrectable (rsSyndromes e) then .integrity
  else .uncorrectable

end Sys2Proof.Machine
end

