-- ==== Sys2Proof/Machine/State.lean ====
section
/-! DEFINITION. The state of the part: everything the manual gives the machine, as plain data. A field's docstring names
the rule that gives it and its width. After a device reset no world, queue, team or group exists, so most of the maps are
empty (R333, R384, R434). -/

namespace Sys2Proof.Machine

/-- The state of a lane (R22, R23). -/
inductive LaneSt where
  | active
  | blocked
  | parked
  | exited
deriving DecidableEq, Repr

/-- The trap causes by name (R356). -/
inductive Cause where
  | illegal | bankpair | privilege | staleLatch | regBudget
  | address | refused | unmapped | walkLimit | permission | sealed | walkError
  | scratchBounds | barrierStarved | claimDeadlock | routineFault | routineAbsent | convergence
  | shadowDivergence | uncorrectable | twinMismatch | integrity
  | software | breakpoint
deriving DecidableEq, Repr

/-- The issue of one word: the group, ISSUE, the word's address and the word (R24). -/
structure Ctx where
  gid : Nat
  mask : Mask
  pc : W64
  word : BitVec 64
deriving DecidableEq, Repr

/-- What a scratchpad access that waits on a sector does when the presence bit is set (R32, R164): a load, a store of its bytes, an
atomic with its operands, the word of a single execution with the uniform registers it was issued with, or the `n` words of MLD.A,
8 bytes apart, with its RU. -/
inductive SpOp where
  | load
  | store (bytes : List Byte)
  | atomic (aop : Nat) (wide : Bool) (b : W64)
  | atomicX (wide : Bool) (b c : W64)
  | once (c : Ctx) (u : SMap W32)
  | rows (n : Nat) (ru : Bool)
deriving DecidableEq, Repr

/-- What a release puts before a write (R196): the number of each write that comes first, with the agents for which it does. -/
abbrev Before := List (Nat × BitVec 193)

/-- A scratchpad access that waits (R164): its lane, or none for a single execution; the lanes that are blocked for it and the lanes
that issued it; the sector waited for; offset and size; where a result goes; the number of its results in a twin pair (R421); whether
its result is left with an injected error (R424); the interval of its issue (R417); its acquire scope; and what a release puts before
it (R196). -/
structure SpAccess where
  lane : Option Nat
  mask : Mask
  by_ : Mask
  sec : Nat
  off : Nat
  size : Nat
  op : SpOp
  dest : Option Nat
  uniform : Bool
  noWrite : Bool
  sx : Bool
  latch : Nat
  pc : W64
  key : Option Nat
  inject : Bool
  interval : Nat
  acq : Option Nat
  after : Before
deriving DecidableEq, Repr

/-- What a blocked lane waits for (R31): a barrier object's phase, with the arrival made at issue if there was one; a
batch tag's phase; the register pool's phase; a convergence register's phase, `exits` for the wait of EXIT (R105); a sector. -/
inductive Wait where
  | barrier (obj phase : Nat) (arrived : Bool)
  | tag (t phase : Nat)
  | pool (phase : Nat)
  | conv (cv phase : Nat) (exits : Bool)
  | sector (sec : Nat)
deriving DecidableEq, Repr

/-- A thread's own state (R22, R360). -/
structure Lane where
  /-- Address of the next word, 64 bits (R22). -/
  pc : W64
  /-- Meeting register, 64 bits, 0 for none (R22). -/
  mr : W64
  /-- Issues missed, 0–256 in 9 bits (R22). -/
  w : Nat
  /-- Lane state (R23). -/
  st : LaneSt
  /-- H: the lane is in its trap handler, 1 bit (R360). -/
  h : Bool
  /-- The phase wait of a blocked lane (R31). -/
  wait : Option Wait
  /-- What the release fences of this lane put before its later writes (R196). -/
  fence : Before
  /-- The team's count of stores to the slot at the lane's last MOFN (R206). -/
  mofn : Nat
deriving DecidableEq, Repr

/-- One latch entry (R60): its number, whether its instruction produced a register result, and a 64-bit value for each lane
that has one (every other lane holds zero). -/
structure Latch where
  id : Nat
  full : Bool
  vals : SMap W64
deriving DecidableEq, Repr

/-- A batch tag (R213): PHASE, PEND and OPEN, 16 bits each, and the batch that is open, counted by the closings. -/
structure Tag where
  phase : Nat
  pend : Nat
  opened : Nat
  batch : Nat
deriving DecidableEq, Repr

/-- The trap registers of a group (R363): TCAUSE 32 bits, TLANES 32 bits, TPC, TADDR, TINFO and THANDLER 64 bits. -/
structure TrapRegs where
  cause : BitVec 8
  lanes : Mask
  pc : W64
  addr : W64
  info : W64
  handler : W64
deriving DecidableEq, Repr

/-- How one page of a suspended instruction stands (R160, R324): still walked, held or queried; mapped by an answer; or
failed with a cause and its TINFO. -/
inductive PageSt where
  | pending
  | mapped (frame lsize attrs : Nat)
  | failed (c : Cause) (info : W64)
deriving DecidableEq, Repr

/-- One translation that a suspended instruction needs, for one 4 KiB virtual page: the first address in it, the access kind of R308
and its state. -/
structure PageNeed where
  va : Nat
  kind : Nat
  st : PageSt
deriving DecidableEq, Repr

/-- One lane's part of an outstanding load or atomic: the pieces (virtual address, physical address, bytes) in order. -/
structure LanePart where
  lane : Nat
  pieces : List (Nat × Nat × Nat)
deriving DecidableEq, Repr

/-- What an outstanding operation does when its data returns (R178, R183, R184): a plain load; an atomic operation with its
64-bit width flag and, per lane, the operands B and C. -/
inductive FlightOp where
  | load
  | atomic (aop : Nat) (wide : Bool)
  | atomicX (wide : Bool)
deriving DecidableEq, Repr

/-- An outstanding load or atomic of a group (R178, R183): its destination register (uniform or vector, none for RED), its
size in bytes, its sign extension, its latch entry, its lanes, and the operands of its atomic. `acq` is its acquire scope and
`done` marks an atomic that has been performed and whose results `vals` wait to be written. In a twin pair `twin` numbers the
atomics, and the acquires, of the group: the trailing team takes the leader's results of the same number (R421). -/
structure Flight where
  id : Nat
  op : FlightOp
  dest : Option Nat
  uniform : Bool
  noWrite : Bool
  size : Nat
  sx : Bool
  latch : Nat
  acq : Option Nat
  world : Nat
  parts : List LanePart
  /-- The lines that it fills into the L1 (R165). -/
  lines : List Nat
  opsB : SMap W64
  opsC : SMap W64
  done : Bool
  vals : SMap (BitVec 128)
  /-- The lanes whose read has met an error, with whether its kind is INTEGRITY and its address (R409). -/
  bad : SMap (Bool × Nat)
  pc : W64
  inject : Bool
  twin : Option Nat
  interval : Nat
  /-- What a release puts before the atomic's write (R196). -/
  after : Before
deriving DecidableEq, Repr

/-- An error that an engine consumed for a group, that no instruction of it carries and that is passed to its handler (R358):
kind, TINFO reason, and the interval of the operation that failed (R417). -/
structure EngineErr where
  cause : Cause
  reason : Nat
  interval : Nat
deriving DecidableEq, Repr

/-- An error standing in a group's own arrays (R411, R424): the register class by its array code of R438, the register and lane, and
whether it is a single-bit error, which the next read corrects, where any other is consumed by it. -/
structure RegErr where
  array : Nat
  reg : Nat
  lane : Nat
  single : Bool
deriving DecidableEq, Repr

/-- The undefined windows of a group for one operation (R248): the convergence register and its PHASE at the declaration, LMASK, the
A and A scale registers, the accumulators, the lead's B and B scale tiles with whether their window is open, the lanes whose window
is open, whether the operation has completed, and whether a register or accumulator, or a B tile, was written meanwhile; the `.sp`
offsets of B and its scales, K, the width of an element of B and KBB, which say the columns that a byte feeds (R206, R237, R238), and
the member groups, for what a write does after the completion. -/
structure Window where
  cv : Nat
  phase : Nat
  lmask : Mask
  areg : Nat
  na : Nat
  sar : Nat
  nsar : Nat
  acc : Nat
  nt : Nat
  bt : Nat
  nbt : Nat
  sbt : Nat
  nsbt : Nat
  lanes : Mask
  lead : Bool
  done : Bool
  spoilt : Bool
  spoiltB : Bool
  slo : Nat
  shi : Nat
  k : Nat
  wB : Nat
  sboff : Nat
  kbb : Nat
  peers : List Nat
deriving DecidableEq, Repr

/-- An LRINV that waits for its invocations (R282, R283): its issue, the lanes of CL, the destination, NW, the acquire scope,
the number of its results in a twin pair, and per lane the results, or the causes with their TINFO and line addresses, that have
returned. -/
structure LrJob where
  ctx : Ctx
  cl : Mask
  dest : Nat
  noWrite : Bool
  acq : Option Nat
  key : Option Nat
  results : SMap W64
  faults : List (Nat × Cause × W64 × W64)
deriving DecidableEq, Repr

/-- Why a group is not ready besides its lanes and its operands (R106, R115, R276, R286, R329, R331, R403, R404, R421). `line` is a
line that a line-routine engine holds, `replay` the wait for an atomic that a restore has issued again (R376), `acp` the wait for room for some transfers (R215), and `session` the wait for a session slot of a
world on which another operation runs (R403). Of a twin pair, `twin` is the wait for the match of an entry, `result` the wait of the trailing
team's group for a result of the leading team, by its number, and `entry` the wait of a load for the entries of its own team that have
not yet been performed on its bytes: the pair, the team, and the bytes. `crypt` is the cryptographic step of XOPEN or XSEAL: the session slot, the counter, the bytes
read, where the source or the destination lies in memory, and the sectors that XOPEN fills. -/
inductive Hold where
  | until (clock : Nat)
  | yielded
  | give (reg n : Nat)
  | drops (id : Nat)
  | walks (ids : List Nat)
  | twin
  | result (gid key : Nat)
  | entry (pair : Nat) (trailing : Bool) (at_ : List (Bool × Nat × Nat))
  | line (n : Nat)
  | replay (flight : Nat)
  | acp (n : Nat)
  | session (world slot : Nat)
  | crypt (slot : Nat) (ctr : W64) (data : List Byte) (pieces : List (Nat × Nat × Nat)) (secs : List Nat)
deriving DecidableEq, Repr

/-- A resident group. -/
structure Group where
  /-- The team it belongs to. -/
  team : Nat
  /-- `%grp`, 0–127 (R16). -/
  num : Nat
  /-- `%role`, 0–3 (R16). -/
  role : Nat
  /-- `%core`, 0–191, and `%subp`, 0–31 (R46). -/
  core : Nat
  subp : Nat
  /-- Order of becoming resident on the sub-partition (R28). -/
  age : Nat
  /-- Wait count (R28). -/
  waitCount : Nat
  /-- Vector registers per thread, 8–256 (R19, R20). -/
  vcount : Nat
  /-- Tile granules and accumulator granules, 0–8 each (R19). -/
  tgran : Nat
  agran : Nat
  /-- Blocks of granules that hold its registers, tiles and accumulators: first granule and size (R350). -/
  vmap : List (Nat × Nat)
  tmap : List (Nat × Nat)
  amap : List (Nat × Nat)
  /-- The 32 lanes (R22). -/
  lanes : List Lane
  /-- Vector registers written since they were given to the group: 32 bits per lane (R39). -/
  v : SMap (List W32)
  /-- For registers not listed in `v`: the lowest register and the seed of each run of registers given, newest first
  (the model's own field: the contents of registers never written are free, R20). -/
  vEpochs : List (Nat × Nat)
  /-- Uniform registers, 32 bits, zero unless listed (R41). -/
  u : SMap W32
  /-- Predicates, one bit per lane, zero unless listed (R42). -/
  p : SMap Mask
  /-- The latch queue, newest first, at most four entries (R60), and the number of the next entry. -/
  latches : List Latch
  latchId : Nat
  /-- Another group issued while the word at hand was suspended, so that the queue is empty when the word ends (R61). -/
  latchLost : Bool
  /-- Tile registers, 1 KiB each (R39), and accumulators, 128 words of 32 bits each (R39). -/
  tiles : SMap (List Byte)
  accs : SMap (List W32)
  /-- Seed of the contents of tiles and accumulators never written (the model's own field). -/
  seed : Nat
  /-- Divergence marks of `a0`–`a31`, 32 bits (R250, R374). -/
  marks : Mask
  /-- The member lanes of the operation that marked an accumulator (R425). -/
  markLanes : SMap Mask
  /-- Lanes for which a matrix divergence awaits report at MWT or EXIT, by convergence register (R250). -/
  divWait : List (Nat × Nat)
  /-- The undefined windows that are open (R248). -/
  windows : List Window
  /-- The A latch: AREG, nA, SLOTA and the register values (R249). -/
  alatch : Option (Nat × Nat × Nat × List (List W32))
  /-- Batch tags 0–7 (R213). -/
  tags : List Tag
  /-- Trap registers (R363). -/
  trap : TrapRegs
  /-- FIJ, 64 bits (R424), and the events counted since it was written. -/
  fij : W64
  fijCount : Nat
  /-- Words fetched and not issued: address and word (R191). -/
  fetched : SMap (BitVec 64)
  /-- The word being fetched or executed whose translations are not all known (R160): the pages, and the issue to repeat. -/
  susp : List PageNeed
  resume : Option Ctx
  /-- The sector access that a lane or the group waits to perform (R164). -/
  spWaits : List SpAccess
  /-- Causes that keep the group from being ready. -/
  holds : List Hold
  /-- Outstanding loads and atomics (R178, R183). -/
  flights : List Flight
  /-- BARRIER_STARVED still to be raised, by the address of the wait (R33, R360). -/
  starvePend : List (W64 × Mask)
  /-- Matrix divergences still to be raised at an EXIT, by its address (R250). -/
  divPend : List (W64 × Mask)
  /-- Errors to take at the next issue (R358). -/
  errs : List EngineErr
  /-- Errors standing in its arrays (R411). -/
  regErrs : List RegErr
  /-- Upsets of the units that compute, which strike the results of its next checked word, by lane, and the elements of its next matrix
  operation, by accumulator and element (R131, R250; the model's own field). -/
  strikes : SMap W64
  accStrikes : SMap W32
  /-- The LRINV whose invocations have not all returned (R282). -/
  lr : Option LrJob
  /-- Pair operations and acquires of the group since its interval began, and the values they returned: acquire n at 2n, pair
  operation n at 2n + 1 (R420, R421). -/
  pairCount : Nat
  acqCount : Nat
  acqVals : SMap (SMap (BitVec 128))
  /-- Issue is stopped in the group (R368, R418). -/
  stopped : Bool
deriving DecidableEq, Repr

/-- A barrier object (R209): V, AUTO, EXPECT 13 bits, ARRIVED 13 bits, XBYTES, LANDED and PHASE 32 bits. -/
structure Barrier where
  v : Bool
  auto : Bool
  expect : Nat
  arrived : Nat
  xbytes : Nat
  landed : Nat
  phase : Nat
deriving DecidableEq, Repr

/-- A pending register claim (R20): the group, the granules, the lanes of ISSUE. -/
structure Claim where
  gid : Nat
  gran : Nat
  mask : Mask
deriving DecidableEq, Repr

/-- A logged sector (R415): a sector of the slot with its former bytes and presence bit, or the former objects of the
barrier area's sector. -/
inductive UndoEntry where
  | slot (sec : Nat) (bytes : List Byte) (present : Bool)
  | area (sec : Nat) (objs : List Barrier)
deriving DecidableEq, Repr

/-- A landing within the interval of a copy issued before it (R418 step 3): an ACP transfer, with its tag and batch, or a bulk sector,
with its object. -/
structure Landing where
  copy : Nat
  sec : Nat
  bytes : List Byte
  gid : Nat
  tag : Option (Nat × Nat)
  obj : Option Nat
deriving DecidableEq, Repr

/-- A release's store to the slot, arrival at an object or setting of a presence bit, and what it puts before itself (R196): the
bytes by offset, object o at 2^32 + o, the presence bit of sector x at 2^33 + x. -/
structure SpRel where
  lo : Nat
  hi : Nat
  after : Before
deriving DecidableEq, Repr

/-- The states of a convergence register (R240). -/
inductive CvSt where
  | idle
  | opened
  | armed
  | busy
deriving DecidableEq, Repr

/-- A convergence register (R240): PHASE 16 bits, STATE, LEAD, OWNER, the descriptor words and the declared fields, SIGNED
256 bits; with the team that owns it, when it became ARMED and BUSY, and, of its scratchpad operand, its end, the count of
stores that the MOFNs of its signers cover, the bytes whose last store none of them covers (R202 n) and the bytes stored to while it
reads (R206). -/
structure Conv where
  phase : Nat
  st : CvSt
  lead : Nat
  owner : Nat
  team : Nat
  mset : BitVec 32
  lmask : BitVec 32
  shape : BitVec 32
  boff : BitVec 32
  areg : Nat
  acc : Nat
  slotA : Nat
  slotB : Nat
  za : Bool
  ru : Bool
  signed : BitVec 256
  armedAt : Nat
  busyAt : Nat
  bEnd : Nat
  mofn : Nat
  stale : List Nat
  stored : List Nat
  interval : Nat
deriving DecidableEq, Repr

/-- One resident team. -/
structure Team where
  /-- Front end, queue slot, packet index and sub-launch it belongs to (R340). -/
  fe : Nat
  slot : Nat
  packet : Nat
  sub : Nat
  /-- Address of its launch record (R373), and where that lies in memory, from where the format slots are loaded again (R45). -/
  recAddr : Nat
  recPa : Nat
  /-- World, space and partition (R10). -/
  world : Nat
  space : Nat
  part : Nat
  /-- `%teamx`, `%teamy`, `%teamz` and `%nteamx`, `%nteamy`, `%nteamz`, 32 bits each (R46). -/
  x : Nat
  y : Nat
  z : Nat
  nx : Nat
  ny : Nat
  nz : Nat
  /-- TEAMX, TEAMY, TEAMZ (R344). -/
  dx : Nat
  dy : Nat
  dz : Nat
  /-- Launch flags, 16 bits (R344), ARGPTR, ARGSIZE, SCRATCH (R344). -/
  flags : Nat
  argPtr : Nat
  argSize : Nat
  scratch : Nat
  /-- Format slots `fs0`–`fs7`, 32 bits each (R122). -/
  fs : List (BitVec 32)
  /-- `%twin`, 0–2 (R46), and the other team of the pair (R420). -/
  twin : Nat
  mate : Option Nat
  /-- Its groups in `%grp` order and the count of them at residence (R16). -/
  groups : List Nat
  ngroups : Nat
  /-- The lowest core it occupies and the blocks of its slot there (R161, R350), with its core-local slot number (R240). -/
  core : Nat
  smap : List (Nat × Nat)
  slotNo : Nat
  /-- Bytes of the slot, zero unless listed (R161). -/
  sp : SMap Byte
  /-- Sectors whose presence bit is clear (R163). -/
  absent : List Nat
  /-- 8-byte words of the slot, by number, holding an uncorrectable error, and those holding a single-bit error (R411). -/
  spErrs : List Nat
  spSingle : List Nat
  /-- Errors standing in the images of its groups, its image table entry and its undo log, by array code of R438, single-bit ones with
  2^8 added (R411). -/
  imageErrs : List Nat
  /-- What the releases of its threads put before their effects in the slot and the barrier area (R196). -/
  rels : List SpRel
  /-- Stores to the slot so far, and, by byte, the number of the last store to it (R202 n). -/
  spClock : Nat
  spRecent : SMap Nat
  /-- Barrier objects 0–63 (R208). -/
  objs : List Barrier
  /-- The register pool, a count of vector granules (R20), and its phase. -/
  pool : Nat
  poolPhase : Nat
  /-- Pending claims, oldest first (R20). -/
  claims : List Claim
  /-- Consecutive starved core clocks (R33). -/
  starved : Nat
  /-- Number of its rollback interval, whether the interval is escaped, and the retry count (R414, R416). -/
  interval : Nat
  escaped : Bool
  retry : Nat
  /-- The undo log of the interval, newest first (R415), and the earlier copies' landings, oldest first (R418). -/
  undo : List UndoEntry
  landings : List Landing
  /-- Granules that RGIVE freed during the interval and that stay reserved to the team (R416): core, sub-partition, block. -/
  reserved : List (Nat × Nat × Nat × Nat)
  /-- The image of the interval: the groups, the pool, the claims and the convergence registers (R414). -/
  imageGroups : List (Nat × Group)
  imagePool : Nat
  imageClaims : List Claim
  imageConvs : List (Nat × Conv)
  imageWait : Bool
  /-- What a consumed error has called for and its event will carry out (R417): a rollback (true) or the discarding of the
  bundle (false). -/
  answer : Option Bool
deriving DecidableEq, Repr

/-- A cached translation (R306): the space, the virtual base, log2 of the size, the frame base and the attributes of R317. -/
structure Trans where
  space : Nat
  vbase : Nat
  lsize : Nat
  frame : Nat
  attrs : Nat
deriving DecidableEq, Repr

/-- An L1 line (R165, R166): the world, the line, the core clock of its fill, and the bytes of those of its four sectors that are
present, by sector of memory. -/
structure L1Line where
  world : Nat
  line : Nat
  filled : Nat
  secs : SMap (List Byte)
deriving DecidableEq, Repr

/-- A lease of an atomic (R174): the line and the fabric clock of the last atomic on it. -/
structure Lease where
  line : Nat
  last : Nat
deriving DecidableEq, Repr

/-- An instruction-cache line (R386): the world and space, the virtual and the physical line, and its 128 bytes as fetched. -/
structure ILine where
  world : Nat
  space : Nat
  vline : Nat
  line : Nat
  bytes : List Byte
deriving DecidableEq, Repr

/-- A cached tensor shape record (R220): the space, the address, its six sectors, and the writes to it that an RFENCE covers and that
the core had not yet seen when it was read. -/
structure RecLine where
  space : Nat
  addr : Nat
  bytes : List Byte
  late : List Nat
deriving DecidableEq, Repr

/-- The issue state of a sub-partition (R28, R29, R435): the group that issued last, whether a hold stands, the HD bits of the
chain, the age of the next resident group, the core clock of its last issue cycle, and its issues among the 64 core clocks at
hand. -/
structure SubPart where
  last : Option Nat
  held : Bool
  chain : Nat
  nextAge : Nat
  cycleAt : Option Nat
  used : Nat
deriving DecidableEq, Repr

/-- A core. -/
structure Core where
  /-- TLB of at most 512 entries, most recently used first (R306). -/
  tlb : List Trans
  /-- L1 lines, the one filled last first (R165, R166). -/
  l1 : List L1Line
  /-- Contention predictor, at most 64 entries: line and 2-bit counter (R174). -/
  pred : List (Nat × Nat)
  /-- Leases held (R174). -/
  leases : List Lease
  /-- Instruction cache (R386). -/
  icache : List ILine
  /-- Instruction-cache portions, by world (R386). -/
  portions : SMap Nat
  /-- Record cache, at most 32 records (R220), and what RFENCEs cover and the core has not yet seen: the space, the record's address
  (every record without one) and the writes. -/
  recs : List RecLine
  fenced : List (Nat × Option Nat × List Nat)
  /-- World registers of the sub-partitions and banks, 11 bits: absent is V = 0 (R385). -/
  subpWorld : SMap Nat
  bankWorld : SMap Nat
  /-- Issue state of each sub-partition. -/
  subps : SMap SubPart
deriving DecidableEq, Repr

/-- The state of a line in an RDC (R291). -/
inductive Moesi where
  | m | o | e | s | h
deriving DecidableEq, Repr

/-- An RDC line (R291, R384): the world, the line, its state, whether its data is dirty, and its class (R169). -/
structure RdcLine where
  world : Nat
  line : Nat
  st : Moesi
  dirty : Bool
  cls : Nat
deriving DecidableEq, Repr

/-- An L2 line (R167, R292, R384): the world, the line, its XP, its class, and whether the home holds valid data for it, and dirty. -/
structure L2Line where
  world : Nat
  line : Nat
  xp : Nat
  cls : Nat
  valid : Bool
  dirty : Bool
deriving DecidableEq, Repr

/-- A backstop entry (R300): REGION 40 bits, MASK 8 bits, LINES 6 bits. -/
structure Backstop where
  region : Nat
  mask : BitVec 8
  lines : Nat
deriving DecidableEq, Repr

/-- A compute die: translation caches by partition, at most 65,536 entries each, most recently used first (R306); L2 lines
and RDC lines, most recently used first (R167, R291); the backstop directory (R300) and the spills that wait for it; the key table,
by world, with the number of the key (R387). -/
structure Die where
  tc : SMap (List Trans)
  l2 : List L2Line
  rdc : List RdcLine
  backstop : List Backstop
  spills : List (Nat × BitVec 8 × Bool)
  keys : SMap Nat
deriving DecidableEq, Repr

/-- The states of an almanac entry (R293). -/
inductive AlmSt where
  | sh | ex | ow | rc
deriving DecidableEq, Repr

/-- What a Nougat die serves in arrival order (R295 to R297): requests, evictions, and the home's recall. -/
inductive ReqKind where
  | rds | rdx | upg | wbd | evc | hrc
deriving DecidableEq, Repr

/-- A request at a Nougat die: the kind, the die that sends it, the line (R295). -/
structure CohReq where
  kind : ReqKind
  die : Nat
  line : Nat
deriving DecidableEq, Repr

/-- An almanac entry (R293): TAG as the line number, STATE, SHR 8 bits, OWN, PART, PEND; the request in progress with the
acknowledgements it awaits, the fabric clock of step 2 of a recall (R299), and whether OWN held dirty data (R300). -/
structure Alm where
  line : Nat
  st : AlmSt
  shr : BitVec 8
  own : Nat
  part : Nat
  pend : Bool
  req : Option CohReq
  waitAck : BitVec 8
  waitDak : Bool
  waitWak : Bool
  recallAt : Nat
  dirtyOwn : Bool
deriving DecidableEq, Repr

/-- A Nougat die: whether it works, its almanac most recently used first, and the waiting requests in arrival order
(R293, R297, R302). -/
structure Nougat where
  lost : Bool
  alm : List Alm
  waiting : List CohReq
deriving DecidableEq, Repr

/-- The kind of a coherence message in flight (R295). -/
inductive MsgKind where
  | fws | fwx | inv | rcl | hrs | hrx | hwb | rel | spl | prb | dat | dak | iak | wak
deriving DecidableEq, Repr

/-- A coherence message (R295): the line, the sender and receiver (a compute die, or 8 + h for Nougat die h), the requester
it serves, the D flag, the granted state, SPL's mask, and `mark`: the answer to a probe, or the release after the home's own
recall. -/
structure Msg where
  kind : MsgKind
  line : Nat
  src : Nat
  dst : Nat
  req : Nat
  dirty : Bool
  grant : Moesi
  mask : BitVec 8
  mark : Bool
deriving DecidableEq, Repr

/-- A write of global memory that some agent cannot see yet (R193, R194): its number, physical address, plaintext bytes and
world; the core whose agents see it from issue; whether it has taken its place in coherence order at its home; the agents that
see it (bit k for core k, bit 192 for the host side); for a write that a release orders, what comes before it (R196); and the
offsets among its bytes that it leaves alone (R205). -/
structure MWrite where
  id : Nat
  pa : Nat
  bytes : List Byte
  world : Nat
  core : Option Nat
  home : Bool
  vis : BitVec 193
  after : Before
  skip : List Nat
deriving DecidableEq, Repr

/-- The form in which a 16-byte unit holds its bytes where it is not the form of its frame (R388, R390): the bytes as they
stand without the XTS transform, or plaintext under a world's key. -/
inductive Form where
  | raw
  | plain (key : Nat)
deriving DecidableEq, Repr

/-- A copy in flight (R223, R227). -/
inductive CopyKind where
  /-- An ACP transfer: the group, the tag, the batch, the lane, the source pieces (virtual address, physical address, bytes). -/
  | acp (gid tag batch lane : Nat) (src : List (Nat × Nat × Nat))
  /-- A bulk copy: the group, the object, whether it stores, the record address and coordinates, and, for each scratchpad
  sector not yet moved, the bytes: its offset within the sector and the physical address, or the fill byte. -/
  | bulk (gid obj : Nat) (store : Bool) (recAddr off : Nat) (coords : List Nat)
      (sectors : List (Nat × List (Nat × Option Nat × Byte)))
deriving DecidableEq, Repr

/-- A copy (R223, R227): its team, its kind, the destination sector of a transfer, the order of its issue, the rollback
interval of its issue, the source bytes already read, by sector (R202 d), the sectors whose source read has met an error, with whether
its kind is INTEGRITY and its address, the sectors of a bulk copy as it was issued, for the replay of a chunk (R370), and what the
fences of its thread put before its writes (R196). -/
structure Copy where
  team : Nat
  kind : CopyKind
  sec : Nat
  interval : Nat
  issued : Nat
  got : SMap (List Byte)
  failed : SMap (Bool × Nat)
  full : List (Nat × List (Nat × Option Nat × Byte))
  after : Before
deriving DecidableEq, Repr

/-- A shipped atomic, or one held by a line's hold or lease (R174): group and flight. -/
structure Shipped where
  gid : Nat
  flight : Nat
  lane : Nat
  line : Nat
deriving DecidableEq, Repr

/-- The stages of a line-routine invocation (R276, R282). -/
inductive InvSt where
  | sent
  | queued
  | running
  | ended (result : W64)
  | faulted (c : Cause) (info : W64)
deriving DecidableEq, Repr

/-- A line-routine invocation (R276): the group, lane and core, the space, world and partition, the routine, the virtual address
and the number of the physical line, the attributes of its mapping, the arguments, what a release put before its write (R196), and its
stage. -/
structure Inv where
  gid : Nat
  lane : Nat
  core : Nat
  after : Before
  space : Nat
  world : Nat
  part : Nat
  n : Nat
  va : Nat
  line : Nat
  a1 : W64
  a2 : W64
  attrs : Nat
  st : InvSt
deriving DecidableEq, Repr

/-- An upset that strikes the part from outside (R131, R407, R411, the model's own): a 64-byte unit of memory, with the bytes that change;
an array of a group, by its array code of R438, register and lane or element; an 8-byte word of a slot; the results of a group's next
checked word, by lane, and an element of its next matrix operation; the next floating-point evaluation of an engine; a line of an L2 or
an RDC; the almanac entry of a line; a line of an instruction cache; the backstop directory, or a world's entry of the key table, of a
die; the session slots of a world; and the undo log and the image table entry of a team, by array code. `single` marks a single-bit
error. -/
inductive Upset where
  | memory (unit : Nat) (bytes : List (Nat × Byte))
  | array (gid array reg lane : Nat) (single : Bool)
  | slot (tid word : Nat) (single : Bool)
  | result (gid lane : Nat) (flip : W64)
  | element (gid acc elem : Nat) (flip : W32)
  | crumb (e : Engine) (flip : W64)
  | l2 (sec : Nat) (single : Bool)
  | rdc (die sec : Nat) (single : Bool)
  | almanac (line : Nat) (single : Bool)
  | backstop (die : Nat) (single : Bool)
  | icache (core world vline : Nat)
  | keyTable (die world : Nat) (single : Bool)
  | sessions (world : Nat) (single : Bool)
  | team (tid array : Nat) (single : Bool)
deriving DecidableEq, Repr

/-- One entry of the agenda (the model's own field, standing for whatever the units and the outside do next): an event of the
table; one Crumb word of an engine; a store leaving its core for its home; a write reaching an agent; an upset; a core clock. -/
inductive Move where
  | event (i : Instr) (args : List Nat)
  | crumb (e : Engine)
  | drain (id : Nat)
  | reach (id agent : Nat)
  | strike (u : Upset)
  | tick
deriving DecidableEq, Repr

/-- A routine or walker image inside the boundary (R274, R310): RO and the words. -/
structure Image where
  ro : Bool
  words : List (BitVec 32)
deriving DecidableEq, Repr

/-- A cached routine image (R275): space, routine, GEN, partition and image. -/
structure SliceImage where
  space : Nat
  n : Nat
  gen : BitVec 32
  part : Nat
  image : Image
deriving DecidableEq, Repr

/-- A line-routine engine (R260, R275, R276): its arrival queues in arrival order, the last partition served, its image
cache most recently used first, the invocation it runs, `c0`–`c15` (zero unless listed), the clear buffer, the image, the
word index, the fabric clock of the hold, and the line held; and the upset that strikes its next floating-point evaluation (R266; the
model's own field). -/
structure SliceEng where
  queue : List Nat
  rr : Nat
  cache : List SliceImage
  inv : Option Nat
  c : SMap W64
  buf : List Byte
  image : Image
  idx : Nat
  holdAt : Nat
  line : Nat
  /-- The requests that wait for the end of the hold, in the order of their arrival (R276, R277), as entries of the agenda. -/
  waits : List Move
  strike : W64
deriving DecidableEq, Repr

/-- A walk request (R308): the partition, space, virtual page, address and kind, and whom it serves. -/
structure WalkReq where
  id : Nat
  part : Nat
  space : Nat
  world : Nat
  va : Nat
  kind : Nat
  who : List Walked
  /-- Ranges of virtual addresses that a TLBINV named since it began: a result that meets one is discarded (R331). -/
  drop : List (Nat × Nat)
deriving DecidableEq, Repr

/-- A walker processor (R310, R312): the request it serves, `c0`–`c15` (zero unless listed), the image, the word index, the
index of the last word executed (R323), the words and LDPs executed, and the upset that strikes its next floating-point evaluation
(R266; the model's own field). -/
structure Walker where
  req : Option WalkReq
  c : SMap W64
  image : Image
  idx : Nat
  last : Nat
  words : Nat
  ldps : Nat
  strike : W64
deriving DecidableEq, Repr

/-- A walk held on an extent with F = 0 (R322): its request and its proposal (`c5`, `c6`, `c7`, word index). -/
structure HeldWalk where
  req : WalkReq
  c5 : W64
  c6 : W64
  c7 : W64
  word : Nat
deriving DecidableEq, Repr

/-- A page request (R326): SEQ 64 bits, its space, world, kind, cookie, the request it belongs to, which pool holds it
(reserved, shared, or waiting outside the queue), whether a responder has taken it, and whether it has been withdrawn since, so that its
response is discarded (R327). -/
structure PageReq where
  seq : Nat
  req : WalkReq
  part : Nat
  space : Nat
  world : Nat
  kind : Nat
  cookie : W64
  where_ : Nat
  taken : Bool
  dead : Bool
deriving DecidableEq, Repr

/-- A parsed launch record (R344), with its virtual and its physical address. -/
structure Launch where
  addr : Nat
  pa : Nat
  entry : W64
  gx : Nat
  gy : Nat
  gz : Nat
  tx : Nat
  ty : Nat
  tz : Nat
  flags : Nat
  scratch : Nat
  roles : List Nat
  fs : List (BitVec 32)
  argPtr : Nat
  argSize : Nat
  handler : W64
  space : Nat
  preload : List (BitVec 32)
deriving DecidableEq, Repr

/-- A sub-launch (R337, R340): a grid, with the teams placed and ended; a copy or a fill, with the bytes done. -/
inductive Sub where
  | grid (l : Launch) (placed ended : Nat) (done : Bool)
  | copy (src dst bytes at_ : Nat)
  | fill (dst bytes : Nat) (pattern : W64) (at_ : Nat)
deriving DecidableEq, Repr

/-- A bundle in flight (R342): its packet index, the signal and the sub-launches. -/
structure Bundle where
  index : Nat
  sigk : Nat
  sigAddr : Nat
  sigVal : W64
  subs : List Sub
deriving DecidableEq, Repr

/-- A context saved from a queue (R368, R372): the layout generation, the world's partition, the partition register with its V, BASE and
LIMIT, and CLOCK at the save, the teams with their groups, the copies to replay and the convergence registers by key: what the save area
holds; where the area lies in memory, with its length; and its number among the saves (R355). -/
structure Saved where
  gen : Nat
  part : Nat
  partReg : Bool × Nat × Nat
  space : Nat
  world : Nat
  clock : Nat
  teams : List (Nat × Team)
  groups : List (Nat × Group)
  copies : List Copy
  convs : List (Nat × Conv)
  base : Nat
  len : Nat
  order : Nat
  /-- The writes that each group's core had seen: group and write. -/
  seen : List (Nat × Nat)
deriving DecidableEq, Repr

/-- Whether a queue's context runs, is being reset (R378) or is being saved by pre-emption (R368), the latter with whether the
queue is unmapped at its end (R355). -/
inductive Stop where
  | run
  | reset
  | save (unmap : Bool)
deriving DecidableEq, Repr

/-- A mapped queue (R333–R343): the block's address, n, world, space, function, doorbell index; RPTR, the last WPTR accepted
and the next packet to start; STATUS, with the packet that failed; doorbells not yet served; the signal address and value of a WAIT
that stands; the bundles in flight; whether a pre-emption or reset is under way; whether RPTR has been read (R443); the translations
of the front end's own accesses; the packets without sub-launches that have not retired (index, SIGK, address, value); the
contexts saved; and whether it was unmapped for lack of time and its contexts are to be restored when it is mapped again (R355). -/
structure Queue where
  q : Nat
  n : Nat
  world : Nat
  space : Nat
  fn : Nat
  bell : Nat
  rptr : Nat
  wptr : Nat
  next : Nat
  code : Nat
  sub : Nat
  failAt : Nat
  rung : Nat
  waiting : Option (Nat × Nat)
  bundles : List Bundle
  stopping : Stop
  started : Bool
  susp : List PageNeed
  nops : List (Nat × Nat × Nat × W64)
  saved : List Saved
  dried : Bool
deriving DecidableEq, Repr

/-- A command front end: its partition register (R381): V, PART, BASE, LIMIT; its 16 slots (R333); and the queues unmapped under
R355 whose state it keeps, each with its slot (R443). -/
structure FrontEnd where
  valid : Bool
  part : Nat
  base : Nat
  limit : Nat
  slots : SMap Queue
  kept : List (Nat × Queue)
deriving DecidableEq, Repr

/-- A partition's shares (R10, R382, R293, R300, R169): colours in L2 and RDC, almanac ways, backstop range, and quotas of ways by
class. -/
structure Part where
  sbase : Nat
  scount : Nat
  rbase : Nat
  rcount : Nat
  wayFirst : Nat
  wayCount : Nat
  bbase : Nat
  bcount : Nat
  quota : SMap Nat
  /-- The number of the next page request (R326) and the last space whose walk a walker took (R309). -/
  seq : Nat
  rr : Nat
deriving DecidableEq, Repr

/-- A session slot (R389): KEY 256 bits, SEALNEXT, LAST 64 bits, PREFIX 32 bits, USED, V. -/
structure Session where
  key : BitVec 256
  sealNext : BitVec 64
  last : BitVec 64
  pfx : BitVec 32
  used : Bool
  v : Bool
deriving DecidableEq, Repr

/-- A measurement entry (R392): KIND, SPACE, INDEX and the SHA-384 digest. -/
structure Meas where
  kind : Nat
  space : Nat
  index : Nat
  digest : BitVec 384
deriving DecidableEq, Repr

/-- A world (R384–R400): its partition; the number of the key drawn for it (the keys are free values of it, R387); session slots; transfer extents (space and index); measurements; the event frame and COUNT; the
doorbell frame; the test attribute; its ephemeral key pair, by number; the virtual function bound to it; and whether
its revocation has begun (R397). -/
structure World where
  part : Nat
  key : Nat
  sessions : List Session
  transfer : SMap (Nat × Nat)
  meas : List Meas
  evFrame : Nat
  count : Nat
  doorFrame : Nat
  test : Bool
  ephem : Option Nat
  fn : Option Nat
  revoking : Bool
deriving DecidableEq, Repr

/-- A space (R7, R272, R310, R318): its world, its extents by index, the physical bases of its routine arena and walker image
area, and the digest of its walker routine (R329). -/
structure Space where
  world : Nat
  exts : SMap Extent
  arena : Nat
  walkerArea : Nat
  digest : Option (BitVec 384)
deriving DecidableEq, Repr

/-- A function (R353, R396, R429): TDISP state, bound world, its token bucket (CAP, RATE 32 bits, LEVEL signed 56 bits, DRY),
the CAP and RATE written and not yet in effect; the commit of its submission window that waits for its translation, as entry, data, target and
doorbell index; and what its last read returned. -/
structure Fn where
  tdisp : Tdisp
  world : Option Nat
  cap : Nat
  rate : Nat
  level : Int
  dry : Bool
  newCap : Option Nat
  newRate : Option Nat
  commit : Option (Nat × List Byte × Nat × Nat)
  /-- The bytes of the last read; none for one that was delivered as poisoned (R409). -/
  reply : List (Option Byte)
deriving DecidableEq, Repr

/-- An event record (R399): TIME, CLASS, DEV, WORLD, KIND, INDEX, SUB. -/
structure EvRec where
  time : Nat
  cls : Nat
  dev : Bool
  world : Nat
  kind : Nat
  index : Nat
  sub : Nat
deriving DecidableEq, Repr

/-- An entry of a compare buffer (R420): the pair (leading team), which team, the key, the signature, the issue that made
it, the bytes that it stores to (in the slot or not, the first address, the number), and whether it has been matched and its operation
may be performed. -/
structure CmpEntry where
  pair : Nat
  trailing : Bool
  grp : Nat
  count : Nat
  sig : BitVec 64
  ctx : Ctx
  at_ : List (Bool × Nat × Nat)
  matched : Bool
deriving DecidableEq, Repr

/-- A cluster's walker store entry (R311): space and image, most recently used first. -/
structure StoreImage where
  space : Nat
  image : Image
deriving DecidableEq, Repr

/-- A drop that an LRLOAD or WRLOAD has sent and that units must still acknowledge (R286, R329): the group, the space, the
routine for LRLOAD, and the units outstanding (slice engines or clusters). -/
structure DropJob where
  id : Nat
  gid : Nat
  space : Nat
  routine : Option Nat
  left : List Nat
deriving DecidableEq, Repr

/-- What executes next (the model's own field): nothing; the word of an issue; a slot of a pair word, with the result of
slot 0; a Crumb word of an engine. -/
inductive Cur where
  | idle
  | word (c : Ctx)
  | pair (c : Ctx) (slot : Nat) (d0 : Option (Nat × Mask × SMap W32))
  | crumb (e : Engine) (w : BitVec 32)
deriving DecidableEq, Repr

/-- What the control pair answers to a request (R392, R398, R429, R431, R433), with Request Retry Status before bring-up step 6 (R434). -/
inductive Reply where
  | done
  | retry
  | doorbell (index : Nat)
  | notOwner
  | refused
  | bytes (bs : List Byte)
deriving DecidableEq, Repr

/-- A change of an extent that waits for the walks of its space that had begun (R319): the descriptor to come and the walks. -/
structure ExtChange where
  space : Nat
  idx : Nat
  ext : Extent
  walks : List Nat
deriving DecidableEq, Repr

/-- The control pair and the device-wide state. -/
structure Ctl where
  /-- Layout generation, 32 bits (R391). -/
  gen : BitVec 32
  /-- The owner, and a handover offered with the core clock of the offer (R433). -/
  owner : Option Asker
  offer : Option (Asker × Nat)
  /-- Core clock at which the owner was last heard (R433). -/
  heard : Nat
  /-- Caps in watts of the host and of the board controller, and N of every 64 (R435). -/
  capHost : Nat
  capBoard : Nat
  n : Nat
  hot : List (Bool × Nat)
  /-- Power removed (R436). -/
  off : Bool
  /-- The bring-up step reached, 0–6, and whether the device is in recovery (R434). -/
  boot : Nat
  recovery : Bool
  /-- The control pair has stopped after a mismatch, or both Nougat dies are lost (R432, R303). -/
  halted : Bool
  /-- Event records that reached the host, newest first (R399). -/
  events : List EvRec
  /-- Keys drawn so far from the CTR_DRBG (R387, R392). -/
  drawn : Nat
  /-- Replies in the mailboxes, newest first (R431, R433). -/
  replies : List (Asker × Reply)
  /-- Core clock of the last update of the token buckets (R354). -/
  bucketAt : Nat
  /-- CXL ports: bytes of type-3 memory enumerated, and failed links (R6, R427). -/
  cxl : SMap Nat
  cxlFailed : List Nat
  /-- Corrections since the last report, by unit and array (R426). -/
  corrections : List ((Nat × Nat × Nat) × Nat)
  /-- Changes of extents under way (R319). -/
  changes : List ExtChange
  /-- Credits of each of the 17 virtual lanes of a Tlasol link (R383). -/
  lanes : SMap Nat
deriving DecidableEq, Repr

/-- An access that reached a world's doorbell frame and waits to be served (R430): the accessing thread's world, the address and size,
whether it is a store and whether a plain one, and the writes that its core saw before it. -/
structure DoorAccess where
  world : Nat
  pa : Nat
  size : Nat
  store : Bool
  plain : Bool
  after : List Nat
deriving DecidableEq, Repr

/-- The state of the machine. -/
structure State where
  /-- Core clocks since reset (R363); the fabric clock is twice it (R5). -/
  clock : Nat
  /-- The core clock at which the contention predictors last decayed (R174). -/
  decayAt : Nat
  /-- What executes next, and what the units and the outside do after it (the model's own). -/
  cur : Cur
  /-- The units that the event at hand names (the model's own). -/
  args : List Nat
  agenda : List Move
  /-- A counter for numbers of groups, teams, copies, walks and messages (the model's own). -/
  fresh : Nat
  /-- A counter for free values (the model's own). -/
  free : Nat
  /-- Global memory (R6): bytes by physical address, zero unless listed; units whose form differs from their frame's; the
  error patterns standing in 64-byte units (R407); the poisoned 32-byte sectors, with whether their kind is INTEGRITY (R409). -/
  mem : List Host.Cell
  forms : SMap Form
  /-- Extents taken from a world, newest first, whose bytes stand in the form of its key until a grant fills them (R319, R440): first
  page, pages, key. -/
  former : List (Nat × Nat × Nat)
  upsets : SMap (List (Nat × Byte))
  poison : SMap Bool
  /-- Writes not yet visible to every agent, in coherence order and then in issue order (R194). -/
  writes : List MWrite
  /-- Units of the package. -/
  cores : SMap Core
  dies : SMap Die
  nougats : SMap Nougat
  frontEnds : SMap FrontEnd
  parts : SMap Part
  walkers : SMap Walker
  stores : SMap (List StoreImage)
  slices : SMap SliceEng
  convs : SMap Conv
  /-- Work. -/
  teams : SMap Team
  groups : SMap Group
  copies : SMap Copy
  shipped : SMap Shipped
  invs : SMap Inv
  walkq : List WalkReq
  held : SMap HeldWalk
  pageq : List PageReq
  msgs : SMap Msg
  drops : List DropJob
  cmps : List CmpEntry
  doors : List DoorAccess
  /-- Trust. -/
  worlds : SMap World
  spaces : SMap Space
  fns : SMap Fn
  ctl : Ctl
deriving DecidableEq, Repr

/-- Why the machine stops. -/
inductive Fault where
  /-- A memory access names a physical address that R6 lists as not backed. Raised by the accesses to global memory. Safe:
  R6 states that no program request reaches such an address. -/
  | unbacked (pa : Nat)
deriving DecidableEq, Repr

/-- Why a meaning is not given. -/
inductive Refusal where
  /-- No meaning has been written for the instruction. Raised by the arms of `exec` only. Safe: nothing follows from it. -/
  | notModelled (mnemonic : String)
deriving DecidableEq, Repr

/-- The control pair after device reset and bring-up without failure (R391, R433, R434, R435). -/
def Ctl.reset : Ctl where
  gen := 0#32
  owner := none
  offer := none
  heard := 0
  capHost := 3200
  capBoard := 3200
  n := 64
  hot := []
  off := false
  boot := 0
  recovery := false
  halted := false
  events := []
  drawn := 0
  replies := []
  bucketAt := 0
  cxl := []
  cxlFailed := []
  corrections := []
  changes := []
  lanes := []

/-- The machine right after device reset: no owner, no world, no queue, no team; every cache and directory empty; layout
generation 0 (R391, R433, R434); memory with nothing listed. -/
def State.reset : State where
  clock := 0
  decayAt := 0
  cur := .idle
  args := []
  agenda := []
  fresh := 0
  free := 0
  mem := []
  forms := []
  former := []
  upsets := []
  poison := []
  writes := []
  cores := []
  dies := []
  nougats := []
  frontEnds := []
  parts := []
  walkers := []
  stores := []
  slices := []
  convs := []
  teams := []
  groups := []
  copies := []
  shipped := []
  invs := []
  walkq := []
  held := []
  pageq := []
  msgs := []
  drops := []
  cmps := []
  doors := []
  worlds := []
  spaces := []
  fns := []
  ctl := Ctl.reset

end Sys2Proof.Machine
end

