-- ==== Sys2Proof/Machine/Maps.lean ====
section
/-! DEFINITION. Sparse maps and global memory's canonical form. -/

namespace Sys2Proof.Machine

/-- The entry of a number. -/
def mget {α : Type} : SMap α → Nat → Option α
  | [], _ => none
  | (k, x) :: m, n => if k = n then some x else mget m n

/-- Set the entry of a number, keeping numbers rising. -/
def mput {α : Type} : SMap α → Nat → α → SMap α
  | [], n, v => [(n, v)]
  | (k, x) :: m, n, v => if n < k then (n, v) :: (k, x) :: m else if n = k then (n, v) :: m else (k, x) :: mput m n v

/-- Remove the entry of a number. -/
def mdel {α : Type} : SMap α → Nat → SMap α
  | [], _ => []
  | (k, x) :: m, n => if k = n then mdel m n else (k, x) :: mdel m n

/-- The entry of a number, or a default. -/
def mval {α : Type} (m : SMap α) (d : α) (n : Nat) : α := (mget m n).getD d

/-- Change the entry of a number if it is listed. -/
def mupd {α : Type} (m : SMap α) (n : Nat) (f : α → α) : SMap α :=
  match mget m n with
  | some x => mput m n (f x)
  | none => m

/-- Numbers strictly rising. -/
def mrising {α : Type} : SMap α → Bool
  | [] => true
  | [_] => true
  | (k, _) :: (l, y) :: m => decide (k < l) && mrising ((l, y) :: m)

/-! ### Memory: bytes by physical address, an unlisted address reading zero (DESIGN CHOICE, log 1) -/

/-- What an unlisted address reads as (DESIGN CHOICE, log 1). -/
def memDefault : Byte := 0#8

/-- The byte at an address. -/
def memGet (m : List Host.Cell) (a : Nat) : Byte := (mget m a).getD memDefault

/-- Write a byte, keeping the canonical form. -/
def memPut (m : List Host.Cell) (a : Nat) (b : Byte) : List Host.Cell := if b = memDefault then mdel m a else mput m a b

/-- Write bytes from an address upwards. -/
def memPutBytes (m : List Host.Cell) (a : Nat) : List Byte → List Host.Cell
  | [] => m
  | b :: bs => memPutBytes (memPut m a b) (a + 1) bs

/-- `n` bytes from an address. -/
def memGetBytes (m : List Host.Cell) (a : Nat) : Nat → List Byte
  | 0 => []
  | n + 1 => memGet m a :: memGetBytes m (a + 1) n

/-- The canonical form: addresses strictly rising, no entry equal to what an unlisted address reads as. -/
def Memory.wf (m : List Host.Cell) : Bool := mrising m && m.all (fun c => c.2 != memDefault)

/-! ### Lists by index -/

/-- Change the element at an index. -/
def lupd {α : Type} : List α → Nat → (α → α) → List α
  | [], _, _ => []
  | x :: l, 0, f => f x :: l
  | x :: l, n + 1, f => x :: lupd l n f

/-! ### Lane sets -/

/-- Whether a lane is in a set. -/
def has (m : Mask) (l : Nat) : Bool := m.getLsbD l

/-- The lanes of a set, ascending. -/
def lanesOf (m : Mask) : List Nat := (List.range nLanes).filter (fun l => has m l)

/-- The set of a list of lanes. -/
def maskOf (ls : List Nat) : Mask := ls.foldl (fun m l => m ||| 1#32 <<< l) 0#32

/-- The set of lanes with a property. -/
def maskBy (p : Nat → Bool) : Mask := maskOf ((List.range nLanes).filter p)

/-- Every lane. -/
def allLanes : Mask := 0xFFFFFFFF#32

end Sys2Proof.Machine
end

