-- ==== Sys2Proof/Machine/Mem.lean ====
section
/-! DEFINITION. Global memory: the address map (R6), the form in which a unit holds its bytes (R388, R390), the writes that
are not yet visible to every agent (R193 to R197), and the errors that a read meets (R407 to R409). -/

namespace Sys2Proof.Machine

/-- The end of the HBM4E range, and the windows of the CXL ports of 4 TiB each (R6). -/
def hbmEnd : Nat := 0x010000000000
def cxlBase (p : Nat) : Nat := 0x010000000000 + p * 0x040000000000
def cxlEnd : Nat := 0x110000000000

/-- The CXL port whose window holds an address (R6). -/
def cxlPort (pa : Nat) : Nat := (pa - hbmEnd) / 0x040000000000

/-- Whether a physical address is backed: HBM4E, or CXL memory enumerated from the base of its window (R6). (DESIGN CHOICE, log 90.) -/
def backed (s : State) (pa : Nat) : Bool :=
  decide (pa < hbmEnd) || (decide (pa < cxlEnd) && decide (pa < cxlBase (cxlPort pa) + mval s.ctl.cxl 0 (cxlPort pa)))

/-- The home die of a physical address (R167). -/
def homeDie (pa : Nat) : Nat := if pa < hbmEnd then pa / 2 ^ 37 % 8 else 2 * cxlPort pa

/-- The slice of a line within its home die (R167). -/
def sliceOf (pa : Nat) : Nat := slice pa 7 6 ^^^ slice pa 13 6 ^^^ slice pa 19 6 ^^^ slice pa 25 6

/-- The device index of the home slice (R2). -/
def homeSlice (pa : Nat) : Nat := 64 * homeDie pa + sliceOf pa

/-- The HBM4E stack that holds a byte (R6). -/
def stackOf (pa : Nat) : Nat := 2 * (pa / 2 ^ 37 % 8) + pa / 256 % 2

/-- The Nougat die of a line (R290). -/
def nougatOf (pa : Nat) : Nat := (List.range 45).foldl (fun x i => x ^^^ (pa / 2 ^ (i + 7) % 2)) 0

/-- Whether an extent holds the bytes from `pa`, `n` long. -/
def extHolds (e : Extent) (pa n : Nat) : Bool := e.v && decide (e.base * 4096 ≤ pa) && decide (pa + n ≤ (e.base + e.pages) * 4096)

/-- The world whose allowance holds a byte (R319, R384). -/
def ownerOf (s : State) (pa : Nat) : Option Nat :=
  (s.spaces.find? (fun p => p.2.exts.any (fun q => extHolds q.2 pa 1))).map (fun p => p.2.world)

/-- The world whose allowance holds a byte in an extent that has been filled (R319). -/
def filledOwner (s : State) (pa : Nat) : Option Nat :=
  (s.spaces.find? (fun p => p.2.exts.any (fun q => q.2.f && extHolds q.2 pa 1))).map (fun p => p.2.world)

/-- The number of a world's key, 0 for a world that has none; and the XTS key of a number (R387; DESIGN CHOICE, log 26). -/
def keyOf (s : State) (w : Nat) : Nat :=
  match mget s.worlds w with
  | some x => x.key + 1
  | none => 0
def keyXts (k : Nat) : BitVec 512 := if k = 0 then 0#512 else Config.xtsKey (k - 1)
def worldXts (s : State) (w : Nat) : BitVec 512 := keyXts (keyOf s w)

/-- The form of a 16-byte unit: its own, or that of its frame, which is its last owner's until a grant has filled it (R319, R390).
(DEDUCED, log 30.) -/
def formOf (s : State) (u : Nat) : Form :=
  match mget s.forms u with
  | some f => f
  | none =>
    match filledOwner s (16 * u) with
    | some w => .plain (keyOf s w)
    | none =>
      match s.former.find? (fun x => decide (x.1 ≤ u / 256) && decide (u / 256 < x.1 + x.2.1)) with
      | some x => .plain x.2.2
      | none => .raw

/-- The 16 bytes of a unit as they are stored, without the transform (R390). -/
def unitRaw (s : State) (u : Nat) : List Byte :=
  let b := memGetBytes s.mem (16 * u) 16
  match formOf s u with
  | .raw => b
  | .plain k => xtsUnit true (keyXts k) u b

/-- The 16 bytes of a unit as a world's key reveals them (R388). -/
def unitPlain (s : State) (w u : Nat) : List Byte :=
  if formOf s u = .plain (keyOf s w) then memGetBytes s.mem (16 * u) 16 else xtsUnit false (worldXts s w) u (unitRaw s u)

/-- Whether an address lies in the window of a CXL port whose link has failed (R427). -/
def cxlLost (s : State) (pa : Nat) : Bool := decide (hbmEnd ≤ pa) && decide (pa < cxlEnd) && s.ctl.cxlFailed.contains (cxlPort pa)

/-- Whether an address lies in the doorbell frame of a world, where nothing is stored and loads return zero (R430). -/
def inDoor (s : State) (pa : Nat) : Bool := s.worlds.any (fun p => p.2.doorFrame / 4096 == pa / 4096 && ownerOf s pa == some p.1)

/-- An access to a doorbell frame goes to its front end, not to memory (R430). -/
def toDoor (s : State) (x : DoorAccess) : State := { s with doors := s.doors ++ [x] }

/-- Bytes of home memory as a world reads them. -/
def homePlain (s : State) (w pa n : Nat) : List Byte :=
  if inDoor s pa then List.replicate n 0#8
  else (List.range n).map (fun i =>
    let u := (pa + i) / 16
    if formOf s u = .plain (keyOf s w) then memGet s.mem (pa + i) else (unitPlain s w u).getD ((pa + i) % 16) 0#8)

/-- Bytes of home memory raw (R390). -/
def homeRaw (s : State) (pa n : Nat) : List Byte :=
  (List.range n).map (fun i => (unitRaw s ((pa + i) / 16)).getD ((pa + i) % 16) 0#8)

/-- Put a unit into a form, its stored bytes unchanged. -/
def setForm (s : State) (f : Form) (u : Nat) : State :=
  if formOf s u = f then s
  else
    let b := match f with
      | .raw => unitRaw s u
      | .plain k => xtsUnit false (keyXts k) u (unitRaw s u)
    { s with mem := memPutBytes s.mem (16 * u) b, forms := mput s.forms u f }

/-- The units that bytes from `pa` touch. -/
def unitsOf (pa n : Nat) : List Nat := (List.range ((pa + n - 1) / 16 - pa / 16 + 1)).map (· + pa / 16)

/-- Whether a 64-byte unit of HBM4E was written under the key of another world, so that its tag fails under this one's (R408). -/
def foreign (s : State) (w u : Nat) : Bool :=
  decide (64 * u < hbmEnd) && (List.range 4).any (fun i =>
    match formOf s (4 * u + i) with
    | .plain k => k != keyOf s w
    | .raw => false)

/-- The 64-byte units that bytes from `pa` touch, and whether they cover one whole. -/
def bigUnits (pa n : Nat) : List Nat := (List.range ((pa + n - 1) / 64 - pa / 64 + 1)).map (· + pa / 64)
def coversUnit (pa n size x : Nat) : Bool := decide (pa ≤ size * x) && decide (size * x + size ≤ pa + n)

/-- What a write of only a part of a unit does to a unit that reads with an error (R409): the unit is poisoned, its two sectors with
the error's kind, and the bytes of the write are merged into it; an error that the read corrects is gone. `bad` says whether the tag
fails. -/
def mergeUnit (bad : Nat → Bool) (s : State) (u : Nat) : State :=
  let poisoned (integrity : Bool) : State :=
    { s with poison := mput (mput s.poison (2 * u) integrity) (2 * u + 1) integrity, upsets := mdel s.upsets u }
  match rsRead (mval s.upsets [] u) with
  | .uncorrectable => poisoned false
  | .integrity => poisoned true
  | _ => if bad u then poisoned true else { s with upsets := mdel s.upsets u }

/-- The effect of a write on the errors of what it covers (R409): a sector or unit replaced in whole is clean again. -/
def writeErrors (bad : Nat → Bool) (s : State) (pa n : Nat) : State :=
  let s := (bigUnits pa n).foldl (fun s u => if coversUnit pa n 64 u then { s with upsets := mdel s.upsets u } else mergeUnit bad s u) s
  { s with poison := s.poison.filter (fun p => !coversUnit pa n 32 p.1) }

/-- Write plaintext bytes of a world into home memory: a unit of another world's of which only a part is written takes this world's
key whole (R408, R409). -/
def homePut (s : State) (w pa : Nat) (bs : List Byte) : State :=
  if bs.isEmpty || inDoor s pa || cxlLost s pa then s
  else
    let units := (bigUnits pa bs.length).flatMap (fun u =>
      if foreign s w u then (List.range 4).map (· + 4 * u) else (unitsOf pa bs.length).filter (fun x => x / 4 == u))
    let s' := writeErrors (foreign s w) s pa bs.length
    let s' := units.foldl (fun t u => setForm t (.plain (keyOf s w)) u) s'
    { s' with mem := memPutBytes s'.mem pa bs }

/-- Write raw bytes into home memory (R390). -/
def homePutRaw (s : State) (pa : Nat) (bs : List Byte) : State :=
  if bs.isEmpty || cxlLost s pa then s
  else
    let s := (unitsOf pa bs.length).foldl (fun s u => setForm s .raw u) (writeErrors (fun _ => false) s pa bs.length)
    { s with mem := memPutBytes s.mem pa bs }

/-! ### Writes and who sees them (R193 to R197) -/

/-- The number of the host side among the agents; cores are 0–191. -/
def hostAgent : Nat := 192

/-- Every agent. -/
def allAgents : BitVec 193 := BitVec.allOnes 193

/-- Whether a write covers a byte. -/
def MWrite.covers (w : MWrite) (a : Nat) : Bool :=
  decide (w.pa ≤ a) && decide (a < w.pa + w.bytes.length) && !w.skip.contains (a - w.pa)

/-- Whether a write overlaps bytes. -/
def MWrite.overlaps (w : MWrite) (pa n : Nat) : Bool := decide (w.pa < pa + n) && decide (pa < w.pa + w.bytes.length)

/-- The byte at an address after the writes of a list that a test accepts, in the list's order (R193). -/
def overlay (ws : List MWrite) (sees : MWrite → Bool) (a : Nat) (b : Byte) : Byte :=
  ws.foldl (fun b w => if sees w && w.covers a then w.bytes.getD (a - w.pa) 0#8 else b) b

/-- Bytes as the agents of a core read them: the latest write in coherence order that is visible to the core (R193).
(DESIGN CHOICE, log 52; DEDUCED, log 116.) -/
def viewRead (s : State) (agent w pa n : Nat) : List Byte :=
  (homePlain s w pa n).zipIdx.map (fun p => overlay s.writes (fun x => x.vis.getLsbD agent) (pa + p.2) p.1)

/-- Bytes as an engine at the home die reads them: every write that has taken its place in coherence order (R168). -/
def homeRead (s : State) (w pa n : Nat) : List Byte :=
  (homePlain s w pa n).zipIdx.map (fun p => overlay s.writes (fun x => x.home) (pa + p.2) p.1)

/-- Bytes by address as runs, none of which crosses a 32-byte sector: each run is one write (R172). -/
def runsOf : List (Nat × Byte) → List (Nat × List Byte)
  | [] => []
  | (a, b) :: m =>
    match runsOf m with
    | (p, bs) :: rs => if a + 1 = p && p % 32 ≠ 0 then (a, b :: bs) :: rs else (a, [b]) :: (p, bs) :: rs
    | [] => [(a, [b])]

/-- The bytes of a write reach home memory. -/
def settleWrite (s : State) (w : MWrite) : State :=
  if w.skip.isEmpty then homePut s w.world w.pa w.bytes
  else (runsOf ((w.bytes.zipIdx.filter (fun p => !w.skip.contains p.2)).map (fun p => (w.pa + p.2, p.1)))).foldl
    (fun s r => homePut s w.world r.1 r.2) s

/-- Apply to home memory the writes at the head of the list that every agent sees. -/
def settleList : List MWrite → State → State
  | [], s => { s with writes := [] }
  | w :: ws, s =>
    if w.home && w.vis == allAgents then settleList ws (settleWrite s w) else { s with writes := w :: ws }

/-- Retire the oldest writes once everyone sees them. -/
def settle (s : State) : State := settleList s.writes s

/-- Put a write behind the writes that already have their place in coherence order. -/
def insertHome (w : MWrite) : List MWrite → List MWrite
  | [] => [w]
  | x :: xs => if x.home then x :: insertHome w xs else w :: x :: xs

/-- Whether agents outside a core are among those for which something comes first: its own agents see its writes in order (R202 c). -/
def beyondCore (core : Option Nat) (scope : BitVec 193) : Bool :=
  match core with
  | some k => scope &&& ~~~(1#193 <<< k) != 0#193
  | none => scope != 0#193

/-- The writes that must take their place before a write of the list does: those it was ordered behind, and earlier
overlapping writes of its core (R194, R196). -/
def drainFirst (ws : List MWrite) (w : MWrite) : List Nat :=
  (ws.takeWhile (fun x => x.id != w.id)).filterMap (fun x =>
    if !x.home && (w.after.any (fun p => p.1 == x.id && beyondCore w.core p.2) || (x.core == w.core && x.overlaps w.pa w.bytes.length)) then
      some x.id else none)

/-! The contention predictor and the leases of a core (R174). -/

/-- A line's counter in the contention predictor (R174). -/
def predCount (c : Core) (line : Nat) : Nat := ((c.pred.find? (fun p => p.1 == line)).map (·.2)).getD 0

/-- Raise a line's counter, which has 2 bits. Of the 64 entries the one raised least recently gives way (DESIGN CHOICE, log 99). -/
def predRaise (c : Core) (line : Nat) : Core :=
  { c with pred := ((line, min 3 (predCount c line + 1)) :: c.pred.filter (fun p => p.1 != line)).take 64 }

/-- A core whose lease of a line another agent's request ends, which raises its counter (R174). -/
def yieldLease (line : Nat) (c : Core) : Core :=
  if c.leases.any (fun x => x.line == line) then predRaise { c with leases := c.leases.filter (fun x => x.line != line) } line else c

/-- An access of an agent to bytes requests their lines: a lease that another core holds of one ends at once (R174). -/
def requestLines (s : State) (agent : Option Nat) (pa n : Nat) : State :=
  let lines := (List.range ((pa + n - 1) / 128 - pa / 128 + 1)).map (· + pa / 128)
  if s.cores.any (fun p => some p.1 != agent && p.2.leases.any (fun x => lines.contains x.line)) then
    { s with cores := s.cores.map (fun p => if some p.1 = agent then p else (p.1, lines.foldl (fun c l => yieldLease l c) p.2)) }
  else s

/-- A write of an agent of a die is performed in the die's copy of the line, if it may be: in the home's L2, or in the RDC, where E
becomes M without a message (R291, R292). -/
def dirtyOn (s : State) (die pa : Nat) : State :=
  { s with dies := mupd s.dies die (fun d =>
      if homeDie pa = die then
        { d with l2 := d.l2.map (fun x => if x.line = pa / 128 && x.xp ≤ 1 && x.valid then { x with dirty := true } else x) }
      else { d with rdc := d.rdc.map (fun x => if x.line = pa / 128 && (x.st == .e || x.st == .m) then { x with st := .m, dirty := true } else x) }) }

/-- A dirty line that holds poison is written back with the check bytes of its poisoned units inverted: each reads as uncorrectable as a
whole from then on (R409). -/
def writeBack (s : State) (line : Nat) : State :=
  [2 * line, 2 * line + 1].foldl (fun s u =>
    if (mget s.poison (2 * u)).isSome || (mget s.poison (2 * u + 1)).isSome then
      { s with poison := mput (mput s.poison (2 * u) false) (2 * u + 1) false }
    else s) s

/-- A write takes its place in coherence order, after those that must precede it. -/
def drainGo : Nat → State → Nat → State
  | 0, s, _ => s
  | fuel + 1, s, id =>
    match s.writes.find? (fun x => x.id == id && !x.home) with
    | none => s
    | some w =>
      let s := (drainFirst s.writes w).foldl (drainGo fuel) (requestLines s w.core w.pa w.bytes.length)
      let s := match w.core with
        | some k => dirtyOn s (k / 24) w.pa
        | none => s
      { s with writes := insertHome { w with home := true } (s.writes.filter (fun x => x.id != id)) }

/-- A write takes its place in coherence order at its home. -/
def drain (s : State) (id : Nat) : State := drainGo (s.writes.length + 1) s id

/-- A write becomes visible to some agents, with the writes that a release placed before it for them (R196). -/
def reachGo : Nat → BitVec 193 → State → Nat → State
  | 0, _, s, _ => s
  | fuel + 1, m, s, id =>
    match s.writes.find? (fun x => x.id == id) with
    | none => s
    | some w =>
      if m = 0#193 || (m &&& ~~~w.vis = 0#193 && w.home) then s
      else
        let s := drain s id
        let s := { s with writes := s.writes.map (fun x => if x.id = id then { x with vis := x.vis ||| m } else x) }
        w.after.foldl (fun s p => reachGo fuel (m &&& p.2) s p.1) s

/-- A write becomes visible to some agents. -/
def reachAll (s : State) (id : Nat) (m : BitVec 193) : State := reachGo (s.writes.length + 1) m s id

/-- A write becomes visible to an agent. -/
def reach (s : State) (id agent : Nat) : State := settle (reachAll s id (1#193 <<< agent))

/-- What a release put before something becomes visible to an agent that sees it (R196). -/
def seeBefore (s : State) (agent : Nat) (b : Before) : State :=
  if b.isEmpty then s else settle (b.foldl (fun s p => if p.2.getLsbD agent then reachAll s p.1 (1#193 <<< agent) else s) s)

/-- The agents of a set, as numbers. -/
def agentsOf (m : BitVec 193) : List Nat := (List.range 193).filter (fun k => m.getLsbD k)

/-- The numbers of the writes visible to a core (R196). -/
def visibleTo (s : State) (core : Nat) : List Nat := (s.writes.filter (fun w => w.vis.getLsbD core)).map (·.id)

/-- A full fence (R197): every write visible to the core becomes visible to every agent of the scope. -/
def fenceFull (s : State) (core : Nat) (scope : BitVec 193) : State :=
  settle ((visibleTo s core).foldl (fun s id => reachAll s id scope) s)

/-- Every write visible to a core, put before something for the agents of a scope (R196). -/
def beforeFor (s : State) (core : Nat) (scope : BitVec 193) : Before := (visibleTo s core).map (fun id => (id, scope))

/-- The writes to some bytes take their place, and every write that has one becomes visible to everyone, so that an engine
may act on home memory. With no write to the bytes nothing changes. -/
def flushBytes (s : State) (pa n : Nat) : State :=
  if s.writes.any (fun w => w.overlaps pa n) then
    let s := (s.writes.filter (fun w => w.overlaps pa n)).foldl (fun s w => drain s w.id) s
    settle { s with writes := s.writes.map (fun w => if w.home then { w with vis := allAgents } else w) }
  else s

/-! The L1 (R165, R166). -/

/-- The copy of a sector in a world's L1 on a core. -/
def l1Sector (c : Core) (world sec : Nat) : Option (List Byte) :=
  (c.l1.find? (fun x => x.world == world && x.line == sec / 4)).bind (fun x => mget x.secs sec)

/-- Replace bytes of a list that starts at an address. -/
def patchBytes (base : Nat) (old : List Byte) (pa : Nat) (bs : List Byte) : List Byte :=
  old.zipIdx.map (fun p => if decide (pa ≤ base + p.2) && decide (base + p.2 < pa + bs.length) then bs.getD (base + p.2 - pa) p.1 else p.1)

/-- A write of a core's agents updates the copies that its world's L1 holds (R166). -/
def l1Store (s : State) (core world pa : Nat) (bs : List Byte) : State :=
  { s with cores := mupd s.cores core (fun c =>
      { c with l1 := c.l1.map (fun x =>
          if x.world = world then { x with secs := x.secs.map (fun q => (q.1, patchBytes (32 * q.1) q.2 pa bs)) } else x) }) }

/-- A plain store of a core's agent: visible to its core at once (R193, R202 c). -/
def storeWrite (s : State) (core world pa : Nat) (bs : List Byte) (after : Before) : State :=
  if inDoor s pa then toDoor s ⟨world, pa, bs.length, false, false, []⟩
  else
    let s := l1Store s core world pa bs
    { s with
      fresh := s.fresh + 1
      writes := s.writes ++ [{ id := s.fresh, pa := pa, bytes := bs, world := world, core := some core, home := false,
                               vis := 1#193 <<< core, after := after, skip := [] }] }

/-- A write performed at the home slice on behalf of a core's agent (R174, R280): it has its place in coherence order. -/
def homeWriteSkip (s : State) (core world pa : Nat) (bs : List Byte) (skip : List Nat) (after : Before) : State :=
  if inDoor s pa then toDoor s ⟨world, pa, bs.length, false, false, []⟩
  else
    let s := (s.writes.filter (fun w => !w.home && ((w.core == some core && w.overlaps pa bs.length) ||
      after.any (fun p => p.1 == w.id && beyondCore (some core) p.2)))).foldl (fun s w => drain s w.id) (requestLines s (some core) pa bs.length)
    let s := dirtyOn s (homeDie pa) pa
    let s := if skip.isEmpty then l1Store s core world pa bs
      else (bs.zipIdx.filter (fun p => !skip.contains p.2)).foldl (fun s p => l1Store s core world (pa + p.2) [p.1]) s
    { s with
      fresh := s.fresh + 1
      writes := insertHome { id := s.fresh, pa := pa, bytes := bs, world := world, core := some core, home := true,
                             vis := 1#193 <<< core, after := after, skip := skip } s.writes }

/-- A write of every byte of a run at the home slice. -/
def homeWrite (s : State) (core world pa : Nat) (bs : List Byte) (after : Before) : State := homeWriteSkip s core world pa bs [] after

/-- Bytes by address as one write for each 32-byte sector: its first address, its bytes, and the offsets left alone (R172, R205). -/
def sectorWrites (m : SMap Byte) : List (Nat × List Byte × List Nat) :=
  ((m.map (fun p => p.1 / 32)).eraseDups).map (fun sec =>
    let here := m.filter (fun p => p.1 / 32 == sec)
    let lo := ((here.map (·.1)).min?).getD 0
    let hi := ((here.map (·.1)).max?).getD 0
    let offs := List.range (hi + 1 - lo)
    (lo, offs.map (fun i => mval here 0#8 (lo + i)), offs.filter (fun i => (mget here (lo + i)).isNone)))

/-- An engine of a core writes bytes of global memory, each sector in one write; the cores of a set see them at once (R172, R205). -/
def engineWrite (s : State) (core world : Nat) (cores : List Nat) (bs : SMap Byte) (after : Before) : State :=
  (sectorWrites bs).foldl (fun s r =>
    let id := s.fresh
    let s := homeWriteSkip s core world r.1 r.2.1 r.2.2 after
    cores.foldl (fun s k => reach s id k) s) s

/-- A write of an engine or of the control pair that everyone sees at once (R342, R400). (DEDUCED, log 80.) -/
def deviceWrite (s : State) (world pa : Nat) (bs : List Byte) : State := homePut (flushBytes s pa bs.length) world pa bs

/-- A range of memory is filled with zeros under its world's key, with valid codes and tags (R319, R410). -/
def fillRange (s : State) (lo hi : Nat) : State :=
  let s := if s.writes.any (fun w => w.overlaps lo (hi - lo)) then flushBytes s lo (hi - lo) else s
  let out (size x : Nat) : Bool := decide (size * x + size ≤ lo) || decide (hi ≤ size * x)
  { s with
    mem := s.mem.filter (fun c => out 1 c.1)
    forms := s.forms.filter (fun p => out 16 p.1)
    upsets := s.upsets.filter (fun p => out 64 p.1)
    poison := s.poison.filter (fun p => out 32 p.1) }

/-! ### Errors that a read meets (R409) -/

/-- What the decoder and the tag say of the units that bytes lie in for a request of world `w` (R407, R408, R427): the worst first.
(DESIGN CHOICE, log 31.) -/
def readError (s : State) (w pa n : Nat) : UnitRead :=
  let units := bigUnits pa n
  let kinds := units.map (fun u => rsRead (mval s.upsets [] u))
  let poisoned := s.poison.filter (fun p => decide (32 * p.1 < pa + n) && decide (pa < 32 * p.1 + 32))
  if poisoned.any (fun p => !p.2) || cxlLost s pa || kinds.contains .uncorrectable then .uncorrectable
  else if !poisoned.isEmpty || kinds.contains .integrity || units.any (foreign s w) then .integrity
  else if kinds.contains .corrected then .corrected
  else .clean

end Sys2Proof.Machine
end

