-- ==== Sys2Proof/Machine/Ops.lean ====
section
/-! DEFINITION. The named operations over the machine's state: groups and lanes, registers and latches, reports, taking a
trap and returning from one (R356 to R362), answering a consumed error (R417), barrier objects and phases (R210), the undo
log and the barrier image (R414, R415), and the end of a word's issue. -/

namespace Sys2Proof.Machine

/-- The outcome of a step. -/
abbrev Out := Host.Outcome State Fault Refusal

/-! ### Numbers of the causes, and access to the parts of the state -/

/-- The code of a cause (R356). -/
def Cause.code : Cause → Nat
  | .illegal => 0x01 | .bankpair => 0x02 | .privilege => 0x03 | .staleLatch => 0x04 | .regBudget => 0x05
  | .address => 0x10 | .refused => 0x11 | .unmapped => 0x12 | .walkLimit => 0x13 | .permission => 0x14
  | .sealed => 0x15 | .walkError => 0x16 | .scratchBounds => 0x20 | .barrierStarved => 0x21 | .claimDeadlock => 0x22
  | .routineFault => 0x23 | .routineAbsent => 0x24 | .convergence => 0x25 | .shadowDivergence => 0x30
  | .uncorrectable => 0x31 | .twinMismatch => 0x32 | .integrity => 0x33 | .software => 0x40 | .breakpoint => 0x41

/-- An idle lane, for lists shorter than they should be. -/
def Lane.none : Lane := ⟨0#64, 0#64, 0, .exited, false, Option.none, [], 0⟩

/-- Lane `l` of a group. -/
def Group.lane (g : Group) (l : Nat) : Lane := g.lanes.getD l Lane.none

/-- Change the lanes of a set. -/
def Group.onLanes (g : Group) (m : Mask) (f : Lane → Lane) : Group :=
  { g with lanes := g.lanes.zipIdx.map (fun p => if has m p.2 then f p.1 else p.1) }

/-- The lanes in a state. -/
def Group.inState (g : Group) (st : LaneSt) : Mask := maskBy (fun l => decide ((g.lane l).st = st))

/-- The lanes that have not exited. -/
def Group.live (g : Group) : Mask := maskBy (fun l => decide ((g.lane l).st ≠ .exited))

/-- The lanes in the trap handler (R360). -/
def Group.inHandler (g : Group) : Mask := maskBy (fun l => (g.lane l).h)

/-- Change a group or a team that exists. -/
def onGroup (s : State) (gid : Nat) (f : Group → Group) : State := { s with groups := mupd s.groups gid f }
def onTeam (s : State) (tid : Nat) (f : Team → Team) : State := { s with teams := mupd s.teams tid f }

/-- A core with nothing cached and nothing assigned. -/
def Core.empty : Core := ⟨[], [], [], [], [], [], [], [], [], [], []⟩

/-- Core, die, and their changes. -/
def coreOf (s : State) (k : Nat) : Core := mval s.cores Core.empty k
def onCore (s : State) (k : Nat) (f : Core → Core) : State := { s with cores := mput s.cores k (f (coreOf s k)) }
def Die.empty : Die := ⟨[], [], [], [], [], []⟩
def dieOf (s : State) (d : Nat) : Die := mval s.dies Die.empty d
def onDie (s : State) (d : Nat) (f : Die → Die) : State := { s with dies := mput s.dies d (f (dieOf s d)) }

/-- A partition's shares before the owner has set them: the least share at the place of its number (DESIGN CHOICE, log 2), with the round
robin over the spaces standing behind space 0 (DESIGN CHOICE, log 102). -/
def Part.least (p : Nat) : Part := ⟨24 * p, 24, 1024 * p, 1024, p, 1, 512 * p, 512, [], 0, 0⟩

/-- Read and change a partition. -/
def partOf (s : State) (p : Nat) : Part := mval s.parts (Part.least p) p
def onPart (s : State) (p : Nat) (f : Part → Part) : State := { s with parts := mput s.parts p (f (partOf s p)) }

/-- The compute die of a core, and its cluster (R2). -/
def dieOfCore (k : Nat) : Nat := k / 24
def clusterOf (k : Nat) : Nat := k / 4

/-- The cores a team occupies (R18). -/
def teamCores (s : State) (t : Team) : List Nat :=
  (t.groups.filterMap (fun gid => (mget s.groups gid).map (·.core))).eraseDups

/-- The agents of a scope for a group of a team (R70): `.grp` and `.core` lie within the core. -/
def scopeAgents (s : State) (g : Group) (t : Team) (scope : Nat) : BitVec 193 :=
  let cores (ks : List Nat) : BitVec 193 := ks.foldl (fun m k => m ||| 1#193 <<< k) 0#193
  match scope with
  | 0 => cores [g.core]
  | 1 => cores (g.core :: teamCores s t)
  | 2 => cores [g.core]
  | 3 => cores ((List.range 24).map (· + 24 * dieOfCore g.core))
  | 4 => cores (List.range 192)
  | _ => allAgents

/-! ### Registers (R39 to R43) -/

/-- A vector register never written since it was given: free (DESIGN CHOICE, log 3). -/
def freeVector (g : Group) (n l : Nat) : W32 :=
  match g.vEpochs.find? (fun p => decide (p.1 ≤ n)) with
  | some p => Config.freeReg p.2 n l
  | none => Config.freeReg 0 n l

/-- What lane `l` of vector register `n` holds. -/
def vRaw (g : Group) (n l : Nat) : W32 :=
  match mget g.v n with
  | some row => row.getD l 0#32
  | none => freeVector g n l

/-- Whether a vector register is an A or A scale register of a window (R248). -/
def Window.hasReg (w : Window) (n : Nat) : Bool :=
  (decide (w.areg ≤ n) && decide (n < w.areg + w.na)) || (decide (w.sar ≤ n) && decide (n < w.sar + w.nsar))

/-- Whether an accumulator, or a tile, belongs to a window (R248). -/
def Window.hasAcc (w : Window) (a : Nat) : Bool := decide (w.acc ≤ a) && decide (a < w.acc + w.nt)
def Window.hasTile (w : Window) (t : Nat) : Bool :=
  w.lead && ((decide (w.bt ≤ t) && decide (t < w.bt + w.nbt)) || (decide (w.sbt ≤ t) && decide (t < w.sbt + w.nsbt)))

/-- The words that a group holds in its vector registers, accumulators and tiles, of which its undefined values are made (R248). -/
def Group.own (g : Group) : List W32 :=
  g.v.flatMap (·.2) ++ g.accs.flatMap (·.2) ++ g.tiles.flatMap (fun p => p.2.map (fun b => b.setWidth 32))

/-- An undefined value that a group reads or is given (R248). -/
def Group.undef (g : Group) (place : Nat) : W32 := Config.freeMatrix g.own (g.seed * 2 ^ 64 + g.latchId) place

/-- Read lane `l` of vector register `n`: undefined in the lane's window of an operation (R248; DESIGN CHOICE, log 6). -/
def vRead (g : Group) (n l : Nat) : W32 :=
  if g.windows.any (fun w => has w.lanes l && w.hasReg n) then g.undef (32 * n + l) else vRaw g n l

/-- All lanes of a vector register. -/
def vRow (g : Group) (n : Nat) : List W32 := (List.range nLanes).map (vRaw g n)

/-- Every element of an accumulator becomes undefined (R248). -/
def undefAcc (g : Group) (a : Nat) : Group :=
  { g with accs := mput g.accs a ((List.range 128).map (fun e => g.undef (2 ^ 16 + 128 * a + e))) }

/-- The accumulators of a window become undefined, at once if its operation has completed and otherwise at its completion
(R248). -/
def spoil (g : Group) (hit : Window → Bool) : Group :=
  if g.windows.any hit then
    let g := (g.windows.filter (fun w => hit w && w.done)).foldl (fun g w => (List.range w.nt).foldl (fun g i => undefAcc g (w.acc + i)) g) g
    { g with windows := g.windows.map (fun w => if hit w then { w with spoilt := true } else w) }
  else g

/-- Write lane `l` of vector register `n`, which clears an error standing there (R424). -/
def vWrite (g : Group) (n l : Nat) (x : W32) : Group :=
  let g := spoil g (fun w => has w.lanes l && w.hasReg n)
  { g with
    v := mput g.v n ((vRow g n).set l x)
    regErrs := g.regErrs.filter (fun e => !(e.array == 1 && e.reg == n && e.lane == l)) }

/-- Read and write a uniform register, zero until written (R41). -/
def uRead (g : Group) (n : Nat) : W32 := mval g.u 0#32 n
def uWrite (g : Group) (n : Nat) (x : W32) : Group :=
  { g with u := mput g.u n x, regErrs := g.regErrs.filter (fun e => !(e.array == 2 && e.reg == n)) }

/-- Read and write a predicate of a lane (R42). -/
def pRead (g : Group) (n l : Nat) : Bool := has (mval g.p 0#32 n) l
def pWrite (g : Group) (n l : Nat) (b : Bool) : Group :=
  let m := mval g.p 0#32 n
  { g with
    p := mput g.p n (if b then m ||| 1#32 <<< l else m &&& ~~~(1#32 <<< l))
    regErrs := g.regErrs.filter (fun e => !(e.array == 3 && e.reg == n && e.lane == l)) }

/-- Register pairs (R40). -/
def vRead64 (g : Group) (n l : Nat) : W64 := pair64 (vRead g n l) (vRead g (n + 1) l)
def uRead64 (g : Group) (n : Nat) : W64 := pair64 (uRead g n) (uRead g (n + 1))
def vWrite64 (g : Group) (n l : Nat) (x : W64) : Group := vWrite (vWrite g n l (lo32 x)) (n + 1) l (hi32 x)
def uWrite64 (g : Group) (n : Nat) (x : W64) : Group := uWrite (uWrite g n (lo32 x)) (n + 1) (hi32 x)

/-- What a tile's byte and an accumulator's element hold, free until written (DESIGN CHOICE, log 3). -/
def tileRaw (g : Group) (t b : Nat) : Byte :=
  match mget g.tiles t with
  | some bs => bs.getD b 0#8
  | none => Config.freeTile g.seed t b
def accRaw (g : Group) (a e : Nat) : W32 :=
  match mget g.accs a with
  | some es => es.getD e 0#32
  | none => Config.freeAcc g.seed a e
def accRow (g : Group) (a : Nat) : List W32 := (List.range 128).map (accRaw g a)

/-- Read an accumulator's element for a lane, or once for the group: undefined in a window (R248). -/
def accRead (g : Group) (a e : Nat) (lane : Option Nat) : W32 :=
  let open_ (w : Window) : Bool :=
    match lane with
    | some l => has w.lanes l
    | none => w.lanes != 0#32
  if g.windows.any (fun w => open_ w && w.hasAcc a) then g.undef (2 ^ 20 + 128 * a + e) else accRaw g a e

/-- Write some elements of an accumulator (R256, R257), spoiling a window it belongs to (R248). -/
def accWrite (g : Group) (a : Nat) (es : List W32) (elems : List Nat) : Group :=
  let g := { g with
    accs := mput g.accs a es, marks := g.marks &&& ~~~(1#32 <<< a)
    regErrs := g.regErrs.filter (fun e => !(e.array == 5 && e.reg == a && elems.contains e.lane)) }
  spoil g (fun w => w.lanes != 0#32 && w.hasAcc a)

/-- The guard of a word in a lane (R50). -/
def guardHolds (g : Group) (pg : BitVec 4) (pn : Bool) (l : Nat) : Bool := pg == 15#4 || (pRead g pg.toNat l != pn)

/-- CL of a single-form word (R78). -/
def clOf (g : Group) (c : Ctx) (pg : BitVec 4) (pn : Bool) : Mask :=
  maskBy (fun l => has c.mask l && guardHolds g pg pn l)

/-! ### Latches (R60 to R62) -/

/-- Push an entry (R60). -/
def pushLatch (g : Group) (full : Bool) (vals : SMap W64) : Group :=
  { g with latches := (⟨g.latchId, full, vals⟩ :: g.latches).take 4, latchId := g.latchId + 1 }

/-- Whether a latch can be read (R62). -/
def latchReady (g : Group) (q : Nat) : Bool :=
  match g.latches[q]? with
  | some e => e.full
  | none => false

/-- A lane's value of a latch (R62). -/
def latchRead (g : Group) (q l : Nat) : W64 :=
  match g.latches[q]? with
  | some e => mval e.vals 0#64 l
  | none => 0#64

/-- A lane's late value of an entry, if the entry is still in the queue (R60). -/
def latchFill (g : Group) (id l : Nat) (x : W64) : Group :=
  { g with latches := g.latches.map (fun e => if e.id = id then { e with vals := mput e.vals l x } else e) }

/-- Empty the latch queue (R61). -/
def emptyLatches (g : Group) : Group := { g with latches := [], latchLost := false }

/-! ### Reports (R399, R400) -/

/-- The 16 bytes of an event record (R399). -/
def EvRec.bytes (e : EvRec) : List Byte :=
  leBytes 2 e.sub ++ leBytes 2 (e.index % 2 ^ 12 + 2 ^ 12 * (e.kind % 16)) ++ leBytes 4 (2 ^ 8 * (e.world % 2 ^ 10) +
    (if e.dev then 2 ^ 18 else 0) + 2 ^ 24 * e.cls) ++ leBytes 8 e.time

/-- Whether a frame lies in a valid extent of a world's allowance (R400). -/
def frameOwned (s : State) (w pa : Nat) : Bool :=
  s.spaces.any (fun p => p.2.world == w && p.2.exts.any (fun q => extHolds q.2 pa 4096))

/-- Write a record into a world's event queue frame, then COUNT (R400). -/
def worldRecord (s : State) (w : Nat) (e : EvRec) : State :=
  match mget s.worlds w with
  | none => s
  | some x =>
    let err := readError s w x.evFrame 4096
    if frameOwned s w x.evFrame && (err == .clean || err == .corrected) then
      let s := deviceWrite s w (x.evFrame + 0x40 + 16 * (x.count % 64)) e.bytes
      let s := deviceWrite s w x.evFrame (leBytes 8 (x.count + 1))
      { s with worlds := mput s.worlds w { x with count := x.count + 1 } }
    else s

/-- Report an event: to the host always, and to a world's event queue (R399, R400, R441). (DEDUCED, log 92.) -/
def report (s : State) (world : Option Nat) (cls kind index sub : Nat) : State :=
  let e : EvRec := ⟨s.clock, cls, world.isNone, world.getD 0, kind, index, sub⟩
  let s := { s with ctl := { s.ctl with events := e :: s.ctl.events } }
  match world with
  | some w => worldRecord s w e
  | none => s

/-- Count a corrected error; every 256th of a unit and array is reported as CORRECTED (R426, R438). -/
def noteCorrection (s : State) (world : Option Nat) (kind index sub : Nat) : State :=
  let key := (kind, index, sub)
  let n := ((s.ctl.corrections.find? (fun p => p.1 == key)).map (·.2)).getD 0 + 1
  let rest := s.ctl.corrections.filter (fun p => !(p.1 == key))
  if n = 256 then report { s with ctl := { s.ctl with corrections := rest } } world 0x50 kind index sub
  else { s with ctl := { s.ctl with corrections := (key, n) :: rest } }

/-! ### Queues that stop (R343, R361) -/

/-- Change a queue that is mapped. -/
def onQueue (s : State) (fe slot : Nat) (f : Queue → Queue) : State :=
  { s with frontEnds := mupd s.frontEnds fe (fun x => { x with slots := mupd x.slots slot f }) }

/-- The queue in a slot. -/
def queueAt (s : State) (fe slot : Nat) : Option Queue := (mget s.frontEnds fe).bind (fun x => mget x.slots slot)

/-- The teams of a queue's context (R368). -/
def contextTeams (s : State) (fe slot : Nat) : List (Nat × Team) :=
  s.teams.filter (fun p => p.2.fe == fe && p.2.slot == slot)

/-- Stop issue in every group of a set of teams, in one core clock (R368). -/
def stopIssue (s : State) (tids : List Nat) : State :=
  { s with groups := s.groups.map (fun p => if tids.contains p.2.team then (p.1, { p.2 with stopped := true }) else p) }

/-- A queue's STATUS CODE becomes non-zero on account of packet `index`: it starts nothing more, and the work of that packet and of
every later one stops, to be reset (R343, R378). The first code stands, unless an earlier packet fails afterwards. (DEDUCED, log 62.) -/
def stopQueue (s : State) (fe slot code sub index : Nat) : State :=
  match queueAt s fe slot with
  | none => s
  | some q =>
    if q.code ≠ 0 && q.failAt ≤ index then s
    else
      let s := onQueue s fe slot (fun q => { q with code := code, sub := sub, failAt := index, stopping := .reset })
      stopIssue s (((contextTeams s fe slot).filter (fun p => decide (index ≤ p.2.packet))).map (·.1))

/-! ### Taking a trap (R360, R361) -/

/-- Whether a queue has stopped on account of a packet or an earlier one. -/
def hasStopped (s : State) (fe slot index : Nat) : Bool :=
  match queueAt s fe slot with
  | some q => q.code != 0 && decide (q.failAt ≤ index)
  | none => false

/-- Stop the context of a group: a cause with no handler, or within a handler (R361). The stop is reported once (R441).
(DEDUCED, log 63.) -/
def stopContext (s : State) (gid : Nat) (c : Cause) : State :=
  match mget s.groups gid with
  | none => s
  | some g =>
    match mget s.teams g.team with
    | none => s
    | some t =>
      if hasStopped s t.fe t.slot t.packet then s
      else report (stopQueue s t.fe t.slot 4 t.sub t.packet) (some t.world) 0x75 4 g.core (c.code + 2 ^ 8 * (g.num % 128))

/-- The accesses of a group that wait on a sector, but for those of some lanes: a lane that leaves its wait starts its instruction
afresh (R33, R360). The stores of a twin pair, for which no lane waits, stay (R164). -/
def dropWaits (T : Mask) (ws : List SpAccess) : List SpAccess :=
  ws.filterMap (fun x =>
    if x.mask = 0#32 then some x
    else if x.mask &&& ~~~T = 0#32 then none
    else some { x with mask := x.mask &&& ~~~T })

/-- Handler entry for the lanes of `T` (R360). -/
def enterHandler (g : Group) (c : Cause) (T : Mask) (tpc taddr tinfo : W64) : Group :=
  let g := emptyLatches { g with
    trap := { g.trap with cause := BitVec.ofNat 8 c.code, lanes := T, pc := tpc, addr := taddr, info := tinfo } }
  { g with
    spWaits := dropWaits T g.spWaits
    lanes := g.lanes.zipIdx.map (fun p =>
      let x := p.1
      if x.st = .exited then x
      else if has T p.2 then { x with pc := g.trap.handler, h := true, st := .active, wait := none }
      else if x.st = .active then { x with st := .parked }
      else x) }

/-- Take a cause (R360): with no handler, or with a lane already in one, the context stops. -/
def takeTrap (s : State) (gid : Nat) (c : Cause) (T : Mask) (tpc taddr tinfo : W64) : State :=
  match mget s.groups gid with
  | none => s
  | some g =>
    if g.trap.handler = 0#64 || g.inHandler ≠ 0#32 then stopContext s gid c
    else onGroup s gid (fun g => { enterHandler g c T tpc taddr tinfo with susp := [], resume := none })

/-- The end of a handler: every parked lane becomes active (R362). -/
def endHandler (g : Group) : Group :=
  if g.inHandler = 0#32 then emptyLatches (g.onLanes (g.inState .parked) (fun x => { x with st := .active })) else g

/-! ### Answering a consumed error (R417) -/

/-- Whether a launch keeps barrier images (R344, R414). -/
def Team.rollbacks (t : Team) : Bool := t.flags / 2 % 2 == 1

/-- The TINFO of a consumed error (R425). -/
def reasonInfo (r : Nat) : W64 := BitVec.ofNat 64 r

/-- Whether the interval of a team, or of the other team of its pair, is escaped (R417, R422). -/
def escapedPair (s : State) (t : Team) : Bool := t.escaped || ((t.mate.bind (mget s.teams)).map (·.escaped)).getD false

/-- What is to be done about an error consumed by a team: roll back (true), or discard the bundle, which stands once it is called for
(R417). Both teams of a pair answer (R422). -/
def setAnswer (s : State) (tids : List Nat) (b : Bool) : State :=
  let b := b && !tids.any (fun x => ((mget s.teams x).map (fun t => t.answer == some false)).getD false)
  stopIssue { s with teams := s.teams.map (fun p => if tids.contains p.1 then (p.1, { p.2 with answer := some b }) else p) } tids

/-- Answer an error of kind 0x30, 0x31 or 0x33 that a group consumed (R417): `opInterval` is the interval in which the failing
operation was issued. -/
def consumeError (s : State) (gid : Nat) (c : Cause) (T : Mask) (tpc taddr : W64) (reason opInterval : Nat) : State :=
  match mget s.groups gid with
  | none => s
  | some g =>
    match mget s.teams g.team with
    | none => s
    | some t =>
      let both := g.team :: t.mate.toList
      if !t.rollbacks then takeTrap s gid c T tpc taddr (reasonInfo reason)
      else if escapedPair s t || opInterval ≠ t.interval then setAnswer s both false
      else if t.retry < 2 then setAnswer s both true
      else takeTrap s gid c T tpc taddr (reasonInfo reason)

/-- An error that an engine consumed for a group, tied to no instruction (R358, R417): answered at once by a rollback or by
discarding the bundle, and otherwise taken when the group next issues. -/
def engineConsume (s : State) (gid : Nat) (c : Cause) (reason opInterval : Nat) : State :=
  match mget s.groups gid with
  | none => s
  | some g =>
    match mget s.teams g.team with
    | none => s
    | some t =>
      if t.rollbacks && (escapedPair s t || opInterval != t.interval || t.retry < 2) then
        consumeError s gid c g.live 0#64 0#64 reason opInterval
      else onGroup s gid (fun g => { g with errs := g.errs ++ [⟨c, reason, opInterval⟩] })

/-- The report that goes with a consumed error (R426, R438): class, unit kind and number, and SUB. -/
def reportConsumed (s : State) (gid : Nat) (cls kind index sub : Nat) : State :=
  match mget s.groups gid with
  | none => s
  | some g => report s ((mget s.teams g.team).map (·.world)) cls kind index sub

/-- An error of memory consumed by a group (R409, R417, R425, R426). -/
def consumeMemory (s : State) (gid : Nat) (e : UnitRead) (T : Mask) (tpc taddr : W64) (pa reason opInterval : Nat) : State :=
  match e with
  | .uncorrectable =>
    let s := if pa < hbmEnd then reportConsumed s gid 0x51 7 (stackOf pa) 0x12 else reportConsumed s gid 0x51 8 (cxlPort pa) 0x13
    consumeError s gid .uncorrectable T tpc taddr reason opInterval
  | .integrity => consumeError (reportConsumed s gid 0x52 7 (stackOf pa) 0) gid .integrity T tpc taddr reason opInterval
  | _ => s

/-! ### Fault injection (R424) -/

/-- Count an event of a class for FIJ; it fires at the COUNT-th, and FIJ's KIND is then 0. -/
def fijEvent (g : Group) (kind : Nat) : Group × Bool :=
  if slice g.fij.toNat 0 4 = kind then
    let n := g.fijCount + 1
    if n = slice g.fij.toNat 32 16 then ({ g with fij := g.fij &&& ~~~0xF#64, fijCount := n }, true)
    else ({ g with fijCount := n }, false)
  else (g, false)

/-! ### The undo log (R415) -/

/-- The bytes of a sector of a slot. -/
def spBytes (t : Team) (o n : Nat) : List Byte := memGetBytes t.sp o n

/-- Sectors of the log that a world's teams hold on a core, and the world's share of it (R415). -/
def undoUsed (s : State) (world core : Nat) : Nat :=
  ((s.teams.filter (fun p => p.2.world == world && p.2.core == core)).map (fun p => p.2.undo.length)).sum
def undoShare (s : State) (world core : Nat) : Nat :=
  128 * ((coreOf s core).bankWorld.filter (fun p => p.2 == world)).length

/-- Whether a sector of the slot, or of the barrier area, is logged already. -/
def loggedSlot (t : Team) (sec : Nat) : Bool :=
  t.undo.any (fun e => match e with | .slot n _ _ => n == sec | .area _ _ => false)
def loggedArea (t : Team) (sec : Nat) : Bool :=
  t.undo.any (fun e => match e with | .slot _ _ _ => false | .area n _ => n == sec)

/-- Put an entry in the log of a rollback team; a full share makes the interval escaped (R415). -/
def logEntry (s : State) (tid : Nat) (e : UndoEntry) : State :=
  match mget s.teams tid with
  | none => s
  | some t =>
    if !t.rollbacks || t.escaped then s
    else if undoUsed s t.world t.core < undoShare s t.world t.core then onTeam s tid (fun t => { t with undo := e :: t.undo })
    else onTeam s tid (fun t => { t with escaped := true })

/-- Log a sector of the slot before its first change in the interval. -/
def logSlot (s : State) (tid sec : Nat) : State :=
  match mget s.teams tid with
  | none => s
  | some t =>
    if loggedSlot t sec then s
    else logEntry s tid (.slot sec (spBytes t (32 * sec) 32) (!t.absent.contains sec))

/-- Log the barrier area's sector of an object before its first change in the interval. -/
def logArea (s : State) (tid obj : Nat) : State :=
  match mget s.teams tid with
  | none => s
  | some t =>
    let sec := obj / 2
    if loggedArea t sec then s else logEntry s tid (.area sec ((t.objs.drop (2 * sec)).take 2))

/-- An operation that escapes the team's interval (R207, R416). -/
def escape (s : State) (tid : Nat) : State := onTeam s tid (fun t => { t with escaped := true })

/-! ### The slot (R161, R163) -/

/-- Whether an offset lies in the scratchpad operand of an operation that a change of the byte makes undefined (R206): between the last
MSG and the completion, but for the landing of a copy that the start of the operation waits for (R241; DEDUCED, log 23). -/
def Conv.readsSp (v : Conv) (landing : Bool) (t : Nat) (o : Nat) : Bool :=
  (v.st == .busy || v.st == .armed && !landing) && decide (v.team = t) && v.shape.getLsbD 6 && decide (v.boff.toNat ≤ o) &&
    decide (o < v.bEnd)

/-- Whether a window's scratchpad operand meets bytes of the slot. -/
def Window.meetsSp (w : Window) (o n : Nat) : Bool := decide (w.slo < o + n) && decide (o < w.shi)

/-- The tiles and columns of the accumulators that a byte of the slot feeds, as an element of B or as a scale (R237, R238). -/
def Window.columns (w : Window) (o : Nat) : List (Nat × Nat) :=
  if o < w.slo || w.shi ≤ o then []
  else if o < w.slo + w.nt * w.k * w.wB then
    let b := o - w.slo
    let r := b % (w.k * w.wB)
    let p := b / (w.k * w.wB)
    if w.wB = 4 then [(p, 2 * r % 8), (p, (2 * r + 1) % 8)] else [(p, 8 * r / w.wB % 8)]
  else if w.sboff ≤ o then [((o - w.sboff) / 8 / w.kbb, (o - w.sboff) % 8)]
  else []

/-- The accumulator elements of a window that some bytes of the slot feed become undefined (R206). (DEDUCED, log 117.) -/
def spoilColumns (g : Group) (w : Window) (offs : List Nat) : Group :=
  let cols := (offs.flatMap w.columns).eraseDups
  { g with accs := (cols.map (·.1)).eraseDups.foldl (fun m p =>
      mput m (w.acc + p) ((accRow g (w.acc + p)).zipIdx.map (fun x =>
        if cols.contains (p, x.2 % 8) then g.undef (2 ^ 16 + 128 * (w.acc + p) + x.2) else x.1))) g.accs }

/-- The lanes of a member group whose window for the operation of another's is open. -/
def openLanes (s : State) (gid : Nat) (w : Window) : Mask :=
  match (mget s.groups gid).bind (fun g => g.windows.find? (fun x => x.cv == w.cv && x.phase == w.phase && x.done)) with
  | some x => x.lanes
  | none => 0#32

/-- Whether a store by some lanes of a group comes after an MWT that has observed the completion of a window's operation (R206, R246):
a member lane's own MWT; for any other agent, the MWT of some member lane. (DEDUCED, log 53.) -/
def mwtBefore (s : State) (w : Window) (by_ : Option (Nat × Mask)) : Bool :=
  let own := match by_ with
    | some (gid, m) => if w.peers.contains gid && m &&& w.lmask != 0#32 then some (openLanes s gid w &&& m) else none
    | none => none
  match own with
  | some m => m == 0#32
  | none => w.peers.any (fun gid => openLanes s gid w != w.lmask)

/-- Bytes of the slot change by a store of some lanes or by a copy: each sector is logged first (R415); an operation that reads the
bytes is marked, and one whose completion no MWT has observed has undefined accumulators where the bytes feed them (R206). -/
def spChange (s : State) (landing : Bool) (by_ : Option (Nat × Mask)) (tid o : Nat) (bs : List Byte) : State :=
  if bs.isEmpty then s
  else
    let secs := (List.range ((o + bs.length - 1) / 32 - o / 32 + 1)).map (· + o / 32)
    let s := secs.foldl (fun s sec => logSlot s tid sec) s
    let offs := (List.range bs.length).map (· + o)
    let s := if s.convs.any (fun p => offs.any (p.2.readsSp landing tid)) then
        { s with convs := s.convs.map (fun p => (p.1, { p.2 with stored := p.2.stored ++ offs.filter (p.2.readsSp landing tid) })) }
      else s
    let hit (w : Window) : Bool := w.done && w.meetsSp o bs.length && !mwtBefore s w by_
    let s := if s.groups.any (fun p => p.2.team == tid && p.2.windows.any hit) then
        { s with groups := s.groups.map (fun p =>
            if p.2.team = tid then (p.1, (p.2.windows.filter hit).foldl (fun g w => spoilColumns g w offs) p.2) else p) }
      else s
    -- a word of 8 bytes written whole holds no error any more (R411)
    let kept (w : Nat) : Bool := !(decide (o ≤ 8 * w) && decide (8 * w + 8 ≤ o + bs.length))
    onTeam s tid (fun t => { t with sp := memPutBytes t.sp o bs, spErrs := t.spErrs.filter kept, spSingle := t.spSingle.filter kept })

/-- A later store replaces bytes of the slot, with what was put before them. -/
def dropRels (lo n : Nat) (rs : List SpRel) : List SpRel := rs.filter (fun r => !(decide (lo ≤ r.lo) && decide (r.hi ≤ lo + n)))

/-- A store into the slot by some lanes of a group: until an MOFN the matrix unit need not read it (R202 n). -/
def spWrite (s : State) (by_ : Option (Nat × Mask)) (tid o : Nat) (bs : List Byte) : State :=
  let s := onTeam s tid (fun t =>
    { t with
      spClock := t.spClock + 1
      rels := dropRels o bs.length t.rels
      spRecent := ((List.range bs.length).map (· + o)).foldl (fun m a => mput m a (t.spClock + 1)) t.spRecent })
  spChange s false by_ tid o bs

/-- A copy lands in the slot: the unit waits for its presence bit instead (R241). -/
def spLand (s : State) (tid o : Nat) (bs : List Byte) : State :=
  let s := onTeam s tid (fun t =>
    { t with spRecent := t.spRecent.filter (fun p => !(decide (o ≤ p.1) && decide (p.1 < o + bs.length))) })
  spChange s true none tid o bs

/-- The places of a barrier object and of a presence bit among those that releases of a team mark. -/
def objPlace (o : Nat) : Nat := 2 ^ 32 + o
def presPlace (sec : Nat) : Nat := 2 ^ 33 + sec

/-- Clear a sector's presence bit (R163). -/
def clearPresence (s : State) (tid sec : Nat) : State :=
  let s := logSlot s tid sec
  onTeam s tid (fun t =>
    { t with absent := if t.absent.contains sec then t.absent else sec :: t.absent, rels := dropRels (presPlace sec) 1 t.rels })

/-- The sectors that the XOPEN of a group fills. -/
def Group.opening (g : Group) : List Nat :=
  g.holds.flatMap (fun h => match h with
    | .crypt _ _ _ _ secs => secs
    | _ => [])

/-- The cryptographic step that a group is in. -/
def cryptOf (g : Group) : Option (Nat × W64 × List Byte × List (Nat × Nat × Nat) × List Nat) :=
  g.holds.findSome? (fun h => match h with
    | .crypt slot ctr data pieces secs => some (slot, ctr, data, pieces, secs)
    | _ => none)

/-- Whether an operation on a session slot is under way in some group (R403). -/
def slotBusy (s : State) (world slot : Nat) : Bool :=
  s.groups.any (fun p => ((mget s.teams p.2.team).map (·.world)) == some world && ((cryptOf p.2).map (·.1)) == some slot)

/-- Whether a copy into a sector is in flight (R163). -/
def copyInto (s : State) (tid sec : Nat) : Bool :=
  s.groups.any (fun p => p.2.team == tid && p.2.opening.contains sec) ||
  s.copies.any (fun p => p.2.team == tid &&
    match p.2.kind with
    | .acp _ _ _ _ _ => p.2.sec == sec
    | .bulk _ _ store _ _ _ sectors => !store && sectors.any (fun q => q.1 == sec))

/-- The sectors that bytes of the slot touch. -/
def sectorsOf (o n : Nat) : List Nat := if n = 0 then [] else (List.range ((o + n - 1) / 32 - o / 32 + 1)).map (· + o / 32)

/-! ### What releases and acquires within a team do (R166, R196, R198) -/

/-- The L1 of a world on a core is invalidated (R166). -/
def dropL1 (s : State) (core world : Nat) : State :=
  { s with cores := mupd s.cores core (fun c => { c with l1 := c.l1.filter (fun x => x.world != world) }) }

/-- An acquire at a scope by a thread of a core: at `.team` or wider its world's L1 is invalidated (R166, R175). -/
def acquireAt (s : State) (core world scope : Nat) : State := if scope = 0 || scope = 2 then s else dropL1 s core world

/-- What releases put before what stands at some places of a team. -/
def relsAt (t : Team) (lo n : Nat) : Before :=
  t.rels.flatMap (fun r => if decide (r.lo < lo + n) && decide (lo < r.hi) then r.after else [])

/-- A release marks some places with what comes first, as far as some agent does not see it yet. -/
def addRel (s : State) (tid lo n : Nat) (after : Before) : State :=
  let alive (p : Nat × BitVec 193) : Bool := s.writes.any (fun w => w.id == p.1)
  if after.any alive then
    onTeam s tid (fun t => { t with rels := ⟨lo, lo + n, after.filter alive⟩ :: t.rels.filter (fun r => r.after.any alive) })
  else s

/-- The cores on which a group of a team waits with a wait of some kind. -/
def waitingCores (s : State) (tid : Nat) (p : Wait → Bool) : List Nat :=
  ((s.groups.filter (fun q => q.2.team == tid && q.2.lanes.any (fun x => x.st == .blocked && (x.wait.map p).getD false))).map
    (fun q => q.2.core)).eraseDups

/-- Agents of some cores observe what releases marked at some places, as an acquire at `.team` (R198). -/
def observe (s : State) (tid lo n : Nat) (cores : List Nat) : State :=
  match mget s.teams tid with
  | none => s
  | some t => cores.foldl (fun s k => dropL1 (seeBefore s k (relsAt t lo n)) k t.world) s

/-! ### Phases (R31, R32, R210) -/

/-- Release a lane from its wait (R32): active at the next word, or parked while a handler it is not in runs (R360). -/
def releaseLane (handler : Bool) (x : Lane) : Lane :=
  { x with wait := none, pc := x.pc + 8#64, st := if handler && !x.h then .parked else .active }

/-- Release the lanes of a group whose wait satisfies a test. -/
def releaseWhere (g : Group) (p : Wait → Bool) : Group :=
  let hd := decide (g.inHandler ≠ 0#32)
  { g with lanes := g.lanes.map (fun x =>
      if x.st = .blocked then
        match x.wait with
        | some w => if p w then releaseLane hd x else x
        | none => x
      else x) }

/-- Release waits in every group of a team. -/
def releaseTeam (s : State) (tid : Nat) (p : Wait → Bool) : State :=
  { s with groups := s.groups.map (fun q => if q.2.team = tid then (q.1, releaseWhere q.2 p) else q) }

/-- The check for completion that follows an update (R210). -/
def Barrier.complete (b : Barrier) : Bool := b.v && decide (b.arrived ≥ b.expect) && b.landed == b.xbytes

/-- The object after a completion (R210). -/
def Barrier.next (b : Barrier) : Barrier :=
  { b with phase := (b.phase + 1) % 2 ^ 32, arrived := 0, landed := 0, xbytes := 0 }

/-- An empty object. -/
def Barrier.zero : Barrier := ⟨false, false, 0, 0, 0, 0, 0⟩

/-- Object `o` of a team. -/
def objAt (t : Team) (o : Nat) : Barrier := t.objs.getD o Barrier.zero

/-- One indivisible update of an object with the check for completion (R210); a completion is an acquire of those who wait for it
(R198), and one of object 0 ends the team's rollback interval once its image can be taken (R113, R414). -/
def updateObj (s : State) (tid o : Nat) (f : Barrier → Barrier) : State :=
  let s := logArea s tid o
  match mget s.teams tid with
  | none => s
  | some t =>
    let b := f (objAt t o)
    if b.complete then
      let s := onTeam s tid (fun t =>
        { t with objs := t.objs.set o b.next, imageWait := t.imageWait || (decide (o = 0) && t.rollbacks) })
      let p (w : Wait) : Bool :=
        match w with
        | .barrier n ph _ => n == o && ph == b.phase
        | _ => false
      releaseTeam (observe s tid (objPlace o) 1 (waitingCores s tid p)) tid p
    else onTeam s tid (fun t => { t with objs := t.objs.set o b })

/-- An arrival (R209, R210): ARRIVED saturates at 8,191. -/
def Barrier.arrive (b : Barrier) : Barrier := { b with arrived := min (b.arrived + 1) 8191 }

/-- A credit of landed bytes (R210). -/
def Barrier.credit (n : Nat) (b : Barrier) : Barrier := { b with landed := (b.landed + n) % 2 ^ 32 }

/-- Set a sector's presence bit, the change logged; the waiting accesses are performed by the caller (R163). -/
def setPresence (s : State) (tid sec : Nat) : State :=
  let s := logSlot s tid sec
  onTeam s tid (fun t => { t with absent := t.absent.filter (fun x => x != sec) })

/-! ### The barrier image (R414) -/

/-- Whether an operation of a team is BUSY (R414). -/
def teamBusy (s : State) (tid : Nat) : Bool := s.convs.any (fun p => p.2.team == tid && p.2.st == .busy)

/-- The granules that RGIVE freed and that a rollback team kept reserved return at the interval's end (R416). -/
def newInterval (s : State) (tid : Nat) : State :=
  let gs := s.groups.filter (fun p => p.2.team == tid)
  onTeam s tid (fun t =>
    { t with
      interval := t.interval + 1, escaped := false, undo := [], imageErrs := [], landings := [], reserved := [], imageWait := false
      imageGroups := if t.rollbacks then gs.map (fun p => (p.1, emptyLatches { p.2 with pairCount := 0, acqCount := 0, acqVals := [] })) else []
      imagePool := t.pool, imageClaims := t.claims
      imageConvs := if t.rollbacks then s.convs.filter (fun p => p.2.team == tid && (p.2.st == .opened || p.2.st == .armed)) else [] })

/-- Change a group of the image of its team's interval: what an operation issued before the interval leaves in a group belongs to the
image as well, so that a rollback keeps it (R418). -/
def onImage (s : State) (gid : Nat) (p : Group → Bool) (f : Group → Group) : State :=
  match mget s.groups gid with
  | none => s
  | some g => onTeam s g.team (fun t => { t with imageGroups := t.imageGroups.map (fun q => if q.1 = gid && p q.2 then (q.1, f q.2) else q) })

/-- Take the image of a team whose phase of object 0 has completed, once no operation of it is BUSY and, in twin mode, every
entry of the interval is performed; a divergence mark is charged to the ending interval first (R414, R422). -/
def takeImage (s : State) (tid : Nat) : State :=
  match mget s.teams tid with
  | none => s
  | some t =>
    if !t.imageWait || t.answer.isSome || teamBusy s tid || s.cmps.any (fun e => e.pair == tid || t.mate == some e.pair) then s
    else
      match s.groups.find? (fun p => p.2.team == tid && p.2.marks != 0#32) with
      | some p =>
        let s := consumeError s p.1 .shadowDivergence p.2.live (p.2.lane ((lanesOf p.2.live).headD 0)).pc 0#64 0x06 t.interval
        -- a rollback or a discarded bundle takes no image; where the cause is taken, the image is taken after it
        if ((mget s.teams tid).map (fun t => t.answer.isSome)).getD true then onTeam s tid (fun t => { t with imageWait := false }) else image s
      | none => image s
where
  /-- The image is taken, and the retry count starts anew. -/
  image (s : State) : State :=
    let s := newInterval s tid
    let s := { s with groups := s.groups.map (fun q => if q.2.team = tid then (q.1, { q.2 with pairCount := 0, acqCount := 0, acqVals := [] }) else q) }
    onTeam s tid (fun t => { t with retry := 0 })

/-- Take every image that can be taken. -/
def takeImages (s : State) : State :=
  (s.teams.filter (fun p => p.2.imageWait)).foldl (fun s p => takeImage s p.1) s

/-! ### The end of an issue -/

/-- Advance the lanes of a set past the word (R25, R100). -/
def advance (g : Group) (m : Mask) : Group := g.onLanes m (fun x => { x with pc := x.pc + 8#64 })

/-- The queue is emptied after the word if another group issued while the word was suspended (R61). -/
def settleLatches (g : Group) : Group := if g.latchLost then emptyLatches g else g

/-- The word has issued: its latch entry enters the queue, the lanes of ISSUE stand at the next word, and a completed phase's
image is taken (R60, R25). -/
def endWord (s : State) (c : Ctx) (g : Group) (full : Bool) (vals : SMap W64) : State :=
  let g := settleLatches (pushLatch { g with susp := [], resume := none } full vals)
  takeImages { s with groups := mput s.groups c.gid (advance g c.mask) }

/-- The word of an issue: what it needs to find the group and the team. Without an issue under way nothing happens
(DESIGN CHOICE, log 5). -/
def withWord (s : State) (k : State → Ctx → Group → Team → State) : State :=
  match s.cur with
  | .word c =>
    let s' := { s with cur := .idle }
    match mget s.groups c.gid with
    | none => s'
    | some g =>
      match mget s.teams g.team with
      | none => s'
      | some t => k s' c g t
  | _ => s

end Sys2Proof.Machine
end

