-- ==== Sys2Proof/Machine/Operands.lean ====
section
/-! DEFINITION. The operand forms of the words (R49 to R56, R62, R79, R80), the checks made at issue (R66), and the issue of a
word that computes lane by lane or once for the group (R54, R77, R78, R81, R131, R132). -/

namespace Sys2Proof.Machine

/-- An operand of a word: a vector register or pair, a uniform register or pair, a latch, an immediate, or nothing. -/
inductive Opnd where
  | v (n : Nat) (wide : Bool)
  | u (n : Nat) (wide : Bool)
  | q (n : Nat) (wide : Bool)
  | imm (x : Nat)
  | none
deriving DecidableEq, Repr

/-- The operand that a field names with its U bit, LQ bit and width (R53, R62). -/
def opnd (f : SForm) (field : BitVec 8) (ubit lq wide : Bool) : Opnd :=
  if lq then .q (field.toNat % 4) wide else if ubit then .u (uni f field) wide else .v field.toNat wide

/-- Sources A, B and C of the ALU layout (R53). -/
def srcA (f : SForm) (wide : Bool) : Opnd := opnd f f.a (fnBit f 9) (lqA f) wide
def srcB (f : SForm) (wide : Bool) : Opnd := opnd f f.b (fnBit f 8) (lqB f) wide
def srcC (f : SForm) (wide : Bool) : Opnd := opnd f f.c (fnBit f 7) (lqC f) wide

/-- The value of an operand in a lane, as a number. -/
def Opnd.read (o : Opnd) (g : Group) (l : Nat) : Nat :=
  match o with
  | .v n wide => if wide then (vRead64 g n l).toNat else (vRead g n l).toNat
  | .u n wide => if wide then (uRead64 g n).toNat else (uRead g n).toNat
  | .q n wide => if wide then (latchRead g n l).toNat else (lo32 (latchRead g n l)).toNat
  | .imm x => x
  | .none => 0

/-- The latch that an operand reads. -/
def Opnd.latches : Opnd → List Nat
  | .q n _ => [n]
  | _ => []

/-- One more than the highest vector register that an operand names (R19, R40). -/
def Opnd.vtop : Opnd → Nat
  | .v n wide => n + (if wide then 2 else 1)
  | _ => 0

/-- The registers that an operand reads: array code of R438 and number. -/
def Opnd.regs : Opnd → List (Nat × Nat)
  | .v n wide => if wide then [(1, n), (1, n + 1)] else [(1, n)]
  | .u n wide => if wide then [(2, n), (2, n + 1)] else [(2, n)]
  | _ => []

/-- Where a word's result goes: a vector register or pair, a uniform register or pair, a predicate, nowhere. -/
inductive Dest where
  | v (n : Nat) (wide : Bool)
  | u (n : Nat) (wide : Bool)
  | p (n : Nat)
  | none
deriving DecidableEq, Repr

/-- The destination of the ALU layout (R53, R54). -/
def dstD (f : SForm) (wide : Bool) : Dest := if ud f then .u (uni f f.d) wide else .v f.d.toNat wide

/-- One more than the highest vector register that a destination names. -/
def Dest.vtop : Dest → Nat
  | .v n wide => n + (if wide then 2 else 1)
  | _ => 0

/-! ### The checks at issue (R66) -/

/-- What a word asks of its group at issue: whether its fields are found illegal only now, whether it lacks privilege, the
latches it reads, and one more than the highest vector register, tile, accumulator and convergence register it names. -/
structure Needs where
  illegal : Bool := false
  priv : Bool := false
  latches : List Nat := []
  vtop : Nat := 0
  ttop : Nat := 0
  atop : Nat := 0
  cvtop : Nat := 0
deriving DecidableEq, Repr

/-- How many convergence registers a world sees on a core (R239). -/
def cvCount (s : State) (core world : Nat) : Nat :=
  let n := ((coreOf s core).subpWorld.filter (fun p => p.2 == world)).length
  if n = 1 then 1 else n / 2

/-- The cause that a word meets at issue: the lowest code (R66). -/
def issueCause (s : State) (g : Group) (t : Team) (n : Needs) : Option Cause :=
  if n.illegal then some .illegal
  else if n.priv then some .privilege
  else if n.latches.any (fun q => !latchReady g q) then some .staleLatch
  else if n.vtop > g.vcount || n.ttop > 4 * g.tgran || n.atop > 4 * g.agran || n.cvtop > cvCount s g.core t.world then
    some .regBudget
  else none

/-- The lanes of a set in which an access to some registers of a group meets a standing error (R411): those of the error's lane, or
every lane of the set for a register that the lanes share (R425). -/
def RegErr.lanesIn (e : RegErr) (m : Mask) (regs : List (Nat × Nat)) : Mask :=
  if regs.contains (e.array, e.reg) then (if e.array = 1 || e.array = 3 then m &&& 1#32 <<< e.lane else m) else 0#32

/-- The lanes in which some reads, each of a set of lanes and its registers, meet an error. -/
def RegErr.met (e : RegErr) (reads : List (Mask × List (Nat × Nat))) : Mask := reads.foldl (fun m r => m ||| e.lanesIn r.1 r.2) 0#32

/-- The single-bit errors that some reads of a group's registers meet are corrected and written back (R411, R426). -/
def correctRegs (s : State) (gid : Nat) (g : Group) (world : Nat) (reads : List (Mask × List (Nat × Nat))) : State × Group :=
  let meets (e : RegErr) : Bool := e.single && e.met reads != 0#32
  let g' := { g with regErrs := g.regErrs.filter (fun e => !meets e) }
  ((g.regErrs.filter meets).foldl (fun s e => noteCorrection s (some world) 4 g.core (e.array + 2 ^ 8 * g.subp))
    { s with groups := mput s.groups gid g' }, g')

/-- The uncorrectable errors that some reads of a group's registers meet (R411). -/
def Group.hardErrs (g : Group) (reads : List (Mask × List (Nat × Nat))) : List RegErr :=
  g.regErrs.filter (fun e => !e.single && e.met reads != 0#32)

/-- Some reads of a group's registers, each by a set of lanes: single-bit errors are corrected and written back, and an uncorrectable one
is consumed at the word (R411, R417, R425, R426); otherwise `k` goes on. -/
def readRegs (s : State) (c : Ctx) (g : Group) (t : Team) (reads : List (Mask × List (Nat × Nat))) (k : State → Group → State) : State :=
  if g.regErrs.isEmpty then k s g
  else
    let (s, g) := correctRegs s c.gid g t.world reads
    let hard := g.hardErrs reads
    match hard with
    | [] => k s g
    | e :: _ =>
      consumeError (reportConsumed s c.gid 0x51 4 g.core (e.array + 2 ^ 8 * g.subp)) c.gid .uncorrectable
        (hard.foldl (fun m e => m ||| e.met reads) 0#32) c.pc 0#64 0x01 t.interval

/-- The guard's predicate, as a register that a word reads in every lane of ISSUE. -/
def guardRegs (pg : BitVec 4) : List (Nat × Nat) := if pg = 15#4 then [] else [(3, pg.toNat)]

/-- Issue a word: the causes of R66 are raised in every lane of ISSUE; an error standing in a register or predicate that the word reads
is met (R411); otherwise `k` gives the effect on the lanes of CL. -/
def issueWord (s : State) (pg : BitVec 4) (pn : Bool) (n : Needs) (regs : List (Nat × Nat))
    (k : State → Ctx → Group → Team → Mask → State) : State :=
  withWord s fun s c g t =>
    match issueCause s g t n with
    | some x => takeTrap s c.gid x c.mask c.pc 0#64 0#64
    | none =>
      let cl := clOf g c pg pn
      readRegs s c g t [(cl, regs), (c.mask, guardRegs pg)] fun s g => k s c g t cl

/-! ### Lane-by-lane operations -/

/-- How the results of a word are checked (R132): not at all; by duplicate evaluation; or under R131, as values of a format at some bit
positions of the register, each on its own. -/
inductive Check where
  | none
  | duplicate
  | shadow (f : Fmt) (at_ : List Nat)
deriving DecidableEq, Repr

/-- Whether a result with an upset passes the check (R131, R132). The shadow unit and the duplicate evaluation give the result that the
instruction defines (DESIGN CHOICE, log 9). -/
def Check.passes (c : Check) (main right : Nat) : Bool :=
  match c with
  | .none => true
  | .duplicate => main == right
  | .shadow f at_ => at_.all (fun p => f.passes 4 (main / 2 ^ p % 2 ^ f.width) (right / 2 ^ p % 2 ^ f.width))

/-- An operation computed in each lane, or once for the group: its operands, the predicates that it reads, where the result and a
predicate go, how it is checked (R132), and the function from the operands read. -/
structure Alu where
  a : Opnd := .none
  b : Opnd := .none
  c : Opnd := .none
  ps : List Nat := []
  dst : Dest
  pd : Option Nat := none
  check : Check := .none
  illegal : Bool := false
  fn : Group → Nat → Nat → Nat → Nat → Nat × Bool

/-- Write a result of a lane. -/
def putLane (g : Group) (d : Dest) (l x : Nat) : Group :=
  match d with
  | .v n wide => if wide then vWrite64 g n l (BitVec.ofNat 64 x) else vWrite g n l (BitVec.ofNat 32 x)
  | .u n wide => if wide then uWrite64 g n (BitVec.ofNat 64 x) else uWrite g n (BitVec.ofNat 32 x)
  | _ => g

/-- The value that a result gives a latch entry (R60): zero-extended. -/
def latchVal (d : Dest) (x : Nat) : W64 :=
  match d with
  | .v _ wide => BitVec.ofNat 64 (if wide then x else x % 2 ^ 32)
  | .u _ wide => BitVec.ofNat 64 (if wide then x else x % 2 ^ 32)
  | _ => 0#64

/-- Whether a destination is a register that a latch entry records. -/
def Dest.isReg : Dest → Bool
  | .v _ _ => true
  | .u _ _ => true
  | _ => false

/-- Whether an operation executes once for the group (R54): its register destination is uniform, or it is told so. -/
def Dest.uniform : Dest → Bool
  | .u _ _ => true
  | _ => false

/-- The registers and predicates that an operation reads. -/
def Alu.regs (o : Alu) : List (Nat × Nat) := o.a.regs ++ o.b.regs ++ o.c.regs ++ o.ps.map (fun n => (3, n))

/-- What an operation needs at issue. -/
def Alu.needs (o : Alu) : Needs :=
  { illegal := o.illegal, latches := o.a.latches ++ o.b.latches ++ o.c.latches
    vtop := max (max o.a.vtop o.b.vtop) (max o.c.vtop o.dst.vtop) }

/-- The result of an operation in a lane, its operands read as they were before the word. -/
def Alu.eval (o : Alu) (g : Group) (l : Nat) : Nat × Bool := o.fn g l (o.a.read g l) (o.b.read g l) (o.c.read g l)

/-- Effects in the lanes of CL (R77, R78): the register unless NW, the predicate, and the values of the latch entry. -/
def aluLanes (o : Alu) (nw : Bool) (g : Group) (cl : Mask) : Group × SMap W64 :=
  let rs := (lanesOf cl).map (fun l => (l, o.eval g l))
  let g' := rs.foldl (fun (x : Group) (r : Nat × Nat × Bool) =>
    let x := if nw then x else putLane x o.dst r.1 r.2.1
    match o.dst, o.pd with
    | .p n, _ => pWrite x n r.1 r.2.2
    | _, some n => pWrite x n r.1 r.2.2
    | _, none => x) g
  (g', rs.map (fun r => (r.1, latchVal o.dst r.2.1)))

/-- Effect of one execution for the group (R54): the uniform register once, a predicate in every lane of ISSUE, the result in
every lane of the latch entry (R60). -/
def aluOnce (o : Alu) (nw : Bool) (g : Group) (issue : Mask) : Group × SMap W64 :=
  let r := o.eval g 0
  let g := if nw then g else putLane g o.dst 0 r.1
  let g := match o.dst, o.pd with
    | .p n, _ => (lanesOf issue).foldl (fun g l => pWrite g n l r.2) g
    | _, some n => (lanesOf issue).foldl (fun g l => pWrite g n l r.2) g
    | _, none => g
  (g, (List.range nLanes).map (fun l => (l, latchVal o.dst r.1)))

/-- Whether the destination of an operation is a vector register that is written. -/
def Alu.writesVector (o : Alu) (nw : Bool) : Bool :=
  match o.dst with
  | .v _ _ => !nw
  | _ => false

/-- The error that FIJ kind 2 leaves in the first register written, in the lowest lane of CL (R424). -/
def markWrite (g : Group) (reg : Nat) (cl : Mask) : Group :=
  { g with regErrs := ⟨1, reg, (lanesOf cl).headD 0, false⟩ :: g.regErrs }

/-- The number of a register destination. -/
def Dest.num : Dest → Nat
  | .v n _ => n
  | .u n _ => n
  | .p n => n
  | .none => 0

/-- A word that diverges under the shadow check writes nothing in any lane (R131, R132, R413). -/
def diverge (s : State) (c : Ctx) (g : Group) (t : Team) (cl : Mask) : State :=
  let s := { s with groups := mput s.groups c.gid g }
  consumeError (reportConsumed s c.gid 0x53 4 g.core g.subp) c.gid .shadowDivergence cl c.pc 0#64 0x05 t.interval

/-- The main unit's result of an operation in a lane whose unit an upset strikes: the bits of a register result flipped, or the
predicate. -/
def Alu.struck (o : Alu) (upset : Nat) (r : Nat × Bool) : Nat × Bool :=
  match o.dst with
  | .v _ wide => (r.1 ^^^ upset % 2 ^ (if wide then 64 else 32), r.2)
  | .u _ wide => (r.1 ^^^ upset % 2 ^ (if wide then 64 else 32), r.2)
  | _ => (r.1, r.2 != (upset % 2 == 1))

/-- An operation as the main units compute it, some of which upsets strike. -/
def Alu.upset (o : Alu) (strikes : SMap W64) : Alu :=
  { o with fn := fun g l a b c => o.struck (mval strikes 0#64 l).toNat (o.fn g l a b c) }

/-- The lanes whose results fail their check (R131, R132): a predicate is compared as a number. -/
def Alu.failing (o : Alu) (g : Group) (strikes : SMap W64) (ls : List Nat) : Mask :=
  maskOf (ls.filter (fun l =>
    let r := (o.upset strikes).eval g l
    let q := o.eval g l
    r.2 != q.2 || !o.check.passes r.1 q.1))

/-- The results of an operation are written in the lanes of CL, with fault injection (R424). -/
def writeLanes (o : Alu) (once nw : Bool) (s : State) (c : Ctx) (g : Group) (cl : Mask) : State :=
  let (g, bad) := if o.writesVector nw then fijEvent g 2 else (g, false)
  let (g, vals) := if once then aluOnce o nw g c.mask else aluLanes o nw g cl
  endWord s c (if bad then markWrite g o.dst.num cl else g) o.dst.isReg vals

/-- The effect of an operation on the lanes of CL: its results are checked, with the upsets that strike them and fault injection
(R131, R132, R424). A word with a failing lane writes nothing; one that passes writes what the main units computed. -/
def runLanes (o : Alu) (once nw : Bool) (s : State) (c : Ctx) (g : Group) (t : Team) (cl : Mask) : State :=
  if cl = 0#32 then endWord s c g o.dst.isReg []
  else if o.check = .none then writeLanes o once nw s c g cl
  else
    let (g, div) := fijEvent g 1
    if div then diverge s c g t cl
    else if g.strikes.isEmpty then writeLanes o once nw s c g cl
    else
      let bad := o.failing g g.strikes (if once then [0] else lanesOf cl)
      let g' := { g with strikes := [] }
      if bad ≠ 0#32 then diverge s c g' t (if once then cl else bad) else writeLanes (o.upset g.strikes) once nw s c g' cl

/-- The end of a word whose result is a number per lane, or one for the group (R54, R60, R424). -/
def endResult (s : State) (c : Ctx) (g : Group) (cl : Mask) (d : Dest) (once nw : Bool) (x : Nat → Nat) : State :=
  if cl = 0#32 then endWord s c g d.isReg []
  else
    let (g, bad) := if !nw && d.isReg && !d.uniform then fijEvent g 2 else (g, false)
    let g' := if nw then g else if once then putLane g d 0 (x 0) else (lanesOf cl).foldl (fun g l => putLane g d l (x l)) g
    let vals := (if once then List.range nLanes else lanesOf cl).map (fun l => (l, latchVal d (x (if once then 0 else l))))
    endWord s c (if bad then markWrite g' d.num cl else g') d.isReg vals

/-- Issue a single-form ALU word (R53, R54, R77): with UD = 1 it executes once for the group if CL is not empty. -/
def runAlu (f : SForm) (o : Alu) (s : State) : Out :=
  .next (issueWord s f.pg f.pn o.needs o.regs (runLanes o (ud f) f.nw))

/-- Issue an immediate-form word (R55). -/
def runAluI (f : SIForm) (o : Alu) (s : State) : Out :=
  .next (issueWord s f.pg f.pn o.needs o.regs (runLanes o f.ud false))

/-! ### Pair words (R56 to R59) -/

/-- The guard of a slot in a lane (R56): 7 is unguarded. -/
def slotGuard (g : Group) (f : PSlot) (l : Nat) : Bool := f.pg3 == 7#3 || pRead g f.pg3.toNat l

/-- What a slot of the word at hand computes, in its lanes, from the registers as they were before the word. -/
def slotResult (f : PSlot) (fn : Nat → Nat → Nat) (g : Group) (c : Ctx) : Nat × Mask × SMap W32 :=
  let m := maskBy (fun l => has c.mask l && slotGuard g f l)
  (f.d.toNat, m, (lanesOf m).map (fun l =>
    (l, BitVec.ofNat 32 (fn (vRead g f.d.toNat l).toNat (vRead g f.a.toNat l).toNat))))

/-- Write a slot's result. -/
def putSlot (g : Group) (r : Option (Nat × Mask × SMap W32)) : Group :=
  match r with
  | some (d, _, vals) => vals.foldl (fun g p => vWrite g d p.1 p.2) g
  | none => g

/-- The latch values of a slot's result. -/
def slotVals (r : Option (Nat × Mask × SMap W32)) : SMap W64 :=
  match r with
  | some (_, _, vals) => vals.map (fun p => (p.1, p.2.setWidth 64))
  | none => []

/-- The lanes in which a slot's result is written. -/
def slotMask (r : Option (Nat × Mask × SMap W32)) : Mask :=
  match r with
  | some (_, m, _) => m
  | none => 0#32

/-- The end of a pair word: both results written, and FIJ kind 2 counted once for the word (R57, R424). -/
def putPair (g : Group) (r0 r1 : Option (Nat × Mask × SMap W32)) : Group :=
  let cl := slotMask r0 ||| slotMask r1
  let (g, bad) := if cl = 0#32 then (g, false) else fijEvent g 2
  let g := putSlot (putSlot g r0) r1
  match r0.or r1 with
  | some (d, _, _) => if bad then markWrite g d cl else g
  | none => g

/-- A slot's result once upsets have struck it, and the lanes whose results fail their check (R131, R132). -/
def strikeSlot (check : Check) (g : Group) (r : Option (Nat × Mask × SMap W32)) : Option (Nat × Mask × SMap W32) × Mask :=
  match r with
  | none => (none, 0#32)
  | some (d, m, vals) =>
    let main (p : Nat × W32) : W32 := p.2 ^^^ (mval g.strikes 0#64 p.1).setWidth 32
    (some (d, m, vals.map (fun p => (p.1, main p))),
      maskOf ((vals.filter (fun p => !check.passes (main p).toNat p.2.toNat)).map (·.1)))

/-- Run one slot of a pair word (R57): slot 0's result is kept until slot 1's is known; both are then written, and two latch
entries pushed, slot 0's first (R60). `r` is none for a slot NOP. A checked slot with a failing lane ends the word, which writes
nothing (R132); upsets strike the first checked slot. -/
def runSlot (check : Check) (r : Group → Ctx → Option (Nat × Mask × SMap W32)) (s : State) : Out :=
  match s.cur with
  | .pair c slot r0 =>
    let idle := { s with cur := .idle }
    match mget s.groups c.gid with
    | none => .next idle
    | some g =>
      if check = .none || g.strikes.isEmpty then .next (finish idle c slot r0 g (r g c))
      else
        let x := strikeSlot check g (r g c)
        let g' := { g with strikes := [] }
        if x.2 ≠ 0#32 then
          match mget s.teams g.team with
          | none => .next idle
          | some t => .next (diverge idle c g' t x.2)
        else .next (finish { idle with groups := mput s.groups c.gid g' } c slot r0 g' x.1)
  | _ => .next s
where
  /-- Keep slot 0's result, or write both. -/
  finish (s : State) (c : Ctx) (slot : Nat) (r0 : Option (Nat × Mask × SMap W32)) (g : Group) (r : Option (Nat × Mask × SMap W32)) : State :=
    if slot = 0 then { s with cur := .pair c 1 r }
    else endWord s c (pushLatch (putPair g r0 r) r0.isSome (slotVals r0)) r.isSome (slotVals r)

/-- A slot that computes D := fn D A (R57, R59), checked or not. -/
def runSlotOp (f : PSlot) (fn : Nat → Nat → Nat) (s : State) : Out := runSlot .none (fun g c => some (slotResult f fn g c)) s
def runSlotFp (check : Check) (f : PSlot) (fn : Nat → Nat → Nat) (s : State) : Out :=
  runSlot check (fun g c => some (slotResult f fn g c)) s

end Sys2Proof.Machine
end

