-- ==== Sys2Proof/Machine/Integer.lean ====
section
/-! DEFINITION. The meanings of the integer, logic, shift, bit-field, compare, select, move and predicate instructions
(R83 to R99). -/

namespace Sys2Proof.Machine

/-- An operation of three values without a predicate result. -/
def plain (f : Nat → Nat → Nat → Nat) : Group → Nat → Nat → Nat → Nat → Nat × Bool := fun _ _ a b c => (f a b c, false)

/-- A two-source operation of width W that writes D. -/
def alu2 (f : SForm) (w : Bool) (fn : Nat → Nat → Nat) : Alu :=
  { a := srcA f w, b := srcB f w, dst := dstD f w, fn := plain (fun a b _ => fn a b) }

/-- A one-source operation, the source of width `ws` and the result of width `wd`. -/
def alu1 (f : SForm) (ws wd : Bool) (fn : Nat → Nat) : Alu :=
  { a := srcA f ws, dst := dstD f wd, fn := plain (fun a _ _ => fn a) }

/-- The carry or borrow in from predicate C with X (R83, R85). -/
def carryIn (f : SForm) (g : Group) (l : Nat) : Nat := if opx f 4 && pRead g f.c.toNat l then 1 else 0

/-- The predicate that an operation combines with its own (R83, R95, R139). -/
def carryReads (f : SForm) : List Nat := if opx f 4 then [f.c.toNat] else []
def cmbReads (f : SForm) : List Nat := if cmb f = 0 then [] else [f.c.toNat]

/-- IADD (R83 to R85). -/
def execIadd (f : SForm) (s : State) : Out :=
  runAlu f { a := srcA f (opx f 0), b := srcB f (opx f 0), dst := dstD f (opx f 0)
             ps := carryReads f, pd := if opx f 3 then some f.c.toNat else none
             fn := fun g l a b _ => opIadd (wOf (opx f 0)) (opx f 1) (opx f 2) a b (carryIn f g l) } s

/-- ISUB (R83 to R85). -/
def execIsub (f : SForm) (s : State) : Out :=
  runAlu f { a := srcA f (opx f 0), b := srcB f (opx f 0), dst := dstD f (opx f 0)
             ps := carryReads f, pd := if opx f 3 then some f.c.toNat else none
             fn := fun g l a b _ => opIsub (wOf (opx f 0)) (opx f 1) (opx f 2) a b (carryIn f g l) } s

/-- IADD3 (R83 to R85). -/
def execIadd3 (f : SForm) (s : State) : Out :=
  runAlu f { a := srcA f (opx f 0), b := srcB f (opx f 0), c := srcC f (opx f 0), dst := dstD f (opx f 0)
             fn := plain (opIadd3 (wOf (opx f 0)) (opx f 1) (opx f 2)) } s

/-- IMUL (R85). -/
def execImul (f : SForm) (s : State) : Out := runAlu f (alu2 f (opx f 0) (opImul (wOf (opx f 0)))) s

/-- IMAD (R83 to R85). -/
def execImad (f : SForm) (s : State) : Out :=
  runAlu f { a := srcA f (opx f 0), b := srcB f (opx f 0), c := srcC f (opx f 0 || opx f 5), dst := dstD f (opx f 0 || opx f 5)
             fn := plain (opImad (wOf (opx f 0)) (opx f 1) (opx f 5)) } s

/-- IMULH (R85). -/
def execImulh (f : SForm) (s : State) : Out := runAlu f (alu2 f (opx f 0) (opImulh (wOf (opx f 0)) (opx f 1))) s

/-- IMIN (R85). -/
def execImin (f : SForm) (s : State) : Out := runAlu f (alu2 f (opx f 0) (opImin (wOf (opx f 0)) (opx f 1))) s

/-- IMAX (R85). -/
def execImax (f : SForm) (s : State) : Out := runAlu f (alu2 f (opx f 0) (opImax (wOf (opx f 0)) (opx f 1))) s

/-- IABS (R85). -/
def execIabs (f : SForm) (s : State) : Out := runAlu f (alu1 f (opx f 0) (opx f 0) (opIabs (wOf (opx f 0)) (opx f 2))) s

/-- B complemented under NB (R86). -/
def nbOf (f : SForm) (b : Nat) : Nat := if opx f 1 then notW (wOf (opx f 0)) b else b

/-- AND (R86). -/
def execAnd (f : SForm) (s : State) : Out := runAlu f (alu2 f (opx f 0) (fun a b => a &&& nbOf f b)) s

/-- OR (R86). -/
def execOr (f : SForm) (s : State) : Out := runAlu f (alu2 f (opx f 0) (fun a b => a ||| nbOf f b)) s

/-- XOR (R86). -/
def execXor (f : SForm) (s : State) : Out := runAlu f (alu2 f (opx f 0) (fun a b => a ^^^ nbOf f b)) s

/-- TERN (R87). -/
def execTern (f : SForm) (s : State) : Out :=
  runAlu f { a := srcA f false, b := srcB f false, c := srcC f false, dst := dstD f false, fn := plain (opTern (fnField f 0 7)) } s

/-- LEA (R88). -/
def execLea (f : SForm) (s : State) : Out :=
  runAlu f { a := srcA f false, b := srcB f (opx f 5), dst := dstD f (opx f 5)
             fn := plain (fun a b _ => opLea (opx f 5) (opx f 6) (fnField f 0 5) a b) } s

/-- The destination and source A of an immediate form (R55). -/
def dstI (f : SIForm) (wide : Bool) : Dest := if f.ud then .u f.d.toNat wide else .v f.d.toNat wide
def srcI (f : SIForm) (wide : Bool) : Opnd := if f.ud then .u f.a.toNat wide else .v f.a.toNat wide

/-- MOVI (R89). -/
def execMovi (f : SIForm) (s : State) : Out :=
  runAluI f { dst := dstI f (f.f3 != 0#2)
              fn := fun _ _ _ _ _ => (if f.f3 = 1#2 then (sext 32 f.imm.toNat).toNat else f.imm.toNat, false) } s

/-- IADDI (R89). -/
def execIaddi (f : SIForm) (s : State) : Out :=
  runAluI f { a := srcI f (f.f3 == 1#2), dst := dstI f (f.f3 == 1#2)
              fn := plain (fun a _ _ =>
                if f.f3 = 1#2 then (a + (sext 32 f.imm.toNat).toNat) % 2 ^ 64 else (a + f.imm.toNat) % 2 ^ 32) } s

/-- A count operand: the field itself with IMM, else bits 7:0 of a 32-bit source (R90). -/
def countB (f : SForm) : Opnd := if opx f 2 then .imm f.b.toNat else srcB f false

/-- SHL (R90). -/
def execShl (f : SForm) (s : State) : Out :=
  runAlu f { a := srcA f (opx f 0), b := countB f, dst := dstD f (opx f 0)
             fn := plain (fun a n _ => opShl (wOf (opx f 0)) a (n % 256)) } s

/-- SHR (R90). -/
def execShr (f : SForm) (s : State) : Out :=
  runAlu f { a := srcA f (opx f 0), b := countB f, dst := dstD f (opx f 0)
             fn := plain (fun a n _ => opShr (wOf (opx f 0)) (opx f 1) a (n % 256)) } s

/-- FSH (R91). -/
def execFsh (f : SForm) (s : State) : Out :=
  runAlu f { a := srcA f false, b := srcB f false, c := if opx f 2 then .imm f.c.toNat else srcC f false, dst := dstD f false
             fn := plain (fun a b n => opFsh (opx f 0) a b (n % 32)) } s

/-- BFX (R92). -/
def execBfx (f : SForm) (s : State) : Out :=
  runAlu f { a := srcA f (opx f 0), b := if opx f 2 then .imm (f.b.toNat + 256 * f.c.toNat) else srcB f false, dst := dstD f (opx f 0)
             fn := plain (fun a d _ => opBfx (wOf (opx f 0)) (opx f 1) a (d % 256) (d / 256 % 256)) } s

/-- BFI (R92). -/
def execBfi (f : SForm) (s : State) : Out :=
  runAlu f { a := srcA f (opx f 0), b := srcB f false, c := srcC f (opx f 0), dst := dstD f (opx f 0)
             fn := plain (fun a d c => opBfi (wOf (opx f 0)) a c (d % 256) (d / 256 % 256)) } s

/-- POPC (R93). -/
def execPopc (f : SForm) (s : State) : Out := runAlu f (alu1 f (opx f 0) false (opPopc (wOf (opx f 0)))) s

/-- CLZ (R93). -/
def execClz (f : SForm) (s : State) : Out := runAlu f (alu1 f (opx f 0) false (opClz (wOf (opx f 0)))) s

/-- BREV (R93). -/
def execBrev (f : SForm) (s : State) : Out := runAlu f (alu1 f (opx f 0) (opx f 0) (opBrev (wOf (opx f 0)))) s

/-- BSEL (R94). -/
def execBsel (f : SForm) (s : State) : Out :=
  runAlu f { a := srcA f false, b := srcB f false, c := srcC f false, dst := dstD f false, fn := plain opBsel } s

/-- ISETP (R95). -/
def execIsetp (f : SForm) (s : State) : Out :=
  runAlu f { a := srcA f (opx f 4), b := srcB f (opx f 4), ps := cmbReads f, dst := .p f.d.toNat
             fn := fun g l a b _ =>
               (0, combine (cmb f) (opIcmp (wOf (opx f 4)) (opx f 3) (fnField f 0 3) a b) (pRead g f.c.toNat l)) } s

/-- SEL (R96). -/
def execSel (f : SForm) (s : State) : Out :=
  runAlu f { a := srcA f (opx f 0), b := srcB f (opx f 0), ps := [f.c.toNat], dst := dstD f (opx f 0)
             fn := fun g l a b _ => (if pRead g f.c.toNat l then a else b, false) } s

/-- MOV (R97). -/
def execMov (f : SForm) (s : State) : Out := runAlu f (alu1 f (opx f 0) (opx f 0) id) s

/-- PSETP (R98). -/
def execPsetp (f : SForm) (s : State) : Out :=
  runAlu f { dst := .p f.d.toNat, ps := [f.a.toNat, f.b.toNat] ++ if fnField f 2 2 = 3 then [] else [f.c.toNat]
             fn := fun g l _ _ _ =>
               let x := predOp (fnField f 0 2) (pRead g f.a.toNat l != opx f 4) (pRead g f.b.toNat l != opx f 5)
               (0, if fnField f 2 2 = 3 then x else predOp (fnField f 2 2) x (pRead g f.c.toNat l != opx f 6)) } s

/-- The predicates `p0`–`p11` of a lane as bits (R99). -/
def predBits (g : Group) (l : Nat) : Nat := (List.range 12).foldl (fun r i => r + (if pRead g i l then 2 ^ i else 0)) 0

/-- P2V (R99). -/
def execP2v (f : SForm) (s : State) : Out := runAlu f { ps := List.range 12, dst := dstD f false, fn := fun g l _ _ _ => (predBits g l, false) } s

/-- The predicates of a lane set from A under the mask B (R99). -/
def setPreds (g : Group) (l a b : Nat) : Group :=
  (List.range 12).foldl (fun g i => if b.testBit i then pWrite g i l (a.testBit i) else g) g

/-- V2P (R99): with UD the same predicates in every lane of ISSUE. -/
def execV2p (f : SForm) (s : State) : Out :=
  let o : Alu := { a := srcA f false, b := srcB f false, dst := .none, fn := plain (fun a _ _ => a) }
  .next (issueWord s f.pg f.pn o.needs (o.a.regs ++ o.b.regs) fun s c g _ cl =>
    let lanes := if ud f then (if cl = 0#32 then 0#32 else c.mask) else cl
    endWord s c ((lanesOf lanes).foldl (fun x l => setPreds x l (o.a.read g l) (o.b.read g l)) g) false [])

end Sys2Proof.Machine
end

