-- ==== Sys2Proof/Machine/Special.lean ====
section
/-! DEFINITION. The special functions of major 0x28 (R142, R143). FRCP and FSQRT are correctly rounded. Each of the others
takes the free value of `Config.fspec` where it lies within the bound of R142, and the correctly rounded value where it does
not: the manual leaves the bits to the part and fixes the bound. The functions are computed in fixed point with 112 fraction
bits, which the bounds are checked against. -/

namespace Sys2Proof.Machine

/-- Fraction bits of the fixed-point computations. -/
def fxBits : Nat := 112

/-- 1.0 in fixed point. -/
def fxOne : Int := 2 ^ fxBits

/-- Product in fixed point. -/
def fxMul (a b : Int) : Int := a * b / fxOne

/-- A dyadic in fixed point, rounded down. -/
def fxOf (d : Dy) : Int :=
  let k : Int := d.e + fxBits
  if k ≥ 0 then d.n * 2 ^ k.toNat else d.n / 2 ^ (-k).toNat

/-- A fixed-point number as a dyadic. -/
def fxDy (a : Int) : Dy := ⟨a, -(fxBits : Int)⟩

/-- Sum of a power series, each term the former one times x over n (times −1 and by two steps for sine and cosine). -/
def fxSeries (x2 : Int) (sgn : Int) (step : Nat) : Nat → Nat → Int → Int
  | 0, _, _ => 0
  | fuel + 1, n, term =>
    term + fxSeries x2 sgn step fuel (n + step)
      (sgn * (fxMul term x2 / (if step = 1 then (n + 1 : Int) else (n + 1 : Int) * (n + 2))))

/-- exp in fixed point, for arguments of moderate size. -/
def fxExp (x : Int) : Int := fxSeries x 1 1 120 0 fxOne

/-- ln 2 in fixed point: the sum over k of 1 / (k 2^k). -/
def fxLn2 : Int := (List.range 112).foldl (fun (a : Int) (k : Nat) => a + fxOne / (((k : Int) + 1) * 2 ^ (k + 1))) 0

/-- arctan (1/n) in fixed point. -/
def fxAtanInv (n : Int) : Int :=
  ((List.range 80).foldl (fun (s : Int × Int) (k : Nat) =>
    (s.1 + (if k % 2 = 0 then 1 else -1) * (s.2 / (2 * (k : Int) + 1)), s.2 / (n * n))) (0, fxOne / n)).1

/-- π in fixed point (Machin). -/
def fxPi : Int := 4 * (4 * fxAtanInv 5 - fxAtanInv 239)

/-- sin and cos in fixed point, reduced by 2π. -/
def fxSin (x : Int) : Int :=
  let r := x % (2 * fxPi) - fxPi
  0 - fxSeries (fxMul r r) (-1) 2 40 1 r
def fxCos (x : Int) : Int :=
  let r := x % (2 * fxPi) - fxPi
  0 - fxSeries (fxMul r r) (-1) 2 40 0 fxOne

/-- Binary digits of log2 of x in [1, 2), as a fixed-point number. -/
def fxLogDigits : Nat → Int → Int → Int
  | 0, _, _ => 0
  | fuel + 1, x, w =>
    let y := fxMul x x
    if y ≥ 2 * fxOne then w + fxLogDigits fuel (y / 2) (w / 2) else fxLogDigits fuel y (w / 2)

/-- |a| ≤ b. -/
def Dy.within (a b : Dy) : Bool :=
  let d := (Dy.mk (a.n.natAbs : Int) a.e).add ⟨-b.n, b.e⟩
  d.n ≤ 0

/-- The free value where it lies within `tol` of `y`, else `y` correctly rounded (R142). -/
def pickWithin (cand : Nat) (y tol : Dy) : Nat :=
  match fp32.value cand with
  | .fin s m e => if ((Dy.ofFin s m e).add ⟨-y.n, y.e⟩).within tol then cand else fp32.round 0 false (y.toFV false)
  | _ => fp32.round 0 false (y.toFV false)

/-- `k` units in the last place of a value in FP32: in the binade of the exact result, and at least 2^-149 (R142; the section does not
define it: DESIGN CHOICE, log 118). -/
def ulps (k : Int) (y : Dy) : Dy := ⟨k, max (y.e + Nat.log2 y.n.natAbs - 23) (-149)⟩

/-- FRCP of a finite non-zero value: correctly rounded. -/
def frcpFin (s : Bool) (m : Nat) (e : Int) : Nat :=
  let k := 64 + Nat.log2 m
  let q := 2 ^ k / m
  fp32.round 0 false (.fin s (2 * q + (if 2 ^ k % m = 0 then 0 else 1)) (-(k : Int) - e - 1))

/-- The significand and exponent with an even exponent and at least 128 bits below the point. -/
def evenScale (m : Nat) (e : Int) : Nat × Int :=
  let m' := if e % 2 = 0 then m else 2 * m
  let e' := if e % 2 = 0 then e else e - 1
  (m' * 2 ^ 160, e' - 160)

/-- FSQRT of a positive finite value: correctly rounded. -/
def fsqrtFin (m : Nat) (e : Int) : Nat :=
  let (a, g) := evenScale m e
  let r := Nat.sqrt a
  fp32.round 0 false (.fin false (2 * r + (if r * r = a then 0 else 1)) (g / 2 - 1))

/-- 1/√A of a positive finite value as a dyadic. -/
def rsqrtDy (m : Nat) (e : Int) : Dy :=
  let (a, g) := evenScale m e
  ⟨(2 ^ 240 / Nat.sqrt a : Nat), -240 - g / 2⟩

/-- 2^A of a finite value as a dyadic; the argument is limited, since beyond ±300 the result has no FP32 value between. -/
def exp2Dy (d : Dy) : Dy :=
  let x := max (-300 * fxOne) (min (300 * fxOne) (fxOf d))
  let n := x / fxOne
  ⟨fxExp (fxMul (x - n * fxOne) fxLn2), n - fxBits⟩

/-- log2 of a positive finite value as a dyadic. -/
def log2Dy (m : Nat) (e : Int) : Dy :=
  let l := Nat.log2 m
  fxDy ((e + l) * fxOne + fxLogDigits 80 (fxOf ⟨m, -(l : Int)⟩) (fxOne / 2))

/-- tanh of a finite value as a dyadic. -/
def tanhDy (d : Dy) : Dy :=
  let x := max (-24 * fxOne) (min (24 * fxOne) (fxOf d))
  let n := x.natAbs
  let t := fxExp (-(2 * n : Int) / 64)
  let p := (List.range 6).foldl (fun a _ => fxMul a a) t
  let r := (fxOne - p) * fxOne / (fxOne + p)
  fxDy (if x < 0 then -r else r)

/-- The result of an FSPEC function on FP32 bits, before the flush of results (R142, R143). -/
def fspecRaw (op : Nat) (a : Nat) : Nat :=
  let cand := (Config.fspec op (BitVec.ofNat 32 a)).toNat
  match fp32.value a with
  | .nan => fp32.nanBits
  | .inf s =>
    match op with
    | 0 => fp32.withSign s 0
    | 1 => if s then fp32.nanBits else 0
    | 2 => if s then fp32.nanBits else fp32.infBits
    | 3 => if s then 0 else fp32.infBits
    | 4 => if s then fp32.nanBits else fp32.infBits
    | 5 => fp32.nanBits
    | 6 => fp32.nanBits
    | _ => fp32.withSign s 0x3F800000
  | .fin s m e =>
    if m = 0 then
      match op with
      | 0 => fp32.withSign s fp32.infBits
      | 1 => fp32.withSign s fp32.infBits
      | 2 => fp32.withSign s 0
      | 3 => 0x3F800000
      | 4 => fp32.withSign true fp32.infBits
      | 5 => fp32.withSign s 0
      | 6 => 0x3F800000
      | _ => fp32.withSign s 0
    else
      let d := Dy.ofFin s m e
      let small := d.within ⟨1, 15⟩
      match op with
      | 0 => frcpFin s m e
      | 1 => if s then fp32.nanBits else pickWithin cand (rsqrtDy m e) (ulps 1 (rsqrtDy m e))
      | 2 => if s then fp32.nanBits else fsqrtFin m e
      | 3 =>
        let y := exp2Dy d
        if fp32.round 0 false (y.toFV false) = fp32.infBits then fp32.infBits else pickWithin cand y (ulps 2 y)
      | 4 =>
        if s then fp32.nanBits
        else
          let y := log2Dy m e
          let near := (⟨1, -1⟩ : Dy).within d && d.within ⟨1, 1⟩
          pickWithin cand y (if near then ⟨1, -22⟩ else ulps 2 y)
      | 5 => if small then pickWithin cand (fxDy (fxSin (fxOf d))) ⟨1, -20⟩ else pickWithin cand ⟨0, 0⟩ ⟨1, 0⟩
      | 6 => if small then pickWithin cand (fxDy (fxCos (fxOf d))) ⟨1, -20⟩ else pickWithin cand ⟨0, 0⟩ ⟨1, 0⟩
      | _ => pickWithin cand (tanhDy d) ⟨1, -21⟩

/-- An FSPEC function with its flushes (R125, R142). -/
def fspec (op : Nat) (ftz : Bool) (a : Nat) : Nat := fp32.flushIn ftz (fspecRaw op (fp32.flushIn ftz a))

end Sys2Proof.Machine
end

