-- ==== Sys2Proof/Machine/Arith.lean ====
section
/-! DEFINITION. The meanings of the floating-point, conversion and packed instructions (R133 to R153), each checked by its
lane's shadow or by duplicate evaluation (R131, R132). -/

namespace Sys2Proof.Machine

/-- The checks of a result that is a number of a format, or two halves (R131, R132). -/
def one (f : Fmt) : Check := .shadow f [0]
def both (f : Fmt) : Check := .shadow f [0, 16]

/-- A checked operation of sources A and B, or of A. -/
def fop2 (ck : Check) (f : SForm) (w : Bool) (fn : Nat → Nat → Nat) : Alu := { alu2 f w fn with check := ck }
def fop1 (ck : Check) (f : SForm) (ws wd : Bool) (fn : Nat → Nat) : Alu := { alu1 f ws wd fn with check := ck }

/-- SAT of the FP32 arithmetic (R136). -/
def satOf (f : SForm) (x : Nat) : Nat := if opx f 6 then fpSat x else x

/-- FADD (R135, R136). -/
def execFadd (f : SForm) (s : State) : Out :=
  runAlu f (fop2 (one fp32) f false fun a b => satOf f (fpAdd fp32 (rm f 0) (opx f 2) (fp32.neg (opx f 3) a) (fp32.neg (opx f 4) b))) s

/-- FMUL (R135, R136). -/
def execFmul (f : SForm) (s : State) : Out :=
  runAlu f (fop2 (one fp32) f false fun a b => satOf f (fpMul fp32 (rm f 0) (opx f 2) (fp32.neg (opx f 3) a) (fp32.neg (opx f 4) b))) s

/-- A fused multiply-add of A, B and C in a format with the negations of R135. -/
def fmaOp (fm : Fmt) (f : SForm) (a b c : Nat) : Nat :=
  fpFma fm (rm f 0) (opx f 2) (fm.neg (opx f 3) a) (fm.neg (opx f 4) b) (fm.neg (opx f 5) c)

/-- FFMA (R135, R136). -/
def execFfma (f : SForm) (s : State) : Out :=
  runAlu f { a := srcA f false, b := srcB f false, c := srcC f false, dst := dstD f false, check := one fp32
             fn := plain (fun a b c => satOf f (fmaOp fp32 f a b c)) } s

/-- FMIN (R138). -/
def execFmin (f : SForm) (s : State) : Out :=
  runAlu f (fop2 .duplicate f (opx f 1) (fpMinMax (if opx f 1 then fp64 else fp32) false (opx f 0) (opx f 2))) s

/-- FMAX (R138). -/
def execFmax (f : SForm) (s : State) : Out :=
  runAlu f (fop2 .duplicate f (opx f 1) (fpMinMax (if opx f 1 then fp64 else fp32) true (opx f 0) (opx f 2))) s

/-- FSETP (R139). -/
def execFsetp (f : SForm) (s : State) : Out :=
  runAlu f { a := srcA f (opx f 4), b := srcB f (opx f 4), ps := cmbReads f, dst := .p f.d.toNat, check := .duplicate
             fn := fun g l a b _ =>
               (0, combine (cmb f) (fpCmp (if opx f 4 then fp64 else fp32) (fnField f 0 4) a b) (pRead g f.c.toNat l)) } s

/-- The format that a two-bit type code names: FP32, FP64, FP16, BF16 (R140, R150, R151). -/
def typeFmt (t : Nat) : Fmt :=
  match t with
  | 0 => fp32
  | 1 => fp64
  | 2 => fp16
  | _ => bf16

/-- A source of a type code: a 16-bit operand is bits 15:0, or bits 31:16 with HI (R133, R150). -/
def typeSrc (t : Nat) (hi : Bool) (a : Nat) : Nat := if t ≤ 1 then a else if hi then a / 2 ^ 16 % 2 ^ 16 else a % 2 ^ 16

/-- FCLASS (R140). -/
def execFclass (f : SForm) (s : State) : Out :=
  runAlu f (fop1 .duplicate f (fnField f 0 2 == 1) false fun a => fpClass (typeFmt (fnField f 0 2)) (typeSrc (fnField f 0 2) false a)) s

/-- FRND (R141). -/
def execFrnd (f : SForm) (s : State) : Out :=
  runAlu f (fop1 (one (if opx f 3 then fp64 else fp32)) f (opx f 3) (opx f 3) (fpRnd (if opx f 3 then fp64 else fp32) (rm f 0) (opx f 2))) s

/-- FRCP (R142, R143). -/
def execFrcp (f : SForm) (s : State) : Out := runAlu f (fop1 (one fp32) f false false (fspec 0 (opx f 3))) s

/-- FRSQ (R142, R143). -/
def execFrsq (f : SForm) (s : State) : Out := runAlu f (fop1 (one fp32) f false false (fspec 1 (opx f 3))) s

/-- FSQRT (R142, R143). -/
def execFsqrt (f : SForm) (s : State) : Out := runAlu f (fop1 (one fp32) f false false (fspec 2 (opx f 3))) s

/-- FEX2 (R142, R143). -/
def execFex2 (f : SForm) (s : State) : Out := runAlu f (fop1 (one fp32) f false false (fspec 3 (opx f 3))) s

/-- FLG2 (R142, R143). -/
def execFlg2 (f : SForm) (s : State) : Out := runAlu f (fop1 (one fp32) f false false (fspec 4 (opx f 3))) s

/-- FSIN (R142, R143). -/
def execFsin (f : SForm) (s : State) : Out := runAlu f (fop1 (one fp32) f false false (fspec 5 (opx f 3))) s

/-- FCOS (R142, R143). -/
def execFcos (f : SForm) (s : State) : Out := runAlu f (fop1 (one fp32) f false false (fspec 6 (opx f 3))) s

/-- FTANH (R142, R143). -/
def execFtanh (f : SForm) (s : State) : Out := runAlu f (fop1 (one fp32) f false false (fspec 7 (opx f 3))) s

/-- DADD (R137). -/
def execDadd (f : SForm) (s : State) : Out :=
  runAlu f (fop2 (one fp64) f true fun a b => fpAdd fp64 (rm f 0) (opx f 2) (fp64.neg (opx f 3) a) (fp64.neg (opx f 4) b)) s

/-- DMUL (R137). -/
def execDmul (f : SForm) (s : State) : Out :=
  runAlu f (fop2 (one fp64) f true fun a b => fpMul fp64 (rm f 0) (opx f 2) (fp64.neg (opx f 3) a) (fp64.neg (opx f 4) b)) s

/-- DFMA (R137). -/
def execDfma (f : SForm) (s : State) : Out :=
  runAlu f { a := srcA f true, b := srcB f true, c := srcC f true, dst := dstD f true, check := one fp64
             fn := plain (fmaOp fp64 f) } s

/-- The scaled value of FSCL (R144). -/
def fsclOp (f : SForm) (a b c : Nat) : Nat :=
  let sb := slice b (8 * fnField f 4 2) 8
  let sc := slice c (8 * fnField f 4 2) 8
  let e : Int := if opx f 6 then sextInt 32 b else if opx f 3 then (sb : Int) - 127 + ((sc : Int) - 127) else (sb : Int) - 127
  if !opx f 6 && (sb == 0xFF || (opx f 3 && sc == 0xFF)) then fp32.nanBits
  else
    match fp32.value (fp32.flushIn (opx f 2) a) with
    | .fin sg m x => fp32.round (rm f 0) (opx f 2) (.fin sg m (max (-400) (min 400 (x + e))))
    | v => fp32.round (rm f 0) (opx f 2) v

/-- FSCL (R144). -/
def execFscl (f : SForm) (s : State) : Out :=
  runAlu f { a := srcA f false, b := srcB f false, c := if opx f 3 then srcC f false else .none, dst := dstD f false
             check := one fp32, fn := plain (fsclOp f) } s

/-- The format of the halves (R145). -/
def halfFmt (b2 : Bool) : Fmt := if b2 then bf16 else fp16

/-- An operation on each half of up to three registers (R146). -/
def halves (fn : Nat → Nat → Nat → Nat) (a b c : Nat) : Nat :=
  fn (a % 2 ^ 16) (b % 2 ^ 16) (c % 2 ^ 16) + 2 ^ 16 * fn (a / 2 ^ 16 % 2 ^ 16) (b / 2 ^ 16 % 2 ^ 16) (c / 2 ^ 16 % 2 ^ 16)

/-- HADD2 (R145, R146). -/
def execHadd2 (f : SForm) (s : State) : Out :=
  let h := halfFmt (opx f 0)
  runAlu f (fop2 (both h) f false fun a b =>
    halves (fun x y _ => fpAdd h (rm f 1) (opx f 3) (h.neg (opx f 4) x) (h.neg (opx f 5) y)) a b 0) s

/-- HMUL2 (R145, R146). -/
def execHmul2 (f : SForm) (s : State) : Out :=
  let h := halfFmt (opx f 0)
  runAlu f (fop2 (both h) f false fun a b =>
    halves (fun x y _ => fpMul h (rm f 1) (opx f 3) (h.neg (opx f 4) x) (h.neg (opx f 5) y)) a b 0) s

/-- HFMA2 (R145, R146). -/
def execHfma2 (f : SForm) (s : State) : Out :=
  let h := halfFmt (opx f 0)
  runAlu f { a := srcA f false, b := srcB f false, c := srcC f false, dst := dstD f false, check := both h
             fn := plain (halves fun x y z =>
               fpFma h (rm f 1) (opx f 3) (h.neg (opx f 4) x) (h.neg (opx f 5) y) (h.neg (opx f 6) z)) } s

/-- HMNMX2 (R147). -/
def execHmnmx2 (f : SForm) (s : State) : Out :=
  runAlu f (fop2 .duplicate f false fun a b =>
    halves (fun x y _ => fpMinMax (halfFmt (opx f 0)) (opx f 4) (opx f 5) (opx f 3) x y) a b 0) s

/-- The slot format that a type code of PDOT4 or PDOT8 names: s8, z8, E4M3, E5M2 or s4, E2M1 (R148). -/
def dotFmt (eight : Bool) (t : Nat) : Nat :=
  if eight then (if t = 0 then 9 else 7)
  else
    match t with
    | 0 => 8
    | 1 => 10
    | 2 => 3
    | _ => 4

/-- The integer value of an element of an integer slot format. -/
def slotInt (fmt x : Nat) : Int := if fmt = 8 then sextInt 8 x else if fmt = 9 then sextInt 4 x else (x % 256 : Nat)

/-- A packed dot product (R149). -/
def dotOp (eight : Bool) (f : SForm) (a b c : Nat) : Nat :=
  let ta := dotFmt eight (fnField f 0 2)
  let tb := dotFmt eight (fnField f 2 2)
  let w := if eight then 4 else 8
  let idx := List.range (if eight then 8 else 4)
  if slotIsInt ta then
    let v := idx.foldl (fun (r : Int) i => r + slotInt ta (slice a (w * i) w) * slotInt tb (slice b (w * i) w)) (extInt true 32 c)
    wrap 32 (if opx f 4 then clampInt true 32 v else v)
  else
    fpDot (opx f 4) c (idx.map fun i => FV.mul (slotValue ta (slice a (w * i) w)) (slotValue tb (slice b (w * i) w)))

/-- How a packed dot product is checked: under R131, or by duplicate evaluation where its elements are integers (R132). -/
def dotCheck (eight : Bool) (f : SForm) : Check := if slotIsInt (dotFmt eight (fnField f 0 2)) then .duplicate else one fp32

/-- PDOT4 (R148, R149). -/
def execPdot4 (f : SForm) (s : State) : Out :=
  runAlu f { a := srcA f false, b := srcB f false, c := srcC f false, dst := dstD f false, check := dotCheck false f
             fn := plain (dotOp false f) } s

/-- PDOT8 (R148, R149). -/
def execPdot8 (f : SForm) (s : State) : Out :=
  runAlu f { a := srcA f false, b := srcB f false, c := srcC f false, dst := dstD f false, check := dotCheck true f
             fn := plain (dotOp true f) } s

/-- The width and signedness that a two-bit integer type code names: s32, z32, s64, z64 (R150, R151). -/
def intWidth (t : Nat) : Nat := if t ≤ 1 then 32 else 64
def intSigned (t : Nat) : Bool := t % 2 == 0

/-- F2I (R150). -/
def execF2i (f : SForm) (s : State) : Out :=
  let fr := fnField f 2 2
  let to_ := fnField f 4 2
  runAlu f (fop1 .duplicate f (fr == 1) (opx f 5) fun a =>
    let r := intRange (intSigned to_) (intWidth to_)
    wrap (intWidth to_) (toInt (rm f 0) r.1 r.2 ((typeFmt fr).value (typeSrc fr (opx f 6) a)))) s

/-- I2F (R151). -/
def execI2f (f : SForm) (s : State) : Out :=
  let fr := fnField f 2 2
  let to_ := fnField f 4 2
  runAlu f (fop1 (one (typeFmt to_)) f (opx f 3) (to_ == 1) fun a =>
    (typeFmt to_).round (rm f 0) false (FV.ofInt (extInt (intSigned fr) (intWidth fr) a))) s

/-- F2F (R151). -/
def execF2f (f : SForm) (s : State) : Out :=
  let fr := fnField f 2 2
  let to_ := fnField f 4 2
  runAlu f (fop1 (one (typeFmt to_)) f (fr == 1) (to_ == 1) fun a =>
    (typeFmt to_).round (rm f 0) (opx f 6) ((typeFmt fr).value ((typeFmt fr).flushIn (opx f 6) (typeSrc fr false a)))) s

/-- The elements per register of a slot format: 2, 4 or 8 (R152, R153). -/
def slotCount (fmt : Nat) : Nat := 32 / slotWidth fmt

/-- Replace element `i` of `w` bits of a register. -/
def putElem (w i x d : Nat) : Nat := d - d / 2 ^ (w * i) % 2 ^ w * 2 ^ (w * i) + x % 2 ^ w * 2 ^ (w * i)

/-- PCVT's result in a format slot (R152). -/
def pcvtOp (fs : BitVec 32) (el : Nat) (a b c : Nat) : Nat :=
  let w := slotWidth (fsFmt fs)
  let x := slotConvert fs (fp32.value a)
  let y := slotConvert fs (fp32.value b)
  putElem w (2 * el + 1) y (putElem w (2 * el) x c)

/-- How PCVT's two elements are checked (R132). -/
def pcvtCheck (fs : BitVec 32) (el : Nat) : Check :=
  if slotIsInt (fsFmt fs) then .duplicate
  else .shadow (slotFmt (fsFmt fs)) [slotWidth (fsFmt fs) * (2 * el), slotWidth (fsFmt fs) * (2 * el + 1)]

/-- A word that reads the format slot its SLOT field names; it is illegal where the slot makes it so (R152, R153). (DEDUCED, log 44.) -/
def withSlot (f : SForm) (slot : Nat) (mk : BitVec 32 → Alu) (s : State) : Out :=
  match s.cur with
  | .word c =>
    match (mget s.groups c.gid).bind (fun g => mget s.teams g.team) with
    | some t => runAlu f (mk (t.fs.getD slot 0#32)) s
    | none => .next { s with cur := .idle }
  | _ => .next s

/-- PCVT (R152). -/
def execPcvt (f : SForm) (s : State) : Out :=
  withSlot f (fnField f 0 3) (fun fs =>
    { a := srcA f false, b := srcB f false, c := if opx f 5 then .imm 0 else srcC f false, dst := dstD f false, check := pcvtCheck fs (fnField f 3 2)
      illegal := fsFmt fs == 0 || decide (2 * fnField f 3 2 + 1 ≥ slotCount (fsFmt fs))
      fn := plain (pcvtOp fs (fnField f 3 2)) }) s

/-- UNPK's value of an element (R153). -/
def unpkOp (fs : BitVec 32) (el a : Nat) : Nat :=
  let fmt := fsFmt fs
  let x := slice a (slotWidth fmt * el) (slotWidth fmt)
  if slotIsInt fmt then wrap 32 (slotInt fmt x) else fp32.round 0 false (slotValue fmt x)

/-- UNPK (R153). -/
def execUnpk (f : SForm) (s : State) : Out :=
  withSlot f (fnField f 0 3) (fun fs =>
    { a := srcA f false, dst := dstD f false, check := .duplicate
      illegal := fsFmt fs == 0 || decide (fnField f 3 3 ≥ slotCount (fsFmt fs))
      fn := plain (fun a _ _ => unpkOp fs (fnField f 3 3) a) }) s

end Sys2Proof.Machine
end

