-- ==== Sys2Proof/Machine/Conv.lean ====
section
/-! DEFINITION. The fields of a convergence register by their names (R240, R242) and the sizes of an operation's operands
(R235 to R238). -/

namespace Sys2Proof.Machine

/-- GBASE and GMASK (R242). -/
def Conv.gbase (v : Conv) : Nat := v.mset.toNat % 128
def Conv.gmask (v : Conv) : Nat := slice v.mset.toNat 8 8

/-- The member index of a group number. -/
def Conv.member (v : Conv) (num : Nat) : Option Nat :=
  let m := num - v.gbase
  if v.gbase ≤ num && m < 8 && v.gmask.testBit m then some m else none

/-- The numbers of the member groups. -/
def Conv.members (v : Conv) : List Nat := ((List.range 8).filter (fun m => v.gmask.testBit m)).map (· + v.gbase)

/-- KG, NT, BSRC, BT, SAR and SBT (R242), and K (R234). -/
def Conv.kg (v : Conv) : Nat := slice v.shape.toNat 0 4 + 1
def Conv.nt (v : Conv) : Nat := slice v.shape.toNat 4 2 + 1
def Conv.bsrc (v : Conv) : Bool := v.shape.getLsbD 6
def Conv.bt (v : Conv) : Nat := slice v.shape.toNat 7 5
def Conv.sar (v : Conv) : Nat := slice v.shape.toNat 12 8
def Conv.sbt (v : Conv) : Nat := slice v.shape.toNat 21 5
def Conv.k (v : Conv) : Nat := 16 * v.kg

/-- The slot descriptors of A and B. -/
def Conv.fsA (v : Conv) (t : Team) : BitVec 32 := t.fs.getD v.slotA 0#32
def Conv.fsB (v : Conv) (t : Team) : BitVec 32 := t.fs.getD v.slotB 0#32

/-- nA (R236), KBA and KBB (R238), and NB (R237). -/
def Conv.na (v : Conv) (t : Team) : Nat := v.k * slotWidth (fsFmt (v.fsA t)) / 64
def Conv.kba (v : Conv) (t : Team) : Nat := v.k / fsBlock (v.fsA t)
def Conv.kbb (v : Conv) (t : Team) : Nat := v.k / fsBlock (v.fsB t)
def Conv.nb (v : Conv) (t : Team) : Nat := v.nt * v.k * slotWidth (fsFmt (v.fsB t))

/-- The number of A scale registers (R238, R244). -/
def Conv.nsar (v : Conv) (t : Team) : Nat := if fsScl (v.fsA t) = 1 then (if v.kba t > 8 then 2 else 1) else 0

/-- The bytes of the B scale area and its `.sp` offset (R238). -/
def Conv.nsb (v : Conv) (t : Team) : Nat := if fsScl (v.fsB t) = 1 then 8 * v.nt * v.kbb t else 0
def Conv.sboff (v : Conv) (t : Team) : Nat := v.boff.toNat + (v.nb t + 31) / 32 * 32

/-- The lanes of a member index that have signed. -/
def Conv.signedOf (v : Conv) (m : Nat) : Mask := (v.signed >>> (32 * m)).setWidth 32

/-- An idle register (R240). -/
def Conv.zero : Conv :=
  { phase := 0, st := .idle, lead := 0, owner := 0, team := 0, mset := 0#32, lmask := 0#32, shape := 0#32, boff := 0#32, areg := 0
    acc := 0, slotA := 0, slotB := 0, za := false, ru := false, signed := 0#256, armedAt := 0, busyAt := 0, bEnd := 0, mofn := 0, stale := [], stored := []
    interval := 0 }

/-- The key of `cvN` as the groups of a core name it: each world counts its own registers (R239). (DESIGN CHOICE, log 41.) -/
def cvKey (core world n : Nat) : Nat := (core * 1024 + world) * 16 + n

/-- The register of a key. -/
def convAt (s : State) (key : Nat) : Conv := mval s.convs Conv.zero key

/-- The lanes of a group that are members of an unfinished operation and have not signed it, or have (R105). -/
def unsignedLanes (s : State) (g : Group) : Mask :=
  s.convs.foldl (fun m p =>
    match (if p.2.team = g.team && p.2.st == .opened then p.2.member g.num else none) with
    | some i => m ||| (p.2.lmask &&& ~~~ p.2.signedOf i)
    | none => m) 0#32
def signedConv (s : State) (g : Group) (l : Nat) : Option (Nat × Nat) :=
  (s.convs.find? (fun p =>
    match (if p.2.team = g.team && p.2.st != .idle then p.2.member g.num else none) with
    | some i => has (p.2.signedOf i) l
    | none => false)).map (fun p => (p.1, p.2.phase))

/-- Whether an operation that a group has signed whole, or that is armed, uses registers from `r` up (R115). -/
def convTouches (s : State) (gid r : Nat) : Bool :=
  match mget s.groups gid with
  | none => false
  | some g =>
    match mget s.teams g.team with
    | none => false
    | some t =>
      s.convs.any (fun p =>
        match (if p.2.team = g.team then p.2.member g.num else none) with
        | some i =>
          (p.2.st == .armed || p.2.st == .busy || (p.2.st == .opened && p.2.signedOf i == p.2.lmask)) &&
            (decide (r < p.2.areg + p.2.na t) || decide (r < p.2.sar + p.2.nsar t))
        | none => false)

end Sys2Proof.Machine
end

