-- ==== Sys2Proof/Machine/Pools.lean ====
section
/-! DEFINITION. The granule pools: buddy blocks and allocation maps (R350), gives and claims of vector registers (R20, R115,
R116). Free blocks are those that no map holds; two free buddies are one block. -/

namespace Sys2Proof.Machine

/-- The granules of a map. -/
def granules (m : List (Nat × Nat)) : Nat := (m.map (·.2)).sum

/-- Whether two blocks meet. -/
def blocksMeet (a b : Nat × Nat) : Bool := decide (a.1 < b.1 + b.2) && decide (b.1 < a.1 + a.2)

/-- The free buddy blocks below `base + 2^k` of a pool of `size` granules, in address order. -/
def freeBlocks (size : Nat) (used : List (Nat × Nat)) : Nat → Nat → List (Nat × Nat)
  | 0, base => if base < size && !used.any (blocksMeet (base, 1)) then [(base, 1)] else []
  | k + 1, base =>
    if base + 2 ^ (k + 1) ≤ size && !used.any (blocksMeet (base, 2 ^ (k + 1))) then [(base, 2 ^ (k + 1))]
    else freeBlocks size used k base ++ freeBlocks size used k (base + 2 ^ k)

/-- The free blocks of a pool of up to 512 granules. -/
def poolFree (size : Nat) (used : List (Nat × Nat)) : List (Nat × Nat) := freeBlocks size used 9 0

/-- The largest power of two that is at most `m` and for which some block is large enough (R350 step 1). -/
def pieceSize (free : List (Nat × Nat)) (m : Nat) : Option Nat :=
  ((List.range 10).map (2 ^ ·)).reverse.find? (fun p => decide (p ≤ m) && free.any (fun b => decide (p ≤ b.2)))

/-- The lowest free block of the smallest size that is at least `p` (R350 step 2). -/
def pieceBlock (free : List (Nat × Nat)) (p : Nat) : Option Nat :=
  match ((free.filter (fun b => decide (p ≤ b.2))).map (·.2)).min? with
  | some n => (free.find? (fun b => b.2 == n)).map (·.1)
  | none => none

/-- Allocate `m` granules piece by piece (R350): the blocks in map order. -/
def allocGo (size : Nat) : Nat → List (Nat × Nat) → Nat → Option (List (Nat × Nat))
  | _, _, 0 => some []
  | 0, _, _ + 1 => none
  | fuel + 1, used, m + 1 =>
    let free := poolFree size used
    match (pieceSize free (m + 1)).bind (fun p => (pieceBlock free p).map (fun a => (a, p))) with
    | none => none
    | some b => (allocGo size fuel (b :: used) (m + 1 - b.2)).map (fun bs => b :: bs)

/-- Allocate `m` granules in a pool whose used blocks are known. -/
def alloc (size : Nat) (used : List (Nat × Nat)) (m : Nat) : Option (List (Nat × Nat)) := allocGo size m used m

/-- Remove the top granules of a map, splitting a block where needed (R350). -/
def trimMap (m : List (Nat × Nat)) (n : Nat) : List (Nat × Nat) :=
  (m.foldl (fun (x : List (Nat × Nat) × Nat) b =>
    let keep := min b.2 x.2
    (if keep = 0 then x.1 else x.1 ++ [(b.1, keep)], x.2 - keep)) ([], granules m - n)).1

/-- The blocks that trimming frees. -/
def trimmedBlocks (m : List (Nat × Nat)) (n : Nat) : List (Nat × Nat) :=
  (m.foldl (fun (x : List (Nat × Nat) × Nat) b =>
    let keep := min b.2 x.2
    (if keep = b.2 then x.1 else x.1 ++ [(b.1 + keep, b.2 - keep)], x.2 - keep)) ([], granules m - n)).1

/-- The groups that hold a slot of a sub-partition. -/
def groupsOn (s : State) (core subp : Nat) : List (Nat × Group) :=
  s.groups.filter (fun p => p.2.core == core && p.2.subp == subp && p.2.live != 0#32)

/-- The blocks of a sub-partition's vector pool that are in use, seen from a team: the blocks reserved to other teams
count (R416). -/
def vectorUsed (s : State) (core subp : Nat) (team : Option Nat) : List (Nat × Nat) :=
  s.groups.flatMap (fun p => if p.2.core = core && p.2.subp = subp then p.2.vmap else []) ++
  s.teams.flatMap (fun p =>
    if some p.1 = team then [] else p.2.reserved.filterMap (fun r => if r.1 = core && r.2.1 = subp then some r.2.2 else none))

/-- The blocks of the tile and accumulator pools in use. -/
def tileUsed (s : State) (core subp : Nat) : List (Nat × Nat) :=
  s.groups.flatMap (fun p => if p.2.core = core && p.2.subp = subp then p.2.tmap else [])
def accUsed (s : State) (core subp : Nat) : List (Nat × Nat) :=
  s.groups.flatMap (fun p => if p.2.core = core && p.2.subp = subp then p.2.amap else [])

/-- Give a group its granted granules (R20): the new registers are free, and its lanes are released. -/
def grantTo (s : State) (cl : Claim) (blocks : List (Nat × Nat)) : State :=
  let s := { s with fresh := s.fresh + 1 }
  let seed := s.fresh
  onGroup s cl.gid (fun g =>
    let g := { g with
      vmap := g.vmap ++ blocks, vcount := g.vcount + 8 * cl.gran, vEpochs := (g.vcount, seed) :: g.vEpochs
      v := g.v.filter (fun p => decide (p.1 < g.vcount)) }
    releaseWhere g (fun w => match w with
      | .pool _ => true
      | _ => false))

/-- Take blocks that a team's own claim uses out of its reservation. -/
def useReserved (t : Team) (core subp : Nat) (blocks : List (Nat × Nat)) : Team :=
  { t with reserved := t.reserved.flatMap (fun r =>
      if r.1 = core && r.2.1 = subp then
        -- the granules of the block that stay reserved, one by one
        ((List.range r.2.2.2).map (fun i => (r.2.2.1 + i, 1))).filterMap (fun b =>
          if blocks.any (blocksMeet b) then none else some (core, subp, b))
      else [r]) }

/-- The blocks with which the oldest claim of a team can be granted now: the pool and the free granules suffice, and the map
stays within its 6 blocks (R20, R350, R352). -/
def claimBlocks (s : State) (tid : Nat) (t : Team) (cl : Claim) : Option (List (Nat × Nat)) :=
  match mget s.groups cl.gid with
  | none => none
  | some g =>
    if t.pool < cl.gran then none
    else
      match alloc 64 (vectorUsed s g.core g.subp (some tid)) cl.gran with
      | some bs => if g.vmap.length + bs.length ≤ 6 then some bs else none
      | none => none

/-- Serve the claims of a team strictly in order (R20). -/
def serveGo : Nat → State → Nat → State
  | 0, s, _ => s
  | fuel + 1, s, tid =>
    match mget s.teams tid with
    | none => s
    | some t =>
      match t.claims with
      | [] => s
      | cl :: rest =>
        match claimBlocks s tid t cl with
        | none => s
        | some bs =>
          let s := onTeam s tid (fun t => { t with pool := t.pool - cl.gran, poolPhase := t.poolPhase + 1, claims := rest })
          let s := match mget s.groups cl.gid with
            | some g => onTeam s tid (fun t => useReserved t g.core g.subp bs)
            | none => s
          serveGo fuel (grantTo s cl bs) tid
def serveClaims (s : State) (tid : Nat) : State := serveGo 128 s tid

/-- Serve the claims of every team, after blocks were freed. -/
def serveAll (s : State) : State := s.teams.foldl (fun s p => if p.2.claims.isEmpty then s else serveClaims s p.1) s

/-- Whether a load in flight writes registers from `r` up. -/
def loadTouches (g : Group) (r : Nat) : Bool :=
  g.flights.any (fun x => !x.uniform && !x.noWrite &&
    match x.dest with
    | some d => decide (r < d + max 1 (x.size / 4))
    | none => false)

/-- Carry out the pending RGIVE of a group once nothing outstanding touches the registers it gives (R115). -/
def tryGive (s : State) (gid : Nat) : State :=
  match mget s.groups gid with
  | none => s
  | some g =>
    match g.holds.findSome? (fun h => match h with
      | .give r n => some (r, n)
      | _ => none) with
    | none => s
    | some (r, n) =>
      if loadTouches g r || convTouches s gid r then s
      else
        let freed := trimmedBlocks g.vmap n
        let s := onGroup s gid (fun g =>
          { g with
            holds := g.holds.filter (fun h => match h with
              | .give _ _ => false
              | _ => true)
            vcount := r, vmap := trimMap g.vmap n, v := g.v.filter (fun p => decide (p.1 < r))
            vEpochs := g.vEpochs.filter (fun e => decide (e.1 < r))
            alatch := match g.alatch with
              | some (areg, na, sl, vals) => if r ≤ areg + na then none else some (areg, na, sl, vals)
              | none => none })
        let s := onTeam s g.team (fun t =>
          { t with
            pool := t.pool + n
            reserved := if t.rollbacks then t.reserved ++ freed.map (fun b => (g.core, g.subp, b)) else t.reserved })
        serveAll s

end Sys2Proof.Machine
end

