-- ==== Sys2Proof/Machine/Read.lean ====
section
/-! DEFINITION. What the agents of a core read: the bytes of a slot with the errors that stand there (R161, R411), global memory through
the L1 (R165, R166, R193), and the sources of copies (R205, R219, R223). -/

namespace Sys2Proof.Machine

/-- Bytes of the slot as a number. -/
def spNum (t : Team) (o n : Nat) : Nat := leNat (spBytes t o n)

/-- The world's banks on a core, ascending, and the bank of a slot offset (R162, R438). -/
def worldBanks (s : State) (core world : Nat) : List Nat := ((coreOf s core).bankWorld.filter (fun p => p.2 == world)).map (·.1)
def bankOf (s : State) (t : Team) (o : Nat) : Nat :=
  let bs := worldBanks s t.core t.world
  bs.getD (o / 128 % bs.length) 0

/-- Whether bytes of the slot touch an 8-byte word. -/
def meetsWord (o n w : Nat) : Bool := decide (8 * w < o + n) && decide (o < 8 * w + 8)

/-- Whether bytes of the slot hold an uncorrectable error (R411). -/
def spBad (t : Team) (o n : Nat) : Bool := t.spErrs.any (meetsWord o n)

/-- A read of the slot corrects the single-bit errors that it meets, and writes them back (R411, R426). -/
def correctScratch (s : State) (tid o n : Nat) : State :=
  match mget s.teams tid with
  | none => s
  | some t =>
    if t.spSingle.isEmpty then s
    else
      (t.spSingle.filter (meetsWord o n)).foldl (fun s w => noteCorrection s (some t.world) 4 t.core (0x09 + 2 ^ 8 * bankOf s t (8 * w)))
        (onTeam s tid (fun t => { t with spSingle := t.spSingle.filter (fun w => !meetsWord o n w) }))

/-- The granules of a world's banks on a core, and the blocks of them that slots hold (R3, R165, R350). -/
def slotPool (s : State) (core world : Nat) : Nat := 12 * (worldBanks s core world).length
def slotUsed (s : State) (core world : Nat) : List (Nat × Nat) :=
  s.teams.flatMap (fun p => if p.2.core = core && p.2.world = world then p.2.smap else [])

/-- What an agent of a core reads: the copy that its world's L1 holds, or the latest write that it sees (R165, R166, R193). -/
def coreRead (s : State) (core world pa n : Nat) : List Byte :=
  (viewRead s core world pa n).zipIdx.map (fun p =>
    match l1Sector (coreOf s core) world ((pa + p.2) / 32) with
    | some bs => bs.getD ((pa + p.2) % 32) 0#8
    | none => p.1)

/-- What an agent of a core reads from pieces. -/
def readPieces (s : State) (core world : Nat) (ps : List (Nat × Nat × Nat)) : List Byte :=
  ps.flatMap (fun p => coreRead s core world p.2.1 p.2.2)

/-- The worst that a read of pieces meets (R409), with its address. -/
def pieceError (s : State) (w : Nat) (ps : List (Nat × Nat × Nat)) : UnitRead × Nat :=
  match ps.find? (fun p => readError s w p.2.1 p.2.2 == .uncorrectable) with
  | some p => (.uncorrectable, p.2.1)
  | none =>
    match ps.find? (fun p => readError s w p.2.1 p.2.2 == .integrity) with
    | some p => (.integrity, p.2.1)
    | none => (.clean, 0)

/-- The source bytes of a transfer, with the zero bytes that follow (R223). -/
def acpBytes (s : State) (t : Team) (core : Nat) (src : List (Nat × Nat × Nat)) : List Byte :=
  let bs := readPieces s core t.world src
  bs ++ List.replicate (32 - bs.length) 0#8

/-- What a bulk load gives a sector (R219): its in-range bytes from memory, the others filled. -/
def bulkBytes (s : State) (t : Team) (core : Nat) (bytes : List (Nat × Option Nat × Byte)) : List Byte :=
  bytes.map (fun x =>
    match x.2.1 with
    | some pa => (coreRead s core t.world pa 1).getD 0 0#8
    | none => x.2.2)

/-- The pieces of a bulk copy's sector that lie in memory. -/
def bulkPieces (q : List (Nat × Option Nat × Byte)) : List (Nat × Nat × Nat) := q.filterMap (fun x => x.2.1.map (fun pa => (0, pa, 1)))

end Sys2Proof.Machine
end

