-- ==== Sys2Proof/Machine/Exit.lean ====
section
/-! DEFINITION. What happens when lanes, groups and teams end (R35 to R38, R105, R362), blocking on a phase (R31), and the
release of the waits on a convergence register (R247, R250). -/

namespace Sys2Proof.Machine

/-- A wait on a convergence register's phase. -/
def isConvWait (key : Nat) (w : Wait) : Bool :=
  match w with
  | .conv k _ _ => k == key
  | _ => false

/-- The lanes of a set block at the word (R32): their PC stays, so the word's own advance is taken back. -/
def block (g : Group) (m : Mask) (w : Wait) : Group :=
  g.onLanes m (fun x => { x with st := .blocked, wait := some w, pc := x.pc - 8#64 })

/-- A finished operation of a group is outstanding no more: a group with no lane, no load and no invocation leaves. -/
def reapGroup (s : State) (gid : Nat) : State :=
  match mget s.groups gid with
  | none => s
  | some g =>
    if g.live = 0#32 && g.flights.isEmpty && !s.invs.any (fun p => p.2.gid == gid) && (mget s.teams g.team).isNone then
      { s with groups := mdel s.groups gid }
    else s

/-- One more team of a grid has ended (R342). -/
def teamEnded (s : State) (t : Team) : State :=
  if t.twin = 2 then s
  else
    onQueue s t.fe t.slot (fun q =>
      { q with bundles := q.bundles.map (fun b =>
          if b.index = t.packet then
            { b with subs := lupd b.subs t.sub (fun x =>
                match x with
                | .grid l placed ended done => .grid l placed (ended + 1) done
                | y => y) }
          else b) })

/-- The bytes that a bulk store moves from some sectors of a slot: those read already (R202 d), and those that stand there. -/
def storeBytes (t : Team) (got : SMap (List Byte)) (sectors : List (Nat × List (Nat × Option Nat × Byte))) : SMap Byte :=
  sectors.foldl (fun (m : SMap Byte) (q : Nat × List (Nat × Option Nat × Byte)) =>
    let src := (mget got q.1).getD (spBytes t (32 * q.1) 32)
    q.2.foldl (fun (m : SMap Byte) (x : Nat × Option Nat × Byte) =>
      match x.2.1 with
      | some pa => mput m pa (src.getD x.1 0#8)
      | none => m) m) []

/-- Whether the in-range bytes of a source sector hold an error (R219, R228). -/
def sourceBad (t : Team) (q : Nat × List (Nat × Option Nat × Byte)) : Bool := q.2.any (fun x => x.2.1.isSome && spBad t (32 * q.1 + x.1) 1)

/-- Whether a source sector of a bulk store cannot be moved: its read has met an error or meets one now (R228). -/
def sourceFails (t : Team) (c : Copy) (q : Nat × List (Nat × Option Nat × Byte)) : Bool :=
  (mget c.failed q.1).isSome || ((mget c.got q.1).isNone && sourceBad t q)

/-- Whether a source sector of a bulk store waits for its presence bit (R164, R228). -/
def sourceWaits (t : Team) (c : Copy) (sec : Nat) : Bool :=
  (mget c.got sec).isNone && (mget c.failed sec).isNone && t.absent.contains sec

/-- The slot of a team that ends, after a copy into it has landed (R105, R223, R228). -/
def landLast (s : State) (t : Team) (c : Copy) : Team :=
  let put (t : Team) (sec : Nat) (err : UnitRead × Nat) (bs : List Byte) : Team :=
    if (mget c.failed sec).isSome || err.1 = .uncorrectable || err.1 = .integrity then t
    else { t with sp := memPutBytes t.sp (32 * sec) ((mget c.got sec).getD bs), absent := t.absent.filter (fun x => x != sec) }
  match c.kind with
  | .acp _ _ _ _ src => put t c.sec (pieceError s t.world src) (acpBytes s t t.core src)
  | .bulk _ _ false _ _ _ sectors =>
    sectors.foldl (fun t q => put t q.1 (pieceError s t.world (bulkPieces q.2)) (bulkBytes s t t.core q.2)) t
  | .bulk _ _ true _ _ _ _ => t

/-- The copies of a team that ends complete: those into its slot land first, in the order of their issue, and the bulk stores then move
what their sources hold; a source sector that stays absent, or whose read meets an error, is not moved (R105, R228; DEDUCED, log 13). -/
def storeCopies (s : State) (tid : Nat) (t : Team) : State :=
  let cs := s.copies.filter (fun p => p.2.team == tid)
  let t := cs.foldl (fun t p => landLast s t p.2) t
  cs.foldl (fun (s : State) p =>
    let s := match p.2.kind with
      | .bulk _ _ true _ _ _ sectors =>
        engineWrite s t.core t.world (teamCores s t)
          (storeBytes t p.2.got (sectors.filter (fun q => !sourceFails t p.2 q && !sourceWaits t p.2 q.1))) p.2.after
      | _ => s
    { s with copies := mdel s.copies p.1 }) s

/-- The team's last group has exited (R37): its slot, its barrier objects, its pool and its registers are free. -/
def endTeam (s : State) (tid : Nat) : State :=
  match mget s.teams tid with
  | none => s
  | some t =>
    let s := storeCopies s tid t
    let s := { s with
      teams := mdel s.teams tid
      cmps := s.cmps.filter (fun e => e.pair != tid)
      convs := s.convs.map (fun p => if p.2.team = tid then (p.1, { p.2 with st := .idle }) else p) }
    let s := teamEnded s t
    serveAll (t.groups.foldl reapGroup s)

/-- Every lane of a group has exited (R36): its registers return to the free granules; while others of the team remain the
interval is escaped (R38); with the last the team ends (R37). (DEDUCED, log 34.) -/
def endGroup (s : State) (gid : Nat) : State :=
  match mget s.groups gid with
  | none => s
  | some g =>
    if g.live ≠ 0#32 then s
    else
      let s := onGroup s gid (fun g => { g with vmap := [], tmap := [], amap := [], flights := g.flights.filter (fun x =>
        match x.op with
        | .load => false
        | _ => true) })
      let rest := s.groups.any (fun p => p.2.team == g.team && p.2.live != 0#32)
      serveAll (if rest then escape s g.team else endTeam s g.team)

/-- Lanes exit (R35, R105, R362): one expected arrival fewer on object 0 for each; a handler may end with them. -/
def exitLanes (s : State) (gid : Nat) (m : Mask) : State :=
  if m = 0#32 then s
  else
    match mget s.groups gid with
    | none => s
    | some g =>
      let had := decide (g.inHandler ≠ 0#32)
      let g := g.onLanes m (fun x => { x with st := .exited, h := false, wait := none })
      let s := onGroup s gid (fun _ => if had then endHandler g else g)
      let s := (lanesOf m).foldl (fun s _ => updateObj s g.team 0 (fun b => { b with expect := b.expect - 1 })) s
      takeImages (endGroup s gid)

/-- Whether a matrix divergence of a register awaits report in a lane (R250). -/
def Group.diverged (g : Group) (key : Nat) : Mask :=
  maskOf ((g.divWait.filter (fun p => p.1 == key)).map (·.2))

/-- The divergence of a register has been reported in some lanes. -/
def Group.reported (g : Group) (key : Nat) (m : Mask) : Group :=
  { g with divWait := g.divWait.filter (fun p => !(p.1 == key && has m p.2)) }

/-- A lane's windows for the completed operations of a register close (R247); the lead group's for the B tiles closes with the MWT of any
one of its lanes (DESIGN CHOICE, log 104). -/
def closeWindows (g : Group) (key : Nat) (m : Mask) : Group :=
  let ws := g.windows.map (fun w =>
    if w.cv = key && w.done && m != 0#32 then { w with lanes := w.lanes &&& ~~~m, lead := false } else w)
  { g with windows := ws.filter (fun w => w.lanes != 0#32 || w.lead) }

/-- Raise the report of a matrix divergence in some lanes of a group (R250, R425, R426). -/
def raiseDivergence (s : State) (gid key : Nat) (m : Mask) (tpc : W64) : State :=
  match mget s.groups gid with
  | none => s
  | some g =>
    match mget s.teams g.team with
    | none => s
    | some t =>
      let s := onGroup s gid (fun g => g.reported key m)
      consumeError (reportConsumed s gid 0x53 4 g.core g.subp) gid .shadowDivergence m tpc 0#64 0x06 t.interval

/-- The lanes of a group that an EXIT holds on a register's phase leave their wait: they wait for another operation that they
have signed, or exit (R105). (DEDUCED, log 36.) -/
def exitAfterWait (s : State) (gid : Nat) (m : Mask) : State :=
  (lanesOf m).foldl (fun s l =>
    match mget s.groups gid with
    | none => s
    | some g =>
      match signedConv s g l with
      | some (k, ph) => onGroup s gid (fun g => g.onLanes (maskOf [l]) (fun x => { x with wait := some (.conv k ph true) }))
      | none => exitLanes s gid (maskOf [l])) s

/-- A register has returned to IDLE: the waits on its phase end, in every group of the core (R241, R247, R250). A lane that
must report a divergence raises it with TPC at its MWT or EXIT; where lanes of both must, those of the EXIT raise it afterwards. -/
def releaseConv (s : State) (key : Nat) : State :=
  s.groups.foldl (fun s p =>
    match mget s.groups p.1 with
    | none => s
    | some g =>
      let waiting (exits : Bool) : Mask := maskBy (fun l =>
        match (g.lane l).wait with
        | some (.conv k _ e) => k == key && e == exits && decide ((g.lane l).st = .blocked)
        | _ => false)
      let mwt := waiting false
      let ext := waiting true
      if mwt ||| ext = 0#32 then s
      else
        let div := g.diverged key &&& (mwt ||| ext)
        let g := closeWindows g key mwt
        let pcOf (m : Mask) : W64 := (g.lane ((lanesOf m).headD 0)).pc
        if div = 0#32 then
          let s := onGroup s p.1 (fun _ => releaseWhere g (fun w =>
            match w with
            | .conv k _ false => k == key
            | _ => false))
          exitAfterWait s p.1 ext
        else
          -- the lanes that report stand at their word; the others go on, but no lane of a reporting EXIT exits
          let dm := div &&& mwt
          let s := onGroup s p.1 (fun _ =>
            g.onLanes (mwt &&& ~~~dm) (releaseLane (decide (g.inHandler ≠ 0#32))))
          let s := onGroup s p.1 (fun g => g.onLanes (dm ||| ext) (fun x => { x with st := .active, wait := none }))
          let dx := div &&& ext
          if dm = 0#32 then raiseDivergence s p.1 key dx (pcOf dx)
          else
            let s := if dx = 0#32 then s
              else onGroup s p.1 (fun g => { g.reported key dx with divPend := g.divPend ++ [(pcOf dx, dx)] })
            raiseDivergence s p.1 key dm (pcOf dm)) s

end Sys2Proof.Machine
end

