-- ==== Sys2Proof/Machine/Control.lean ====
section
/-! DEFINITION. The meanings of the control-transfer instructions (R100 to R106), and of the register
pool (R114 to R116). -/

namespace Sys2Proof.Machine

/-- A pair named by A with the U bit at FN bit `ub` (R102). -/
def addrA (f : SForm) (ub : Nat) (wide : Bool) : Opnd := opnd f f.a (fnBit f ub) (lqA f) wide

/-- What one operand asks for at issue. -/
def Opnd.needs (o : Opnd) : Needs := { latches := o.latches, vtop := o.vtop }

/-- Two askings together. -/
def Needs.and (m n : Needs) : Needs :=
  { illegal := m.illegal || n.illegal, priv := m.priv || n.priv, latches := m.latches ++ n.latches, vtop := max m.vtop n.vtop
    ttop := max m.ttop n.ttop, atop := max m.atop n.atop, cvtop := max m.cvtop n.cvtop }

/-- What a destination asks for at issue. -/
def Dest.needs (d : Dest) : Needs := { vtop := d.vtop }

/-- Whether an address cannot be a PC: bits 2:0 or bits 63:56 set (R100). -/
def badTarget (x : W64) : Bool := x.toNat % 8 != 0 || decide (x.toNat ≥ 2 ^ 56)

/-- Send the lanes of CL to their targets (R100): the word's own advance is taken back. -/
def setPcs (g : Group) (cl : Mask) (tgt : Nat → W64) : Group :=
  (lanesOf cl).foldl (fun g l => g.onLanes (maskOf [l]) (fun x => { x with pc := tgt l - 8#64 })) g

/-- Transfer control: a bad target in any lane of CL raises ADDRESS in the lanes that have one (R81, R100); otherwise `k` is
done with the group that has the new PCs. -/
def transfer (s : State) (c : Ctx) (g : Group) (cl : Mask) (tgt : Nat → W64) (k : Group → State) : State :=
  let bad := maskBy (fun l => has cl l && badTarget (tgt l))
  if bad ≠ 0#32 then takeTrap s c.gid .address bad c.pc (tgt ((lanesOf bad).headD 0)) 0#64
  else k (setPcs g cl tgt)

/-- The target of a relative transfer (R101). -/
def relTarget (pc : W64) (n off : Nat) : W64 := pc + 8#64 * sext n off

/-- A 64-bit operand's value in a lane. -/
def addr64 (o : Opnd) (g : Group) (l : Nat) : W64 := BitVec.ofNat 64 (o.read g l)

/-- NOP (R106). -/
def execNop (f : SForm) (s : State) : Out :=
  .next (issueWord s f.pg f.pn {} [] fun s c g _ _ => endWord s c g false [])

/-- BRA (R101, R102). -/
def execBra (f : SForm) (s : State) : Out :=
  .next (issueWord s f.pg f.pn {} [] fun s c g _ cl =>
    transfer s c g cl (fun _ => relTarget c.pc 32 (off32 f).toNat) fun g => endWord s c g false [])

/-- An indirect transfer (R102). -/
def indirect (f : SForm) (s : State) : State :=
  let o := addrA f 9 true
  issueWord s f.pg f.pn o.needs o.regs fun s c g _ cl =>
    transfer s c g cl (addr64 o g) fun g => endWord s c g false []

/-- BRX (R102). -/
def execBrx (f : SForm) (s : State) : Out := .next (indirect f s)

/-- RET (R102). -/
def execRet (f : SForm) (s : State) : Out := .next (indirect f s)

/-- A call (R103): the link in the pair D, with MEET the meeting register, then the transfer. -/
def callWith (f : SForm) (o : Opnd) (tgt : Ctx → Group → Nat → W64) (s : State) : State :=
  let d : Dest := .v f.d.toNat true
  issueWord s f.pg f.pn (o.needs.and d.needs) o.regs fun s c g _ cl =>
    transfer s c g cl (tgt c g) fun g =>
      let g := if fnBit f 1 then g.onLanes cl (fun x => { x with mr := c.pc + 8#64 }) else g
      endResult s c g cl d false f.nw (fun _ => (c.pc + 8#64).toNat)

/-- CALL (R101, R103). -/
def execCall (f : SForm) (s : State) : Out :=
  .next (callWith f .none (fun c _ _ => relTarget c.pc 24 (off24 f).toNat) s)

/-- CALL_IND (R103). -/
def execCallInd (f : SForm) (s : State) : Out :=
  .next (callWith f (addrA f 9 true) (fun _ g l => addr64 (addrA f 9 true) g l) s)

/-- Set the meeting registers of CL (R104). -/
def meetWith (f : SForm) (o : Opnd) (mr : Ctx → Group → Nat → W64) (s : State) : State :=
  issueWord s f.pg f.pn o.needs o.regs fun s c g _ cl =>
    endWord s c ((lanesOf cl).foldl (fun x l => x.onLanes (maskOf [l]) (fun y => { y with mr := mr c g l })) g) false []

/-- MEET (R101, R104). -/
def execMeet (f : SForm) (s : State) : Out := .next (meetWith f .none (fun c _ _ => relTarget c.pc 32 (off32 f).toNat) s)

/-- MEET_CLR (R104). -/
def execMeetClr (f : SForm) (s : State) : Out := .next (meetWith f .none (fun _ _ _ => 0#64) s)

/-- MEET_REG (R104). -/
def execMeetReg (f : SForm) (s : State) : Out := .next (meetWith f (addrA f 9 true) (fun _ g l => addr64 (addrA f 9 true) g l) s)

/-- EXIT (R105): a member that has not signed raises CONVERGENCE and no lane exits; a lane that has signed an operation still
under way waits on its register's phase; the others exit. -/
def execExit (f : SForm) (s : State) : Out :=
  .next (issueWord s f.pg f.pn {} [] fun s c g _ cl =>
    let bad := cl &&& unsignedLanes s g
    if bad ≠ 0#32 then takeTrap s c.gid .convergence bad c.pc 0#64 0#64
    else
      let waits := maskBy (fun l => has cl l && (signedConv s g l).isSome)
      let g := (lanesOf waits).foldl (fun x l =>
        match signedConv s g l with
        | some (k, ph) => block x (maskOf [l]) (.conv k ph true)
        | none => x) g
      exitLanes (endWord s c g false []) c.gid (cl &&& ~~~waits))

/-- YIELD (R106). -/
def execYield (f : SForm) (s : State) : Out :=
  .next (issueWord s f.pg f.pn {} [] fun s c g _ cl =>
    let n := fnField f 0 8
    let h : Hold := if n = 0 then .yielded else .until (s.clock + n + 1)
    endWord s c (if cl = 0#32 then g else { g with holds := h :: g.holds }) false [])

/-- The check of RGIVE and RCLAIM (R114): ISSUE holds every lane that has not exited, and the guards agree. -/
def wholeGroup (g : Group) (c : Ctx) (cl : Mask) : Bool := g.live == c.mask && (cl == 0#32 || cl == c.mask)

/-- RGIVE (R114, R115). (DEDUCED, log 35.) -/
def execRgive (f : SForm) (s : State) : Out :=
  let n := fnField f 0 5
  .next (withWord s fun s c g t =>
    if g.vcount < 8 * n + 8 then takeTrap s c.gid .regBudget c.mask c.pc 0#64 0#64
    else
      readRegs s c g t [(c.mask, guardRegs f.pg)] fun s g =>
      let cl := clOf g c f.pg f.pn
      if !wholeGroup g c cl then takeTrap s c.gid .convergence c.mask c.pc 0#64 0#64
      else if cl = 0#32 then endWord s c g false []
      else tryGive (endWord s c { g with holds := .give (g.vcount - 8 * n) n :: g.holds } false []) c.gid)

/-- RCLAIM (R114, R116). -/
def execRclaim (f : SForm) (s : State) : Out :=
  let n := fnField f 0 5
  .next (withWord s fun s c g t =>
    if g.vcount + 8 * n > 256 then takeTrap s c.gid .regBudget c.mask c.pc 0#64 0#64
    else
      readRegs s c g t [(c.mask, guardRegs f.pg)] fun s g =>
      let cl := clOf g c f.pg f.pn
      if !wholeGroup g c cl then takeTrap s c.gid .convergence c.mask c.pc 0#64 0#64
      else if cl = 0#32 then endWord s c g false []
      else
        let s := endWord s c (block g c.mask (.pool t.poolPhase)) false []
        serveClaims (onTeam s g.team (fun t => { t with claims := t.claims ++ [⟨c.gid, n, c.mask⟩] })) g.team)

end Sys2Proof.Machine
end

