-- ==== Sys2Proof/Machine/GroupOps.lean ====
section
/-! DEFINITION. The meanings of the group operations: votes, shuffles, matches, election, reduction and the special values
(R107 to R112). Members and sources are taken from CL, registers read as they were before the word (R78). -/

namespace Sys2Proof.Machine

/-- The lanes of CL that vote one (R107). -/
def votes (f : SForm) (g : Group) (cl : Mask) : Mask := maskBy (fun l => has cl l && (pRead g f.a.toNat l != fnBit f 2))

/-- Write one truth value in predicate D of every lane of CL; nothing with CL empty. -/
def putPred (g : Group) (n : Nat) (cl : Mask) (b : Bool) : Group := (lanesOf cl).foldl (fun g l => pWrite g n l b) g

/-- A vote that writes a predicate (R107). -/
def voteWith (f : SForm) (fn : Mask → Mask → Bool) (s : State) : Out :=
  .next (issueWord s f.pg f.pn {} [(3, f.a.toNat)] fun s c g _ cl =>
    endWord s c (putPred g f.d.toNat cl (fn (votes f g cl) cl)) false [])

/-- VOTE_ALL (R107). -/
def execVoteAll (f : SForm) (s : State) : Out := voteWith f (fun m cl => m == cl) s

/-- VOTE_ANY (R107). -/
def execVoteAny (f : SForm) (s : State) : Out := voteWith f (fun m _ => m != 0#32) s

/-- VOTE_SAME (R107). -/
def execVoteSame (f : SForm) (s : State) : Out := voteWith f (fun m cl => m == 0#32 || m == cl) s

/-- The destination of BALLOT, GRED, SREAD and SRR: uniform under FN bit 10 (R107, R111, R112, R366). -/
def dstU (f : SForm) (wide : Bool) : Dest := if fnBit f 10 then .u (uni f f.d) wide else .v f.d.toNat wide

/-- VOTE_BALLOT (R107). -/
def execVoteBallot (f : SForm) (s : State) : Out :=
  let d := dstU f false
  .next (issueWord s f.pg f.pn d.needs [(3, f.a.toNat)] fun s c g _ cl =>
    endResult s c g cl d (fnBit f 10) f.nw (fun _ => (votes f g cl).toNat))

/-- The lane that lane `l` reads under SHFL (R108), none outside 0–31. -/
def shflLane (mode l sel : Nat) : Option Nat :=
  match mode with
  | 0 => some (sel % 32)
  | 1 => if sel ≤ l then some (l - sel) else none
  | 2 => if l + sel ≤ 31 then some (l + sel) else none
  | _ => some (l ^^^ (sel % 32))

/-- SHFL (R108). -/
def execShfl (f : SForm) (s : State) : Out :=
  let w := fnBit f 4
  let a := opnd f f.a false (lqA f) w
  let b := if fnBit f 2 then .imm f.b.toNat else opnd f f.b (fnBit f 8) (lqB f) false
  let m := if fnBit f 3 then .none else opnd f f.c (fnBit f 7) (lqC f) false
  let d : Dest := .v f.d.toNat w
  .next (issueWord s f.pg f.pn ((a.needs.and b.needs).and (m.needs.and d.needs)) (a.regs ++ b.regs ++ m.regs) fun s c g _ cl =>
    endResult s c g cl d false f.nw (fun l =>
      match shflLane (fnField f 0 2) l (b.read g l % 256) with
      | some j => if has cl j && (fnBit f 3 || (m.read g l).testBit j) then a.read g j else a.read g l
      | none => a.read g l))

/-- The lanes of CL whose A equals a lane's (R109). -/
def sameLanes (a : Opnd) (g : Group) (cl : Mask) (l : Nat) : Mask := maskBy (fun j => has cl j && a.read g j == a.read g l)

/-- MATCH_ANY (R109). -/
def execMatchAny (f : SForm) (s : State) : Out :=
  let a := opnd f f.a false (lqA f) (fnBit f 0)
  let d : Dest := .v f.d.toNat false
  .next (issueWord s f.pg f.pn (a.needs.and d.needs) a.regs fun s c g _ cl =>
    endResult s c g cl d false f.nw (fun l => (sameLanes a g cl l).toNat))

/-- MATCH_ALL (R109). -/
def execMatchAll (f : SForm) (s : State) : Out :=
  let a := opnd f f.a false (lqA f) (fnBit f 0)
  let d : Dest := .v f.d.toNat false
  .next (issueWord s f.pg f.pn (a.needs.and d.needs) a.regs fun s c g _ cl =>
    let all := sameLanes a g cl ((lanesOf cl).headD 0) == cl
    endResult s c (putPred g f.c.toNat cl all) cl d false f.nw (fun _ => if all then cl.toNat else 0))

/-- ELECT (R110). -/
def execElect (f : SForm) (s : State) : Out :=
  .next (issueWord s f.pg f.pn {} [] fun s c g _ cl =>
    endWord s c ((lanesOf cl).foldl (fun x l => pWrite x f.d.toNat l ((lanesOf cl).head? == some l)) g) false [])

/-- One step of a reduction (R111). -/
def gredStep (w : Nat) (signed : Bool) (op r x : Nat) : Nat :=
  match op with
  | 0 => (r + x) % 2 ^ w
  | 1 => opImin w signed r x
  | 2 => opImax w signed r x
  | 3 => r &&& x
  | 4 => r ||| x
  | 5 => r ^^^ x
  | _ => r

/-- A combined over the lanes of CL in ascending order (R111). -/
def gredOf (w : Nat) (signed : Bool) (op : Nat) : List Nat → Nat
  | [] => 0
  | x :: xs => xs.foldl (gredStep w signed op) x

/-- GRED (R111). -/
def execGred (f : SForm) (s : State) : Out :=
  let w := fnBit f 4
  let a := opnd f f.a false (lqA f) w
  let d := dstU f w
  .next (issueWord s f.pg f.pn (a.needs.and d.needs) a.regs fun s c g _ cl =>
    let r := gredOf (wOf w) (fnBit f 3) (fnField f 0 3) ((lanesOf cl).map (a.read g))
    endResult s c g cl d (fnBit f 10) f.nw (fun _ => r))

/-- The special value of an index in a lane (R46). -/
def special (g : Group) (t : Team) (l : Nat) : Nat → Nat
  | 0 => l
  | 1 => g.num
  | 2 => t.ngroups
  | 3 => t.x
  | 4 => t.y
  | 5 => t.z
  | 6 => t.nx
  | 7 => t.ny
  | 8 => t.nz
  | 9 => (32 * g.num + l) % t.dx
  | 10 => (32 * g.num + l) / t.dx % t.dy
  | 11 => (32 * g.num + l) / (t.dx * t.dy)
  | 12 => g.role
  | 13 => g.core
  | 14 => g.subp
  | 15 => t.twin
  | _ => (g.lane l).mr.toNat

/-- SREAD (R46, R112). -/
def execSread (f : SForm) (s : State) : Out :=
  let d := dstU f (f.a == 16#8)
  .next (issueWord s f.pg f.pn d.needs [] fun s c g t cl =>
    endResult s c g cl d (fnBit f 10) f.nw (fun l => special g t l f.a.toNat))

end Sys2Proof.Machine
end

