-- ==== Sys2Proof/Machine/Translate.lean ====
section
/-! DEFINITION. Cached translations (R306, R307), and what an access does that needs some (R160, R308, R321, R324): with all of
them at hand it goes on; with one missing it is suspended with what it knows; with one failed it takes the lowest cause. -/

namespace Sys2Proof.Machine

/-- Whether the attributes of a mapping grant what an access kind requires (R308, R317). -/
def grants (attrs kind : Nat) : Bool :=
  match kind with
  | 0x1 => attrs.testBit 0
  | 0x2 => attrs.testBit 1
  | 0x4 => attrs.testBit 2
  | _ => attrs.testBit 0 && attrs.testBit 1

/-- Whether a cached translation covers an address of a space. -/
def Trans.covers (t : Trans) (space va : Nat) : Bool := t.space == space && decide (t.vbase ≤ va) && decide (va < t.vbase + 2 ^ t.lsize)

/-- A cache with a translation in front, at most `cap` entries (R306). -/
def cachePut (cap : Nat) (t : Trans) (l : List Trans) : List Trans := (t :: l.filter (fun x => x != t)).take cap

/-- The translation cache of a die for a partition (R306). -/
def tcOf (s : State) (die part : Nat) : List Trans := mval (dieOf s die).tc [] part
def onTc (s : State) (die part : Nat) (f : List Trans → List Trans) : State :=
  onDie s die (fun d => { d with tc := mput d.tc part (f (mval d.tc [] part)) })

/-- Enter a translation into a core's TLB and its die's cache (R306). -/
def enterTrans (s : State) (core part : Nat) (t : Trans) : State :=
  onTc (onCore s core (fun c => { c with tlb := cachePut 512 t c.tlb })) (dieOfCore core) part (cachePut 65536 t)

/-- Look an address up in the TLB and then in the die's cache (R306); one that does not grant the access is dropped (R307). Of several
that cover the address and grant the access the one used last serves (DESIGN CHOICE, log 100). -/
def lookupTrans (s : State) (core part space va kind : Nat) : State × Option Trans :=
  match (coreOf s core).tlb.find? (fun t => t.covers space va && grants t.attrs kind) with
  | some t => (onCore s core (fun c => { c with tlb := cachePut 512 t c.tlb }), some t)
  | none =>
    let drop (l : List Trans) : List Trans := l.filter (fun t => !(t.covers space va))
    let s := onCore s core (fun c => { c with tlb := drop c.tlb })
    match (tcOf s (dieOfCore core) part).find? (fun t => t.covers space va && grants t.attrs kind) with
    | some t => (enterTrans s core part t, some t)
    | none => (onTc s (dieOfCore core) part drop, none)

/-- Where a translation takes an address (R321). -/
def Trans.pa (t : Trans) (va : Nat) : Nat := t.frame + va % 2 ^ t.lsize

/-- The page of a need. -/
def PageNeed.page (n : PageNeed) : Nat := n.va / 4096

/-- The first address in each page that some addresses touch. -/
def firstInPages (vas : List Nat) : List Nat :=
  vas.foldl (fun l va => if l.any (fun x => x / 4096 == va / 4096) then l else l ++ [va]) []

/-- How a page of an instruction stands: as an answer to its walk left it, or as the caches have it. -/
def pageState (s : State) (g : Group) (t : Team) (page kind : Nat) : State × PageSt :=
  match g.susp.find? (fun n => n.page == page && n.kind == kind && n.st != .pending) with
  | some n => (s, n.st)
  | none =>
    match lookupTrans s g.core t.part t.space (4096 * page) kind with
    | (s, some tr) => (s, .mapped tr.frame tr.lsize tr.attrs)
    | (s, none) => (s, .pending)

/-- How all pages of an instruction stand. -/
def pageStates (s : State) (g : Group) (t : Team) (kind : Nat) (vas : List Nat) : State × List PageNeed :=
  (firstInPages vas).foldl (fun (x : State × List PageNeed) va =>
    let y := pageState x.1 g t (va / 4096) kind
    (y.1, x.2 ++ [⟨va, kind, y.2⟩])) (s, [])

/-- The failure of a page, if it has failed. -/
def PageNeed.failure (n : PageNeed) : Option (Cause × W64) :=
  match n.st with
  | .failed c i => some (c, i)
  | _ => none

/-- The physical address and the attributes that a list of mapped pages gives an address. -/
def pagesMap (ns : List PageNeed) (va : Nat) : Nat × Nat :=
  match ns.find? (fun n => n.page == va / 4096) with
  | some n =>
    match n.st with
    | .mapped frame lsize attrs => (frame + va % 2 ^ lsize, attrs)
    | _ => (0, 0)
  | none => (0, 0)

/-- The first failing address of a lane with the lowest code among its failures, with its cause and TINFO (R359). -/
def laneFailure (ns : List PageNeed) (vas : List Nat) : Option (Cause × W64 × Nat) :=
  let fs := vas.filterMap (fun va => ((ns.find? (fun n => n.page == va / 4096)).bind PageNeed.failure).map (fun f => (f.1, f.2, va)))
  match (fs.map (fun f => f.1.code)).min? with
  | some m => fs.find? (fun f => f.1.code == m)
  | none => none

/-- Take the lowest cause among lanes (R81, R359): TLANES holds the lanes that raised it, TADDR and TINFO belong to the lowest
of them. -/
def trapLowest (s : State) (c : Ctx) (fs : List (Nat × Cause × W64 × W64)) : State :=
  match (fs.map (fun f => f.2.1.code)).min? with
  | none => s
  | some m =>
    let those := fs.filter (fun f => f.2.1.code == m)
    match those with
    | [] => s
    | f :: _ => takeTrap s c.gid f.2.1 (maskOf (those.map (·.1))) c.pc f.2.2.2 f.2.2.1

/-- Translate what some lanes need, all with one access kind: `who` lists the addresses of each lane. With every translation
known and no failure in `pre`, `k` goes on with the physical addresses; else the word waits for its walks, or takes the cause of the lowest code
(R160, R324). -/
def withPagesOr (s : State) (c : Ctx) (pre : List (Nat × Cause × W64 × W64)) (who : List (Nat × List Nat)) (kind : Nat)
    (k : State → Group → (Nat → Nat × Nat) → State) : State :=
  match mget s.groups c.gid with
  | none => s
  | some g =>
    match mget s.teams g.team with
    | none => s
    | some t =>
      let (s, ns) := pageStates s g t kind (who.flatMap (·.2))
      let keep := g.susp.filter (fun n => !ns.any (fun m => m.page == n.page && m.kind == n.kind))
      if ns.any (fun n => n.st == .pending) then onGroup s c.gid (fun g => { g with susp := ns ++ keep, resume := some c })
      else if !pre.isEmpty || ns.any (fun n => n.failure.isSome) then
        trapLowest s c (pre ++ who.filterMap (fun w => (laneFailure ns w.2).map (fun f => (w.1, f.1, f.2.1, BitVec.ofNat 64 f.2.2))))
      else
        k s g (pagesMap ns)

/-- Translate what some lanes need, none of which has failed otherwise. -/
def withPages (s : State) (c : Ctx) (who : List (Nat × List Nat)) (kind : Nat)
    (k : State → Group → (Nat → Nat × Nat) → State) : State := withPagesOr s c [] who kind k

/-- The first address of every page that `n` bytes from an address touch. -/
def pagesOf (va n : Nat) : List Nat :=
  if n = 0 then [] else va :: ((List.range ((va + n - 1) / 4096 - va / 4096)).map (fun i => (va / 4096 + 1 + i) * 4096))

end Sys2Proof.Machine
end

