-- ==== Sys2Proof/Machine/Access.lean ====
section
/-! DEFINITION. Accesses to memory: the addresses of a lane (R154 to R159), accesses to the scratchpad slot and their waits on
presence bits (R161 to R164), and loads and atomics in flight until they are performed and return (R172, R173, R178, R183,
R193 to R197). -/

namespace Sys2Proof.Machine

/-- A lane's access before translation: its pieces (address, bytes), or a failure with the value for TADDR (R155 to R159). -/
inductive LaneAcc where
  | ok (pieces : List (Nat × Nat))
  | bad (c : Cause) (addr : W64)
deriving DecidableEq, Repr

/-- A 64-bit two's-complement value. -/
def addrOfInt (x : Int) : W64 := BitVec.ofInt 64 x

/-- A `.g` access (R155, R159). -/
def globalAcc (ea : W64) (n : Nat) : LaneAcc :=
  if ea.toNat ≥ 2 ^ 56 || ea.toNat % n ≠ 0 then .bad .address ea else .ok [(ea.toNat, n)]

/-- A `.sp` access at an offset (R156, R159): misalignment first, since its code is the lower (R359). -/
def scratchAcc (t : Team) (o : Int) (n align : Nat) : LaneAcc :=
  if o % align ≠ 0 then .bad .address (addrOfInt o)
  else if o < 0 || o + n > t.scratch then .bad .scratchBounds (addrOfInt o)
  else .ok [(o.toNat, n)]

/-- The local base LB and the bytes per thread LS of a group (R157). -/
def localBase (g : Group) : Nat := (uRead64 g 28).toNat
def localSize (g : Group) : Nat := (uRead g 30).toNat

/-- A `.lc` access (R157): its pieces of at most 4 bytes. -/
def localAcc (g : Group) (t : Team) (l : Nat) (o : Int) (n : Nat) : LaneAcc :=
  let ls := localSize g
  let m := min n 4
  let offs := (List.range (n / m)).map (fun (i : Nat) => o + 4 * (i : Int))
  if ls = 0 || ls % 4 ≠ 0 || o % n ≠ 0 then .bad .address (addrOfInt o)
  else
    match offs.find? (fun (x : Int) => x < 0 || x + (m : Int) > (ls : Int)) with
    | some x => .bad .address (addrOfInt x)
    | none =>
      let gg := (t.x + t.nx * (t.y + t.ny * t.z)) * 128 + g.num
      let vas := offs.map (fun (x : Int) => (localBase g + 32 * ls * gg + 128 * (x.toNat / 4) + 4 * l + x.toNat % 4) % 2 ^ 64)
      match vas.find? (fun va => decide (va ≥ 2 ^ 56) || va % m != 0) with
      | some va => .bad .address (BitVec.ofNat 64 va)
      | none => .ok (vas.map (fun va => (va, m)))

/-- A `.k` access (R158). (DEDUCED, log 39.) -/
def constAcc (t : Team) (o : Int) (n : Nat) : LaneAcc :=
  let va : Int := ((t.argPtr : Int) + o) % (2 ^ 64 : Int)
  if o < 0 || o + n > t.argSize || va % n ≠ 0 || va ≥ 2 ^ 56 then .bad .address (addrOfInt o) else .ok [(va.toNat, n)]

/-- The access of a lane in a space: `a` is the address operand's value, `off` the signed offset (R155 to R158). -/
def laneAcc (g : Group) (t : Team) (spc l a : Nat) (off : Int) (n : Nat) : LaneAcc :=
  match spc with
  | 0 => globalAcc (BitVec.ofInt 64 (a + off)) n
  | 1 => scratchAcc t (a % 2 ^ 32 + off) n n
  | 2 => localAcc g t l (a % 2 ^ 32 + off) n
  | _ => constAcc t (a % 2 ^ 32 + off) n

/-- The signed 16-bit offset of a memory word (R155, R176). -/
def offOf (f : SForm) : Int := (off16 f).toInt

/-- The failures among the accesses of some lanes. -/
def accFailures (as : List (Nat × LaneAcc)) : List (Nat × Cause × W64 × W64) :=
  as.filterMap (fun p => match p.2 with
    | .bad c a => some (p.1, c, 0#64, a)
    | .ok _ => none)

/-- The pieces of an access. -/
def LaneAcc.pieces : LaneAcc → List (Nat × Nat)
  | .ok ps => ps
  | .bad _ _ => []

/-- The lanes that answer for a failure of a single execution: all of CL (R81). -/
def spread (once : Bool) (cl : Mask) (as : List (Nat × LaneAcc)) : List (Nat × LaneAcc) :=
  if once then
    match as with
    | p :: _ => (lanesOf cl).map (fun l => (l, p.2))
    | [] => []
  else as

/-! ### Results of loads -/

/-- A loaded value extended to its registers (R178). -/
def extendLoad (n : Nat) (sx : Bool) (x : Nat) : Nat :=
  if n ≤ 2 then (if sx then wrap 32 (extInt true (8 * n) x) else x % 2 ^ (8 * n)) else x % 2 ^ (8 * n)

/-- Write a loaded value of `n` bytes into the registers from `d` up (R178, R179). -/
def putLoad (g : Group) (uniform : Bool) (d n l x : Nat) : Group :=
  (List.range (max 1 (n / 4))).foldl (fun g i =>
    let w := BitVec.ofNat 32 (x / 2 ^ (32 * i))
    if uniform then uWrite g (d + i) w else vWrite g (d + i) l w) g

/-- A load's value enters the registers of a lane, unless NW or the lane has exited, and its part of the latch (R60, R105). -/
def finishLoad (g : Group) (uniform nw sx : Bool) (d : Option Nat) (n latch l x : Nat) : Group :=
  match d with
  | none => g
  | some r =>
    let v := extendLoad n sx x
    let g := if nw || (!uniform && (g.lane l).st == .exited) then g else putLoad g uniform r n l v
    if uniform then (List.range nLanes).foldl (fun g l => latchFill g latch l (BitVec.ofNat 64 v)) g
    else latchFill g latch l (BitVec.ofNat 64 v)

/-! ### The scratchpad -/

/-- A scratchpad read consumes an uncorrectable error (R411, R425); `opInterval` is the interval of its issue (R417). -/
def consumeScratch (s : State) (gid : Nat) (t : Team) (o : Nat) (m : Mask) (pc : W64) (opInterval : Nat) : State :=
  consumeError (reportConsumed s gid 0x51 4 t.core (0x09 + 2 ^ 8 * bankOf s t o)) gid .uncorrectable m pc 0#64 0x02 opInterval

/-- The new value of an atomic operation (R183, R184). -/
def atomicNew (op : SpOp) (old : Nat) : Option Nat :=
  match op with
  | .atomic aop wide b => some (aopNew (fpAdd fp32 0 false) (wOf wide) aop old b.toNat)
  | .atomicX wide b c => if old = b.toNat % 2 ^ wOf wide then some (c.toNat % 2 ^ wOf wide) else none
  | _ => none

/-- The group of the other team of a twin pair with the same number (R420). -/
def twinOf (s : State) (g : Group) : Option (Nat × Group) :=
  match (mget s.teams g.team).bind (·.mate) with
  | some m => s.groups.find? (fun p => p.2.team == m && p.2.num == g.num)
  | none => none

/-- The leading team's results of a number, for a group of the trailing team (R421). -/
def twinResult (s : State) (gid : Nat) (key : Option Nat) : Option (SMap (BitVec 128)) :=
  match key, mget s.groups gid with
  | some k, some g =>
    if ((mget s.teams g.team).map (·.twin)).getD 0 = 2 then (twinOf s g).bind (fun p => mget p.2.acqVals k) else none
  | _, _ => none

/-- The leading team keeps a result for the trailing team. -/
def keepResult (s : State) (gid : Nat) (key : Option Nat) (l : Nat) (x : BitVec 128) : State :=
  match key with
  | some k => onGroup s gid (fun g => { g with acqVals := mput g.acqVals k (mput (mval g.acqVals [] k) l x) })
  | none => s

/-- Whether an access reads the slot for a thread. -/
def SpAccess.reads (x : SpAccess) : Bool :=
  match x.op with
  | .store _ => false
  | _ => true

/-- The thread of a read of the slot has seen what releases put before the bytes (R196), and an acquire invalidates its world's L1
(R166); single-bit errors are corrected (R411). -/
def spRead (s : State) (gid tid : Nat) (t : Team) (x : SpAccess) : State :=
  match mget s.groups gid with
  | none => s
  | some g =>
    let s := correctScratch (seeBefore s g.core (relsAt t x.off x.size)) tid x.off x.size
    match x.acq with
    | some scope => acquireAt s g.core t.world scope
    | none => s

/-- A lane's part of the A latch that MLD.A fills: its words, for the registers that the latch is of (R249, R253). -/
def fillLatchA (g : Group) (dest n l v : Nat) : Group :=
  { g with alatch := g.alatch.map (fun a =>
      if a.1 = dest && a.2.1 = n then
        (a.1, a.2.1, a.2.2.1, a.2.2.2.zipIdx.map (fun p => p.1.set l (BitVec.ofNat 32 (v / 2 ^ (32 * p.2)))))
      else a) }

/-- A lane's result of a slot access, with an injected error left in its register (R424). -/
def spResult (g : Group) (x : SpAccess) (sx : Bool) (n l v : Nat) : Group :=
  let g := finishLoad g x.uniform x.noWrite sx x.dest n x.latch l v
  if x.inject then markWrite g (x.dest.getD 0) (1#32 <<< l) else g

/-- Perform one lane's load, store or atomic of the slot (R164, R173); a release's write carries what comes before it (R196). -/
def spDo (s : State) (gid tid : Nat) (x : SpAccess) : State :=
  match mget s.teams tid with
  | none => s
  | some t =>
    let old := spNum t x.off x.size
    let l := x.lane.getD ((lanesOf x.mask).headD 0)
    match x.op with
    | .store bs => addRel (spWrite s (some (gid, x.by_)) tid x.off bs) tid x.off bs.length x.after
    | .load =>
      let ret := (((twinResult s gid x.key).bind (fun m => mget m l)).map (·.toNat)).getD old
      let s := keepResult (spRead s gid tid t x) gid x.key l (BitVec.ofNat 128 old)
      onGroup s gid (fun g => spResult g x x.sx x.size l ret)
    | .rows n ru =>
      let v := (List.range n).foldl (fun v r => v + 2 ^ (32 * r) * spNum t (x.off + 8 * r) 4) 0
      onGroup (spRead s gid tid t x) gid (fun g =>
        let g := spResult g x false (4 * n) l v
        if ru then fillLatchA g (x.dest.getD 0) n l v else g)
    | op =>
      let s := spRead s gid tid t x
      let s := match atomicNew op old with
        | some v => addRel (spWrite s (some (gid, x.by_)) tid x.off (leBytes x.size v)) tid x.off x.size x.after
        | none => s
      let ret := ((twinResult s gid x.key).bind (fun m => mget m l)).getD (BitVec.ofNat 128 old)
      let s := keepResult s gid x.key l (BitVec.ofNat 128 old)
      onGroup s gid (fun g => spResult g x false x.size l ret.toNat)

/-- The first sector of some bytes whose presence bit is clear. -/
def absentSector (t : Team) (o n : Nat) : Option Nat := (sectorsOf o n).find? (fun sec => t.absent.contains sec)

/-- The lanes of an access block until its sector is present (R31, R164). -/
def spBlock (g : Group) (x : SpAccess) : Group := block { g with spWaits := x :: g.spWaits } x.mask (.sector x.sec)

/-- An access that waits, its sector having become present: with another of its sectors absent it waits on that one; otherwise it is
performed and its lanes are released, as an acquire of the sector's bytes (R31, R32, R164, R198). The word of a single execution goes on
by itself (`onceReady`). -/
def spWake (s : State) (gid tid : Nat) (x : SpAccess) : State :=
  match x.op, mget s.teams tid with
  | .once _ _, _ => s
  | _, none => s
  | _, some t =>
    let s := onGroup s gid (fun g => { g with spWaits := g.spWaits.filter (fun y => y != x) })
    match absentSector t x.off x.size with
    | some sec =>
      onGroup s gid (fun g => { (g.onLanes x.mask (fun y => { y with wait := some (.sector sec) })) with
                                spWaits := { x with sec := sec } :: g.spWaits })
    | none =>
      if x.reads && spBad t x.off x.size then
        let s := onGroup s gid (fun g => g.onLanes x.mask (fun y => { y with st := .active, wait := none }))
        consumeScratch s gid t x.off x.mask x.pc x.interval
      else
        let s := match mget s.groups gid with
          | some g => observe s tid (presPlace x.sec) 1 [g.core]
          | none => s
        let s := spDo s gid tid x
        onGroup s gid (fun g => g.onLanes x.mask (releaseLane (decide (g.inHandler ≠ 0#32))))

/-- A sector has become present: everything of the team that waits on it goes on (R163, R164). -/
def wakeSector (s : State) (tid sec : Nat) : State :=
  s.groups.foldl (fun s p =>
    if p.2.team = tid then (p.2.spWaits.filter (fun x => x.sec == sec)).reverse.foldl (fun s x => spWake s p.1 tid x) s else s) s

/-- Set a sector's presence bit and wake its waiters (R163). -/
def present (s : State) (tid sec : Nat) : State := wakeSector (setPresence s tid sec) tid sec

/-! A word that executes once for the group and touches an absent sector (R164): its lanes wait, and when the sector is present the
word is done again for them with the uniform registers with which it was issued. -/

/-- The wait of a group that the word at hand ends. (DEDUCED, log 51.) -/
def onceOf (g : Group) (c : Ctx) : Option SpAccess :=
  g.spWaits.find? (fun x =>
    match x.op with
    | .once _ _ => x.mask == c.mask && x.pc == c.pc
    | _ => false)

/-- The group as the word at hand reads its uniform registers. -/
def onceGroup (g : Group) (c : Ctx) : Group :=
  match (onceOf g c).map SpAccess.op with
  | some (.once _ u) => { g with u := u }
  | _ => g

/-- A wait of the group whose word can go on. -/
def onceReady (s : State) (g : Group) : Option Ctx :=
  match mget s.teams g.team with
  | none => none
  | some t =>
    g.spWaits.findSome? (fun x =>
      match x.op with
      | .once c _ => if t.absent.contains x.sec then none else some { c with mask := x.mask }
      | _ => none)

/-- The lanes of CL wait on a sector: at the first wait the word has issued, with its latch entry (R60). -/
def blockOnce (s : State) (c : Ctx) (g : Group) (cl : Mask) (sec : Nat) (full : Bool) : State :=
  match onceOf g c with
  | some x =>
    onGroup s c.gid (fun g =>
      { (g.onLanes cl (fun y => { y with wait := some (.sector sec) })) with
        spWaits := g.spWaits.map (fun y => if y = x then { x with sec := sec } else y) })
  | none =>
    let x : SpAccess := ⟨none, cl, cl, sec, 32 * sec, 32, .once c g.u, none, false, true, false, g.latchId, c.pc, none, false, 0, none, []⟩
    endWord s c (block { g with spWaits := x :: g.spWaits } cl (.sector sec)) full []

/-- The end of a word that executes once for the group: as any word's, or, after a wait, the release of its lanes with the late
values of its latch entry (R32, R60). -/
def endOnce (s : State) (c : Ctx) (g : Group) (full : Bool) (vals : SMap W64) : State :=
  match onceOf g c with
  | none => endWord s c g full vals
  | some x =>
    let g := { g with spWaits := g.spWaits.filter (fun y => y != x), susp := [], resume := none }
    let g := vals.foldl (fun g p => latchFill g x.latch p.1 p.2) g
    takeImages { s with groups := mput s.groups c.gid (g.onLanes x.mask (releaseLane (decide (g.inHandler ≠ 0#32)))) }

/-- Perform or block the slot accesses of a word, in ascending lane order (R164, R173), the word having ended. Every access of the slot is
seen by the whole team at once, in the order in which the accesses are performed (DESIGN CHOICE, log 103). -/
def spRun (s : State) (gid tid : Nat) (xs : List SpAccess) : State :=
  xs.foldl (fun s x =>
    match mget s.teams tid with
    | none => s
    | some t =>
      match absentSector t x.off x.size with
      | some sec => onGroup s gid (fun g => spBlock g { x with sec := sec })
      | none => spDo s gid tid x) s

/-! ### Loads and atomics in flight -/

/-- The physical pieces of an access. -/
def physPieces (tr : Nat → Nat × Nat) (ps : List (Nat × Nat)) : List (Nat × Nat × Nat) := ps.map (fun p => (p.1, (tr p.1).1, p.2))

/-- Whether pieces overlap bytes. -/
def piecesMeet (ps qs : List (Nat × Nat × Nat)) : Bool :=
  ps.any (fun p => qs.any (fun q => decide (p.2.1 < q.2.1 + q.2.2) && decide (q.2.1 < p.2.1 + p.2.2)))

/-- Count the corrections that a read of pieces makes (R407, R426). -/
def pieceCorrections (s : State) (world : Nat) (ps : List (Nat × Nat × Nat)) : State :=
  ps.foldl (fun s p =>
    if readError s world p.2.1 p.2.2 = .corrected then noteCorrection s (some world) 7 (stackOf p.2.1) 0x12 else s) s

/-- The lines of a world's L1 on a core: 32 in each granule that no slot holds (R165). -/
def l1Room (s : State) (core world : Nat) : Nat := 32 * (slotPool s core world - ((slotUsed s core world).map (·.2)).sum)

/-- The first `n` lines of a world, and every line of the others. -/
def l1Keep (world : Nat) : Nat → List L1Line → List L1Line
  | _, [] => []
  | n, x :: xs => if x.world = world then (if n = 0 then l1Keep world 0 xs else x :: l1Keep world (n - 1) xs) else x :: l1Keep world n xs

/-- A world's L1 on a core holds no more lines than it has room for: those filled first give way (DESIGN CHOICE, log 52). -/
def trimL1 (s : State) (core world : Nat) : State :=
  { s with cores := mupd s.cores core (fun c => { c with l1 := l1Keep world (l1Room s core world) c.l1 }) }

/-- A sector enters a world's L1 on a core (R165, R166). -/
def fillSector (s : State) (core world sec : Nat) : State :=
  let bs := viewRead s core world (32 * sec) 32
  let here (x : L1Line) : Bool := x.world == world && x.line == sec / 4
  trimL1 (onCore s core (fun c =>
    { c with l1 := if c.l1.any here then c.l1.map (fun x => if here x then { x with secs := mput x.secs sec bs } else x)
                   else ⟨world, sec / 4, s.clock, [(sec, bs)]⟩ :: c.l1 })) core world

/-- The copies of a line in a world's L1 on a core go. -/
def dropLine (s : State) (core world line : Nat) : State :=
  { s with cores := mupd s.cores core (fun c => { c with l1 := c.l1.filter (fun x => !(x.world == world && x.line == line)) }) }

/-- Whether a line's half of the address space runs in home mode, its Nougat die lost (R303). -/
def homeMode (s : State) (line : Nat) : Bool := ((mget s.nougats (nougatOf (128 * line))).map (·.lost)).getD false

/-! The sets of the L2 slices and of the RDCs (R169, R382, R384). -/

/-- The world and the partition of a line's frame (R293, R384). -/
def worldOfLine (s : State) (line : Nat) : Nat := (ownerOf s (128 * line)).getD 0
def partOfLine (s : State) (line : Nat) : Nat := (((ownerOf s (128 * line)).bind (fun w => mget s.worlds w)).map (·.part)).getD 0

/-- h of a line (R382). -/
def colourHash (line : Nat) : Nat :=
  slice line 6 9 ^^^ slice line 15 9 ^^^ slice line 24 9 ^^^ slice line 33 9 ^^^ slice line 42 3

/-- The slice and the set of a line in the L2 of its home die, and its set in an RDC: in the colour of its partition (R382). -/
def l2Set (s : State) (line : Nat) : Nat × Nat :=
  let p := partOf s (partOfLine s line)
  (sliceOf (128 * line), p.sbase + colourHash line % max 1 p.scount)
def rdcSet (s : State) (line : Nat) : Nat :=
  let p := partOf s (partOfLine s line)
  p.rbase + colourHash line % max 1 p.rcount

/-- The class of the mapping through which a die's agents reach a line (R169): that of a translation of the line's world cached there.
(DEDUCED, log 57.) -/
def classOn (s : State) (die line : Nat) : Nat :=
  let ts := (s.cores.filter (fun p => dieOfCore p.1 == die)).flatMap (·.2.tlb) ++ (dieOf s die).tc.flatMap (·.2)
  let hits (t : Trans) : Bool :=
    decide (t.frame ≤ 128 * line) && decide (128 * line < t.frame + 2 ^ t.lsize) && ((mget s.spaces t.space).map (·.world)) == some (worldOfLine s line)
  ((ts.find? hits).map (fun t => slice t.attrs 3 2)).getD 0

/-- What a fill of a class into a set replaces, the lines of the set being given with the most recently used first (R169): with the quota of
the class reached, the least recently used of them; else, in a full set, the least recently used line. Without a line that may be chosen
there is no room. -/
def wayFor {α : Type} (cls : α → Nat) (may : α → Bool) (quota : Option Nat) (k ways : Nat) (set : List α) : Option (Option α) :=
  let own := set.filter (fun x => cls x == k)
  match (if (quota.map (fun q => decide (q ≤ own.length))).getD false then (own.filter may).getLast? else none) with
  | some x => some (some x)
  | none => if set.length < ways then some none else ((set.filter may).getLast?).map some

/-- A line in its home's L2 (R384). -/
def l2Of (s : State) (line : Nat) : Option L2Line :=
  (dieOf s (homeDie (128 * line))).l2.find? (fun x => x.line == line && x.world == worldOfLine s line)

/-- The lines in the set of a line, and what its fill replaces: never a line that is exported (R292). -/
def l2Lines (s : State) (line : Nat) : List L2Line := (dieOf s (homeDie (128 * line))).l2.filter (fun x => l2Set s x.line == l2Set s line)
def l2Way (s : State) (line cls : Nat) : Option (Option L2Line) :=
  wayFor (·.cls) (fun x => x.xp == 0) (mget (partOf s (partOfLine s line)).quota cls) cls 16 (l2Lines s line)

/-- Fill a line into the L2 of its home die, or use it there again (R167, R169, R292). In a set of which every line is exported there is
no room. -/
def fillL2 (s : State) (line cls : Nat) : State :=
  let put (x : L2Line) (gone : Option L2Line) : State :=
    let s := match gone with
      | some y => if y.dirty then writeBack s y.line else s
      | none => s
    onDie s (homeDie (128 * line)) (fun d => { d with l2 := x :: d.l2.filter (fun y => y != x && some y != gone) })
  match l2Of s line with
  | some x => put x none
  | none =>
    match l2Way s line cls with
    | some gone => put ⟨worldOfLine s line, line, 0, cls, true, false⟩ gone
    | none => s

/-- The L2 of a line's home die caches what the agents of that die reach, and in home mode what those of every die do (R167, R303). -/
def useL2 (s : State) (core pa : Nat) : State :=
  let line := pa / 128
  if dieOfCore core = homeDie pa || homeMode s line then fillL2 s line (classOn s (dieOfCore core) line) else s

/-- A read of a piece by an agent of a core: past the L1 for an uncached line, from the L1's copy, or from beyond, which requests the
line and fills the L1 (R165, R166, R170, R174). -/
def touchL1 (s : State) (core world : Nat) (cached : Bool) (pa n : Nat) : State :=
  if cached && (l1Sector (coreOf s core) world (pa / 32)).isSome then s
  else
    let s := requestLines (if cached then s else dropLine s core world (pa / 128)) (some core) pa n
    if cached && !inDoor s pa then fillSector (useL2 s core pa) core world (pa / 32) else s

/-- Replace a flight of a group. -/
def onFlight (s : State) (gid id : Nat) (f : Flight → Flight) : State :=
  onGroup s gid (fun g => { g with flights := g.flights.map (fun x => if x.id = id then f x else x) })

/-- A flight of a group, with the group. -/
def flightOf (s : State) (gid id : Nat) : Option (Group × Flight) :=
  (mget s.groups gid).bind (fun g => (g.flights.find? (fun x => x.id == id)).map (fun x => (g, x)))

/-- The pieces of an access that no copy in a world's L1 on a core serves. -/
def beyondL1 (s : State) (core world : Nat) (ps : List (Nat × Nat × Nat)) : List (Nat × Nat × Nat) :=
  ps.filter (fun q => (l1Sector (coreOf s core) world (q.2.1 / 32)).isNone)

/-- A lane's read has met an error (R409): it has no value. -/
def failLane (l : Nat) (integrity : Bool) (pa : Nat) (x : Flight) : Flight :=
  { x with bad := mput x.bad l (integrity, pa), vals := mput x.vals l 0#128 }

/-- A load's value of a lane is fixed now (R193): the bytes that the core sees, or the error that its read meets. (DEDUCED, log 46.) -/
def performLane (s : State) (gid id l : Nat) : State :=
  match flightOf s gid id with
  | none => s
  | some (g, x) =>
    match x.parts.find? (fun p => p.lane == l && (mget x.vals l).isNone) with
    | none => s
    | some p =>
      let err := pieceError s x.world (beyondL1 s g.core x.world p.pieces)
      let s := p.pieces.foldl (fun s q => touchL1 s g.core x.world (x.lines.contains (q.2.1 / 128)) q.2.1 q.2.2) s
      if err.1 = .clean then
        onFlight s gid id (fun x =>
          { x with vals := mput x.vals l (BitVec.ofNat 128 (leNat (readPieces s g.core x.world p.pieces))) })
      else onFlight s gid id (failLane l (err.1 == .integrity) err.2)

/-- The lanes of a load up to one are performed, in ascending order (R173). -/
def performUpTo (s : State) (gid id last : Nat) : State :=
  match flightOf s gid id with
  | none => s
  | some (_, x) => (x.parts.filter (fun p => decide (p.lane ≤ last))).foldl (fun s p => performLane s gid id p.lane) s

/-- The operation of a flight on one lane's operand. -/
def flightOp (x : Flight) (l : Nat) : SpOp :=
  match x.op with
  | .load => .load
  | .atomic aop wide => .atomic aop wide (mval x.opsB 0#64 l)
  | .atomicX wide => .atomicX wide (mval x.opsB 0#64 l) (mval x.opsC 0#64 l)

/-- The latest value of bytes in coherence order, for an atomic at its home (R194). -/
def latest (s : State) (world pa n : Nat) : List Byte := homeRead s world pa n

/-- One lane of an atomic is performed (R174, R183, R194): the writes of its core to the operand take their place first; its
write follows at once, ordered behind what a release put before it. -/
def atomicLane (s : State) (gid : Nat) (core : Nat) (x : Flight) (l : Nat) : State :=
  if (mget x.vals l).isSome then s
  else
    match (x.parts.find? (fun p => p.lane == l)).bind (fun p => p.pieces.head?) with
    | none => s
    | some (_, pa, n) =>
      if inDoor s pa then toDoor (onFlight s gid x.id (fun x => { x with vals := mput x.vals l 0#128 })) ⟨x.world, pa, n, false, false, []⟩
      else
      let s := (s.writes.filter (fun w => !w.home && w.core == some core && w.overlaps pa n)).foldl (fun s w => drain s w.id) s
      let err := (pieceError s x.world [(0, pa, n)]).1
      if err ≠ .clean then onFlight s gid x.id (failLane l (err == .integrity) pa)
      else
      let old := leNat (latest s x.world pa n)
      let s := onFlight s gid x.id (fun x => { x with vals := mput x.vals l (BitVec.ofNat 128 old) })
      match atomicNew (flightOp x l) old with
      | some v => homeWrite s core x.world pa (leBytes n v) x.after
      | none => s

/-- An atomic reads the latest write in coherence order, which its core then has seen: it becomes visible to the core, whose older
copies go (R194). -/
def seeLatest (s : State) (core world : Nat) (ps : List (Nat × Nat × Nat)) : State :=
  let s := (s.writes.filter (fun w => w.home && ps.any (fun p => w.overlaps p.2.1 p.2.2))).foldl (fun s w => reach s w.id core) s
  ps.foldl (fun s p => dropLine s core world (p.2.1 / 128)) s

/-- Perform a lane of an atomic, which has then seen the latest write. -/
def atomicAt (s : State) (gid id l : Nat) : State :=
  match flightOf s gid id with
  | none => s
  | some (g, x) =>
    match x.parts.find? (fun p => p.lane == l) with
    | none => s
    | some p => atomicLane (seeLatest s g.core x.world p.pieces) gid g.core x l

/-- Perform every lane of an atomic (R173), in ascending order, and keep its results for its twin (R421). -/
def performAtomic (s : State) (gid id : Nat) : State :=
  match flightOf s gid id with
  | none => s
  | some (_, x) =>
    if x.done then s
    else
      let s := x.parts.foldl (fun s p => atomicAt s gid id p.lane) s
      let s := onFlight s gid id (fun x => { x with done := true })
      let s := { s with shipped := s.shipped.filter (fun p => !(p.2.gid == gid && p.2.flight == id)) }
      onGroup s gid (fun g =>
        match x.twin, g.flights.find? (fun y => y.id == id) with
        | some n, some y => { g with acqVals := mput g.acqVals n y.vals }
        | _, _ => g)

/-- Perform a flight now, wholly (R193): whatever it is, its values are fixed. -/
def performFlight (s : State) (gid id : Nat) : State :=
  match flightOf s gid id with
  | none => s
  | some (_, x) =>
    match x.op with
    | .load => onFlight (performUpTo s gid id 31) gid id (fun x => { x with done := true })
    | _ => performAtomic s gid id

/-- Whether a flight takes the results of the other team of its pair (R421). -/
def mirrors (s : State) (g : Group) (x : Flight) : Bool :=
  x.twin.isSome && (((mget s.teams g.team).map (·.twin)).getD 0 == 2)

/-- Perform the flights of a group from the oldest to the newest that satisfies a test, so that those on common bytes keep
their order (R194). -/
def performWhere (s : State) (gid : Nat) (p : Flight → Bool) : State :=
  match mget s.groups gid with
  | none => s
  | some g =>
    let due := g.flights.dropWhile (fun x => !p x)
    (due.reverse.filter (fun x => !x.done && !mirrors s g x)).foldl (fun s x => performFlight s gid x.id) s

/-- Everything of a group that overlaps some pieces is performed before them (R194). -/
def performOverlapping (s : State) (gid : Nat) (ps : List (Nat × Nat × Nat)) : State :=
  performWhere s gid (fun x => x.parts.any (fun p => piecesMeet p.pieces ps))

/-- Everything of a group is performed, before a release or a fence (R195, R196). -/
def performAll (s : State) (gid : Nat) : State := performWhere s gid (fun _ => true)

/-- Put a flight out. -/
def launchFlight (s : State) (gid : Nat) (x : Flight) : State :=
  let s := { s with fresh := s.fresh + 1 }
  onGroup s gid (fun g => { g with flights := { x with id := s.fresh - 1 } :: g.flights })

/-- The address at which a lane consumed an error (R425). -/
def firstVa (ps : List (Nat × Nat × Nat)) (pa : Nat) : W64 :=
  match ps.find? (fun p => p.2.1 == pa) with
  | some p => BitVec.ofNat 64 p.1
  | none => 0#64

/-- Check what lanes are about to read (R409, R417): an error is consumed and the access has no effect; otherwise `k`. An error
of the lowest lane may be injected (R424). -/
def checkedRead (s : State) (c : Ctx) (t : Team) (T : Mask) (parts : List LanePart) (inject : Bool) (k : State → State) : State :=
  let errs := parts.map (fun p => (p.lane, p.pieces, pieceError s t.world p.pieces))
  let kind (e : UnitRead) := errs.filter (fun x => x.2.2.1 == e)
  let lanesFor (l : List (Nat × List (Nat × Nat × Nat) × UnitRead × Nat)) : Mask := if parts.length = 1 then T else maskOf (l.map (·.1))
  match kind .uncorrectable, kind .integrity with
  | e :: es, _ => consumeMemory s c.gid .uncorrectable (lanesFor (e :: es)) c.pc (firstVa e.2.1 e.2.2.2) e.2.2.2 0x03 t.interval
  | [], e :: es => consumeMemory s c.gid .integrity (lanesFor (e :: es)) c.pc (firstVa e.2.1 e.2.2.2) e.2.2.2 0x03 t.interval
  | [], [] =>
    if inject then
      match parts with
      | p :: _ =>
        match p.pieces with
        | q :: _ => consumeMemory s c.gid .integrity (if parts.length = 1 then T else maskOf [p.lane]) c.pc (BitVec.ofNat 64 q.1) q.2.1 0x03 t.interval
        | [] => k s
      | [] => k s
    else k (parts.foldl (fun s p => pieceCorrections s t.world p.pieces) s)

/-- Check what a word that executes once reads otherwise than as a load or an atomic (R409, R417, R425): the TADDR of an error is 0. -/
def checkedOnce (s : State) (c : Ctx) (t : Team) (cl : Mask) (ps : List (Nat × Nat × Nat)) (k : State → State) : State :=
  match pieceError s t.world ps with
  | (.clean, _) => k (pieceCorrections s t.world ps)
  | (e, pa) => consumeMemory s c.gid e cl c.pc 0#64 pa 0x03 t.interval

/-! ### What a release keeps behind the copies of its threads -/

/-- One source sector of a copy is read now: its bytes, or the error that its read meets (R409). -/
def takeSource (c : Copy) (sec : Nat) (err : UnitRead × Nat) (bs : List Byte) : Copy :=
  if (mget c.got sec).isSome || (mget c.failed sec).isSome then c
  else
    match err.1 with
    | .uncorrectable => { c with failed := mput c.failed sec (false, err.2) }
    | .integrity => { c with failed := mput c.failed sec (true, err.2) }
    | _ => { c with got := mput c.got sec bs }

/-- A copy whose source is read now, for a release or a fence by the lanes of CL: a transfer of one of them, or a bulk copy of the
group (R202 d, R205). A source sector of a slot that is absent is read when it is present: a release waits for it (`copyWaits`). -/
def captured (s : State) (gid : Nat) (g : Group) (t : Team) (cl : Mask) (c : Copy) : Copy :=
  match c.kind with
  | .acp cg _ _ lane src =>
    if cg = gid && has cl lane then takeSource c c.sec (pieceError s t.world src) (acpBytes s t g.core src) else c
  | .bulk cg _ store _ _ _ sectors =>
    if cg ≠ gid || cl = 0#32 then c
    else
      sectors.foldl (fun c q =>
        if store then
          (if t.absent.contains q.1 then c
           else takeSource c q.1 (if sourceBad t q then .uncorrectable else .clean, 0) (spBytes t (32 * q.1) 32))
        else takeSource c q.1 (pieceError s t.world (bulkPieces q.2)) (bulkBytes s t g.core q.2)) c

/-- A release has the copies that its threads issued read their source now. -/
def captureCopies (s : State) (gid : Nat) (g : Group) (t : Team) (cl : Mask) : State :=
  if s.copies.isEmpty then s else { s with copies := s.copies.map (fun p => (p.1, captured s gid g t cl p.2)) }

/-- Whether a bulk store of a group has a source sector that is absent and not yet read, for which a release and a fence wait
(R163, R202 d; DEDUCED, log 13). -/
def copyWaits (s : State) (gid : Nat) (t : Team) : Bool :=
  s.copies.any (fun p =>
    match p.2.kind with
    | .bulk cg _ store _ _ _ sectors =>
      cg == gid && store && sectors.any (fun q => t.absent.contains q.1 && (mget p.2.got q.1).isNone && (mget p.2.failed q.1).isNone)
    | _ => false)

/-- What a release does first (R196): the group's outstanding operations are performed, and its copies read their source. -/
def beforeRelease (s : State) (gid : Nat) (g : Group) (t : Team) (cl : Mask) : State :=
  captureCopies (performAll s gid) gid g t cl

end Sys2Proof.Machine
end

