-- ==== Sys2Proof/Machine/Twin.lean ====
section
/-! DEFINITION. Pair operations of twin teams at their issue (R420, R421, R439): an entry with the signature is made, the group
waits until it is matched (DEDUCED, log 8), and the operation is then performed in the role of its team. -/

namespace Sys2Proof.Machine

/-- In which role a pair operation is performed. -/
inductive PairRole where
  | alone
  | leading
  | trailing
deriving DecidableEq, Repr

/-- The leading team of a pair. -/
def pairId (g : Group) (t : Team) : Nat := if t.twin = 2 then t.mate.getD g.team else g.team

/-- The signature of an operation (R420): bits 62:56 and 12:0 of the word as 4 bytes, then the lanes' records. (DEDUCED, log 37.) -/
def signature (w : BitVec 64) (records : List Byte) : BitVec 64 :=
  crc64 (leBytes 4 (slice w.toNat 56 7 * 2 ^ 13 + slice w.toNat 0 13) ++ records)

/-- One lane's record (R420). -/
def laneRecord (lane : Nat) (bytes : List Byte) : List Byte := BitVec.ofNat 8 lane :: bytes

/-- Whether a hold is the wait for the compare buffer. -/
def Hold.isTwin : Hold → Bool
  | .twin => true
  | _ => false

/-- The number under which the results of a pair operation, or of an acquire, are kept in a twin pair. -/
def pairKey (g : Group) (t : Team) : Option Nat := if t.twin = 0 then none else some (2 * g.pairCount + 1)
def acqKey (g : Group) (t : Team) : Option Nat := if t.twin = 0 then none else some (2 * g.acqCount)

/-- What a group of the trailing team waits for: a result of a number that the leading team has not yet left. -/
def resultHold (s : State) (c : Ctx) (t : Team) (key : Option Nat) : List Hold :=
  match key with
  | some n => if t.twin = 2 && (twinResult s c.gid key).isNone then [.result c.gid n] else []
  | none => []

/-- Whether bytes of entries meet others, in the slot and beyond it alike. -/
def entryMeets (xs ys : List (Bool × Nat × Nat)) : Bool :=
  xs.any (fun x => ys.any (fun y => x.1 == y.1 && decide (x.2.1 < y.2.1 + y.2.2) && decide (y.2.1 < x.2.1 + x.2.2)))

/-- Whether an entry of a team has not yet been performed on some bytes. -/
def unwritten (s : State) (pair : Nat) (trailing : Bool) (at_ : List (Bool × Nat × Nat)) : Bool :=
  s.cmps.any (fun e => e.pair == pair && e.trailing == trailing && entryMeets e.at_ at_)

/-- A load of a twin team returns the data of its own team's entries: it waits until those on its bytes are performed (R421; DEDUCED,
DEDUCED, log 8). -/
def afterEntries (s : State) (c : Ctx) (g : Group) (t : Team) (at_ : List (Bool × Nat × Nat)) (k : State) : State :=
  if t.twin ≠ 0 && unwritten s (pairId g t) (t.twin = 2) at_ then
    onGroup s c.gid (fun g => { g with resume := some c, holds := .entry (pairId g t) (t.twin = 2) at_ :: g.holds })
  else k

/-- Do a pair operation that stores to some bytes: at once outside twin mode; otherwise once its entry is matched and, in the trailing
team, the leading team has left the result of a number, if it leaves one. -/
def pairOp (s : State) (c : Ctx) (g : Group) (t : Team) (at_ : List (Bool × Nat × Nat)) (records : List Byte) (key : Option Nat)
    (k : State → Group → PairRole → State) : State :=
  if t.twin = 0 then k s g .alone
  else
    let mine (e : CmpEntry) : Bool :=
      e.pair == pairId g t && e.trailing == decide (t.twin = 2) && e.grp == g.num && e.count == g.pairCount
    match s.cmps.find? mine with
    | some e =>
      let waits := if e.matched then resultHold s c t key else []
      if e.matched && waits.isEmpty then
        let g := { g with pairCount := g.pairCount + 1, holds := g.holds.filter (fun h => !h.isTwin), resume := none }
        k { s with cmps := s.cmps.filter (fun e => !mine e), groups := mput s.groups c.gid g } g
          (if t.twin = 1 then .leading else .trailing)
      else onGroup s c.gid (fun _ => { g with resume := some c, holds := waits ++ g.holds })
    | none =>
      let (g, flip) := fijEvent g 4
      let sig := signature c.word records
      let sig := if flip then sig ^^^ (1#64 <<< slice g.fij.toNat 16 6) else sig
      { s with
        groups := mput s.groups c.gid { g with resume := some c, holds := .twin :: g.holds }
        cmps := s.cmps ++ [⟨pairId g t, decide (t.twin = 2), g.num, g.pairCount, sig, c, at_, false⟩] }

end Sys2Proof.Machine
end

