-- ==== Sys2Proof/Machine/Memory.lean ====
section
/-! DEFINITION. The meanings of the memory instructions: loads, stores, atomics, fences, cache control, presence bits and
instruction-fetch coherence (R175 to R192). -/

namespace Sys2Proof.Machine

/-- The bytes that SZ selects (R175). -/
def szBytes (f : SForm) : Nat := 2 ^ memSz f

/-- The registers of an access of `n` bytes. -/
def regsOf (n : Nat) : Nat := max 1 (n / 4)

/-- The lanes that compute an address: the lowest of CL for a single execution (R54). (DEDUCED, log 38.) -/
def addrLanes (once : Bool) (cl : Mask) : List Nat := if once then (lanesOf cl).take 1 else lanesOf cl

/-- What each lane needs translated; a single execution answers for all of CL (R81). -/
def whoNeeds (once : Bool) (cl : Mask) (as : List (Nat × LaneAcc)) : List (Nat × List Nat) :=
  (spread once cl as).map (fun p => (p.1, p.2.pieces.map (·.1)))

/-- A flight with nothing in it. -/
def Flight.blank : Flight :=
  { id := 0, op := .load, dest := none, uniform := false, noWrite := false, size := 4, sx := false, latch := 0, acq := none, world := 0
    parts := [], lines := [], opsB := [], opsC := [], done := false, vals := [], bad := [], pc := 0#64, inject := false, twin := none, interval := 0
    after := [] }

/-- The lines that an access may fill into the L1: those not mapped uncached (R165, R317). -/
def fillLines (tr : Nat → Nat × Nat) (as : List (Nat × LaneAcc)) : List Nat :=
  (as.flatMap (fun p => p.2.pieces.filterMap (fun q => if (tr q.1).2.testBit 5 then none else some ((tr q.1).1 / 128)))).eraseDups

/-- A scratchpad load (R164, R178, R179). -/
def loadScratch (f : SForm) (acq : Option Nat) (n : Nat) (once : Bool) (d : Nat) (as : List (Nat × LaneAcc)) (s : State) (c : Ctx)
    (g : Group) (t : Team) (cl : Mask) : State :=
  let key := if acq.isSome then acqKey g t else none
  let waits := resultHold s c t key
  if !waits.isEmpty then onGroup s c.gid (fun g => { g with resume := some c, holds := waits ++ g.holds })
  else
    let offs := as.map (fun p => (p.1, (p.2.pieces.headD (0, 0)).1))
    afterEntries s c g t (offs.map (fun p => (true, p.2, n))) (
      let (g, inj) := fijEvent g 5
      let bad := offs.filter (fun p => (absentSector t p.2 n).isNone && spBad t p.2 n)
      let s := { s with groups := mput s.groups c.gid g }
      if inj then
        consumeScratch s c.gid t ((offs.headD (0, 0)).2) (if once then cl else maskOf [(lanesOf cl).headD 0]) c.pc t.interval
      else
        match bad with
        | p :: _ => consumeScratch s c.gid t p.2 (if once then cl else maskOf (bad.map (·.1))) c.pc t.interval
        | [] =>
          let (g, mark) := if once || f.nw then (g, false) else fijEvent g 2
          let g := if acq.isSome then { g with acqCount := g.acqCount + 1 } else g
          let xs := offs.zipIdx.map (fun p =>
            ({ lane := if once then none else some p.1.1, mask := if once then cl else maskOf [p.1.1], by_ := maskOf [p.1.1], sec := 0
               off := p.1.2, size := n, op := .load, dest := some d, uniform := once, noWrite := f.nw, sx := memSx f, latch := g.latchId
               pc := c.pc, key := key, inject := mark && p.2 == 0, interval := t.interval, acq := acq, after := [] } : SpAccess))
          spRun (endWord s c g true []) c.gid g.team xs)

/-- The uniform registers from which a `.lc` address is computed (R157). -/
def localRegs (spc : Nat) : List (Nat × Nat) := if spc = 2 then [(2, 28), (2, 29), (2, 30)] else []

/-- The bytes of an access beyond the slot, as the entries of a twin pair list them. -/
def entryBytes (parts : List LanePart) : List (Bool × Nat × Nat) := parts.flatMap (fun p => p.pieces.map (fun q => (false, q.2.1, q.2.2)))

/-- A load (R178, R179, R181). (DEDUCED, log 40.) -/
def loadWord (f : SForm) (acq : Option Nat) (spc n : Nat) (s : State) : State :=
  let once := ud f
  let a := opnd f f.a (fnBit f 9) (lqA f) (spc == 0)
  let d := if once then uni f f.d else f.d.toNat
  issueWord s f.pg f.pn (a.needs.and { vtop := if once then 0 else d + regsOf n }) (a.regs ++ localRegs spc) fun s c g t cl =>
    if cl = 0#32 then endWord s c g true []
    else
      let as := (addrLanes once cl).map (fun l => (l, laneAcc g t spc l (a.read g l) (offOf f) n))
      let fs := accFailures (spread once cl as)
      if !fs.isEmpty then trapLowest s c fs
      else if spc = 1 then loadScratch f acq n once d as s c g t cl
      else
        withPages s c (whoNeeds once cl as) 1 fun s g tr =>
          let parts := as.map (fun p => (⟨p.1, physPieces tr p.2.pieces⟩ : LanePart))
          afterEntries s c g t (entryBytes parts) <|
          let (g, inj) := if spc = 0 then fijEvent g 3 else (g, false)
          checkedRead { s with groups := mput s.groups c.gid g } c t cl parts inj fun s =>
            let (g, mark) := if once || f.nw then (g, false) else fijEvent g 2
            let x : Flight := { Flight.blank with
              dest := some d, uniform := once, noWrite := f.nw, size := n, sx := memSx f, latch := g.latchId, acq := acq, world := t.world
              parts := parts, lines := fillLines tr as, pc := c.pc, inject := mark, twin := if acq.isSome then acqKey g t else none, interval := t.interval }
            let g := if acq.isSome then { g with acqCount := g.acqCount + 1 } else g
            launchFlight (endWord s c g true []) c.gid x

/-- LD (R178). -/
def execLd (f : SForm) (s : State) : Out := .next (loadWord f none (memSpc f) (szBytes f) s)

/-- SLD (R179). -/
def execSld (f : SForm) (s : State) : Out := .next (loadWord f none 1 (4 * 2 ^ memSz f) s)

/-- LDA (R181). -/
def execLda (f : SForm) (s : State) : Out := .next (loadWord f (some (memScope f)) (memSpc f) (szBytes f) s)

/-- The data of a store in a lane (R180). -/
def storeData (f : SForm) (g : Group) (n l : Nat) : List Byte :=
  leBytes n ((List.range (regsOf n)).foldl (fun x i =>
    x + 2 ^ (32 * i) * (if ud f then uRead g (uni f f.d + i) else vRead g (f.d.toNat + i) l).toNat) 0)

/-- The address in a signature's record (R439): 8 bytes for `.g`, 4 for an offset. -/
def addrBytes (f : SForm) (spc a : Nat) : List Byte :=
  if spc = 0 then leBytes 8 (wrap 64 (a + offOf f)) else leBytes 4 (wrap 32 (a + offOf f))

/-- The pieces as single writes: 16 bytes are two (R172). -/
def halfPieces (ps : List (Nat × Nat × Nat)) : List (Nat × Nat × Nat) :=
  ps.flatMap (fun p => if p.2.2 = 16 then [(p.1, p.2.1, 8), (p.1 + 8, p.2.1 + 8, 8)] else [p])

/-- One write of a store: through an uncached mapping it is performed at its home at once (R170). -/
def storeOne (s : State) (core world : Nat) (uncached : Bool) (pa : Nat) (bs : List Byte) (after : Before) : State :=
  let t := storeWrite s core world pa bs after
  if uncached then settle (drain t s.fresh) else t

/-- The writes of a lane, piece by piece, in the order of the bytes (R172, R180); a store into a doorbell frame rings instead (R430). -/
def storePieces (s : State) (core world : Nat) (plain : Bool) (uncached : Nat → Bool) (after : Before) (bs : List Byte)
    (ps : List (Nat × Nat × Nat)) : State :=
  if ps.any (fun p => inDoor s p.2.1) then
    ps.foldl (fun s p => toDoor s ⟨world, p.2.1, p.2.2, true, plain, visibleTo s core⟩) s
  else
    ((halfPieces ps).foldl (fun (x : State × Nat) p =>
      (storeOne x.1 core world (uncached p.1) p.2.1 ((bs.drop x.2).take p.2.2) after, x.2 + p.2.2)) (s, 0)).1

/-- What a release by the lanes of CL does first, and what it puts before its effect for the agents of a scope (R189, R196). -/
def releaseAt (s : State) (c : Ctx) (g : Group) (t : Team) (cl : Mask) (scope : Nat) : State × Before :=
  let s := beforeRelease s c.gid g t cl
  (s, beforeFor s g.core (scopeAgents s g t scope))

/-- What the trailing team of a pair has seen once the leading team has performed a store (R421): its own thread sees the write. -/
def mirrorStore (s : State) (gid : Nat) (g : Group) (world : Nat) (ps : List (Nat × Nat × Nat)) : State :=
  let lead := ((twinOf s g).map (·.2.core)).getD g.core
  let s := performOverlapping s gid ps
  let s := (s.writes.filter (fun w => w.core == some lead && ps.any (fun p => w.overlaps p.2.1 p.2.2))).foldl (fun s w => reach s w.id g.core) s
  ps.foldl (fun s p => dropLine s g.core world (p.2.1 / 128)) s

/-- A store (R180, R181). -/
def storeWord (f : SForm) (rel : Option Nat) (s : State) : State :=
  let spc := memSpc f
  let n := szBytes f
  let a := opnd f f.a (fnBit f 9) (lqA f) (spc == 0)
  let dregs := (List.range (regsOf n)).map (fun i => if ud f then (2, uni f f.d + i) else (1, f.d.toNat + i))
  issueWord s f.pg f.pn (a.needs.and { vtop := if ud f then 0 else f.d.toNat + regsOf n }) (a.regs ++ dregs ++ localRegs spc) fun s c g t cl =>
    if cl = 0#32 then endWord s c g false []
    else
      let as := (lanesOf cl).map (fun l => (l, laneAcc g t spc l (a.read g l) (offOf f) n))
      let fs := accFailures as
      let records := (lanesOf cl).flatMap (fun l => laneRecord l (addrBytes f spc (a.read g l) ++ storeData f g n l))
      if !fs.isEmpty then trapLowest s c fs
      else if spc = 1 then
        pairOp s c g t (as.map (fun p => (true, (p.2.pieces.headD (0, 0)).1, n))) records none fun s g _ =>
          let (s, before) := match rel with
            | some sc => releaseAt s c g t cl sc
            | none => (s, [])
          let g := (mget s.groups c.gid).getD g
          let xs := as.map (fun p =>
            ({ lane := some p.1, mask := if t.twin = 0 then maskOf [p.1] else 0#32, by_ := maskOf [p.1], sec := 0
               off := (p.2.pieces.headD (0, 0)).1, size := n, op := .store (storeData f g n p.1), dest := none, uniform := false
               noWrite := true, sx := false, latch := 0, pc := c.pc, key := none, inject := false, interval := t.interval, acq := none
               after := before ++ (g.lane p.1).fence } : SpAccess))
          spRun (endWord s c g false []) c.gid g.team xs
      else
        withPages s c (whoNeeds false cl as) 2 fun s g tr =>
          let parts : List (Nat × List (Nat × Nat × Nat)) := as.map (fun p => (p.1, physPieces tr p.2.pieces))
          let key := pairKey g t
          let pieces := parts.flatMap (fun p => p.2)
          pairOp s c g t (entryBytes (parts.map (fun p => (⟨p.1, p.2⟩ : LanePart)))) records key fun s g role =>
            let esc (s : State) : State :=
              if rel.isSome || (decide (role = .alone) && decide (t.flags % 2 = 0)) then escape s g.team else s
            if role = .trailing then
              let s := mirrorStore s c.gid g t.world pieces
              endWord (esc s) c ((mget s.groups c.gid).getD g) false []
            else
              let (s, before) : State × Before := match rel with
                | some sc => releaseAt s c g t cl sc
                | none => (performOverlapping s c.gid pieces, [])
              let g := (mget s.groups c.gid).getD g
              let s := parts.foldl (fun s p =>
                storePieces s g.core t.world rel.isNone (fun va => (tr va).2.testBit 5) (before ++ (g.lane p.1).fence) (storeData f g n p.1) p.2) s
              let s := if role = .leading then keepResult s c.gid key 0 0#128 else s
              endWord (esc s) c ((mget s.groups c.gid).getD g) false []

/-- ST (R180). -/
def execSt (f : SForm) (s : State) : Out := .next (storeWord f none s)

/-- STREL (R181). -/
def execStrel (f : SForm) (s : State) : Out := .next (storeWord f (some (memScope f)) s)

/-! ### Atomics (R182 to R185) -/

/-- End the lease of a line wherever it is held; a request of another agent raises the holder's counter (R174). -/
def endLease (s : State) (line : Nat) (byRequest : Bool) : State :=
  { s with cores := s.cores.map (fun p =>
      (p.1, if byRequest then yieldLease line p.2 else { p.2 with leases := p.2.leases.filter (fun x => x.line != line) })) }

/-- Place an atomic's lanes (R170, R174, R303): with the lease of the line, or shipped to the home slice; `cached` lists the lines that
are not mapped uncached. -/
def placeAtomic (s : State) (gid core flight : Nat) (cached : List Nat) (parts : List LanePart) : State :=
  parts.foldl (fun s p =>
    let line := ((p.pieces.headD (0, 0, 0)).2.1) / 128
    if predCount (coreOf s core) line < 2 && !homeMode s line && cached.contains line then
      onCore (requestLines s (some core) (128 * line) 128) core (fun c =>
        { c with leases := ⟨line, 2 * s.clock⟩ :: c.leases.filter (fun x => x.line != line) })
    else
      { s with fresh := s.fresh + 1, shipped := mput s.shipped s.fresh ⟨gid, flight, p.lane, line⟩ }) s

/-- An atomic (R182 to R185): `mk` gives the operation from the lane's operands B and C; `noRes` for RED. -/
def atomicWord (f : SForm) (x : Bool) (noRes : Bool) (s : State) : State :=
  let wide := fnBit f 7
  let n := if wide then 8 else 4
  let sp := fnBit f 8
  let a := opnd f f.a (fnBit f 10) (lqA f) (!sp)
  let b := opnd f f.b (fnBit f 9) (lqB f) wide
  let cc := if x then opnd f f.c (fnBit f 1) (lqC f) wide else .none
  let d : Dest := if noRes then .none else .v f.d.toNat wide
  let acq := ordOf f % 2 = 1
  let rel := ordOf f / 2 = 1
  let aop := f.c.toNat
  issueWord s f.pg f.pn (((a.needs.and b.needs).and cc.needs).and d.needs) (a.regs ++ b.regs ++ cc.regs) fun s c g t cl =>
    if cl = 0#32 then endWord s c g d.isReg []
    else
      let val (o : Opnd) (l : Nat) : W64 := BitVec.ofNat 64 (o.read g l)
      let as := (lanesOf cl).map (fun l =>
        (l, if sp then scratchAcc t ((a.read g l % 2 ^ 32 : Nat)) n n else globalAcc (val a l) n))
      let fs := accFailures as
      let records := (lanesOf cl).flatMap (fun l =>
        laneRecord l ((if sp then leBytes 4 (a.read g l) else leBytes 8 (a.read g l)) ++ (if x then [] else [BitVec.ofNat 8 aop]) ++
          leBytes n (b.read g l) ++ (if x then leBytes n (cc.read g l) else [])))
      let opB : SMap W64 := (lanesOf cl).map (fun l => (l, val b l))
      let opC : SMap W64 := (lanesOf cl).map (fun l => (l, val cc l))
      if !fs.isEmpty then trapLowest s c fs
      else if sp then
        let key := pairKey g t
        pairOp s c g t [] records key fun s g _ =>
          let (g, inj) := fijEvent g 5
          let offs := as.map (fun p => (p.1, (p.2.pieces.headD (0, 0)).1))
          let bad := offs.filter (fun p => (absentSector t p.2 n).isNone && spBad t p.2 n)
          let s := { s with groups := mput s.groups c.gid g }
          if inj then consumeScratch s c.gid t ((offs.headD (0, 0)).2) (maskOf [(lanesOf cl).headD 0]) c.pc t.interval
          else
            match bad with
            | p :: _ => consumeScratch s c.gid t p.2 (maskOf (bad.map (·.1))) c.pc t.interval
            | [] =>
              let (s, before) := if rel then releaseAt s c g t cl (atomScope f) else (s, [])
              let g := (mget s.groups c.gid).getD g
              let (g, mark) := if noRes || f.nw then (g, false) else fijEvent g 2
              let xs := offs.zipIdx.map (fun p =>
                ({ lane := some p.1.1, mask := maskOf [p.1.1], by_ := maskOf [p.1.1], sec := 0, off := p.1.2, size := n
                   op := if x then .atomicX wide (mval opB 0#64 p.1.1) (mval opC 0#64 p.1.1) else .atomic aop wide (mval opB 0#64 p.1.1)
                   dest := if noRes then none else some f.d.toNat, uniform := false, noWrite := f.nw, sx := false, latch := g.latchId
                   pc := c.pc, key := key, inject := mark && p.2 == 0, interval := t.interval
                   acq := if acq then some (atomScope f) else none, after := before ++ (g.lane p.1.1).fence } : SpAccess))
              spRun (escape (endWord s c g d.isReg []) g.team) c.gid g.team xs
      else
        withPages s c (whoNeeds false cl as) 0xB fun s g tr =>
          let parts := as.map (fun p => (⟨p.1, physPieces tr p.2.pieces⟩ : LanePart))
          checkedRead s c t cl parts false fun s =>
            let key := pairKey g t
            pairOp s c g t [] records none fun s g role =>
              let (s, before) := if rel then releaseAt s c g t cl (atomScope f) else (s, [])
              let g := (mget s.groups c.gid).getD g
              let (g, mark) := if noRes || f.nw then (g, false) else fijEvent g 2
              let fl : Flight := { Flight.blank with
                op := if x then .atomicX wide else .atomic aop wide, dest := if noRes then none else some f.d.toNat, noWrite := f.nw || noRes
                size := n, latch := g.latchId, acq := if acq then some (atomScope f) else none, world := t.world, parts := parts
                lines := fillLines tr as, opsB := opB, opsC := opC, pc := c.pc, inject := mark, twin := key, interval := t.interval
                after := before ++ (lanesOf cl).flatMap (fun l => (g.lane l).fence) }
              let id := s.fresh
              let s := launchFlight (escape (endWord s c g d.isReg []) g.team) c.gid fl
              if role = .trailing then s else placeAtomic s c.gid g.core id (fillLines tr as) parts

/-- ATOM (R183). -/
def execAtom (f : SForm) (s : State) : Out := .next (atomicWord f false false s)

/-- ATOMX (R184). -/
def execAtomx (f : SForm) (s : State) : Out := .next (atomicWord f true false s)

/-- RED (R183). -/
def execRed (f : SForm) (s : State) : Out := .next (atomicWord f false true s)

/-! ### Fences and cache control -/

/-- What a releasing fence by some lanes puts before their later writes (R196), as far as some agent does not see it yet. -/
def fenceLanes (s : State) (gid : Nat) (cl : Mask) (before : Before) : State :=
  onGroup s gid (fun g => g.onLanes cl (fun x => { x with fence := before ++ x.fence.filter (fun p => s.writes.any (fun w => w.id == p.1)) }))

/-- A word that takes the place of a full fence in the ordering matrices, and is a release (R286, R329, R331). -/
def fenceWord (s : State) (c : Ctx) (g : Group) (t : Team) (cl : Mask) (scope : Nat) : State :=
  let (s, before) := releaseAt s c g t cl scope
  escape (fenceLanes s c.gid cl before) g.team

/-- FENCE (R166, R186, R196, R197): every kind is kept behind the group's earlier operations and the sources of its copies; an acquiring
one invalidates the L1; a releasing one puts what its core has seen before the lanes' later writes; the full one makes that visible to
its scope. (DEDUCED, log 45.) -/
def execFence (f : SForm) (s : State) : Out :=
  .next (issueWord s f.pg f.pn {} [] fun s c g t cl =>
    if cl = 0#32 then endWord s c g false []
    else
      let kind := fnField f 3 2
      let scope := scopeAgents s g t (memScope f)
      let s := beforeRelease s c.gid g t cl
      let s := if kind = 0 then fenceFull s g.core scope else s
      let s := if kind = 2 then s else acquireAt s g.core t.world (memScope f)
      let s := if kind = 1 then s else escape s g.team
      let s := if kind = 1 then s else fenceLanes s c.gid cl (beforeFor s g.core scope)
      endWord s c ((mget s.groups c.gid).getD g) false [])

/-- An address as LD `.g` takes it, with UA in FN bit 10 (R187, R188). -/
def cacheAddr (f : SForm) : Opnd := opnd f f.a (fnBit f 10) (lqA f) true

/-- Cache control of the line that holds an address (R187): checked as a read. -/
def cctlWord (f : SForm) (act : State → Group → Team → List Nat → State) (s : State) : State :=
  let a := cacheAddr f
  issueWord s f.pg f.pn a.needs a.regs fun s c g t cl =>
    let as := (lanesOf cl).map (fun l => (l, globalAcc (BitVec.ofInt 64 (a.read g l + offOf f)) 1))
    let fs := accFailures as
    if !fs.isEmpty then trapLowest s c fs
    else
      withPages s c (whoNeeds false cl as) 1 fun s g tr =>
        endWord (act s g t (as.flatMap (fun p => p.2.pieces.map (fun q => (tr q.1).1 / 128)))) c g false []

/-- CCTL_IVL1 (R187). -/
def execCctlIvl1 (f : SForm) (s : State) : Out :=
  .next (cctlWord f (fun s g t lines =>
    onCore s g.core (fun c => { c with l1 := c.l1.filter (fun y => !(y.world == t.world && lines.contains y.line)) })) s)

/-- CCTL_IVL1_ALL (R187). -/
def execCctlIvl1All (f : SForm) (s : State) : Out :=
  .next (issueWord s f.pg f.pn {} [] fun s c g t cl =>
    let s := if cl = 0#32 then s else onCore s g.core (fun c => { c with l1 := c.l1.filter (fun y => y.world != t.world) })
    endWord s c g false [])

/-- Move the entries with a property to the end, the least recently used. -/
def demote {α : Type} (p : α → Bool) (l : List α) : List α := l.filter (fun x => !p x) ++ l.filter p

/-- CCTL_DEMOTE (R187). -/
def execCctlDemote (f : SForm) (s : State) : Out :=
  .next (cctlWord f (fun s g _ lines =>
    lines.foldl (fun s line =>
      let home := homeDie (128 * line)
      if home = dieOfCore g.core then onDie s home (fun d => { d with l2 := demote (fun x => x.line == line) d.l2 })
      else onDie s (dieOfCore g.core) (fun d => { d with rdc := demote (fun x => x.line == line) d.rdc })) s) s)

/-- Fill a line's sectors into the L1 of a world on a core (R165). -/
def fillLine (s : State) (core world line : Nat) : State :=
  (List.range 4).foldl (fun s i => touchL1 s core world true (128 * line + 32 * i) 32) s

/-- PRF (R188): only where both the TLB and the die's translation cache hold a translation that grants the read; it raises nothing and
orders nothing. -/
def execPrf (f : SForm) (s : State) : Out :=
  let a := cacheAddr f
  .next (issueWord s f.pg f.pn a.needs a.regs fun s c g t cl =>
    let s := (lanesOf cl).foldl (fun s l =>
      let ea := wrap 64 (a.read g l + offOf f)
      if ea ≥ 2 ^ 56 then s
      else
        match (coreOf s g.core).tlb.find? (fun x => x.covers t.space ea && grants x.attrs 1),
              (tcOf s (dieOfCore g.core) t.part).find? (fun x => x.covers t.space ea && grants x.attrs 1) with
        | some x, some _ => prefetch s g.core t.world (x.pa ea / 128) x.attrs (fnField f 8 2)
        | _, _ => s) s
    endWord s c g false [])
where
  /-- Fill the levels that LVL names. -/
  prefetch (s : State) (core world line attrs lvl : Nat) : State :=
    if attrs.testBit 5 then s
    else
      let s := fillL2 s line (slice attrs 3 2)
      if lvl = 0 then fillLine s core world line else s

/-- IFLUSH (R190): the lines of the world's instruction-cache portion that meet the lanes' ranges leave, on every core of the
team. -/
def execIflush (f : SForm) (s : State) : Out :=
  let a := cacheAddr f
  let b := opnd f f.b (fnBit f 9) (lqB f) false
  .next (issueWord s f.pg f.pn (a.needs.and b.needs) (a.regs ++ b.regs) fun s c g t cl =>
    let ranges := (lanesOf cl).map (fun l => (a.read g l, b.read g l))
    let hit (x : ILine) : Bool := x.world == t.world && ranges.any (fun r =>
      decide (0 < r.2) && decide (r.1 < 128 * x.vline + 128) && decide (128 * x.vline < r.1 + r.2))
    let s := (teamCores s t).foldl (fun s k => onCore s k (fun c => { c with icache := c.icache.filter (fun x => !hit x) })) s
    endWord s c g false [])

/-- ISYNC (R191). -/
def execIsync (f : SForm) (s : State) : Out :=
  .next (issueWord s f.pg f.pn {} [] fun s c g _ cl => endWord s c (if cl = 0#32 then g else { g with fetched := [] }) false [])

/-- The sectors that a PRES word names in each lane, once its runs are in bounds (R189). -/
def presWord (f : SForm) (k : State → Ctx → Group → Team → Mask → (Nat → List Nat) → State) (s : State) : State :=
  let a := opnd f f.a (fnBit f 10) (lqA f) false
  let count := f.b.toNat % 32 + 1
  issueWord s f.pg f.pn a.needs a.regs fun s c g t cl =>
    let fs := accFailures ((lanesOf cl).map (fun l => (l, scratchAcc t ((a.read g l : Nat)) (32 * count) 32)))
    if !fs.isEmpty then trapLowest s c fs
    else k s c g t cl (fun l => (List.range count).map (fun i => a.read g l / 32 + i))

/-- PRES_TEST (R189): who sees a bit set by PRES.SET has seen what that release put before it (R196). -/
def execPresTest (f : SForm) (s : State) : Out :=
  .next (presWord f (fun s c g t cl secs =>
    let set_ := ((lanesOf cl).flatMap secs).filter (fun x => !t.absent.contains x)
    let s := set_.foldl (fun s x => seeBefore s g.core (relsAt t (presPlace x) 1)) s
    endWord s c ((lanesOf cl).foldl (fun g l => pWrite g f.d.toNat l ((secs l).all (fun x => !t.absent.contains x))) g) false []) s)

/-- PRES_SET (R163, R189). -/
def execPresSet (f : SForm) (s : State) : Out :=
  .next (presWord f (fun s c g t cl secs =>
    if cl = 0#32 then endWord s c g false []
    else
      let (s, before) := releaseAt s c g t cl 1
      let s := endWord s c ((mget s.groups c.gid).getD g) false []
      ((lanesOf cl).flatMap secs).foldl (fun s x =>
        if copyInto s g.team x then s else present (addRel s g.team (presPlace x) 1 before) g.team x) s) s)

/-- PRES_CLR (R163, R189). -/
def execPresClr (f : SForm) (s : State) : Out :=
  .next (presWord f (fun s c g _ cl secs =>
    let s := ((lanesOf cl).flatMap secs).foldl (fun s x => if copyInto s g.team x then s else clearPresence s g.team x) s
    endWord s c g false []) s)

end Sys2Proof.Machine
end

