-- ==== Sys2Proof/Machine/Coherence.lean ====
section
/-! DEFINITION. Coherence across dies (R290 to R305): requests and their resolution at the Nougat dies, the messages at holders,
homes and requesters, recall, spill and the backstop directories, and the loss of a Nougat die. The protocol moves tags and states;
the values of memory are kept where R193 and R194 put them, and it changes none of them (R304). -/

namespace Sys2Proof.Machine

/-! ### The parts of the protocol's state -/

/-- The home die of a line, the Nougat die that tracks it, and that die's number among senders and receivers. -/
def homeOf (line : Nat) : Nat := homeDie (128 * line)
def halfOf (line : Nat) : Nat := nougatOf (128 * line)
def nougatUnit (line : Nat) : Nat := 8 + halfOf line

/-- A Nougat die with nothing in it, and access to one. -/
def Nougat.empty : Nougat := ⟨false, [], []⟩
def nougatAt (s : State) (h : Nat) : Nougat := mval s.nougats Nougat.empty h
def onNougat (s : State) (h : Nat) (f : Nougat → Nougat) : State := { s with nougats := mput s.nougats h (f (nougatAt s h)) }

/-- The almanac entry of a line, and its change. -/
def almOf (s : State) (line : Nat) : Option Alm := (nougatAt s (halfOf line)).alm.find? (fun a => a.line == line)
def onAlm (s : State) (line : Nat) (f : Alm → Alm) : State :=
  onNougat s (halfOf line) (fun n => { n with alm := n.alm.map (fun a => if a.line = line then f a else a) })
def freeAlm (s : State) (line : Nat) : State := onNougat s (halfOf line) (fun n => { n with alm := n.alm.filter (fun a => a.line != line) })

/-- A line of its world in a die's RDC (R384), and its change. -/
def rdcOf (s : State) (die line : Nat) : Option RdcLine := (dieOf s die).rdc.find? (fun x => x.line == line && x.world == worldOfLine s line)
def onRdc (s : State) (die line : Nat) (f : RdcLine → RdcLine) : State :=
  onDie s die (fun d => { d with rdc := d.rdc.map (fun x => if x.line = line then f x else x) })
def dropRdc (s : State) (die line : Nat) : State := onDie s die (fun d => { d with rdc := d.rdc.filter (fun x => x.line != line) })

/-- The export state of a line (R292). -/
def xpOf (s : State) (line : Nat) : Nat := ((l2Of s line).map (·.xp)).getD 0

/-- The class with which a home fills a line for a die (R169): that of the mapping through which the die reaches it. -/
def fillClass (s : State) (die line : Nat) : Nat := if die < 8 then classOn s die line else classOn s (homeOf line) line

/-- Whether the home's L2 holds a line or has room for it (R292). -/
def l2Ready (s : State) (die line : Nat) : Bool := (l2Of s line).isSome || (l2Way s line (fillClass s die line)).isSome

/-- Change a line's tag in its home's L2, which is filled for a die if needed (R169, R292). -/
def onL2For (s : State) (die line : Nat) (f : L2Line → L2Line) : State :=
  let s := if (l2Of s line).isNone then fillL2 s line (fillClass s die line) else s
  onDie s (homeOf line) (fun d => { d with l2 := d.l2.map (fun x => if x.line = line then f x else x) })
def onL2 (s : State) (line : Nat) (f : L2Line → L2Line) : State := onL2For s (homeOf line) line f

/-- Send a message. -/
def sendMsg (s : State) (m : Msg) : State := { s with fresh := s.fresh + 1, msgs := mput s.msgs s.fresh m }

/-- A message with nothing but its kind, line and ends. -/
def Msg.of (kind : MsgKind) (line src dst : Nat) : Msg := ⟨kind, line, src, dst, 0, false, .s, 0#8, false⟩

/-- The dies of a set, ascending, and the set of one die. -/
def diesOf (m : BitVec 8) : List Nat := (List.range 8).filter (fun d => m.getLsbD d)
def dieBit (d : Nat) : BitVec 8 := 1#8 <<< d

/-- The set of an almanac entry, and the ways of the partition in it (R293). -/
def almSet (line : Nat) : Nat := slice line 0 17 ^^^ slice line 17 17
def almWays (s : State) (part : Nat) : Nat := (partOf s part).wayCount

/-- The entries of a partition in a line's set. -/
def setEntries (s : State) (line : Nat) : List Alm :=
  (nougatAt s (halfOf line)).alm.filter (fun a => almSet a.line == almSet line && a.part == partOfLine s line)

/-! ### The home's answers -/

/-- No other die holds the line (R294): XP becomes 0. A tag without data, or one that the home itself evicts, goes. -/
def releaseHome (s : State) (line : Nat) (evict : Bool) : State :=
  match l2Of s line with
  | none => s
  | some x =>
    if evict || !x.valid then onDie (if x.dirty then writeBack s line else s) (homeOf line) (fun d => { d with l2 := d.l2.filter (fun y => y.line != line) })
    else onL2 s line (fun y => { y with xp := 0 })

/-- Free an entry and tell the home (R294). -/
def freeEntry (s : State) (line : Nat) (evict : Bool) : State :=
  sendMsg (freeAlm s line) { Msg.of .rel line (nougatUnit line) (homeOf line) with mark := evict }

/-! ### Resolution (R296, R297) -/

/-- Send INV to some dies, and await their acknowledgements. -/
def sendInv (s : State) (line : Nat) (m : BitVec 8) : State :=
  (diesOf m).foldl (fun s d => sendMsg s (Msg.of .inv line (nougatUnit line) d)) s

/-- Write a transaction into the entry of its line, which becomes the most recently used. -/
def putAlm (s : State) (a : Alm) : State :=
  onNougat s (halfOf a.line) (fun n => { n with alm := a :: n.alm.filter (fun x => x.line != a.line) })

/-- A transaction's entry. -/
def txn (r : CohReq) (part : Nat) (st : AlmSt) (shr : BitVec 8) (own : Nat) (acks : BitVec 8) (dak : Bool) : Alm :=
  ⟨r.line, st, shr, own, part, true, some r, acks, dak, false, 0, false⟩

/-- Ask a holder, or the home, to supply a requester. -/
def askSupply (s : State) (kind : MsgKind) (r : CohReq) (d : Nat) : State :=
  sendMsg s { Msg.of kind r.line (nougatUnit r.line) d with req := r.die }

/-- Resolve a request for a copy (R296), `m` being the entry of its line or none in state I. -/
def resolveCopy (s : State) (r : CohReq) (e : Option Alm) : State :=
  let home := homeOf r.line
  let part := partOfLine s r.line
  let bit := dieBit r.die
  match e with
  | none =>
    if r.die = home then onL2 s r.line (fun x => { x with xp := 0, valid := true })
    else if r.kind = .rds then askSupply (putAlm s (txn r part .sh (dieBit home ||| bit) 0 0#8 true)) .hrs r home
    else askSupply (putAlm s (txn r part .ex bit r.die 0#8 true)) .hrx r home
  | some a =>
    let others := a.shr &&& ~~~bit
    let low := (diesOf others).headD home
    let holds := a.shr &&& bit != 0#8
    match a.st, r.kind with
    | .sh, .rds => askSupply (putAlm s (txn r part .sh (a.shr ||| bit) 0 0#8 true)) .fws r low
    | .sh, _ =>
      if r.kind = .upg && holds then sendInv (putAlm s (txn r part .ex bit r.die others false)) r.line others
      else
        let rest := others &&& ~~~dieBit low
        sendInv (askSupply (putAlm s (txn r part .ex bit r.die rest true)) .fwx r low) r.line rest
    | .ex, .rds => askSupply (putAlm s (txn r part .ex (dieBit a.own ||| bit) a.own 0#8 true)) .fws r a.own
    | .ex, _ =>
      if a.own = r.die then s else askSupply (putAlm s (txn r part .ex bit r.die 0#8 true)) .fwx r a.own
    | .ow, .rds => askSupply (putAlm s (txn r part .ow (a.shr ||| bit) a.own 0#8 true)) .fws r a.own
    | .ow, _ =>
      if holds then sendInv (putAlm s (txn r part .ex bit r.die others false)) r.line others
      else
        let rest := others &&& ~~~dieBit a.own
        sendInv (askSupply (putAlm s (txn r part .ex bit r.die rest true)) .fwx r a.own) r.line rest
    | .rc, _ => s

/-- WAK to a writer. -/
def sendWak (s : State) (line src dst : Nat) : State := sendMsg s (Msg.of .wak line src dst)

/-- Resolve an owner's write-back (R296). -/
def resolveWbd (s : State) (r : CohReq) (e : Option Alm) : State :=
  let home := homeOf r.line
  let hwb (grant : Moesi) (s : State) : State := sendMsg s { Msg.of .hwb r.line (nougatUnit r.line) home with req := r.die, dirty := true, grant := grant }
  match e with
  | some a =>
    if (a.st = .ex || a.st = .ow) && a.own = r.die then
      if a.st = .ow then
        let shr := (a.shr &&& ~~~dieBit r.die) ||| dieBit home
        hwb .s (putAlm s { txn r a.part .sh shr 0 0#8 false with waitWak := true })
      else hwb .e (putAlm s { txn r a.part .sh (dieBit home) 0 0#8 false with waitWak := true })
    else sendWak s r.line (nougatUnit r.line) r.die
  | none => sendWak s r.line (nougatUnit r.line) r.die

/-- Resolve a clean drop (R296). -/
def resolveEvc (s : State) (r : CohReq) (e : Option Alm) : State :=
  let s' := sendWak s r.line (nougatUnit r.line) r.die
  match e with
  | some a =>
    if a.shr &&& dieBit r.die = 0#8 || (a.st = .ow && a.own = r.die) then s'
    else
      let shr := a.shr &&& ~~~dieBit r.die
      if a.st ≠ .ow && shr &&& ~~~dieBit (homeOf r.line) = 0#8 then freeEntry s' r.line false
      else putAlm s' { a with shr := shr }
  | none => s'

/-- Start a recall of an entry (R299 steps 1 and 2). -/
def startRecall (s : State) (a : Alm) (r : Option CohReq) : State :=
  let dirty := (a.st == .ex || a.st == .ow) && ((rdcOf s a.own a.line).map (·.dirty)).getD false
  let s := onAlm s a.line (fun x => { x with st := .rc, req := r, waitAck := a.shr, recallAt := 2 * s.clock, dirtyOwn := dirty })
  (diesOf a.shr).foldl (fun s d => sendMsg s { Msg.of .rcl a.line (nougatUnit a.line) d with mask := 1#8 }) s

/-- Make room in a line's set (R299): recall the least recently used entry with PEND = 0, unless a recall is under way there. -/
def makeRoom (s : State) (line : Nat) : State :=
  let es := setEntries s line
  if es.any (fun a => a.st == .rc) then s
  else
    match (es.filter (fun a => !a.pend)).getLast? with
    | some a => startRecall s a none
    | none => s

/-- Whether a request must wait: a transaction or a recall is under way on its line, or it needs an entry and has no way. -/
def mustWait (s : State) (r : CohReq) : Bool :=
  match almOf s r.line with
  | some a => a.pend || a.st == .rc
  | none =>
    match r.kind with
    | .rds => full
    | .rdx => full
    | .upg => full
    | _ => false
where
  /-- The partition's ways of the set are all valid. -/
  full : Bool := r.die != homeOf r.line && decide ((setEntries s r.line).length ≥ almWays s (partOfLine s r.line))

/-- The transaction of a line ends once every acknowledgement is in (R297): a UPG that needed no data has its copy M; an entry
that leaves nothing beyond the home die is freed (R294). -/
def closeTxn (s : State) (line : Nat) : State :=
  match almOf s line with
  | none => s
  | some a =>
    if !a.pend || a.waitAck ≠ 0#8 || a.waitDak || a.waitWak then s
    else
      let home := homeOf line
      let s := match a.req with
        | some r =>
          if r.kind = .upg then
            if r.die = home then onL2 s line (fun x => { x with xp := 0, valid := true, dirty := true })
            else onRdc s r.die line (fun x => { x with st := .m, dirty := true })
          else s
        | none => s
      let s := onAlm s line (fun x => { x with pend := false, req := none })
      if a.shr &&& ~~~dieBit home = 0#8 then freeEntry s line false else s

/-- Serve one request that need not wait. A UPG of the only die that holds the line has nothing to await. -/
def resolve (s : State) (r : CohReq) : State :=
  let e := almOf s r.line
  match r.kind with
  | .rds => resolveCopy s r e
  | .rdx => resolveCopy s r e
  | .upg => closeTxn (resolveCopy s r e) r.line
  | .wbd => resolveWbd s r e
  | .evc => resolveEvc s r e
  | .hrc =>
    match e with
    | some a => startRecall s a (some r)
    | none => sendMsg s { Msg.of .rel r.line (nougatUnit r.line) (homeOf r.line) with mark := true }

/-- Serve the waiting requests of a Nougat die in arrival order (R297), those of one line one after the other. -/
def serveWaiting (s : State) (h : Nat) : State :=
  (nougatAt s h).waiting.foldl (fun s r =>
    if !(nougatAt s h).waiting.contains r then s
    else if mustWait s r then (if (almOf s r.line).isNone then makeRoom s r.line else s)
    else resolve (onNougat s h (fun n => { n with waiting := n.waiting.erase r })) r) s

/-- A request arrives at its Nougat die. -/
def arrive (s : State) (r : CohReq) : State :=
  let h := halfOf r.line
  if (nougatAt s h).lost then s
  else serveWaiting (onNougat s h (fun n => { n with waiting := n.waiting ++ [r] })) h

/-- The transaction of a line ends if it can (R297), and what waits is served. -/
def finish (s : State) (line : Nat) : State := serveWaiting (closeTxn s line) (halfOf line)

/-! ### Requests as they arrive -/

/-! The sets of an RDC: 12 ways (R3, R291, R382). -/

/-- The lines of a die's RDC in the set of a line, the most recently used first, and those that it has asked for and that are to come there. -/
def rdcLines (s : State) (die line : Nat) : List RdcLine := (dieOf s die).rdc.filter (fun x => rdcSet s x.line == rdcSet s line)
def rdcComing (s : State) (die line : Nat) : List Nat :=
  let asks (r : CohReq) : Bool := r.die == die && (r.kind == .rds || r.kind == .rdx || r.kind == .upg) && r.line != line && rdcSet s r.line == rdcSet s line
  let lines := (s.nougats.flatMap (fun n => (n.2.waiting.filter asks).map (·.line) ++ (n.2.alm.filter (fun a => a.req.any asks)).map (·.line))).eraseDups
  lines.filter (fun l => homeOf l != die && (rdcOf s die l).isNone)

/-- What a die's RDC is to evict so that a line can come (R169, R291): as `wayFor` has it, never a line in H; `some none` where a way is free. -/
def rdcWay (s : State) (die line : Nat) : Option (Option RdcLine) :=
  let cls := classOn s die line
  wayFor (·.cls) (fun x => x.st != .h) (mget (partOf s (partOfLine s line)).quota cls) cls (12 - (rdcComing s die line).length) (rdcLines s die line)

/-- Whether a line can come to a die: it is homed there, or its RDC holds it or has a way free. -/
def roomFor (s : State) (die line : Nat) : Bool :=
  decide (die = homeOf line) || (rdcOf s die line).isSome || (match rdcWay s die line with
    | some none => true
    | _ => false)

/-- Whether a line of a die's RDC is the one that a full set, or a class at its quota, is to evict. -/
def evictable (s : State) (die line : Nat) : Bool :=
  match rdcOf s die line with
  | none => false
  | some x =>
    let set := (rdcLines s die line).filter (fun y => y.st != .h)
    let full := 12 ≤ (rdcLines s die line).length + (rdcComing s die line).length
    let atQuota := ((mget (partOf s (partOfLine s line)).quota x.cls).map (fun q => decide (q ≤ (set.filter (fun y => y.cls == x.cls)).length))).getD false
    !(nougatAt s (halfOf line)).lost &&
      ((full && set.getLast? == some x) || (atQuota && (set.filter (fun y => y.cls == x.cls)).getLast? == some x))

/-- The request of the die and line that `args` gives, if the die's copy is such that it sends it, and its RDC has room (R291). -/
def cohRequest (kind : ReqKind) (sends : State → Nat → Nat → Bool) (s : State) : Out :=
  match s.args with
  | [die, line] =>
    let r : CohReq := ⟨kind, die, line⟩
    let n := nougatAt s (halfOf line)
    let asked := n.waiting.any (fun x => x.die == die && x.line == line) || n.alm.any (fun a => a.line == line && (a.req.map (·.die)) == some die)
    .next (if die < 8 && backed s (128 * line) && sends s die line && !asked && roomFor s die line then arrive s r else s)
  | _ => .next s

/-- A die with no copy that it may use: another die's RDC without the line, or a home whose copy another die holds. -/
def lacks (s : State) (die line : Nat) : Bool :=
  if die = homeOf line then xpOf s line == 2 else (rdcOf s die line).isNone

/-- RDS (R296): of the die and line that `args` gives. -/
def execRds (s : State) : Out := cohRequest .rds lacks s

/-- RDX (R296): of the die and line that `args` gives. -/
def execRdx (s : State) : Out := cohRequest .rdx lacks s

/-- UPG (R296): of the die and line that `args` gives: a holder of S or O, or one that has lost its copy meanwhile. (DEDUCED, log 58.) -/
def execUpg (s : State) : Out :=
  cohRequest .upg (fun s die line =>
    if die = homeOf line then xpOf s line == 1 || xpOf s line == 2
    else
      match rdcOf s die line with
      | some x => x.st == .s || x.st == .o
      | none => true) s

/-- The eviction of the line that `args` gives from a die's RDC, where the die needs the way (R291): the line stays in H until it is
acknowledged (R298). -/
def evict (kind : ReqKind) (may : Moesi → Bool) (s : State) : Out :=
  match s.args with
  | [die, line] =>
    .next (match rdcOf s die line with
      | some x => if may x.st && evictable s die line then arrive (onRdc s die line (fun x => { x with st := .h })) ⟨kind, die, line⟩ else s
      | none => s)
  | _ => .next s

/-- WBD (R296, R298): an owner's eviction. -/
def execWbd (s : State) : Out := evict .wbd (fun st => st == .m || st == .o) s

/-- EVC (R296, R298): a clean holder's eviction. -/
def execEvc (s : State) : Out := evict .evc (fun st => st == .e || st == .s) s

/-! ### Backstop directories (R300, R301) -/

/-- The set of a region in the partition's range (R300). -/
def backstopSet (s : State) (line : Nat) : Nat :=
  let p := partOf s (partOfLine s line)
  p.bbase + slice (128 * line) 12 13 % max 1 p.bcount

/-- The backstop entry of a line's region. -/
def backstopOf (s : State) (line : Nat) : Option Backstop := (dieOf s (homeOf line)).backstop.find? (fun b => b.region == line / 32)

/-- Record a spilled line, if its region has an entry or its set a free way (R300). -/
def recordSpill (s : State) (line : Nat) (mask : BitVec 8) : Option State :=
  let d := dieOf s (homeOf line)
  let inSet (b : Backstop) : Bool := backstopSet s (32 * b.region) == backstopSet s line
  if (backstopOf s line).isSome then
    some (onDie s (homeOf line) (fun d => { d with backstop := d.backstop.map (fun b =>
      if b.region = line / 32 then { b with mask := b.mask ||| mask, lines := b.lines + 1 } else b) }))
  else if (d.backstop.filter inSet).length < 8 then
    some (onDie s (homeOf line) (fun d => { d with backstop := ⟨line / 32, mask, 1⟩ :: d.backstop }))
  else none

/-- Spills that wait at a home take entries that have become free. -/
def retrySpills (s : State) (die : Nat) : State :=
  (dieOf s die).spills.foldl (fun s p =>
    match recordSpill s p.1 p.2.1 with
    | some s => onL2 (onDie s die (fun d => { d with spills := d.spills.filter (fun x => x != p) })) p.1 (fun x => { x with xp := 3 })
    | none => s) s

/-- A line is tracked by its backstop entry no more (R301). -/
def unspill (s : State) (line : Nat) : State :=
  let s := onDie s (homeOf line) (fun d => { d with
    backstop := (d.backstop.map (fun b => if b.region = line / 32 then { b with lines := b.lines - 1 } else b)).filter (fun b => b.lines != 0) })
  retrySpills (onL2 s line (fun x => { x with xp := 0 })) (homeOf line)

/-- Whether a recall or a probe of a line has something on the way. -/
def onTheWay (s : State) (line : Nat) : Bool :=
  s.msgs.any (fun p => p.2.line == line && (p.2.kind == .rcl || p.2.kind == .prb || p.2.kind == .iak))

/-- The home probes every die that may hold a spilled line (R301). -/
def probe (s : State) (line : Nat) : State :=
  if onTheWay s line then s
  else
    match (backstopOf s line).map (fun b => diesOf b.mask) with
    | some (d :: ds) => (d :: ds).foldl (fun s d => sendMsg s { Msg.of .prb line (homeOf line) d with mark := true }) s
    | _ => unspill s line

/-! ### Messages -/

/-- Whether a message may arrive: those of one line from one sender to one receiver arrive in their order, so that no release overtakes a
later request of the line (DEDUCED, log 115). -/
def inOrder (s : State) (id : Nat) (m : Msg) : Bool :=
  !s.msgs.any (fun p => decide (p.1 < id) && p.2.line == m.line && p.2.src == m.src && p.2.dst == m.dst)

/-- Whether a message's receiver is the home, whose L2 must hold the line's tag (R292). -/
def needsTag (m : Msg) : Bool :=
  m.dst == homeOf m.line && (match m.kind with
    | .dat => true
    | .hwb => true
    | .spl => true
    | .iak => m.dirty
    | _ => false)

/-- A message of a kind that `args` gives arrives and is taken; at a home in whose L2 the line has no room it waits (R292). -/
def onMsg (kind : MsgKind) (k : State → Msg → State) (s : State) : Out :=
  match s.args with
  | [id] =>
    match mget s.msgs id with
    | some m =>
      .next (if m.kind = kind && inOrder s id m && (!needsTag m || l2Ready s (homeOf m.line) m.line) then k { s with msgs := mdel s.msgs id } m else s)
    | none => .next s
  | _ => .next s

/-- Supply a requester with the line (R295); under FWX the supplier keeps it in H until DAK (R298). -/
def supply (s : State) (m : Msg) (dirty : Bool) (grant : Moesi) : State :=
  sendMsg s { Msg.of .dat m.line m.dst m.req with dirty := dirty, grant := grant, mark := m.kind == .fwx }

/-- FWS (R295, R296): M becomes O and E becomes S at the supplier. -/
def execFws (s : State) : Out :=
  onMsg .fws (fun s m =>
    if m.dst = homeOf m.line then supply s m false .s
    else
      match rdcOf s m.dst m.line with
      | some x =>
        let st : Moesi := match x.st with
          | .m => .o
          | .e => .s
          | st => st
        supply (onRdc s m.dst m.line (fun x => { x with st := st })) m x.dirty .s
      | none => supply s m false .s) s

/-- FWX (R295, R298): the supplier enters H until DAK. -/
def execFwx (s : State) : Out :=
  onMsg .fwx (fun s m =>
    if m.dst = homeOf m.line then
      supply (onL2 s m.line (fun x => { x with xp := 2, valid := false, dirty := false })) m false .e
    else
      match rdcOf s m.dst m.line with
      | some x => supply (onRdc s m.dst m.line (fun x => { x with st := .h })) m x.dirty (if x.dirty then .m else .e)
      | none => supply s m false .e) s

/-- INV (R295, R296). -/
def execInv (s : State) : Out :=
  onMsg .inv (fun s m =>
    let s := if m.dst = homeOf m.line then onL2 s m.line (fun x => { x with xp := 2, valid := false, dirty := false })
      else dropRdc s m.dst m.line
    sendMsg s (Msg.of .iak m.line m.dst m.src)) s

/-- Give a copy up: dirty data goes with the acknowledgement and is kept in H until it is confirmed (R298). -/
def giveUp (s : State) (m : Msg) : State :=
  let back (dirty : Bool) : Msg := { Msg.of .iak m.line m.dst m.src with dirty := dirty, mark := m.mark, mask := m.mask }
  match rdcOf s m.dst m.line with
  | some x =>
    if x.dirty then sendMsg (onRdc s m.dst m.line (fun x => { x with st := .h })) (back true)
    else sendMsg (dropRdc s m.dst m.line) (back false)
  | none => sendMsg s (back false)

/-- RCL (R299): the home die keeps its data and only acknowledges. -/
def execRcl (s : State) : Out :=
  onMsg .rcl (fun s m => if m.dst = homeOf m.line then sendMsg s { Msg.of .iak m.line m.dst m.src with mask := m.mask } else giveUp s m) s

/-- PRB (R301). -/
def execPrb (s : State) : Out := onMsg .prb giveUp s

/-- The home supplies a requester, once a spilled line has been probed (R296, R301), and where its L2 has room for the line (R292). Until the
SPL of a line has been recorded, its XP is not yet 3 and the home answers as from state I (DESIGN CHOICE, log 101). -/
def homeSupply (kind : MsgKind) (act : State → Msg → State) (s : State) : Out :=
  match s.args with
  | [id] =>
    match mget s.msgs id with
    | some m =>
      if m.kind ≠ kind || !inOrder s id m || !l2Ready s m.req m.line then .next s
      else if xpOf s m.line = 3 then .next (probe s m.line)
      else .next (act { s with msgs := mdel s.msgs id } m)
    | none => .next s
  | _ => .next s

/-- HRS (R296). -/
def execHrs (s : State) : Out :=
  homeSupply .hrs (fun s m => supply (onL2For s m.req m.line (fun x => { x with xp := 1, valid := true })) m false .s) s

/-- HRX (R296). -/
def execHrx (s : State) : Out :=
  homeSupply .hrx (fun s m =>
    let dirty := ((l2Of s m.line).map (·.dirty)).getD false
    supply (onL2For s m.req m.line (fun x => { x with xp := 2, valid := false, dirty := false })) m dirty (if dirty then .m else .e)) s

/-- HWB (R296): after an O line's write-back the home is a sharer. -/
def execHwb (s : State) : Out :=
  onMsg .hwb (fun s m =>
    sendWak (onL2 s m.line (fun x => { x with valid := true, dirty := true, xp := if m.grant = .s then 1 else x.xp })) m.line m.dst m.req) s

/-- REL (R294). -/
def execRel (s : State) : Out := onMsg .rel (fun s m => releaseHome s m.line m.mark) s

/-- SPL (R300). -/
def execSpl (s : State) : Out :=
  onMsg .spl (fun s m =>
    match recordSpill s m.line m.mask with
    | some s => onL2 s m.line (fun x => { x with xp := 3 })
    | none =>
      let s := report s (ownerOf s (128 * m.line)) 0x61 1 (homeOf m.line) (backstopSet s m.line)
      onDie s (homeOf m.line) (fun d => { d with spills := d.spills ++ [(m.line, m.mask, m.dirty)] })) s

/-- A requester takes the data that it receives (R296, R298). -/
def takeData (s : State) (m : Msg) : State :=
  let home := homeOf m.line
  if m.dst = home then onL2 s m.line (fun x => { x with valid := true, dirty := x.dirty || m.dirty, xp := if m.grant = .s then 1 else 0 })
  else
    let upg := ((almOf s m.line).bind (·.req)).map (·.kind) == some .upg
    let st : Moesi := if upg && m.grant = .e then .m else m.grant
    onDie s m.dst (fun d => { d with
      rdc := ⟨worldOfLine s m.line, m.line, st, st == .m, classOn s m.dst m.line⟩ :: d.rdc.filter (fun x => x.line != m.line) })

/-- DAT (R298): the requester acknowledges to the supplier and to the Nougat die. -/
def execDat (s : State) : Out :=
  onMsg .dat (fun s m =>
    let s := takeData s m
    let s := sendMsg s { Msg.of .dak m.line m.dst m.src with mark := m.mark }
    sendMsg s { Msg.of .dak m.line m.dst (nougatUnit m.line) with dirty := m.dirty, req := m.src }) s

/-- DAK (R297, R298): at the supplier, which under FWX leaves H; and at the Nougat die, which then knows whether the copy was dirty. -/
def execDak (s : State) : Out :=
  onMsg .dak (fun s m =>
    if m.dst < 8 then
      match rdcOf s m.dst m.line with
      | some x => if x.st = .h && m.mark then dropRdc s m.dst m.line else s
      | none => s
    else
      let s := onAlm s m.line (fun a =>
        let a := { a with waitDak := false }
        if a.st = .ex && (a.req.map (·.kind)) = some .rds then
          (if m.dirty then { a with st := .ow } else { a with st := .sh, own := 0 })
        else a)
      finish s m.line) s

/-- An acknowledgement with data that came to a home: the data is installed (R300, R301). -/
def installIak (s : State) (m : Msg) : State :=
  if m.dirty then sendWak (onL2 s m.line (fun x => { x with valid := true, dirty := true })) m.line m.dst m.src else s

/-- IAK at a home: of a probe, or of a recall that has spilled (R300, R301). -/
def homeIak (s : State) (m : Msg) : State :=
  let s := installIak s m
  if onTheWay s m.line then s
  else if m.mark then unspill s m.line
  else if (dieOf s (homeOf m.line)).spills.any (fun p => p.1 == m.line) then
    -- the recall has ended before the spill found an entry
    onL2 (onDie s (homeOf m.line) (fun d => { d with spills := d.spills.filter (fun p => p.1 != m.line) })) m.line (fun x => { x with xp := 0 })
  else s

/-- IAK (R297, R299, R300). -/
def execIak (s : State) : Out :=
  onMsg .iak (fun s m =>
    if m.dst < 8 then homeIak s m
    else
      -- an acknowledgement of a recall that has spilled goes to the home
      match (almOf s m.line).filter (fun a => m.mask = 0#8 || a.st == .rc) with
      | some a =>
        let s := onAlm s m.line (fun x => { x with waitAck := x.waitAck &&& ~~~dieBit m.src })
        if a.st = .rc then
          let s := if m.dirty then
              sendMsg s { Msg.of .hwb m.line m.dst (homeOf m.line) with req := m.src, dirty := true, grant := .o }
            else s
          if a.waitAck &&& ~~~dieBit m.src = 0#8 then serveWaiting (freeEntry s m.line a.req.isSome) (halfOf m.line) else s
        else finish s m.line
      | none => sendMsg s { m with dst := homeOf m.line }) s

/-- WAK (R298): the writer leaves H; a write-back's transaction ends. -/
def execWak (s : State) : Out :=
  onMsg .wak (fun s m =>
    let s := match rdcOf s m.dst m.line with
      | some x => if x.st = .h then dropRdc s m.dst m.line else s
      | none => s
    finish (onAlm s m.line (fun a => { a with waitWak := false })) m.line) s

/-- Whether a home is to evict an exported line (R292): its set is full, no line of it may be chosen without that, and the line is the least
recently used. -/
def mustEvict (s : State) (line : Nat) : Bool :=
  let set := l2Lines s line
  decide (16 ≤ set.length) && set.all (fun x => x.xp != 0) && (set.getLast?.map (·.line)) == some line

/-- HRC (R292, R299): of the line that `args` gives; a spilled line is probed instead (R301). -/
def execHrc (s : State) : Out :=
  match s.args with
  | [line] =>
    let n := nougatAt s (halfOf line)
    let r : CohReq := ⟨.hrc, homeOf line, line⟩
    .next (if !mustEvict s line then s
      else if xpOf s line = 3 then probe s line
      else if n.waiting.contains r || n.alm.any (fun a => a.req == some r) then s
      else arrive s r)
  | _ => .next s

/-- RECALL_TIMEOUT (R299, R300): of the line that `args` gives. -/
def execRecallTimeout (s : State) : Out :=
  match s.args with
  | [line] =>
    match almOf s line with
    | some a =>
      if a.st = .rc && a.recallAt + 4096 ≤ 2 * s.clock then
        let s := report s (ownerOf s (128 * line)) 0x60 2 (halfOf line) (almSet line % 2 ^ 16)
        let s := sendMsg (freeAlm s line) { Msg.of .spl line (nougatUnit line) (homeOf line) with mask := a.shr, dirty := a.dirtyOwn }
        .next (serveWaiting s (halfOf line))
      else .next s
    | none => .next s
  | _ => .next s

/-! ### Loss of a Nougat die (R302, R303) -/

/-- The requests of a half that are not complete, which the compute dies hold for re-sending (R302 step 1). -/
def halfRequests (s : State) (h : Nat) : List CohReq :=
  let n := nougatAt s h
  (n.waiting ++ n.alm.filterMap (·.req)).filter (fun r => r.kind == .rds || r.kind == .rdx || r.kind == .upg)

/-- Recovery of a half (R302): its messages are discarded; RDCs give its lines back, dirty ones with their data, which the homes install; its
tags and directories are clear; and what was asked for is performed at the homes (R303). (DEDUCED, log 60.) -/
def recoverHalf (s : State) (h : Nat) : State :=
  let mine (line : Nat) : Bool := halfOf line == h
  let open_ := halfRequests s h
  let back := s.dies.flatMap (fun p => (p.2.rdc.filter (fun x => mine x.line && x.dirty)).map (·.line))
  let fixDie (d : Die) : Die :=
    let spilled := d.l2.filter (fun x => mine x.line && x.xp == 3)
    { d with
      rdc := d.rdc.filter (fun x => !mine x.line)
      l2 := (d.l2.map (fun x => if mine x.line then { x with xp := 0 } else x)).filter (fun x => x.valid || !mine x.line)
      spills := d.spills.filter (fun p => !mine p.1)
      backstop := (d.backstop.map (fun b =>
        { b with lines := b.lines - (spilled.filter (fun x => x.line / 32 == b.region)).length })).filter (fun b => b.lines != 0) }
  let s := { s with
    msgs := s.msgs.filter (fun p => !mine p.2.line)
    dies := s.dies.map (fun p => (p.1, fixDie p.2))
    nougats := mput s.nougats h { lost := true, alm := [], waiting := [] } }
  let s := back.foldl (fun s line => onL2 s line (fun x => { x with valid := true, dirty := true })) s
  open_.foldl (fun s r => fillL2 s r.line (fillClass s r.die r.line)) s

/-- Every queue of the device stops with a code. -/
def stopAll (s : State) (code : Nat) : State :=
  s.frontEnds.foldl (fun s p => p.2.slots.foldl (fun s q => stopQueue s p.1 q.1 code 0 0) s) s

/-- COHERENCE_FATAL (R303, R305): every context stops, and the device accepts work again only after its reset. -/
def coherenceFatal (s : State) : State := stopAll { report s none 0x64 0 0 0 with ctl := { s.ctl with halted := true } } 7

/-- NOUGAT_LOST (R302, R303): of the Nougat die and the link that `args` gives. With both lost there is no recovery. (DEDUCED, log 60.) -/
def execNougatLost (s : State) : Out :=
  match s.args with
  | h :: link =>
    if 2 ≤ h || (nougatAt s h).lost then .next s
    else
      let s := report s none 0x62 2 h (link.headD 0)
      .next (if (nougatAt s (1 - h)).lost then
          coherenceFatal (onNougat { s with msgs := s.msgs.filter (fun p => halfOf p.2.line != h) } h (fun n => { n with lost := true }))
        else report (recoverHalf s h) none 0x63 2 h 0)
  | [] => .next s

end Sys2Proof.Machine
end

