-- ==== Sys2Proof/Machine/Legal.lean ====
section
/-! DEFINITION. Which words are instructions: the checks of R49 to R59, R62, R65, R80 to R82 and of every entry's encoding
table that can be made on the word alone. A word that fails one raises ILLEGAL (R65). The checks of PCVT, UNPK and MDRX
that need a format slot are made where those instructions read it. -/

namespace Sys2Proof.Machine

/-- How an entry uses a source field: not at all, as a register operand (a pair when `wide`), as an immediate below a
bound, or as the name of a predicate (R51, R53, R80). -/
inductive Use where
  | no
  | src (wide : Bool)
  | imm (bound : Nat)
  | pred
deriving DecidableEq, Repr

/-- How an entry uses the destination field (R51). -/
inductive Dst where
  | no
  | reg (wide : Bool)
  | pred
deriving DecidableEq, Repr

/-- A guard is 0–11, or 15 without negation (R49). (DEDUCED, log 42.) -/
def guardOk (pg : BitVec 4) (pn : Bool) : Bool := pg.toNat < 12 || (pg == 15#4 && !pn)

/-- The control bits: NW only where the entry writes a register, RU only where the entry defines it (R52, R82). -/
def ctlOk (f : SForm) (nwOk ruOk : Bool) : Bool :=
  guardOk f.pg f.pn && (nwOk || !f.nw) && (ruOk || !f.ru)

/-- A field that names a register pair holds an even number (R40). -/
def evenOk (wide : Bool) (x : BitVec 8) : Bool := !wide || !x.getLsbD 0

/-- One source field with its U bit and LQ bit (R51, R53, R62, R80). -/
def useOk (u : Use) (x : BitVec 8) (ubit lq : Bool) : Bool :=
  match u with
  | .no => x == 0#8 && !ubit && !lq
  | .src wide => !(ubit && lq) && (if lq then decide (x.toNat < 4) else evenOk wide x)
  | .imm bound => !ubit && !lq && decide (x.toNat < bound)
  | .pred => !ubit && !lq && decide (x.toNat < 12)

/-- The destination field (R51). -/
def dstOk (u : Dst) (x : BitVec 8) : Bool :=
  match u with
  | .no => x == 0#8
  | .reg wide => evenOk wide x
  | .pred => decide (x.toNat < 12)

/-- With UD = 1 every register source has its U bit set and no predicate is read (R54). -/
def uniSrcOk (u : Use) (ubit : Bool) : Bool :=
  match u with
  | .no => true
  | .imm _ => true
  | .src _ => ubit
  | .pred => true

/-- An ALU word (R53): its destination and sources as the entry uses them, the entry's OPX check, and whether it takes
UD = 1. -/
def aluOk (f : SForm) (d : Dst) (a b c : Use) (opxOk udOk : Bool) : Bool :=
  ctlOk f (match d with | .reg _ => true | _ => false) false && opxOk && dstOk d f.d &&
  useOk a f.a (fnBit f 9) (lqA f) && useOk b f.b (fnBit f 8) (lqB f) && useOk c f.c (fnBit f 7) (lqC f) &&
  (!ud f || (udOk && uniSrcOk a (fnBit f 9) && uniSrcOk b (fnBit f 8) && uniSrcOk c (fnBit f 7)))

/-- Every operand field and every LQ bit zero (R51). -/
def noFields (f : SForm) : Bool := f.d == 0#8 && f.a == 0#8 && f.b == 0#8 && f.c == 0#8 && f.lq == 0#3

/-- A word outside the ALU range with every field zero, and only the bits of `fnMask` allowed in FN. -/
def plainOk (f : SForm) (reserved : Nat) : Bool := ctlOk f false false && noFields f && fnZero f reserved

/-- A 64-bit address operand: a vector pair, a uniform pair or a latch (R176, R102). -/
def addrOk (wide : Bool) (x : BitVec 8) (ubit lq : Bool) : Bool := useOk (.src wide) x ubit lq

/-- The data or destination register of a load or store, by SZ (R176). -/
def memRegOk (sz : Nat) (x : BitVec 8) : Bool :=
  if sz = 3 then x.toNat % 2 == 0 else if sz = 4 then x.toNat % 4 == 0 else true

/-- LD and LDA (R175, R176, R178, R181). -/
def loadOk (f : SForm) (acq : Bool) : Bool :=
  ctlOk f true false && fnZero f 0 && decide (memSz f ≤ (if acq then 3 else 4)) &&
  (!memSx f || decide (memSz f ≤ 1)) && (if acq then decide (memScope f ≤ 5) else memScope f == 0) &&
  (!acq || decide (memSpc f ≤ 1)) && (!ud f || fnBit f 9) && !lqB f && !lqC f &&
  addrOk (memSpc f == 0) f.a (fnBit f 9) (lqA f) && memRegOk (memSz f) f.d

/-- ST and STREL (R175, R176, R180, R181). -/
def storeOk (f : SForm) (rel : Bool) : Bool :=
  ctlOk f false false && decide (memSz f ≤ (if rel then 3 else 4)) && !memSx f &&
  (if rel then decide (memScope f ≤ 5) else memScope f == 0) &&
  decide (memSpc f ≤ (if rel then 1 else 2)) && !lqB f && !lqC f &&
  addrOk (memSpc f == 0) f.a (fnBit f 9) (lqA f) && memRegOk (memSz f) f.d

/-- SLD: k = 1, 2, 4 or 8 words, D a multiple of k (R179). -/
def sldOk (f : SForm) : Bool :=
  ctlOk f true false && memSpc f == 1 && !memSx f && memScope f == 0 && !ud f && decide (memSz f ≤ 3) &&
  !lqB f && !lqC f && addrOk false f.a (fnBit f 9) (lqA f) && f.d.toNat % 2 ^ memSz f == 0

/-- The FN fields an atomic and LRINV share: ORD and SCOPE (R182, R281). -/
def ordOk (f : SForm) : Bool := if ordOf f = 0 then atomScope f == 0 else decide (atomScope f ≤ 5)

/-- ATOM and RED: the operation AOP in the C field (R182, R183). -/
def aopOk (f : SForm) : Bool := decide (f.c.toNat ≤ 11) && (!fnBit f 7 || decide (f.c.toNat ≤ 8)) && !lqC f

/-- The address and the B operand of an atomic (R182). -/
def atomOpsOk (f : SForm) : Bool :=
  fnZero f 1 && ordOk f && addrOk (!fnBit f 8) f.a (fnBit f 10) (lqA f) && useOk (.src (fnBit f 7)) f.b (fnBit f 9) (lqB f)

/-- The indices of R47. -/
def sysregIndex (x : Nat) : Bool := x ∈ [0x00, 0x01, 0x02, 0x03, 0x04, 0x08, 0x10, 0x11, 0x12, 0x20]

/-- The system registers that hold 64 bits: TPC, TADDR, TINFO, THANDLER, CLOCK and FIJ (R366). -/
def sysregWide (x : Nat) : Bool := x ∈ [0x01, 0x02, 0x04, 0x08, 0x12, 0x20]

/-- The floating sub-operation bits of FADD, FMUL, DADD and DMUL: no NC, and SAT only on FP32 (R135). -/
def faddOk (f : SForm) (dbl fma : Bool) : Bool := (fma || !opx f 5) && (!dbl || !opx f 6)

/-- A pair slot: its guard, the form of its PM (R57, R59, R65). -/
def slotOk (f : PSlot) (pmMask : Nat) : Bool := f.pm.toNat &&& pmMask == 0

/-- A Crumb word of the form RD, RA, RB with IMM14 zero (R260, R264). -/
def crumbR (f : CForm) : Bool := f.imm == 0#14

/-- LDL and STL: the function field of R268; `sx` whether bit 11 may be set, and not with W = 3 (R269). -/
def crumbMem (f : CForm) (ld : Bool) : Bool :=
  slice f.imm.toNat 7 4 == 0 && (if ld then !(f.imm.getLsbD 11 && slice f.imm.toNat 12 2 == 3) else !f.imm.getLsbD 11)

/-- Which instructions are well-formed: the word they stand for is an instruction by R49 to R66 and their entry. An event
of the part is no word and has no form to break. (DEDUCED, log 43.) -/
def legal : Instr → Bool
  -- integer arithmetic (R83, R84)
  | .iadd f => aluOk f (.reg (opx f 0)) (.src (opx f 0)) (.src (opx f 0)) (if opx f 3 || opx f 4 then .pred else .no)
      (fnZero f 0x60 && !(opx f 2 && (opx f 3 || opx f 4))) (!opx f 4)
  | .isub f => aluOk f (.reg (opx f 0)) (.src (opx f 0)) (.src (opx f 0)) (if opx f 3 || opx f 4 then .pred else .no)
      (fnZero f 0x60 && !(opx f 2 && (opx f 3 || opx f 4))) (!opx f 4)
  | .iadd3 f => aluOk f (.reg (opx f 0)) (.src (opx f 0)) (.src (opx f 0)) (.src (opx f 0)) (fnZero f 0x78) true
  | .imul f => aluOk f (.reg (opx f 0)) (.src (opx f 0)) (.src (opx f 0)) .no (fnZero f 0x7C) true
  | .imad f => aluOk f (.reg (opx f 0 || opx f 5)) (.src (opx f 0)) (.src (opx f 0)) (.src (opx f 0 || opx f 5))
      (fnZero f 0x5C && !(opx f 0 && opx f 5)) true
  | .imulh f => aluOk f (.reg (opx f 0)) (.src (opx f 0)) (.src (opx f 0)) .no (fnZero f 0x7C) true
  | .imin f => aluOk f (.reg (opx f 0)) (.src (opx f 0)) (.src (opx f 0)) .no (fnZero f 0x7C) true
  | .imax f => aluOk f (.reg (opx f 0)) (.src (opx f 0)) (.src (opx f 0)) .no (fnZero f 0x7C) true
  | .iabs f => aluOk f (.reg (opx f 0)) (.src (opx f 0)) .no .no (fnZero f 0x78) true
  -- logic and address arithmetic (R86 to R88)
  | .and f => aluOk f (.reg (opx f 0)) (.src (opx f 0)) (.src (opx f 0)) .no (fnZero f 0x7C) true
  | .or f => aluOk f (.reg (opx f 0)) (.src (opx f 0)) (.src (opx f 0)) .no (fnZero f 0x7C) true
  | .xor f => aluOk f (.reg (opx f 0)) (.src (opx f 0)) (.src (opx f 0)) .no (fnZero f 0x7C) true
  | .tern f => aluOk f (.reg false) (.src false) (.src false) (.src false) true true
  | .lea f => aluOk f (.reg (opx f 5)) (.src false) (.src (opx f 5)) .no (!opx f 6 || opx f 5) true
  -- immediates (R55, R89)
  | .movi f => guardOk f.pg f.pn && f.a == 0#8 && decide (f.f3.toNat ≤ 2) && evenOk (f.f3 != 0#2) f.d
  | .iaddi f => guardOk f.pg f.pn && decide (f.f3.toNat ≤ 1) && evenOk (f.f3 == 1#2) f.d && evenOk (f.f3 == 1#2) f.a
  -- shifts, bit fields and byte permutes (R90 to R94)
  | .shl f => aluOk f (.reg (opx f 0)) (.src (opx f 0)) (if opx f 2 then .imm 256 else .src false) .no (fnZero f 0x7A) true
  | .shr f => aluOk f (.reg (opx f 0)) (.src (opx f 0)) (if opx f 2 then .imm 256 else .src false) .no (fnZero f 0x78) true
  | .fsh f => aluOk f (.reg false) (.src false) (.src false) (if opx f 2 then .imm 32 else .src false) (fnZero f 0x7A) true
  | .bfx f => aluOk f (.reg (opx f 0)) (.src (opx f 0)) (if opx f 2 then .imm 256 else .src false)
      (if opx f 2 then .imm 256 else .no) (fnZero f 0x78) true
  | .bfi f => aluOk f (.reg (opx f 0)) (.src (opx f 0)) (.src false) (.src (opx f 0)) (fnZero f 0x7E) true
  | .popc f => aluOk f (.reg false) (.src (opx f 0)) .no .no (fnZero f 0x7E) true
  | .clz f => aluOk f (.reg false) (.src (opx f 0)) .no .no (fnZero f 0x7E) true
  | .brev f => aluOk f (.reg (opx f 0)) (.src (opx f 0)) .no .no (fnZero f 0x7E) true
  | .bsel f => aluOk f (.reg false) (.src false) (.src false) (.src false) (fnZero f 0x7F) true
  -- compare, select, move and predicates (R95 to R99)
  | .isetp f => aluOk f .pred (.src (opx f 4)) (.src (opx f 4)) (if cmb f = 0 then .no else .pred)
      (decide (fnField f 0 3 ≤ 5)) (cmb f == 0)
  | .sel f => aluOk f (.reg (opx f 0)) (.src (opx f 0)) (.src (opx f 0)) .pred (fnZero f 0x7E) false
  | .mov f => aluOk f (.reg (opx f 0)) (.src (opx f 0)) .no .no (fnZero f 0x7E) true
  | .psetp f => aluOk f .pred .pred .pred (if fnField f 2 2 = 3 then .no else .pred)
      (decide (fnField f 0 2 ≤ 2) && !(fnField f 2 2 == 3 && opx f 6)) false
  | .p2v f => aluOk f (.reg false) .no .no .no (fnZero f 0x7F) false
  | .v2p f => aluOk f .no (.src false) (.src false) .no (fnZero f 0x7F) true
  -- floating point (R135 to R153)
  | .fadd f => aluOk f (.reg false) (.src false) (.src false) .no (faddOk f false false) true
  | .fmul f => aluOk f (.reg false) (.src false) (.src false) .no (faddOk f false false) true
  | .ffma f => aluOk f (.reg false) (.src false) (.src false) (.src false) (faddOk f false true) true
  | .fmin f => aluOk f (.reg (opx f 1)) (.src (opx f 1)) (.src (opx f 1)) .no (fnZero f 0x78) true
  | .fmax f => aluOk f (.reg (opx f 1)) (.src (opx f 1)) (.src (opx f 1)) .no (fnZero f 0x78) true
  | .fsetp f => aluOk f .pred (.src (opx f 4)) (.src (opx f 4)) (if cmb f = 0 then .no else .pred)
      (fnField f 0 4 != 7 && fnField f 0 4 != 15) (cmb f == 0)
  | .fclass f => aluOk f (.reg false) (.src (fnField f 0 2 == 1)) .no .no (fnZero f 0x7C) true
  | .frnd f => aluOk f (.reg (opx f 3)) (.src (opx f 3)) .no .no (fnZero f 0x70) true
  | .frcp f => aluOk f (.reg false) (.src false) .no .no (fnZero f 0x70 && fnField f 0 3 == 0) true
  | .frsq f => aluOk f (.reg false) (.src false) .no .no (fnZero f 0x70 && fnField f 0 3 == 1) true
  | .fsqrt f => aluOk f (.reg false) (.src false) .no .no (fnZero f 0x70 && fnField f 0 3 == 2) true
  | .fex2 f => aluOk f (.reg false) (.src false) .no .no (fnZero f 0x70 && fnField f 0 3 == 3) true
  | .flg2 f => aluOk f (.reg false) (.src false) .no .no (fnZero f 0x70 && fnField f 0 3 == 4) true
  | .fsin f => aluOk f (.reg false) (.src false) .no .no (fnZero f 0x70 && fnField f 0 3 == 5) true
  | .fcos f => aluOk f (.reg false) (.src false) .no .no (fnZero f 0x70 && fnField f 0 3 == 6) true
  | .ftanh f => aluOk f (.reg false) (.src false) .no .no (fnZero f 0x70 && fnField f 0 3 == 7) true
  | .dadd f => aluOk f (.reg true) (.src true) (.src true) .no (faddOk f true false) true
  | .dmul f => aluOk f (.reg true) (.src true) (.src true) .no (faddOk f true false) true
  | .dfma f => aluOk f (.reg true) (.src true) (.src true) (.src true) (faddOk f true true) true
  | .fscl f => aluOk f (.reg false) (.src false) (.src false) (if opx f 3 then .src false else .no)
      (!opx f 6 || fnZero f 0x38) true
  | .hadd2 f => aluOk f (.reg false) (.src false) (.src false) .no (!opx f 6) true
  | .hmul2 f => aluOk f (.reg false) (.src false) (.src false) .no (!opx f 6) true
  | .hfma2 f => aluOk f (.reg false) (.src false) (.src false) (.src false) true true
  | .hmnmx2 f => aluOk f (.reg false) (.src false) (.src false) .no (fnZero f 0x46) true
  | .pdot4 f => aluOk f (.reg false) (.src false) (.src false) (.src false) (fnZero f 0x60 && opx f 1 == opx f 3) true
  | .pdot8 f => aluOk f (.reg false) (.src false) (.src false) (.src false) (fnZero f 0x6A && opx f 0 == opx f 2) true
  | .f2i f => aluOk f (.reg (opx f 5)) (.src (fnField f 2 2 == 1)) .no .no (!opx f 6 || opx f 3) true
  | .i2f f => aluOk f (.reg (fnField f 4 2 == 1)) (.src (opx f 3)) .no .no (!opx f 6) true
  | .f2f f => aluOk f (.reg (fnField f 4 2 == 1)) (.src (fnField f 2 2 == 1)) .no .no true true
  | .pcvt f => aluOk f (.reg false) (.src false) (.src false) (if opx f 5 then .no else .src false) (!opx f 6) true
  | .unpk f => aluOk f (.reg false) (.src false) .no .no (!opx f 6) true
  -- memory (R175 to R191)
  | .ld f => loadOk f false
  | .st f => storeOk f false
  | .sld f => sldOk f
  | .lda f => loadOk f true
  | .strel f => storeOk f true
  | .atom f => ctlOk f true false && atomOpsOk f && !fnBit f 1 && aopOk f && evenOk (fnBit f 7) f.d
  | .atomx f => ctlOk f true false && atomOpsOk f && useOk (.src (fnBit f 7)) f.c (fnBit f 1) (lqC f) && evenOk (fnBit f 7) f.d
  | .red f => ctlOk f false false && atomOpsOk f && !fnBit f 1 && aopOk f && f.d == 0#8 && ordOf f != 1 && ordOf f != 3
  | .fence f => plainOk f 0x1FE0 && decide (fnField f 3 2 ≤ 2) && decide (memScope f ≤ 5)
  | .cctlIvl1 f => ctlOk f false false && fnZero f 0x3FF && f.d == 0#8 && !lqB f && !lqC f && addrOk true f.a (fnBit f 10) (lqA f)
  | .cctlIvl1All f => ctlOk f false false && noFields f && fnZero f 0x7F8 && fnField f 0 3 == 1
  | .cctlDemote f => ctlOk f false false && fnZero f 0x3F8 && fnField f 0 3 == 2 && f.d == 0#8 && !lqB f && !lqC f &&
      addrOk true f.a (fnBit f 10) (lqA f)
  | .prf f => ctlOk f false false && fnZero f 0xFF && decide (fnField f 8 2 ≤ 1) && f.d == 0#8 && !lqB f && !lqC f &&
      addrOk true f.a (fnBit f 10) (lqA f)
  | .iflush f => ctlOk f false false && fnZero f 0x1FF && f.d == 0#8 && f.c == 0#8 && !lqC f &&
      addrOk true f.a (fnBit f 10) (lqA f) && useOk (.src false) f.b (fnBit f 9) (lqB f)
  | .isync f => plainOk f 0x1FFF
  | .presTest f => ctlOk f false false && fnZero f 0x3FF && dstOk .pred f.d && addrOk false f.a (fnBit f 10) (lqA f) &&
      useOk (.imm 32) f.b false (lqB f) && f.c == 0#8 && !lqC f
  | .presSet f => ctlOk f false false && fnZero f 0x3FC && fnField f 0 2 == 1 && f.d == 0#8 && addrOk false f.a (fnBit f 10) (lqA f) &&
      useOk (.imm 32) f.b false (lqB f) && f.c == 0#8 && !lqC f
  | .presClr f => ctlOk f false false && fnZero f 0x3FC && fnField f 0 2 == 2 && f.d == 0#8 && addrOk false f.a (fnBit f 10) (lqA f) &&
      useOk (.imm 32) f.b false (lqB f) && f.c == 0#8 && !lqC f
  -- copies and barriers (R221 to R233)
  | .acp f => ctlOk f false false && fnZero f 0xF && f.d == 0#8 && addrOk true f.a (fnBit f 10) (lqA f) &&
      useOk (.src false) f.b (fnBit f 9) (lqB f) && useOk (if fnBit f 7 then .imm 33 else .src false) f.c (fnBit f 8) (lqC f)
  | .acpc f => plainOk f 0x1F8F
  | .acpw f => plainOk f 0x1F8F
  | .bcpLd f => ctlOk f false false && fnZero f 0x40F && f.d == 0#8 && f.lq == 0#3 && evenOk true f.a && decide (f.c.toNat ≤ 251)
  | .bcpSt f => ctlOk f false false && fnZero f 0xF && fnBit f 10 && f.d == 0#8 && f.lq == 0#3 && evenOk true f.a &&
      decide (f.c.toNat ≤ 251)
  | .rfence f => ctlOk f false false && fnZero f 0x3FF && f.d == 0#8 && f.b == 0#8 && f.c == 0#8 && !lqB f && !lqC f &&
      addrOk true f.a (fnBit f 10) (lqA f)
  | .rfenceAll f => plainOk f 0x7FE && fnBit f 0
  | .binit f => ctlOk f false false && fnZero f 0x40F && f.d == 0#8 && f.a == 0#8 && f.c == 0#8 && f.lq == 0#3
  | .barv f => ctlOk f true false && fnZero f 0x3 && (!fnBit f 2 || fnBit f 3) && f.a == 0#8 && f.c == 0#8 && !lqA f && !lqC f &&
      useOk (if fnBit f 3 then .src false else .no) f.b (fnBit f 10) (lqB f)
  | .bwait f => plainOk f 0x40F
  | .bwaitToken f => ctlOk f false false && fnZero f 0xB && fnBit f 2 && f.d == 0#8 && f.a == 0#8 && f.c == 0#8 && !lqA f && !lqC f &&
      useOk (.src false) f.b (fnBit f 10) (lqB f)
  | .bwaitTest f => ctlOk f false false && fnZero f 0x3 && fnBit f 2 && fnBit f 3 && dstOk .pred f.d && f.a == 0#8 && f.c == 0#8 &&
      !lqA f && !lqC f && useOk (.src false) f.b (fnBit f 10) (lqB f)
  -- matrix engine (R253 to R258)
  | .mldT f => ctlOk f false false && fnZero f 0x707 && f.lq == 0#3 && decide (f.d.toNat < 32) && f.b == 0#8 && f.c == 0#8
  | .mldA f => ctlOk f true true && fnZero f 0x607 && fnBit f 8 && f.lq == 0#3 && f.c == 0#8
  | .mma f => ctlOk f false true && fnZero f 0xF && f.lq == 0#3 && decide (f.d.toNat < 16) && f.a.toNat % 4 == 0 && decide (f.b.toNat < 32)
  | .msg f => ctlOk f false false && fnZero f 0x1FFF && f.lq == 0#3 && decide (f.d.toNat < 16) && f.a == 0#8 && f.b == 0#8 && f.c == 0#8
  | .mofn f => plainOk f 0x1FFF
  | .mwt f => ctlOk f false false && fnZero f 0x1FFF && f.lq == 0#3 && decide (f.d.toNat < 16) && f.a == 0#8 && f.b == 0#8 && f.c == 0#8
  | .mz f => ctlOk f false false && fnZero f 0x1FF8 && f.lq == 0#3 && decide (f.d.toNat < 32) && f.a == 0#8 && f.b == 0#8 && f.c == 0#8
  | .mdrGet f => ctlOk f true false && fnZero f 0x1FF9 && f.lq == 0#3 && f.d.toNat % 4 == 0 && decide (f.a.toNat < 32) &&
      f.b == 0#8 && f.c == 0#8
  | .mdrPut f => ctlOk f false false && fnZero f 0x1FF8 && fnBit f 0 && f.lq == 0#3 && f.d.toNat % 4 == 0 && decide (f.a.toNat < 32) &&
      f.b == 0#8 && f.c == 0#8
  | .mdrx f => ctlOk f false false && fnZero f 0x1F && f.lq == 0#3 && decide (f.d.toNat < 32) && evenOk (!fnBit f 10) f.a &&
      evenOk (!fnBit f 10) f.c
  -- control transfer (R101 to R106)
  | .nop f => plainOk f 0x1FFF
  | .bra f => ctlOk f false false && fnZero f 0x1FFF && f.lq == 0#3
  | .brx f => ctlOk f false false && fnZero f 0x5FF && addrOk true f.a (fnBit f 9) (lqA f) && f.d == 0#8 && f.b == 0#8 && f.c == 0#8 &&
      !lqB f && !lqC f
  | .call f => ctlOk f true false && fnZero f 0x1FFD && f.lq == 0#3 && evenOk true f.d
  | .callInd f => ctlOk f true false && fnZero f 0x5FC && fnBit f 0 && evenOk true f.d && addrOk true f.a (fnBit f 9) (lqA f) &&
      f.b == 0#8 && f.c == 0#8 && !lqB f && !lqC f
  | .ret f => ctlOk f false false && fnZero f 0x5FF && addrOk true f.a (fnBit f 9) (lqA f) && f.d == 0#8 && f.b == 0#8 && f.c == 0#8 &&
      !lqB f && !lqC f
  | .meet f => ctlOk f false false && fnZero f 0x1FFF && f.lq == 0#3
  | .meetClr f => plainOk f 0x1FFE && fnBit f 0
  | .meetReg f => ctlOk f false false && fnZero f 0x5FD && fnBit f 1 && addrOk true f.a (fnBit f 9) (lqA f) && f.d == 0#8 &&
      f.b == 0#8 && f.c == 0#8 && !lqB f && !lqC f
  | .exit f => plainOk f 0x1FFF
  | .yield f => plainOk f 0x1F00
  -- group operations (R107 to R112)
  | .voteAll f => ctlOk f false false && fnZero f 0x7F8 && fnField f 0 2 == 0 && dstOk .pred f.d && useOk .pred f.a false (lqA f) &&
      f.b == 0#8 && f.c == 0#8 && !lqB f && !lqC f
  | .voteAny f => ctlOk f false false && fnZero f 0x7F8 && fnField f 0 2 == 1 && dstOk .pred f.d && useOk .pred f.a false (lqA f) &&
      f.b == 0#8 && f.c == 0#8 && !lqB f && !lqC f
  | .voteSame f => ctlOk f false false && fnZero f 0x7F8 && fnField f 0 2 == 2 && dstOk .pred f.d && useOk .pred f.a false (lqA f) &&
      f.b == 0#8 && f.c == 0#8 && !lqB f && !lqC f
  | .voteBallot f => ctlOk f true false && fnZero f 0x3F8 && fnField f 0 2 == 3 && useOk .pred f.a false (lqA f) &&
      f.b == 0#8 && f.c == 0#8 && !lqB f && !lqC f
  | .shfl f => ctlOk f true false && fnZero f 0x660 && evenOk (fnBit f 4) f.d && useOk (.src (fnBit f 4)) f.a false (lqA f) &&
      useOk (if fnBit f 2 then .imm 256 else .src false) f.b (fnBit f 8) (lqB f) &&
      useOk (if fnBit f 3 then .no else .src false) f.c (fnBit f 7) (lqC f)
  | .matchAny f => ctlOk f true false && fnZero f 0x1FFE && useOk (.src (fnBit f 0)) f.a false (lqA f) && f.b == 0#8 && f.c == 0#8 &&
      !lqB f && !lqC f
  | .matchAll f => ctlOk f true false && fnZero f 0x1FFC && fnBit f 1 && useOk (.src (fnBit f 0)) f.a false (lqA f) && f.b == 0#8 &&
      useOk .pred f.c false (lqC f) && !lqB f
  | .elect f => ctlOk f false false && fnZero f 0x1FFF && dstOk .pred f.d && f.a == 0#8 && f.b == 0#8 && f.c == 0#8 && f.lq == 0#3
  | .gred f => ctlOk f true false && fnZero f 0x3E0 && fnField f 0 3 != 7 && evenOk (fnBit f 4) f.d &&
      useOk (.src (fnBit f 4)) f.a false (lqA f) && f.b == 0#8 && f.c == 0#8 && !lqB f && !lqC f
  | .sread f => ctlOk f true false && fnZero f 0x3FF && f.b == 0#8 && f.c == 0#8 && f.lq == 0#3 && decide (f.a.toNat ≤ 16) &&
      evenOk (f.a == 16#8) f.d && (!ud f || !(f.a.toNat == 0 || (9 ≤ f.a.toNat && f.a.toNat ≤ 11) || f.a.toNat == 16))
  -- team synchronisation and registers (R113, R114)
  | .tbar f => plainOk f 0x1FFF
  | .rgive f => plainOk f 0x1FE0 && fnField f 0 5 != 0
  | .rclaim f => plainOk f 0x1FE0 && fnField f 0 5 != 0
  -- line routines, walker routines, translation and sealing (R281, R285, R328, R330, R401)
  | .lrinv f => ctlOk f true false && fnZero f 0x183 && ordOk f && evenOk true f.d && addrOk true f.a (fnBit f 10) (lqA f) &&
      f.b.toNat % 4 == 0 && !lqB f && decide (f.c.toNat < 64) && !lqC f
  | .lrload f => ctlOk f false false && fnZero f 0x3C0 && fnBit f 10 && evenOk true f.a && f.d == 0#8 && f.b == 0#8 && f.c == 0#8 &&
      f.lq == 0#3
  | .tlbinv f => ctlOk f false false && fnZero f 0x1FF && fnBit f 10 && fnBit f 9 && evenOk true f.a && f.d == 0#8 && f.c == 0#8 &&
      f.lq == 0#3
  | .tlbinvAll f => plainOk f 0x7FE && fnBit f 0
  | .xopen f => ctlOk f true false && fnZero f 0x7FF && f.lq == 0#3 && evenOk true f.a && f.c.toNat % 4 == 0
  | .xseal f => ctlOk f true false && fnZero f 0x7FE && fnBit f 0 && f.lq == 0#3 && evenOk true f.a && f.c.toNat % 4 == 0
  | .wrload f => ctlOk f false false && fnZero f 0x3FF && fnBit f 10 && evenOk true f.a && f.d == 0#8 && f.b == 0#8 && f.c == 0#8 &&
      f.lq == 0#3
  -- traps and system registers (R364 to R367, R423)
  | .rchk f => plainOk f 0x1FFF
  | .trap f => ctlOk f false false && fnZero f 0x1FFF && f.d == 0#8 && f.a == 0#8 && f.lq == 0#3
  | .rtt f => plainOk f 0x1FFF
  | .rttSkip f => plainOk f 0x1FFE && fnBit f 0
  | .srr f => ctlOk f true false && fnZero f 0x3FF && sysregIndex f.a.toNat && f.b == 0#8 && f.c == 0#8 && f.lq == 0#3 &&
      evenOk (sysregWide f.a.toNat) f.d
  | .srw f => ctlOk f false false && fnZero f 0x6FF && sysregIndex f.a.toNat && f.d == 0#8 && f.c == 0#8 && !lqA f && !lqC f &&
      useOk (.src (sysregWide f.a.toNat)) f.b (fnBit f 8) (lqB f)
  | .bkpt f => plainOk f 0x1FFF
  -- pair slots (R59)
  | .pairNop f => f.pg3 == 7#3 && f.d == 0#8 && f.a == 0#8 && f.pm == 0#6
  | .pairMov f => slotOk f 0x3F
  | .pairIadd f => slotOk f 0x3F
  | .pairIsub f => slotOk f 0x3F
  | .pairAnd f => slotOk f 0x3F
  | .pairOr f => slotOk f 0x3F
  | .pairXor f => slotOk f 0x3F
  | .pairShl f => slotOk f 0x3F
  | .pairShr f => slotOk f 0x3E
  | .pairImin f => slotOk f 0x3E
  | .pairImax f => slotOk f 0x3E
  | .pairImul f => slotOk f 0x3F
  | .pairFadd f => slotOk f 0x38
  | .pairFmul f => slotOk f 0x38
  | .pairFmin f => slotOk f 0x3B
  | .pairFmax f => slotOk f 0x3B
  | .pairHadd2 f => slotOk f 0x30
  | .pairHmul2 f => slotOk f 0x30
  | .pairShli f => slotOk f 0x3F
  | .pairShri f => slotOk f 0x3E
  | .pairIaddi8 f => slotOk f 0x3F
  | .pairMovi8 f => slotOk f 0x3E
  -- Crumb words (R260, R264, R267 to R271, R316, R317)
  | .crumbAdd f => crumbR f
  | .crumbSub f => crumbR f
  | .crumbMul f => crumbR f
  | .crumbAnd f => crumbR f
  | .crumbOr f => crumbR f
  | .crumbXor f => crumbR f
  | .crumbShl _ => true
  | .crumbShr _ => true
  | .crumbSar _ => true
  | .crumbRotr _ => true
  | .crumbMin f => crumbR f
  | .crumbMax f => crumbR f
  | .crumbMinz f => crumbR f
  | .crumbMaxz f => crumbR f
  | .crumbSeq f => crumbR f
  | .crumbSlt f => crumbR f
  | .crumbSltz f => crumbR f
  | .crumbSel f => crumbR f
  | .crumbAddi f => f.rb == 0#4
  | .crumbLi f => f.ra == 0#4 && f.rb == 0#4
  | .crumbLih f => f.rb == 0#4
  | .crumbFadd f => crumbR f
  | .crumbFmin f => crumbR f
  | .crumbFmax f => crumbR f
  | .crumbBf f => f.rd == 0#4 && f.rb == 0#4
  | .crumbLdl f => f.ra == 0#4 && crumbMem f true
  | .crumbStl f => f.rd == 0#4 && crumbMem f false
  | .crumbRetv f => f.rd == 0#4 && f.ra == 0#4 && f.rb == 0#4 && f.imm == 0#14
  | .crumbLdp f => f.rb == 0#4
  | .crumbHash f => crumbR f
  | .crumbBr f => f.rd == 0#4 && f.rb == 0#4
  | .crumbMapok f => f.rd == 0#4 && f.ra == 0#4 && f.rb == 0#4 && f.imm == 0#14
  | .crumbMapno f => f.rd == 0#4 && f.ra == 0#4 && f.rb == 0#4 && f.imm == 0#14
  | .crumbMapflt f => f.rd == 0#4 && f.ra == 0#4 && f.rb == 0#4 && f.imm == 0#14
  -- the events of the part: no words
  | .issueCycle => true
  | .claimDeadlock => true
  | .barrierStarved => true
  | .transferLands => true
  | .bulkSectorLands => true
  | .bulkStoreSectorCredit => true
  | .matrixArmedStart => true
  | .matrixComplete => true
  | .leaseEnd _ _ => true
  | .predictorDecay => true
  | .shippedAtomic => true
  | .l1LineExpiry => true
  | .invocationArrival => true
  | .invocationRun => true
  | .invocationReturn => true
  | .routineImageDrop => true
  | .walkRequest _ => true
  | .walkStart => true
  | .heldWalkRecheck => true
  | .pageRequestResponse _ _ _ _ _ => true
  | .rds => true
  | .rdx => true
  | .upg => true
  | .wbd => true
  | .evc => true
  | .fws => true
  | .fwx => true
  | .inv => true
  | .rcl => true
  | .hrc => true
  | .hrs => true
  | .hrx => true
  | .hwb => true
  | .rel => true
  | .spl => true
  | .prb => true
  | .dat => true
  | .dak => true
  | .iak => true
  | .wak => true
  | .recallTimeout => true
  | .nougatLost => true
  | .queueMap _ _ _ _ _ _ _ _ => true
  | .queueUnmap _ _ _ => true
  | .doorbell => true
  | .nopPacket => true
  | .bundle => true
  | .wait => true
  | .waitSatisfied => true
  | .copySublaunch => true
  | .fillSublaunch => true
  | .gridEnd => true
  | .bundleRetire => true
  | .teamPlacement => true
  | .coresidentPlacement => true
  | .twinPlacement => true
  | .compactorMove _ _ => true
  | .tokenBucketWrite _ _ _ _ => true
  | .bucketUpdate => true
  | .preempt _ _ _ => true
  | .engineQuiesced => true
  | .restore _ _ _ => true
  | .queueReset _ _ _ => true
  | .scrub => true
  | .rollback => true
  | .bundleDiscarded => true
  | .compareEntry => true
  | .extentGrant _ _ _ _ => true
  | .extentFillDone => true
  | .extentChange _ _ _ _ => true
  | .layoutChange _ _ => true
  | .worldCreate _ _ _ _ _ _ => true
  | .evidenceRequest _ _ _ => true
  | .keyInstall _ _ => true
  | .measuredLoad _ _ _ _ _ _ => true
  | .revocation _ _ => true
  | .interfaceUnlocked _ _ => true
  | .tdispBind _ _ _ => true
  | .allowlistDenied _ _ _ _ => true
  | .hostWindowAccess _ _ _ _ => true
  | .hostDoorbellWrite => true
  | .submissionCommit _ _ _ _ _ => true
  | .doorbellFrameStore => true
  | .doeRequest _ _ _ => true
  | .controlPairMismatch => true
  | .claim _ => true
  | .handover _ _ => true
  | .accept _ => true
  | .handoverTimeout => true
  | .force _ => true
  | .deviceReset _ => true
  | .cxlLinkFailure => true
  | .powerCapSet _ _ => true
  | .powerAverage => true
  | .thermalLimit _ _ _ => true
  | .spaceCreate _ _ _ _ _ => true
  | .walkerStoreDrop => true
  | .loadReturn => true
  | .configurationRequest => true

end Sys2Proof.Machine
end

