-- ==== Sys2Proof/WellFormed.lean ====
section
/-! DEFINITION. Well-formedness of an instruction: every check of R49 to R66 and of the encoding tables that can be made
on the word alone. -/

namespace Sys2Proof

/-- An instruction is well-formed when the word it stands for is an instruction (R65); see `Machine.legal`. -/
def Instr.wellFormed (i : Instr) : Bool := Machine.legal i

end Sys2Proof
end

