-- ==== Sys2Proof/Decode.lean ====
section
/-! DEFINITION. The decoder of Fjodo words, of pair slots and of Crumb words, total on any bits and rejecting by name, and
after it the encoder from the same tables (R49, R55, R56, R64, R65, R260, R264, R269, R271). -/

namespace Sys2Proof

open Sys2Proof.Machine

/-- Why bits are no instruction (R65, R262). -/
inductive Reject where
  /-- A major, a pair operation or an OP6 that the tables do not list. -/
  | unlisted
  /-- A field, selector or bit that its entry does not allow. -/
  | field
  /-- Bit 0 of a pair word is set. -/
  | pairBit
deriving DecidableEq, Repr

/-- A Fjodo word as its fields give it: one operation, or the two slots of a pair word. -/
inductive Decoded where
  | one (i : Instr)
  | two (i0 i1 : Instr)
deriving DecidableEq, Repr

/-- The fields of the single form (R49). -/
def sformOf (w : BitVec 64) : SForm where
  pg := w.extractLsb' 52 4
  pn := w.getLsbD 51
  d := w.extractLsb' 43 8
  a := w.extractLsb' 35 8
  b := w.extractLsb' 27 8
  c := w.extractLsb' 19 8
  lq := w.extractLsb' 16 3
  nw := w.getLsbD 15
  hd := w.getLsbD 14
  ru := w.getLsbD 13
  fn := w.extractLsb' 0 13

/-- The fields of the immediate form (R55). -/
def siformOf (w : BitVec 64) : SIForm where
  pg := w.extractLsb' 52 4
  pn := w.getLsbD 51
  d := w.extractLsb' 43 8
  a := w.extractLsb' 35 8
  imm := w.extractLsb' 3 32
  ud := w.getLsbD 2
  f3 := w.extractLsb' 0 2

/-- The fields of a pair slot, bits numbered within the slot (R56). -/
def pslotOf (w : BitVec 31) : PSlot where
  pg3 := w.extractLsb' 22 3
  d := w.extractLsb' 14 8
  a := w.extractLsb' 6 8
  pm := w.extractLsb' 0 6

/-- The fields of a Crumb word (R260). -/
def cformOf (w : BitVec 32) : CForm where
  rd := w.extractLsb' 22 4
  ra := w.extractLsb' 18 4
  rb := w.extractLsb' 14 4
  imm := w.extractLsb' 0 14

/-- The operation that a major opcode and the selecting bits of FN name (R64 and the entries). -/
def singleOp (maj : Nat) (f : SForm) (w : BitVec 64) : Option Instr :=
  match maj with
  | 0x00 => some (.nop f)
  | 0x01 => some (.iadd f)
  | 0x02 => some (.isub f)
  | 0x03 => some (.iadd3 f)
  | 0x04 => some (.imul f)
  | 0x05 => some (.imad f)
  | 0x06 => some (.imulh f)
  | 0x07 => some (.imin f)
  | 0x08 => some (.imax f)
  | 0x09 => some (.iabs f)
  | 0x0A => some (.and f)
  | 0x0B => some (.or f)
  | 0x0C => some (.xor f)
  | 0x0D => some (.tern f)
  | 0x0E => some (.lea f)
  | 0x0F => some (.movi (siformOf w))
  | 0x10 => some (.shl f)
  | 0x11 => some (.shr f)
  | 0x12 => some (.fsh f)
  | 0x13 => some (.bfx f)
  | 0x14 => some (.bfi f)
  | 0x15 => some (.popc f)
  | 0x16 => some (.clz f)
  | 0x17 => some (.brev f)
  | 0x18 => some (.bsel f)
  | 0x19 => some (.isetp f)
  | 0x1A => some (.sel f)
  | 0x1B => some (.mov f)
  | 0x1C => some (.psetp f)
  | 0x1D => some (.p2v f)
  | 0x1E => some (.v2p f)
  | 0x1F => some (.iaddi (siformOf w))
  | 0x20 => some (.fadd f)
  | 0x21 => some (.fmul f)
  | 0x22 => some (.ffma f)
  | 0x23 => some (.fmin f)
  | 0x24 => some (.fmax f)
  | 0x25 => some (.fsetp f)
  | 0x26 => some (.fclass f)
  | 0x27 => some (.frnd f)
  | 0x28 =>
    match fnField f 0 3 with
    | 0 => some (.frcp f)
    | 1 => some (.frsq f)
    | 2 => some (.fsqrt f)
    | 3 => some (.fex2 f)
    | 4 => some (.flg2 f)
    | 5 => some (.fsin f)
    | 6 => some (.fcos f)
    | 7 => some (.ftanh f)
    | _ => none
  | 0x29 => some (.dadd f)
  | 0x2A => some (.dmul f)
  | 0x2B => some (.dfma f)
  | 0x2C => some (.fscl f)
  | 0x30 => some (.hadd2 f)
  | 0x31 => some (.hmul2 f)
  | 0x32 => some (.hfma2 f)
  | 0x33 => some (.hmnmx2 f)
  | 0x34 => some (.pdot4 f)
  | 0x35 => some (.pdot8 f)
  | 0x38 => some (.f2i f)
  | 0x39 => some (.i2f f)
  | 0x3A => some (.f2f f)
  | 0x3B => some (.pcvt f)
  | 0x3C => some (.unpk f)
  | 0x40 => some (.ld f)
  | 0x41 => some (.st f)
  | 0x42 => some (.sld f)
  | 0x43 => some (.lda f)
  | 0x44 => some (.strel f)
  | 0x45 => some (.atom f)
  | 0x46 => some (.atomx f)
  | 0x47 => some (.red f)
  | 0x48 => some (.fence f)
  | 0x49 =>
    match fnField f 0 3 with
    | 0 => some (.cctlIvl1 f)
    | 1 => some (.cctlIvl1All f)
    | 2 => some (.cctlDemote f)
    | _ => none
  | 0x4A => some (.prf f)
  | 0x4B => some (.iflush f)
  | 0x4C => some (.isync f)
  | 0x4D =>
    match fnField f 0 2 with
    | 0 => some (.presTest f)
    | 1 => some (.presSet f)
    | 2 => some (.presClr f)
    | _ => none
  | 0x50 => some (.acp f)
  | 0x51 => some (.acpc f)
  | 0x52 => some (.acpw f)
  | 0x53 =>
    match fnField f 10 1 with
    | 0 => some (.bcpLd f)
    | 1 => some (.bcpSt f)
    | _ => none
  | 0x54 =>
    match fnField f 0 1 with
    | 0 => some (.rfence f)
    | 1 => some (.rfenceAll f)
    | _ => none
  | 0x55 => some (.binit f)
  | 0x56 => some (.barv f)
  | 0x57 =>
    match fnField f 2 2 with
    | 0 => some (.bwait f)
    | 1 => some (.bwaitToken f)
    | 3 => some (.bwaitTest f)
    | _ => none
  | 0x58 =>
    match fnField f 8 1 with
    | 0 => some (.mldT f)
    | 1 => some (.mldA f)
    | _ => none
  | 0x59 => some (.msg f)
  | 0x5A => some (.mma f)
  | 0x5B => some (.mofn f)
  | 0x5C => some (.mwt f)
  | 0x5D => some (.mz f)
  | 0x5E =>
    match fnField f 0 1 with
    | 0 => some (.mdrGet f)
    | 1 => some (.mdrPut f)
    | _ => none
  | 0x5F => some (.mdrx f)
  | 0x60 => some (.bra f)
  | 0x61 => some (.brx f)
  | 0x62 =>
    match fnField f 0 1 with
    | 0 => some (.call f)
    | 1 => some (.callInd f)
    | _ => none
  | 0x63 => some (.ret f)
  | 0x64 =>
    match fnField f 0 2 with
    | 0 => some (.meet f)
    | 1 => some (.meetClr f)
    | 2 => some (.meetReg f)
    | _ => none
  | 0x65 => some (.exit f)
  | 0x66 => some (.yield f)
  | 0x67 =>
    match fnField f 0 2 with
    | 0 => some (.voteAll f)
    | 1 => some (.voteAny f)
    | 2 => some (.voteSame f)
    | 3 => some (.voteBallot f)
    | _ => none
  | 0x68 => some (.shfl f)
  | 0x69 =>
    match fnField f 1 1 with
    | 0 => some (.matchAny f)
    | 1 => some (.matchAll f)
    | _ => none
  | 0x6A => some (.elect f)
  | 0x6B => some (.gred f)
  | 0x6C => some (.sread f)
  | 0x70 => some (.tbar f)
  | 0x71 => some (.rgive f)
  | 0x72 => some (.rclaim f)
  | 0x73 => some (.lrinv f)
  | 0x74 => some (.lrload f)
  | 0x75 =>
    match fnField f 0 1 with
    | 0 => some (.tlbinv f)
    | 1 => some (.tlbinvAll f)
    | _ => none
  | 0x76 =>
    match fnField f 0 1 with
    | 0 => some (.xopen f)
    | 1 => some (.xseal f)
    | _ => none
  | 0x77 => some (.rchk f)
  | 0x78 => some (.trap f)
  | 0x79 =>
    match fnField f 0 1 with
    | 0 => some (.rtt f)
    | 1 => some (.rttSkip f)
    | _ => none
  | 0x7A => some (.srr f)
  | 0x7B => some (.srw f)
  | 0x7C => some (.bkpt f)
  | 0x7D => some (.wrload f)
  | _ => none

/-- The operation that a POP names (R59). -/
def slotOp (pop : Nat) (f : PSlot) : Option Instr :=
  match pop with
  | 0x00 => some (.pairNop f)
  | 0x01 => some (.pairMov f)
  | 0x02 => some (.pairIadd f)
  | 0x03 => some (.pairIsub f)
  | 0x04 => some (.pairAnd f)
  | 0x05 => some (.pairOr f)
  | 0x06 => some (.pairXor f)
  | 0x07 => some (.pairShl f)
  | 0x08 => some (.pairShr f)
  | 0x09 => some (.pairImin f)
  | 0x0A => some (.pairImax f)
  | 0x0B => some (.pairImul f)
  | 0x0C => some (.pairFadd f)
  | 0x0D => some (.pairFmul f)
  | 0x0E => some (.pairFmin f)
  | 0x0F => some (.pairFmax f)
  | 0x10 => some (.pairHadd2 f)
  | 0x11 => some (.pairHmul2 f)
  | 0x12 => some (.pairShli f)
  | 0x13 => some (.pairShri f)
  | 0x14 => some (.pairIaddi8 f)
  | 0x15 => some (.pairMovi8 f)
  | _ => none

/-- The operation that an OP6 names (R264, R269, R271). -/
def crumbOp (op : Nat) (f : CForm) : Option Instr :=
  match op with
  | 0x01 => some (.crumbAdd f)
  | 0x02 => some (.crumbSub f)
  | 0x03 => some (.crumbMul f)
  | 0x04 => some (.crumbAnd f)
  | 0x05 => some (.crumbOr f)
  | 0x06 => some (.crumbXor f)
  | 0x07 => some (.crumbShl f)
  | 0x08 => some (.crumbShr f)
  | 0x09 => some (.crumbSar f)
  | 0x0A => some (.crumbRotr f)
  | 0x0B => some (.crumbMin f)
  | 0x0C => some (.crumbMax f)
  | 0x0D => some (.crumbMinz f)
  | 0x0E => some (.crumbMaxz f)
  | 0x0F => some (.crumbSeq f)
  | 0x10 => some (.crumbSlt f)
  | 0x11 => some (.crumbSltz f)
  | 0x12 => some (.crumbSel f)
  | 0x13 => some (.crumbAddi f)
  | 0x14 => some (.crumbLi f)
  | 0x15 => some (.crumbLih f)
  | 0x16 => some (.crumbFadd f)
  | 0x17 => some (.crumbFmin f)
  | 0x18 => some (.crumbFmax f)
  | 0x19 => some (.crumbBf f)
  | 0x20 => some (.crumbLdl f)
  | 0x21 => some (.crumbStl f)
  | 0x22 => some (.crumbRetv f)
  | 0x28 => some (.crumbLdp f)
  | 0x29 => some (.crumbHash f)
  | 0x2A => some (.crumbBr f)
  | 0x2B => some (.crumbMapok f)
  | 0x2C => some (.crumbMapno f)
  | 0x2D => some (.crumbMapflt f)
  | _ => none

/-- An operation found in the tables is an instruction when its entry allows every bit of the word (R65, R262). -/
def accept : Option Instr → Except Reject Instr
  | none => .error .unlisted
  | some i => if i.wellFormed then .ok i else .error .field

/-- One slot of a pair word (R56). -/
def decodeSlot (w : BitVec 31) : Except Reject Instr := accept (slotOp (w.extractLsb' 25 6).toNat (pslotOf w))

/-- A Crumb word (R260, R262). -/
def decodeCrumb (w : BitVec 32) : Except Reject Instr := accept (crumbOp (w.extractLsb' 26 6).toNat (cformOf w))

/-- A single-form or immediate-form word, K = 0 (R49, R55). -/
def decodeSingle (w : BitVec 64) : Except Reject Instr := accept (singleOp (w.extractLsb' 56 7).toNat (sformOf w) w)

/-- A Fjodo word (R48). (DESIGN CHOICE, log 98.) -/
def decode (w : BitVec 64) : Except Reject Decoded :=
  if w.getLsbD 63 then
    if w.getLsbD 0 then .error .pairBit
    else
      match decodeSlot (w.extractLsb' 32 31), decodeSlot (w.extractLsb' 1 31) with
      | .ok i0, .ok i1 => .ok (.two i0 i1)
      | .error e, _ => .error e
      | .ok _, .error e => .error e
  else
    match decodeSingle w with
    | .ok i => .ok (.one i)
    | .error e => .error e

/-- The instruction of spec/opcode_table.json whose word is `w`: the table gives 32 bits to a Crumb word, and a Fjodo word
has 64. Words are stored little-endian at an aligned position (R48, R260), so the word is its bytes in order. -/
def decodeTableWord (nbits w : Nat) : Option Instr :=
  if nbits = 32 then (decodeCrumb (BitVec.ofNat 32 w)).toOption
  else if nbits = 64 then
    match decode (BitVec.ofNat 64 w) with
    | .ok (.one i) => some i
    | _ => none
  else none

/-! ### The encoder -/

/-- A single-form word (R49). -/
def encodeS (maj : Nat) (f : SForm) : BitVec 64 :=
  0#1 ++ BitVec.ofNat 7 maj ++ f.pg ++ BitVec.ofBool f.pn ++ f.d ++ f.a ++ f.b ++ f.c ++ f.lq ++ BitVec.ofBool f.nw ++
    BitVec.ofBool f.hd ++ BitVec.ofBool f.ru ++ f.fn

/-- An immediate-form word (R55). -/
def encodeSI (maj : Nat) (f : SIForm) : BitVec 64 :=
  0#1 ++ BitVec.ofNat 7 maj ++ f.pg ++ BitVec.ofBool f.pn ++ f.d ++ f.a ++ f.imm ++ BitVec.ofBool f.ud ++ f.f3

/-- A pair slot (R56), in the low 31 bits. -/
def encodeP (pop : Nat) (f : PSlot) : BitVec 31 := BitVec.ofNat 6 pop ++ f.pg3 ++ f.d ++ f.a ++ f.pm

/-- A Crumb word (R260). -/
def encodeC (op : Nat) (f : CForm) : BitVec 32 := BitVec.ofNat 6 op ++ f.rd ++ f.ra ++ f.rb ++ f.imm

/-- A pair word of two encoded slots (R56). -/
def encodePair (s0 s1 : BitVec 31) : BitVec 64 := 1#1 ++ s0 ++ s1 ++ 0#1

/-- The word of an instruction: a Fjodo word, a slot, a Crumb word; an event has none. -/
inductive Word where
  | fjodo (w : BitVec 64)
  | slot (w : BitVec 31)
  | crumb (w : BitVec 32)
  | none
deriving DecidableEq, Repr

/-- The word of an instruction, from the encoding tables. -/
def encode : Instr → Word
  | .issueCycle => .none
  | .claimDeadlock => .none
  | .barrierStarved => .none
  | .transferLands => .none
  | .bulkSectorLands => .none
  | .bulkStoreSectorCredit => .none
  | .matrixArmedStart => .none
  | .matrixComplete => .none
  | .leaseEnd _ _ => .none
  | .predictorDecay => .none
  | .shippedAtomic => .none
  | .l1LineExpiry => .none
  | .invocationArrival => .none
  | .invocationRun => .none
  | .invocationReturn => .none
  | .routineImageDrop => .none
  | .walkRequest _ => .none
  | .walkStart => .none
  | .heldWalkRecheck => .none
  | .pageRequestResponse _ _ _ _ _ => .none
  | .rds => .none
  | .rdx => .none
  | .upg => .none
  | .wbd => .none
  | .evc => .none
  | .fws => .none
  | .fwx => .none
  | .inv => .none
  | .rcl => .none
  | .hrc => .none
  | .hrs => .none
  | .hrx => .none
  | .hwb => .none
  | .rel => .none
  | .spl => .none
  | .prb => .none
  | .dat => .none
  | .dak => .none
  | .iak => .none
  | .wak => .none
  | .recallTimeout => .none
  | .nougatLost => .none
  | .queueMap _ _ _ _ _ _ _ _ => .none
  | .queueUnmap _ _ _ => .none
  | .doorbell => .none
  | .nopPacket => .none
  | .bundle => .none
  | .wait => .none
  | .waitSatisfied => .none
  | .copySublaunch => .none
  | .fillSublaunch => .none
  | .gridEnd => .none
  | .bundleRetire => .none
  | .teamPlacement => .none
  | .coresidentPlacement => .none
  | .twinPlacement => .none
  | .compactorMove _ _ => .none
  | .tokenBucketWrite _ _ _ _ => .none
  | .bucketUpdate => .none
  | .preempt _ _ _ => .none
  | .engineQuiesced => .none
  | .restore _ _ _ => .none
  | .queueReset _ _ _ => .none
  | .scrub => .none
  | .rollback => .none
  | .bundleDiscarded => .none
  | .compareEntry => .none
  | .extentGrant _ _ _ _ => .none
  | .extentFillDone => .none
  | .extentChange _ _ _ _ => .none
  | .layoutChange _ _ => .none
  | .worldCreate _ _ _ _ _ _ => .none
  | .evidenceRequest _ _ _ => .none
  | .keyInstall _ _ => .none
  | .measuredLoad _ _ _ _ _ _ => .none
  | .revocation _ _ => .none
  | .interfaceUnlocked _ _ => .none
  | .tdispBind _ _ _ => .none
  | .allowlistDenied _ _ _ _ => .none
  | .hostWindowAccess _ _ _ _ => .none
  | .hostDoorbellWrite => .none
  | .submissionCommit _ _ _ _ _ => .none
  | .doorbellFrameStore => .none
  | .doeRequest _ _ _ => .none
  | .controlPairMismatch => .none
  | .claim _ => .none
  | .handover _ _ => .none
  | .accept _ => .none
  | .handoverTimeout => .none
  | .force _ => .none
  | .deviceReset _ => .none
  | .cxlLinkFailure => .none
  | .powerCapSet _ _ => .none
  | .powerAverage => .none
  | .thermalLimit _ _ _ => .none
  | .nop f => .fjodo (encodeS 0x00 f)
  | .iadd f => .fjodo (encodeS 0x01 f)
  | .isub f => .fjodo (encodeS 0x02 f)
  | .iadd3 f => .fjodo (encodeS 0x03 f)
  | .imul f => .fjodo (encodeS 0x04 f)
  | .imad f => .fjodo (encodeS 0x05 f)
  | .imulh f => .fjodo (encodeS 0x06 f)
  | .imin f => .fjodo (encodeS 0x07 f)
  | .imax f => .fjodo (encodeS 0x08 f)
  | .iabs f => .fjodo (encodeS 0x09 f)
  | .and f => .fjodo (encodeS 0x0A f)
  | .or f => .fjodo (encodeS 0x0B f)
  | .xor f => .fjodo (encodeS 0x0C f)
  | .tern f => .fjodo (encodeS 0x0D f)
  | .lea f => .fjodo (encodeS 0x0E f)
  | .movi f => .fjodo (encodeSI 0x0F f)
  | .iaddi f => .fjodo (encodeSI 0x1F f)
  | .shl f => .fjodo (encodeS 0x10 f)
  | .shr f => .fjodo (encodeS 0x11 f)
  | .fsh f => .fjodo (encodeS 0x12 f)
  | .bfx f => .fjodo (encodeS 0x13 f)
  | .bfi f => .fjodo (encodeS 0x14 f)
  | .popc f => .fjodo (encodeS 0x15 f)
  | .clz f => .fjodo (encodeS 0x16 f)
  | .brev f => .fjodo (encodeS 0x17 f)
  | .bsel f => .fjodo (encodeS 0x18 f)
  | .isetp f => .fjodo (encodeS 0x19 f)
  | .sel f => .fjodo (encodeS 0x1A f)
  | .mov f => .fjodo (encodeS 0x1B f)
  | .psetp f => .fjodo (encodeS 0x1C f)
  | .p2v f => .fjodo (encodeS 0x1D f)
  | .v2p f => .fjodo (encodeS 0x1E f)
  | .fadd f => .fjodo (encodeS 0x20 f)
  | .fmul f => .fjodo (encodeS 0x21 f)
  | .ffma f => .fjodo (encodeS 0x22 f)
  | .fmin f => .fjodo (encodeS 0x23 f)
  | .fmax f => .fjodo (encodeS 0x24 f)
  | .fsetp f => .fjodo (encodeS 0x25 f)
  | .fclass f => .fjodo (encodeS 0x26 f)
  | .frnd f => .fjodo (encodeS 0x27 f)
  | .frcp f => .fjodo (encodeS 0x28 f)
  | .frsq f => .fjodo (encodeS 0x28 f)
  | .fsqrt f => .fjodo (encodeS 0x28 f)
  | .fex2 f => .fjodo (encodeS 0x28 f)
  | .flg2 f => .fjodo (encodeS 0x28 f)
  | .fsin f => .fjodo (encodeS 0x28 f)
  | .fcos f => .fjodo (encodeS 0x28 f)
  | .ftanh f => .fjodo (encodeS 0x28 f)
  | .dadd f => .fjodo (encodeS 0x29 f)
  | .dmul f => .fjodo (encodeS 0x2A f)
  | .dfma f => .fjodo (encodeS 0x2B f)
  | .fscl f => .fjodo (encodeS 0x2C f)
  | .hadd2 f => .fjodo (encodeS 0x30 f)
  | .hmul2 f => .fjodo (encodeS 0x31 f)
  | .hfma2 f => .fjodo (encodeS 0x32 f)
  | .hmnmx2 f => .fjodo (encodeS 0x33 f)
  | .pdot4 f => .fjodo (encodeS 0x34 f)
  | .pdot8 f => .fjodo (encodeS 0x35 f)
  | .f2i f => .fjodo (encodeS 0x38 f)
  | .i2f f => .fjodo (encodeS 0x39 f)
  | .f2f f => .fjodo (encodeS 0x3A f)
  | .pcvt f => .fjodo (encodeS 0x3B f)
  | .unpk f => .fjodo (encodeS 0x3C f)
  | .ld f => .fjodo (encodeS 0x40 f)
  | .st f => .fjodo (encodeS 0x41 f)
  | .sld f => .fjodo (encodeS 0x42 f)
  | .lda f => .fjodo (encodeS 0x43 f)
  | .strel f => .fjodo (encodeS 0x44 f)
  | .atom f => .fjodo (encodeS 0x45 f)
  | .atomx f => .fjodo (encodeS 0x46 f)
  | .red f => .fjodo (encodeS 0x47 f)
  | .fence f => .fjodo (encodeS 0x48 f)
  | .cctlIvl1 f => .fjodo (encodeS 0x49 f)
  | .cctlIvl1All f => .fjodo (encodeS 0x49 f)
  | .cctlDemote f => .fjodo (encodeS 0x49 f)
  | .prf f => .fjodo (encodeS 0x4A f)
  | .iflush f => .fjodo (encodeS 0x4B f)
  | .isync f => .fjodo (encodeS 0x4C f)
  | .presTest f => .fjodo (encodeS 0x4D f)
  | .presSet f => .fjodo (encodeS 0x4D f)
  | .presClr f => .fjodo (encodeS 0x4D f)
  | .acp f => .fjodo (encodeS 0x50 f)
  | .acpc f => .fjodo (encodeS 0x51 f)
  | .acpw f => .fjodo (encodeS 0x52 f)
  | .bcpLd f => .fjodo (encodeS 0x53 f)
  | .bcpSt f => .fjodo (encodeS 0x53 f)
  | .rfence f => .fjodo (encodeS 0x54 f)
  | .rfenceAll f => .fjodo (encodeS 0x54 f)
  | .binit f => .fjodo (encodeS 0x55 f)
  | .barv f => .fjodo (encodeS 0x56 f)
  | .bwait f => .fjodo (encodeS 0x57 f)
  | .bwaitToken f => .fjodo (encodeS 0x57 f)
  | .bwaitTest f => .fjodo (encodeS 0x57 f)
  | .mldT f => .fjodo (encodeS 0x58 f)
  | .mldA f => .fjodo (encodeS 0x58 f)
  | .mma f => .fjodo (encodeS 0x5A f)
  | .msg f => .fjodo (encodeS 0x59 f)
  | .mofn f => .fjodo (encodeS 0x5B f)
  | .mwt f => .fjodo (encodeS 0x5C f)
  | .mz f => .fjodo (encodeS 0x5D f)
  | .mdrGet f => .fjodo (encodeS 0x5E f)
  | .mdrPut f => .fjodo (encodeS 0x5E f)
  | .mdrx f => .fjodo (encodeS 0x5F f)
  | .bra f => .fjodo (encodeS 0x60 f)
  | .brx f => .fjodo (encodeS 0x61 f)
  | .call f => .fjodo (encodeS 0x62 f)
  | .callInd f => .fjodo (encodeS 0x62 f)
  | .ret f => .fjodo (encodeS 0x63 f)
  | .meet f => .fjodo (encodeS 0x64 f)
  | .meetClr f => .fjodo (encodeS 0x64 f)
  | .meetReg f => .fjodo (encodeS 0x64 f)
  | .exit f => .fjodo (encodeS 0x65 f)
  | .yield f => .fjodo (encodeS 0x66 f)
  | .voteAll f => .fjodo (encodeS 0x67 f)
  | .voteAny f => .fjodo (encodeS 0x67 f)
  | .voteSame f => .fjodo (encodeS 0x67 f)
  | .voteBallot f => .fjodo (encodeS 0x67 f)
  | .shfl f => .fjodo (encodeS 0x68 f)
  | .matchAny f => .fjodo (encodeS 0x69 f)
  | .matchAll f => .fjodo (encodeS 0x69 f)
  | .elect f => .fjodo (encodeS 0x6A f)
  | .gred f => .fjodo (encodeS 0x6B f)
  | .sread f => .fjodo (encodeS 0x6C f)
  | .tbar f => .fjodo (encodeS 0x70 f)
  | .rgive f => .fjodo (encodeS 0x71 f)
  | .rclaim f => .fjodo (encodeS 0x72 f)
  | .lrinv f => .fjodo (encodeS 0x73 f)
  | .lrload f => .fjodo (encodeS 0x74 f)
  | .tlbinv f => .fjodo (encodeS 0x75 f)
  | .tlbinvAll f => .fjodo (encodeS 0x75 f)
  | .xopen f => .fjodo (encodeS 0x76 f)
  | .xseal f => .fjodo (encodeS 0x76 f)
  | .rchk f => .fjodo (encodeS 0x77 f)
  | .trap f => .fjodo (encodeS 0x78 f)
  | .rtt f => .fjodo (encodeS 0x79 f)
  | .rttSkip f => .fjodo (encodeS 0x79 f)
  | .srr f => .fjodo (encodeS 0x7A f)
  | .srw f => .fjodo (encodeS 0x7B f)
  | .bkpt f => .fjodo (encodeS 0x7C f)
  | .wrload f => .fjodo (encodeS 0x7D f)
  | .pairNop f => .slot (encodeP 0x00 f)
  | .pairMov f => .slot (encodeP 0x01 f)
  | .pairIadd f => .slot (encodeP 0x02 f)
  | .pairIsub f => .slot (encodeP 0x03 f)
  | .pairAnd f => .slot (encodeP 0x04 f)
  | .pairOr f => .slot (encodeP 0x05 f)
  | .pairXor f => .slot (encodeP 0x06 f)
  | .pairShl f => .slot (encodeP 0x07 f)
  | .pairShr f => .slot (encodeP 0x08 f)
  | .pairImin f => .slot (encodeP 0x09 f)
  | .pairImax f => .slot (encodeP 0x0A f)
  | .pairImul f => .slot (encodeP 0x0B f)
  | .pairFadd f => .slot (encodeP 0x0C f)
  | .pairFmul f => .slot (encodeP 0x0D f)
  | .pairFmin f => .slot (encodeP 0x0E f)
  | .pairFmax f => .slot (encodeP 0x0F f)
  | .pairHadd2 f => .slot (encodeP 0x10 f)
  | .pairHmul2 f => .slot (encodeP 0x11 f)
  | .pairShli f => .slot (encodeP 0x12 f)
  | .pairShri f => .slot (encodeP 0x13 f)
  | .pairIaddi8 f => .slot (encodeP 0x14 f)
  | .pairMovi8 f => .slot (encodeP 0x15 f)
  | .crumbAdd f => .crumb (encodeC 0x01 f)
  | .crumbSub f => .crumb (encodeC 0x02 f)
  | .crumbMul f => .crumb (encodeC 0x03 f)
  | .crumbAnd f => .crumb (encodeC 0x04 f)
  | .crumbOr f => .crumb (encodeC 0x05 f)
  | .crumbXor f => .crumb (encodeC 0x06 f)
  | .crumbShl f => .crumb (encodeC 0x07 f)
  | .crumbShr f => .crumb (encodeC 0x08 f)
  | .crumbSar f => .crumb (encodeC 0x09 f)
  | .crumbRotr f => .crumb (encodeC 0x0A f)
  | .crumbMin f => .crumb (encodeC 0x0B f)
  | .crumbMax f => .crumb (encodeC 0x0C f)
  | .crumbMinz f => .crumb (encodeC 0x0D f)
  | .crumbMaxz f => .crumb (encodeC 0x0E f)
  | .crumbSeq f => .crumb (encodeC 0x0F f)
  | .crumbSlt f => .crumb (encodeC 0x10 f)
  | .crumbSltz f => .crumb (encodeC 0x11 f)
  | .crumbSel f => .crumb (encodeC 0x12 f)
  | .crumbAddi f => .crumb (encodeC 0x13 f)
  | .crumbLi f => .crumb (encodeC 0x14 f)
  | .crumbLih f => .crumb (encodeC 0x15 f)
  | .crumbFadd f => .crumb (encodeC 0x16 f)
  | .crumbFmin f => .crumb (encodeC 0x17 f)
  | .crumbFmax f => .crumb (encodeC 0x18 f)
  | .crumbBf f => .crumb (encodeC 0x19 f)
  | .crumbLdl f => .crumb (encodeC 0x20 f)
  | .crumbStl f => .crumb (encodeC 0x21 f)
  | .crumbRetv f => .crumb (encodeC 0x22 f)
  | .crumbLdp f => .crumb (encodeC 0x28 f)
  | .crumbHash f => .crumb (encodeC 0x29 f)
  | .crumbBr f => .crumb (encodeC 0x2A f)
  | .crumbMapok f => .crumb (encodeC 0x2B f)
  | .crumbMapno f => .crumb (encodeC 0x2C f)
  | .crumbMapflt f => .crumb (encodeC 0x2D f)
  | .spaceCreate _ _ _ _ _ => .none
  | .walkerStoreDrop => .none
  | .loadReturn => .none
  | .configurationRequest => .none

/-- The instruction that a word of `encode` decodes to. -/
def Word.decoded : Word → Option Instr
  | .fjodo w => match decode w with
    | .ok (.one i) => some i
    | _ => Option.none
  | .slot w => (decodeSlot w).toOption
  | .crumb w => (decodeCrumb w).toOption
  | .none => Option.none

end Sys2Proof
end

