-- ==== Sys2Proof/Machine/Engine.lean ====
section
/-! DEFINITION. The engines that run Crumb words: their registers, how a line routine ends (R276, R279, R280), how a walk ends
(R313, R320 to R325), and what the end of a walk gives the accesses that it served. -/

namespace Sys2Proof.Machine

/-! ### Registers and position -/

/-- An idle line-routine engine, and an idle walker. -/
def SliceEng.empty : SliceEng := ⟨[], 0, [], none, [], [], ⟨false, []⟩, 0, 0, 0, [], 0#64⟩
def Walker.empty : Walker := ⟨none, [], ⟨false, []⟩, 0, 0, 0, 0, 0#64⟩

/-- Read and change an engine. -/
def sliceAt (s : State) (k : Nat) : SliceEng := mval s.slices SliceEng.empty k
def onSlice (s : State) (k : Nat) (f : SliceEng → SliceEng) : State := { s with slices := mput s.slices k (f (sliceAt s k)) }
def walkerAt (s : State) (w : Nat) : Walker := mval s.walkers Walker.empty w
def onWalker (s : State) (w : Nat) (f : Walker → Walker) : State := { s with walkers := mput s.walkers w (f (walkerAt s w)) }

/-- `c(n)` of an engine: `c0` reads zero (R261). -/
def cReg (s : State) (e : Engine) (n : Nat) : W64 :=
  if n = 0 then 0#64
  else match e with
    | .slice k => mval (sliceAt s k).c 0#64 n
    | .walker w => mval (walkerAt s w).c 0#64 n

/-- Write `c(n)`: a write to `c0` is discarded (R261). -/
def cPut (s : State) (e : Engine) (n : Nat) (x : W64) : State :=
  if n = 0 then s
  else match e with
    | .slice k => onSlice s k (fun y => { y with c := mput y.c n x })
    | .walker w => onWalker s w (fun y => { y with c := mput y.c n x })

/-- The word index of an engine. -/
def cIdx (s : State) : Engine → Nat
  | .slice k => (sliceAt s k).idx
  | .walker w => (walkerAt s w).idx

/-- The words of its image. -/
def cWords (s : State) : Engine → List (BitVec 32)
  | .slice k => (sliceAt s k).image.words
  | .walker w => (walkerAt s w).image.words

/-! ### The end of a line routine -/

/-- The lines held by an engine (R276 step 3). -/
def heldLines (s : State) : List Nat := s.slices.filterMap (fun p => if p.2.inv.isSome then some p.2.line else none)

/-- The engine that holds a line (R276 step 3). -/
def holderOf (s : State) (line : Nat) : Option Nat := (s.slices.find? (fun p => p.2.inv.isSome && p.2.line == line)).map (·.1)

/-- Release the line and clear the engine (R276 step 7); the requests that waited are served next, in the order of their arrival. -/
def releaseSlice (s : State) (k : Nat) : State :=
  let s := { s with agenda := (sliceAt s k).waits ++ s.agenda }
  onSlice s k (fun y => { y with inv := none, c := [], buf := [], image := ⟨false, []⟩, idx := 0, waits := [], strike := 0#64 })

/-- A request for a line that an engine holds, or for the engine itself, arrives and waits (R276, R277). -/
def waitAtSlice (s : State) (k : Nat) (m : Move) : State := onSlice s k (fun y => { y with waits := y.waits ++ [m] })

/-- Change an invocation. -/
def onInv (s : State) (x : Nat) (f : Inv → Inv) : State := { s with invs := mupd s.invs x f }

/-- A reason 0x06 to 0x09 of R279, or WALK_ERROR reason 0x06, is also reported (R426). -/
def engineError (s : State) (world : Nat) (kind index reason : Nat) : State := report s (some world) 0x57 kind index reason

/-- A line routine faults: the line is released unchanged (R279). -/
def sliceFault (s : State) (k reason word : Nat) : State :=
  match (sliceAt s k).inv with
  | none => s
  | some x =>
    let s := if 6 ≤ reason && reason ≤ 9 then engineError s (((mget s.invs x).map (·.world)).getD 0) 5 k reason else s
    let s := onInv s x (fun i => { i with st := .faulted .routineFault (BitVec.ofNat 64 (reason + 256 * (word % 256))) })
    releaseSlice s k

/-- The routine's write of the line (R280): it has its place in coherence order at once, before the line is released. -/
def routineWrite (s : State) (i : Inv) (buf : List Byte) : State := settle (homeWrite s i.core i.world (128 * i.line) buf i.after)

/-- A line routine ends without a fault (R267, R269, R276 steps 6 and 7). -/
def sliceDone (s : State) (k : Nat) : State :=
  match (sliceAt s k).inv with
  | none => s
  | some x =>
    match mget s.invs x with
    | none => releaseSlice s k
    | some i =>
      let e := sliceAt s k
      let s := if e.image.ro then s else routineWrite s i e.buf
      let s := if i.attrs.testBit 5 then onDie s (homeDie (128 * i.line)) (fun d => { d with l2 := d.l2.filter (fun y => y.line != i.line) })
        else fillL2 s i.line (slice i.attrs 3 2)
      let s := onInv s x (fun i => { i with st := .ended (mval e.c 0#64 3) })
      releaseSlice s k

/-! ### The end of a walk -/

/-- The TINFO of a failed walk (R323). -/
def walkInfo (reason word tcode : Nat) : W64 := BitVec.ofNat 64 (reason + 256 * (word % 256) + 2 ^ 32 * tcode)

/-- How a page of a set of needs now stands. -/
def answerPage (va kind : Nat) (st : PageSt) (ns : List PageNeed) : List PageNeed :=
  ns.map (fun n => if n.page = va / 4096 && n.kind = kind && n.st == .pending then { n with st := st } else n)

/-- Give the accesses that a request serves their answer (R321, R324, R325). -/
def answerWalk (s : State) (r : WalkReq) (st : PageSt) : State :=
  r.who.foldl (fun s who =>
    match who with
    | .group gid => onGroup s gid (fun g => { g with susp := answerPage r.va r.kind st g.susp })
    | .frontEnd fe slot => onQueue s fe slot (fun q => { q with susp := answerPage r.va r.kind st q.susp })) s

/-- A walker is free again: its registers and working state are cleared (R312). -/
def freeWalker (s : State) (w : Nat) : State := { s with walkers := mdel s.walkers w }

/-- Whether a request is for a page and kind of a space. -/
def WalkReq.wants (r : WalkReq) (part space va kind : Nat) : Bool :=
  r.part == part && r.space == space && r.va / 4096 == va / 4096 && r.kind == kind

/-- Put a request into the queue as a new one: merged with one that has not yet begun, or at its end (R308, R325, R331).
(DEDUCED, log 50.) -/
def requeue (s : State) (r : WalkReq) : State :=
  let same (x : WalkReq) : Bool := x.wants r.part r.space r.va r.kind
  if s.walkq.any same then
    { s with walkq := s.walkq.map (fun x => if same x then { x with who := x.who ++ r.who.filter (fun w => !x.who.contains w) } else x) }
  else { s with fresh := s.fresh + 1, walkq := s.walkq ++ [{ r with id := s.fresh, drop := [] }] }

/-- Whether a TLBINV named a range that a result of some bytes meets (R331). -/
def WalkReq.dropped (r : WalkReq) (lo n : Nat) : Bool := r.drop.any (fun d => decide (lo < d.2) && decide (d.1 < lo + n))

/-- A walk fails with a cause (R323); a failure whose page a TLBINV named is discarded and the accesses walk again (R331). -/
def failWalk (s : State) (r : WalkReq) (c : Cause) (reason word tcode : Nat) : State :=
  if r.dropped (r.va / 4096 * 4096) 4096 then requeue s r
  else answerWalk s r (.failed c (walkInfo reason word tcode))

/-- The request of a walker ends with a failure. -/
def walkerFault (s : State) (w : Nat) (c : Cause) (reason word tcode : Nat) : State :=
  match (walkerAt s w).req with
  | none => s
  | some r =>
    let s := if c = .walkError && reason = 6 then engineError s r.world 6 w reason else s
    failWalk (freeWalker s w) r c reason word tcode

/-- A Crumb word faults in its engine: a reason of R279, or of R323. -/
def crumbFault (s : State) (e : Engine) (sliceReason walkReason : Nat) : State :=
  match e with
  | .slice k => sliceFault s k sliceReason (sliceAt s k).idx
  | .walker w => walkerFault s w .walkError walkReason (walkerAt s w).idx 0

/-- Continue at a word index (R267, R313): past its end a line routine ends, and a walk that leaves its image fails. -/
def goTo (s : State) (e : Engine) (i : Int) : State :=
  match e with
  | .slice k =>
    if i < 0 || i ≥ (sliceAt s k).image.words.length then sliceDone s k else onSlice s k (fun y => { y with idx := i.toNat })
  | .walker w =>
    if i < 0 || i ≥ (walkerAt s w).image.words.length then walkerFault s w .walkError 0x0A (walkerAt s w).idx 0
    else onWalker s w (fun y => { y with idx := i.toNat })

/-- The next word. -/
def crumbNext (s : State) (e : Engine) : State := goTo s e (cIdx s e + 1)

/-! ### Checking a proposal (R320) -/

/-- What a proposal comes to. -/
inductive Verdict where
  | pass
  | hold
  | assist
  | fail (c : Cause) (reason : Nat)
deriving DecidableEq, Repr

/-- A space with nothing. -/
def Space.none : Space := ⟨0, [], 0, 0, Option.none⟩

/-- The space of a number. -/
def spaceOf (s : State) (n : Nat) : Space := mval s.spaces Space.none n

/-- Whether bytes meet the routine arena or the walker image area of any space (R272, R310, R320). -/
def meetsArena (s : State) (pa n : Nat) : Bool :=
  s.spaces.any (fun p =>
    (decide (pa < p.2.arena + 16384) && decide (p.2.arena < pa + n)) || (decide (pa < p.2.walkerArea + 4096) && decide (p.2.walkerArea < pa + n)))

/-- The permissions that an access kind requires, as R, W and X bits (R308). -/
def kindNeeds (kind : Nat) : Nat :=
  match kind with
  | 0x1 => 1
  | 0x2 => 2
  | 0x4 => 4
  | _ => 3

/-- Check a proposal from step 2 on (R320, R322). -/
def checkFrame (s : State) (space kind frame lsize attrs : Nat) : Verdict :=
  match (spaceOf s space).exts.find? (fun q => extHolds q.2 frame (2 ^ lsize)) with
  | none => if attrs.testBit 6 then .assist else .fail .refused 1
  | some (_, x) =>
    let rwx := attrs % 8
    if rwx &&& x.rwx.toNat ≠ rwx then .fail .refused 2
    else if meetsArena s frame (2 ^ lsize) then .fail .refused 3
    else if rwx &&& kindNeeds kind ≠ kindNeeds kind then .fail .permission 1
    else if x.sealed && attrs.testBit 1 then .fail .sealed 1
    else if x.f then .pass else .hold

/-- Check a proposal (R320): step 1 first. -/
def checkProposal (s : State) (space kind : Nat) (c5 c6 c7 : W64) : Verdict :=
  if !([12, 16, 21, 25, 30].contains c6.toNat) || c5.toNat % 2 ^ c6.toNat ≠ 0 || decide (c5.toNat ≥ 2 ^ 52) || decide (c7.toNat ≥ 2 ^ 7) then
    .fail .walkError 5
  else checkFrame s space kind c5.toNat c6.toNat c7.toNat

/-- A result that passed maps its range, for the accesses it served and in the caches (R306, R321), unless a TLBINV discards it
(R331). -/
def mapWalk (s : State) (r : WalkReq) (frame lsize attrs : Nat) : State :=
  let base := r.va / 2 ^ lsize * 2 ^ lsize
  if r.dropped base (2 ^ lsize) then requeue s r
  else
    let t : Trans := ⟨r.space, base, lsize, frame, attrs⟩
    let s := r.who.foldl (fun s who =>
      match who with
      | .group gid =>
        match mget s.groups gid with
        | some g => enterTrans s g.core r.part t
        | none => s
      | .frontEnd _ _ => s) s
    answerWalk s r (.mapped frame lsize attrs)

/-! ### Page requests (R325, R326) -/

/-- Place the waiting page requests that find an entry, in arrival order (R326): 1 is the reserved entry of the space, 2 a
shared one, 0 waiting outside the queue. -/
def placePages (q : List PageReq) : List PageReq :=
  q.foldl (fun done p =>
    if p.where_ ≠ 0 then done
    else
      let others := done.filter (fun x => x.part == p.part)
      let own := others.filter (fun x => x.space == p.space)
      let put (n : Nat) : List PageReq := done.map (fun x => if x.seq = p.seq && x.part = p.part then { x with where_ := n } else x)
      if !own.any (fun x => x.where_ == 1) then put 1
      else if (own.filter (fun x => x.where_ == 2)).length < 16 && (others.filter (fun x => x.where_ == 2)).length < 64 then put 2
      else done) q

/-- A walk ends in a page request (R325): the access stays pending. -/
def askPage (s : State) (r : WalkReq) (cookie : W64) (fromMapok : Bool) : State :=
  let n := (partOf s r.part).seq
  let s := onPart s r.part (fun p => { p with seq := (n + 1) % 2 ^ 64 })
  { s with pageq := placePages (s.pageq ++ [⟨n, r, r.part, r.space, r.world, r.kind + (if fromMapok then 16 else 0), cookie, 0, false, false⟩]) }

/-- Settle the verdict on a proposal. -/
def settleVerdict (s : State) (r : WalkReq) (c5 c6 c7 : W64) (word : Nat) (v : Verdict) : State :=
  match v with
  | .pass => mapWalk s r c5.toNat c6.toNat c7.toNat
  | .hold => { s with fresh := s.fresh + 1, held := mput s.held s.fresh ⟨r, c5, c6, c7, word⟩ }
  | .assist => if r.dropped (r.va / 4096 * 4096) 4096 then requeue s r else askPage s r c5 true
  | .fail c reason => failWalk s r c reason word 0

/-! ### One Crumb word -/

/-- The effect of the Crumb word at hand. Without one under way nothing happens (DESIGN CHOICE, log 5). -/
def withCrumb (s : State) (k : State → Engine → State) : Out :=
  match s.cur with
  | .crumb e _ => .next (k { s with cur := .idle } e)
  | _ => .next s

/-- A word that writes c(RD) from c(RA) and c(RB) (R264). -/
def crumbAlu (f : CForm) (op : W64 → W64 → W64) (s : State) : Out :=
  withCrumb s fun s e =>
    crumbNext (cPut s e f.rd.toNat (op (cReg s e f.ra.toNat) (cReg s e f.rb.toNat))) e

/-- A word of the line-routine engines only (R271): in a walker it fails with reason 0x02. -/
def onlySlice (s : State) (k : State → Nat → State) : Out :=
  withCrumb s fun s e =>
    match e with
    | .slice n => k s n
    | .walker _ => crumbFault s e 0 2

/-- A word of the walkers only (R271): in a line-routine engine it faults with reason 0x02. -/
def onlyWalker (s : State) (k : State → Nat → State) : Out :=
  withCrumb s fun s e =>
    match e with
    | .slice _ => crumbFault s e 2 0
    | .walker n => k s n

end Sys2Proof.Machine
end

