-- ==== Sys2Proof/Machine/Copy.lean ====
section
/-! DEFINITION. Per-thread copies, bulk copies, batch tags and barrier objects: the instructions (R208 to R233) and the landings of
the copy engines (R214, R223, R224, R228). -/

namespace Sys2Proof.Machine

/-! ### ACP, ACPC, ACPW -/

/-- A tag of a group. -/
def tagAt (g : Group) (n : Nat) : Tag := g.tags.getD n ⟨0, 0, 0, 0⟩

/-- The transfers of a group that have not landed (R215). -/
def unlanded (g : Group) : Nat := (g.tags.map (fun t => t.pend + t.opened)).sum

/-- Whether a group has room for some more transfers (R215). -/
def acpFits (g : Group) (n : Nat) : Bool := decide (unlanded g + n ≤ 1024)

/-- The valid-byte count of ACP in a lane (R222). -/
def acpCount (f : SForm) (g : Group) (l : Nat) : Nat :=
  if fnBit f 7 then f.c.toNat else min 32 ((opnd f f.c (fnBit f 8) (lqC f) false).read g l)

/-- ACP (R215, R222 to R224): the thread's outstanding operations on the source bytes come first (R194). The TADDR of a source that runs
past 2^56 is where it begins (DESIGN CHOICE, log 107). -/
def execAcp (f : SForm) (s : State) : Out :=
  let a := opnd f f.a (fnBit f 10) (lqA f) true
  let b := opnd f f.b (fnBit f 9) (lqB f) false
  let cc := if fnBit f 7 then .none else opnd f f.c (fnBit f 8) (lqC f) false
  let tag := tagOf f
  .next (issueWord s f.pg f.pn ((a.needs.and b.needs).and cc.needs) (a.regs ++ b.regs ++ cc.regs) fun s c g t cl =>
    let ls := lanesOf cl
    if !acpFits g ls.length then onGroup s c.gid (fun g => { g with resume := some c, holds := .acp ls.length :: g.holds })
    else
      let src (l : Nat) : Nat := a.read g l
      let n (l : Nat) : Nat := acpCount f g l
      let early := ls.filterMap (fun l =>
        if b.read g l % 32 ≠ 0 then some (l, Cause.address, 0#64, BitVec.ofNat 64 (b.read g l))
        else if 0 < n l && (src l % 4 ≠ 0 || decide (src l + n l > 2 ^ 56)) then some (l, Cause.address, 0#64, BitVec.ofNat 64 (src l))
        else none)
      let out := accFailures (ls.map (fun l => (l, scratchAcc t ((b.read g l : Nat)) 32 32)))
      if !early.isEmpty then trapLowest s c early
      else
        withPagesOr s c out (ls.map (fun l => (l, pagesOf (src l) (n l)))) 1 fun s g tr =>
          let pieces (l : Nat) : List (Nat × Nat × Nat) :=
            (pagesOf (src l) (n l)).map (fun va => (va, (tr va).1, min (src l + n l) (va / 4096 * 4096 + 4096) - va))
          let tg := tagAt g tag
          let s := performOverlapping s c.gid (ls.flatMap pieces)
          let s := ls.foldl (fun s l =>
            let sec := b.read g l / 32
            let s := clearPresence s g.team sec
            { s with
              fresh := s.fresh + 1
              copies := mput s.copies s.fresh
                { team := g.team, kind := .acp c.gid tag tg.batch l (pieces l), sec := sec, interval := t.interval, issued := s.fresh
                  got := [], failed := [], full := [], after := (g.lane l).fence } }) s
          let g := (mget s.groups c.gid).getD g
          endWord s c { g with tags := g.tags.set tag { tg with opened := tg.opened + ls.length } } false [])

/-- ACPC (R214, R225): the open batch is closed. -/
def execAcpc (f : SForm) (s : State) : Out :=
  .next (issueWord s f.pg f.pn {} [] fun s c g _ cl =>
    let tg := tagAt g (tagOf f)
    let closed : Tag := { tg with pend := tg.pend + tg.opened, opened := 0, batch := tg.batch + 1 }
    endWord s c (if cl = 0#32 then g else { g with tags := g.tags.set (tagOf f) closed }) false [])

/-- ACPW (R214, R225). -/
def execAcpw (f : SForm) (s : State) : Out :=
  .next (issueWord s f.pg f.pn {} [] fun s c g _ cl =>
    let tg := tagAt g (tagOf f)
    endWord s c (if tg.pend = 0 then g else block g cl (.tag (tagOf f) tg.phase)) false [])

/-! ### The tensor shape record (R216 to R219) -/

/-- A parsed record. -/
structure TensorRec where
  base : Nat
  ctrl : Nat
  fill : Nat
  dim : List Nat
  stride : List Nat
  box : List Nat
  reserved : Bool
deriving DecidableEq, Repr

/-- Read the fields of a record. -/
def parseRec (bs : List Byte) : TensorRec :=
  let num (o n : Nat) : Nat := leNat ((bs.drop o).take n)
  { base := num 0 8, ctrl := num 8 4, fill := num 0xC 8
    dim := (List.range 5).map (fun i => num (0x14 + 4 * i) 4)
    stride := 0 :: (List.range 4).map (fun i => num (0x28 + 8 * i) 8)
    box := (List.range 5).map (fun i => num (0x48 + 2 * i) 2)
    reserved := num 0x52 46 != 0 }

/-- RANK, ESZ, SWZ and FP (R217). -/
def TensorRec.rank (r : TensorRec) : Nat := slice r.ctrl 0 3
def TensorRec.esize (r : TensorRec) : Nat := 2 ^ slice r.ctrl 3 2
def TensorRec.swz (r : TensorRec) : Nat := slice r.ctrl 5 3
def TensorRec.fp (r : TensorRec) : Bool := r.ctrl.testBit 8

/-- The extents of the used dimensions, and the box size. -/
def TensorRec.used (r : TensorRec) (l : List Nat) : List Nat := l.take r.rank
def TensorRec.size (r : TensorRec) : Nat := (r.used r.box).foldl (· * ·) 1 * r.esize

/-- Whether a record is accepted (R216, R218). A field of an unused dimension that is not zero, and CLASS with CH = 0, refuse it as a
reserved field does (DESIGN CHOICE, log 108). -/
def TensorRec.ok (r : TensorRec) : Bool :=
  !r.reserved && slice r.ctrl 13 19 == 0 && !r.ctrl.testBit 9 && (r.ctrl.testBit 12 || slice r.ctrl 10 2 == 0) &&
    decide (1 ≤ r.rank) && decide (r.rank ≤ 5) && decide (r.swz ≤ 3) && r.base % 32 == 0 &&
    (r.used r.dim).all (fun d => d != 0) && (r.used r.box).all (fun b => decide (1 ≤ b) && decide (b ≤ 4096)) &&
    (r.used r.stride).all (fun d => d % 32 == 0) &&
    (r.dim.drop r.rank).all (· == 0) && (r.box.drop r.rank).all (· == 0) && (r.stride.drop r.rank).all (· == 0) &&
    r.box.getD 0 0 * r.esize % 32 == 0 && decide (r.size ≤ 262144) && (r.swz == 0 || r.size % (32 * 2 ^ r.swz) == 0)

/-- The indices j0 to j4 of the element of a number within the box. -/
def boxIndex : List Nat → Nat → List Nat
  | [], _ => []
  | b :: bs, e => e % b :: boxIndex bs (e / b)

/-- The global address of the element of a number, if it is in range (R219). -/
def TensorRec.elem (r : TensorRec) (k : List Int) (e : Nat) : Option Nat :=
  let js := boxIndex (r.used r.box) e
  let ns := js.zipIdx.map (fun p => k.getD p.2 0 + (p.1 : Int))
  if ns.zipIdx.all (fun p => decide (0 ≤ p.1) && decide (p.1 < (r.dim.getD p.2 0 : Int))) then
    some ((r.base + (ns.getD 0 0).toNat * r.esize + ((ns.zipIdx.drop 1).map (fun p => p.1.toNat * r.stride.getD p.2 0)).sum) % 2 ^ 64)
  else none

/-- The sector of the slot in which chunk `q` of the box's bytes lies (R219). -/
def TensorRec.sector (r : TensorRec) (off q : Nat) : Nat :=
  if r.swz = 0 then off / 32 + q
  else
    let m := 2 ^ r.swz
    off / 32 + q / m * m + (q % m + q / m) % m

/-- The box, sector by sector of the slot: the virtual address of each in-range byte, and what fills it otherwise (R219). -/
def TensorRec.sectors (r : TensorRec) (off : Nat) (k : List Int) : List (Nat × List (Nat × Option Nat × Byte)) :=
  (List.range (r.size / 32)).map (fun q =>
    (r.sector off q, (List.range 32).map (fun i =>
      let b := 32 * q + i
      let y := b % r.esize
      (i, (r.elem k (b / r.esize)).map (fun ga => ga + y), if r.fp then BitVec.ofNat 8 (r.fill / 2 ^ (8 * y)) else 0#8))))

/-- The addresses of the in-range elements in the element order of R219. -/
def TensorRec.addrs (r : TensorRec) (k : List Int) : List Nat := (List.range (r.size / r.esize)).filterMap (r.elem k)

/-- Whether a core does not yet see a write. -/
def unseenBy (s : State) (core id : Nat) : Bool := s.writes.any (fun w => w.id == id && !w.vis.getLsbD core)

/-- Read a record from memory into the record cache of a core, with those of the writes that RFENCEs over it cover which the core does
not yet see (R220). -/
def fillRec (s : State) (core : Nat) (t : Team) (va : Nat) (ps : List (Nat × Nat × Nat)) (now : List Byte) : State :=
  onCore s core (fun c =>
    let covered := c.fenced.flatMap (fun x => if x.1 = t.space && (x.2.1.isNone || x.2.1 == some va) then x.2.2 else [])
    let late := (s.writes.filter (fun w =>
      covered.contains w.id && !w.vis.getLsbD core && ps.any (fun p => w.overlaps p.2.1 p.2.2))).map (·.id)
    { c with recs := (⟨t.space, va, now, late⟩ :: c.recs.filter (fun x => !(x.space == t.space && x.addr == va))).take 32 })

/-- The record at an address: each 32-byte sector as the record cache has it, or as it stands in memory; as it stands once the core has
seen a write that an RFENCE covers and the cached record does not (R220). (DEDUCED, log 48.) -/
def readRec (s : State) (core : Nat) (t : Team) (va : Nat) (ps : List (Nat × Nat × Nat)) : State × List Byte :=
  let now := readPieces s core t.world ps
  match (coreOf s core).recs.find? (fun x => x.space == t.space && x.addr == va) with
  | some x =>
    if x.late.any (fun id => !unseenBy s core id) then (fillRec s core t va ps now, now)
    else
      let pickSec (i : Nat) : List Byte :=
        let old := (x.bytes.drop (32 * i)).take 32
        let new := (now.drop (32 * i)).take 32
        if old = new then old else if Config.takesNew s.free i then new else old
      ({ s with free := s.free + 1 }, (List.range 6).flatMap pickSec)
  | none => (fillRec s core t va ps now, now)

/-! ### BCP -/

/-- Raise a cause of a single execution in every lane of CL. -/
def trapOnce (s : State) (c : Ctx) (cl : Mask) (x : Cause) (addr : Nat) : State := takeTrap s c.gid x cl c.pc (BitVec.ofNat 64 addr) 0#64

/-- The global lines of a copy are filled under the class hint of its record, or its mapping's class, but for uncached ones (R169, R170,
R217). -/
def fillBox (s : State) (r : TensorRec) (lines : List (Nat × Nat)) : State :=
  lines.foldl (fun s p =>
    if p.2.testBit 5 then s else fillL2 s p.1 (if r.ctrl.testBit 12 then slice r.ctrl 10 2 else slice p.2 3 2)) s

/-- Start a bulk copy whose checks have passed (R227, R228): the group's outstanding operations on its bytes of global memory come first
(R194). -/
def startBulk (f : SForm) (store : Bool) (r : TensorRec) (rec : List Byte) (recVa off : Nat) (k : List Int) (s : State) (c : Ctx) (g : Group)
    (t : Team) (cl : Mask) (tr : Nat → Nat × Nat) : State :=
  let secs := r.sectors off k
  let phys (drop : Bool) := secs.map (fun q => (q.1, q.2.map (fun x => (x.1, if drop then none else x.2.1.map (fun va => (tr va).1), x.2.2))))
  let put (s : State) (drop : Bool) : State :=
    { s with
      fresh := s.fresh + 1
      copies := mput s.copies s.fresh
        { team := g.team, kind := .bulk c.gid (objOf f) store recVa off (k.map (fun x => wrap 32 x)) (phys drop), sec := 0
          interval := t.interval, issued := s.fresh, got := [], failed := [], full := phys drop
          after := (lanesOf cl).flatMap (fun l => (g.lane l).fence) } }
  let lines := ((r.addrs k).map (fun va => ((tr va).1 / 128, (tr va).2))).eraseDups
  let before (s : State) : State := performOverlapping s c.gid ((phys false).flatMap (fun q => bulkPieces q.2))
  if !store then
    let s := secs.foldl (fun s q => clearPresence s g.team q.1) (fillBox (before s) r lines)
    endWord (put s false) c ((mget s.groups c.gid).getD g) false []
  else
    let inRange := secs.filter (fun q => q.2.any (fun x => x.2.1.isSome))
    match (if t.twin = 0 then none else inRange.find? (fun q => t.absent.contains q.1)) with
    | some q =>
      -- a twin team signs the bytes that it reads, so it waits for them (R164, R439)
      blockOnce s c g cl q.1 false
    | none =>
      let data := (r.addrs k).flatMap (fun va => (List.range r.esize).map (fun y => va + y))
      let byteAt (va : Nat) : Byte :=
        match secs.findSome? (fun q => (q.2.find? (fun x => x.2.1 == some va)).map (fun x => 32 * q.1 + x.1)) with
        | some o => memGet t.sp o
        | none => 0#8
      let record := if t.twin = 0 then []
        else laneRecord 0xFF (leBytes 8 recVa ++ leBytes 4 off ++ k.flatMap (fun x => leBytes 4 (wrap 32 x)) ++ rec ++ data.map byteAt)
      pairOp s c g t ((phys false).flatMap (fun q => (bulkPieces q.2).map (fun p => (false, p.2)))) record none fun s g role =>
        let s := if role = .trailing then s else fillBox (before s) r lines
        endOnce (escape (put s (role = .trailing)) g.team) c ((mget s.groups c.gid).getD g) false []

/-- BCP (R226 to R228): bytes 0x80 to 0xBF of the record are not read for the copy, so an error there is not consumed (R216). -/
def bulkWord (f : SForm) (store : Bool) (s : State) : State :=
  let regs := [(2, uni f f.a), (2, uni f f.a + 1), (2, uni f f.b)] ++ (List.range 5).map (fun i => (2, uni f f.c + i))
  issueWord s f.pg f.pn {} regs fun s c g t cl =>
    if cl = 0#32 then endWord s c g false []
    else
      let gu := onceGroup g c
      let recVa := (uRead64 gu (uni f f.a)).toNat
      let off := (uRead gu (uni f f.b)).toNat
      let k := (List.range 5).map (fun i => (uRead gu (uni f f.c + i)).toInt)
      if !(objAt t (objOf f)).v then trapOnce s c cl .scratchBounds (objOf f)
      else if recVa % 64 ≠ 0 || recVa + 192 > 2 ^ 56 then trapOnce s c cl .address recVa
      else
        let firsts := pagesOf recVa 192
        withPages s c ((lanesOf cl).map (fun l => (l, firsts))) 1 fun s g tr =>
          let upTo (n : Nat) : List (Nat × Nat × Nat) := (firsts.filter (fun x => decide (x < recVa + n))).map (fun x =>
            (x, (tr x).1, min (recVa + n) (x / 4096 * 4096 + 4096) - x))
          checkedOnce s c t cl (upTo 128) fun s =>
            let s := performOverlapping s c.gid (upTo 192)
            let (s, rec) := readRec s g.core t recVa (upTo 192)
            let r := parseRec rec
            if !r.ok then trapOnce s c cl .illegal recVa
            else if off % (32 * 2 ^ r.swz) ≠ 0 then trapOnce s c cl .address off
            else if off + r.size > t.scratch then trapOnce s c cl .scratchBounds off
            else
              let vas := r.addrs k
              match vas.find? (fun va => decide (va ≥ 2 ^ 56)) with
              | some va => trapOnce s c cl .address va
              | none =>
                let pages := (vas.map (fun va => va / 4096 * 4096)).eraseDups
                let firsts := pages.map (fun p => (vas.find? (fun va => va / 4096 * 4096 == p)).getD p)
                withPages s c ((lanesOf cl).map (fun l => (l, firsts))) (if store then 2 else 1) fun s g tr =>
                  startBulk f store r rec recVa off k s c g t cl tr

/-- BCP_LD (R227). -/
def execBcpLd (f : SForm) (s : State) : Out := .next (bulkWord f false s)

/-- BCP_ST (R227). (DEDUCED, log 49.) -/
def execBcpSt (f : SForm) (s : State) : Out := .next (bulkWord f true s)

/-! ### RFENCE -/

/-- Drop the cached record at an address, or every one, on every core of the team (R229). What the fencing core sees and another core
does not see yet is what a record read there too early may lack (R220). -/
def dropRecs (s : State) (core : Nat) (t : Team) (va : Option Nat) : State :=
  (teamCores s t).foldl (fun s k =>
    let unseen := (s.writes.filter (fun w => w.vis.getLsbD core && !w.vis.getLsbD k)).map (·.id)
    onCore s k (fun c =>
      { c with
        recs := c.recs.filter (fun x => !(x.space == t.space && (va.isNone || va == some x.addr)))
        fenced := (if unseen.isEmpty then [] else [(t.space, va, unseen)]) ++ c.fenced.filter (fun x => x.2.2.any (unseenBy s k)) })) s

/-- RFENCE (R229). -/
def execRfence (f : SForm) (s : State) : Out :=
  let a := opnd f f.a (fnBit f 10) (lqA f) true
  .next (issueWord s f.pg f.pn a.needs a.regs fun s c g t cl =>
    endWord ((lanesOf cl).foldl (fun s l => dropRecs s g.core t (some (a.read g l))) s) c g false [])

/-- RFENCE_ALL (R229). -/
def execRfenceAll (f : SForm) (s : State) : Out :=
  .next (issueWord s f.pg f.pn {} [] fun s c g t cl =>
    endWord (if cl = 0#32 then s else dropRecs s g.core t none) c g false [])

/-! ### Barrier objects -/

/-- BINIT (R212, R231). -/
def execBinit (f : SForm) (s : State) : Out :=
  .next (issueWord s f.pg f.pn {} [(2, uni f f.b)] fun s c g _ cl =>
    let n := (uRead g (uni f f.b)).toNat
    if cl = 0#32 then endWord s c g false []
    else if objOf f = 0 || n = 0 || n > 4096 then trapOnce s c cl .scratchBounds (objOf f)
    else
      let s := logArea s g.team (objOf f)
      let s := onTeam s g.team (fun t => { t with objs := lupd t.objs (objOf f) (fun b =>
        { b with v := true, auto := false, expect := n, arrived := 0, landed := 0, xbytes := 0 }) })
      endWord s c g false [])

/-- One lane of BARV on an object: the phase it counts in, and the object after it (R210, R232). -/
def barvStep (exp na : Bool) (bytes : Nat) (b : Barrier) : Barrier :=
  let b := if exp then { b with xbytes := (b.xbytes + bytes) % 2 ^ 32 } else b
  if na then b else b.arrive

/-- The phases that the lanes of a BARV receive. -/
def barvPhases (step : Nat → Barrier → Barrier) (ls : List Nat) (b : Barrier) : SMap Nat :=
  (ls.foldl (fun (x : SMap Nat × Barrier) l =>
    let b := step l x.2
    (x.1 ++ [(l, x.2.phase)], if b.complete then b.next else b)) ([], b)).1

/-- BARV (R198, R230, R232): an arrival is a team-scope release, which marks the object with what comes before it (DEDUCED, log 7). -/
def execBarv (f : SForm) (s : State) : Out :=
  let exp := fnBit f 3
  let na := fnBit f 2
  let b := if exp then opnd f f.b (fnBit f 10) (lqB f) false else .none
  let d : Dest := .v f.d.toNat false
  .next (issueWord s f.pg f.pn (b.needs.and d.needs) b.regs fun s c g t cl =>
    if cl = 0#32 then endWord s c g true []
    else if !(objAt t (objOf f)).v then trapOnce s c cl .scratchBounds (objOf f)
    else
      let step (l : Nat) : Barrier → Barrier := barvStep exp na (b.read g l)
      let phases := barvPhases step (lanesOf cl) (objAt t (objOf f))
      let s := if na then s
        else
          let (s, before) := releaseAt s c g t cl 1
          addRel s g.team (objPlace (objOf f)) 1 before
      let g := (mget s.groups c.gid).getD g
      let s := endResult s c g cl d false f.nw (fun l => mval phases 0 l)
      takeImages ((lanesOf cl).foldl (fun s l => updateObj s g.team (objOf f) (step l)) s))

/-- The check of BWAIT, and its token (R212, R230). -/
def bwaitWord (f : SForm) (tok : Opnd) (k : State → Ctx → Group → Nat → Mask → State) (s : State) : State :=
  issueWord s f.pg f.pn tok.needs tok.regs fun s c g t cl =>
    if cl = 0#32 then endWord s c g false []
    else if !(objAt t (objOf f)).v then trapOnce s c cl .scratchBounds (objOf f)
    else k s c g (objAt t (objOf f)).phase cl

/-- The token operand of BWAIT. -/
def bwaitTok (f : SForm) : Opnd := opnd f f.b (fnBit f 10) (lqB f) false

/-- A thread that finds the phase it asks for completed has acquired what the object's arrivals released (R233). -/
def seePhase (s : State) (f : SForm) (g : Group) (done : Bool) : State :=
  if done then observe s g.team (objPlace (objOf f)) 1 [g.core] else s

/-- BWAIT (R233). -/
def execBwait (f : SForm) (s : State) : Out :=
  .next (bwaitWord f .none (fun s c g ph cl => endWord s c (block g cl (.barrier (objOf f) ph false)) false []) s)

/-- BWAIT_TOKEN (R233). -/
def execBwaitToken (f : SForm) (s : State) : Out :=
  .next (bwaitWord f (bwaitTok f) (fun s c g ph cl =>
    let waits := maskBy (fun l => has cl l && (bwaitTok f).read g l == ph)
    endWord (seePhase s f g (waits != cl)) c (block g waits (.barrier (objOf f) ph false)) false []) s)

/-- BWAIT_TEST (R233). -/
def execBwaitTest (f : SForm) (s : State) : Out :=
  .next (bwaitWord f (bwaitTok f) (fun s c g ph cl =>
    endWord (seePhase s f g ((lanesOf cl).any (fun l => (bwaitTok f).read g l != ph))) c
      ((lanesOf cl).foldl (fun x l => pWrite x f.d.toNat l ((bwaitTok f).read g l != ph)) g) false []) s)

/-- Arrive at team barrier object 0 once for each lane of CL, and wait (R31, R113). The arrival is a release at a scope, and
the completion an acquire (R198; DEDUCED, log 7). -/
def teamBarrier (f : SForm) (scope : Nat) (s : State) : Out :=
  .next (issueWord s f.pg f.pn {} [] fun s c g t cl =>
    let s := if cl = 0#32 then s
      else
        let (s, before) := releaseAt s c g t cl scope
        addRel s g.team (objPlace 0) 1 before
    let s := endWord s c ((mget s.groups c.gid).getD g) false []
    takeImages ((lanesOf cl).foldl (fun s l => arriveAndWait s c.gid g.team l) s))
where
  /-- One lane's arrival, and its wait on the phase in which it counted (R233). -/
  arriveAndWait (s : State) (gid tid l : Nat) : State :=
    match mget s.teams tid with
    | none => s
    | some t =>
      let s := onGroup s gid (fun g => block g (maskOf [l]) (.barrier 0 (objAt t 0).phase true))
      updateObj s tid 0 Barrier.arrive

/-- TBAR (R113). -/
def execTbar (f : SForm) (s : State) : Out := teamBarrier f 1 s

/-- RCHK (R423): TBAR with the device's scope. -/
def execRchk (f : SForm) (s : State) : Out := teamBarrier f 4 s

/-! ### Landings -/

/-- Whether a wait is on a phase of a tag. -/
def isTagWait (tag phase : Nat) (w : Wait) : Bool :=
  match w with
  | .tag n ph => n == tag && ph == phase
  | _ => false

/-- A transfer of a tag has landed (R214); a release from ACPW is an acquire (R198). -/
def landTag (s : State) (gid tag batch : Nat) : State :=
  match mget s.groups gid with
  | none => s
  | some g =>
    let t := tagAt g tag
    let put (t : Tag) : Group := { g with tags := g.tags.set tag t }
    if t.batch = batch then onGroup s gid (fun _ => put { t with opened := t.opened - 1 })
    else if t.pend = 1 then
      let p := isTagWait tag t.phase
      let s := if g.lanes.any (fun x => x.st == .blocked && (x.wait.map p).getD false) then
          dropL1 s g.core (((mget s.teams g.team).map (·.world)).getD 0)
        else s
      onGroup s gid (fun _ => releaseWhere (put { t with pend := 0, phase := (t.phase + 1) % 2 ^ 16 }) p)
    else onGroup s gid (fun _ => put { t with pend := t.pend - 1 })

/-- A landing of a copy issued before the team's interval began is kept for a rollback (R418 step 3). -/
def noteLanding (s : State) (tid id : Nat) (c : Copy) (sec : Nat) (bytes : List Byte) (gid : Nat) (tag : Option (Nat × Nat)) (obj : Option Nat) : State :=
  onTeam s tid (fun t =>
    if t.rollbacks && c.interval != t.interval then { t with landings := t.landings ++ [⟨id, sec, bytes, gid, tag, obj⟩] } else t)

/-- A copy's sector stands in the slot: its presence bit is set when no other copy into it is in flight (R163), and both carry what a
fence put before the copy (R196). -/
def landPresence (s : State) (tid sec : Nat) (after : Before) : State :=
  let s := addRel s tid (32 * sec) 32 after
  if copyInto s tid sec then s else present (addRel s tid (presPlace sec) 1 after) tid sec

/-- An error that a copy's source read consumes (R223, R228, R425, R426). -/
def copyError (s : State) (gid : Nat) (c : Copy) (e : UnitRead) (pa : Nat) : State :=
  match e with
  | .uncorrectable =>
    let s := if pa < hbmEnd then reportConsumed s gid 0x51 7 (stackOf pa) 0x12 else reportConsumed s gid 0x51 8 (cxlPort pa) 0x13
    engineConsume s gid .uncorrectable 0x04 c.interval
  | .integrity => engineConsume (reportConsumed s gid 0x52 7 (stackOf pa) 0) gid .integrity 0x04 c.interval
  | _ => s

/-- What a copy gives a sector of its slot: the error of its source read, or the bytes, as read already or as they stand. -/
def Copy.source (c : Copy) (sec : Nat) (err : UnitRead × Nat) (bs : List Byte) : (UnitRead × Nat) × List Byte :=
  match mget c.failed sec, mget c.got sec with
  | some (integrity, pa), _ => ((if integrity then .integrity else .uncorrectable, pa), [])
  | none, some old => ((.clean, 0), old)
  | none, none => (err, bs)

/-- The core of a copy's group. -/
def coreOfGroup (s : State) (gid : Nat) (t : Team) : Nat := ((mget s.groups gid).map (·.core)).getD t.core

/-- A transfer lands (R223, R224). -/
def landAcp (s : State) (id : Nat) (c : Copy) (t : Team) : State :=
  match c.kind with
  | .bulk _ _ _ _ _ _ _ => s
  | .acp gid tag batch _ src =>
    let earlier := s.copies.any (fun p => p.1 != id && p.2.issued < c.issued && p.2.sec == c.sec && p.2.team == c.team &&
      match p.2.kind with
      | .acp g _ _ _ _ => g == gid
      | .bulk _ _ _ _ _ _ _ => false)
    if earlier then s
    else
      let (err, bytes) := c.source c.sec (pieceError s t.world src) (acpBytes s t (coreOfGroup s gid t) src)
      let s := { s with copies := mdel s.copies id }
      if err.1 ≠ .clean then copyError s gid c err.1 err.2
      else
        let s := noteLanding (spLand s c.team (32 * c.sec) bytes) c.team id c c.sec bytes gid (some (tag, batch)) none
        takeImages (landPresence (landTag s gid tag batch) c.team c.sec c.after)

/-- TRANSFER_LANDS (R223): of the copy that `args` gives. -/
def execTransferLands (s : State) : Out :=
  match s.args with
  | [id] =>
    match mget s.copies id with
    | none => .next s
    | some c =>
      match mget s.teams c.team with
      | none => .next { s with copies := mdel s.copies id }
      | some t => .next (landAcp s id c t)
  | _ => .next s

/-- Remove a sector from a copy; a copy with none left has ended. -/
def dropSector (s : State) (id sec : Nat) : State :=
  match mget s.copies id with
  | some c =>
    match c.kind with
    | .bulk gid obj store rec off k sectors =>
      let left := sectors.filter (fun q => q.1 != sec)
      if left.isEmpty then { s with copies := mdel s.copies id }
      else { s with copies := mput s.copies id { c with kind := .bulk gid obj store rec off k left } }
    | .acp _ _ _ _ _ => s
  | none => s

/-- A sector of a bulk load lands (R228). -/
def landBulk (s : State) (id sec : Nat) (c : Copy) (t : Team) : State :=
  match c.kind with
  | .bulk gid obj false _ _ _ sectors =>
    match sectors.find? (fun q => q.1 == sec) with
    | none => s
    | some q =>
      let (err, bytes) := c.source sec (pieceError s t.world (bulkPieces q.2)) (bulkBytes s t (coreOfGroup s gid t) q.2)
      let s := dropSector s id sec
      if err.1 ≠ .clean then copyError s gid c err.1 err.2
      else
        let s := noteLanding (spLand s c.team (32 * sec) bytes) c.team id c sec bytes gid none (some obj)
        let s := landPresence s c.team sec c.after
        takeImages (updateObj s c.team obj (Barrier.credit 32))
  | _ => s

/-- BULK_SECTOR_LANDS (R228): of the copy and sector that `args` gives. -/
def execBulkSectorLands (s : State) : Out :=
  match s.args with
  | [id, sec] =>
    match mget s.copies id with
    | none => .next s
    | some c =>
      match mget s.teams c.team with
      | none => .next { s with copies := mdel s.copies id }
      | some t => .next (landBulk s id sec c t)
  | _ => .next s

/-- The global sectors that the in-range bytes of a source sector lie in. -/
def globalSectors (bytes : List (Nat × Option Nat × Byte)) : List Nat := (bytes.filterMap (fun x => x.2.1.map (· / 32))).eraseDups

/-- Move the bytes of a copy's source sectors that lie in some global sectors: what is moved, and what is left (R172, R227). -/
def splitSectors (gs : List Nat) (sectors : List (Nat × List (Nat × Option Nat × Byte))) :
    List (Nat × List (Nat × Option Nat × Byte)) × List (Nat × List (Nat × Option Nat × Byte)) :=
  let inGs (x : Nat × Option Nat × Byte) : Bool :=
    match x.2.1 with
    | some pa => gs.contains (pa / 32)
    | none => false
  (sectors.map (fun q => (q.1, q.2.filter inGs)), sectors.map (fun q => (q.1, q.2.filter (fun x => !inGs x))))

/-- Remove a source sector and credit what its move completes (R228): the sector itself, unless its read met an error (`own`), and, no
later than the last credit of a sector that is not `empty`, the sectors that hold no in-range byte. -/
def creditSectors (s : State) (id sec : Nat) (c : Copy) (gid obj : Nat) (own empty : Bool) : State :=
  let rest : List (Nat × List (Nat × Option Nat × Byte)) :=
    match (mget s.copies id).map Copy.kind with
    | some (.bulk _ _ _ _ _ _ sectors) => sectors.filter (fun q => q.1 != sec)
    | _ => []
  let last := if !empty && rest.all skipped then rest.map (·.1) else []
  let done := (if own then [sec] else []) ++ last
  let s := done.foldl (fun s x => noteLanding s c.team id c x [] gid none (some obj)) s
  let s := last.foldl (fun s x => dropSector s id x) (dropSector s id sec)
  if done.isEmpty then s else takeImages (updateObj s c.team obj (Barrier.credit (32 * done.length)))
where
  /-- A source sector that holds no in-range byte. -/
  skipped (q : Nat × List (Nat × Option Nat × Byte)) : Bool := q.2.length == 32 && q.2.all (fun x => x.2.1.isNone)

/-- A source sector of a bulk store is moved and credited (R228): each global sector that it reaches is written whole, in one
write, with the bytes of the other source sectors that lie there, but for those whose read meets an error; it waits for those that are
absent (R164). -/
def creditStore (s : State) (id sec : Nat) (c : Copy) (t : Team) : State :=
  match c.kind with
  | .bulk gid obj true rec off k sectors =>
    match sectors.find? (fun q => q.1 == sec) with
    | none => s
    | some q =>
      if sourceFails t c q then
        let s := reportConsumed (creditSectors s id sec c gid obj false false) gid 0x51 4 t.core (0x09 + 2 ^ 8 * bankOf s t (32 * sec))
        engineConsume s gid .uncorrectable 0x04 c.interval
      else
        let gs := globalSectors q.2
        let (moved, left) := splitSectors gs sectors
        let moved := moved.filter (fun q => !q.2.isEmpty)
        let failed := moved.filter (fun q => sourceFails t c q)
        let moved := moved.filter (fun q => !sourceFails t c q)
        if moved.any (fun q => sourceWaits t c q.1) then s
        else
          let s := moved.foldl (fun s q => correctScratch s c.team (32 * q.1) 32) s
          let c := { c with
            kind := .bulk gid obj true rec off k left
            failed := failed.foldl (fun m q => if (mget m q.1).isSome then m else mput m q.1 (false, 0)) c.failed }
          let s := { s with copies := mput s.copies id c }
          let s := engineWrite s (coreOfGroup s gid t) t.world (teamCores s t) (storeBytes t c.got moved) c.after
          creditSectors s id sec c gid obj true gs.isEmpty
  | _ => s

/-- BULK_STORE_SECTOR_CREDIT (R228): of the copy and source sector that `args` gives. -/
def execBulkStoreSectorCredit (s : State) : Out :=
  match s.args with
  | [id, sec] =>
    match mget s.copies id with
    | none => .next s
    | some c =>
      match mget s.teams c.team with
      | none => .next { s with copies := mdel s.copies id }
      | some t =>
        let pas : List Nat := match c.kind with
          | .bulk _ _ _ _ _ _ sectors => (sectors.flatMap (fun q => q.2)).filterMap (fun x => x.2.1)
          | .acp _ _ _ _ _ => []
        match pas.find? (fun pa => !backed s pa) with
        | some pa => .fault (.unbacked pa)
        | none => .next (creditStore s id sec c t)
  | _ => .next s

end Sys2Proof.Machine
end

