-- ==== Sys2Proof/Machine/Pair.lean ====
section
/-! DEFINITION. Pair words: the checks made when one issues (R57, R58, R66) and the meanings of the slot operations (R59). -/

namespace Sys2Proof.Machine

/-- The vector registers that a slot reads (R58). -/
def slotReads : Instr → List Nat
  | .pairNop _ => []
  | .pairMov f => [f.a.toNat]
  | .pairShli f => [f.d.toNat]
  | .pairShri f => [f.d.toNat]
  | .pairIaddi8 f => [f.d.toNat]
  | .pairMovi8 _ => []
  | .pairIadd f => [f.d.toNat, f.a.toNat]
  | .pairIsub f => [f.d.toNat, f.a.toNat]
  | .pairAnd f => [f.d.toNat, f.a.toNat]
  | .pairOr f => [f.d.toNat, f.a.toNat]
  | .pairXor f => [f.d.toNat, f.a.toNat]
  | .pairShl f => [f.d.toNat, f.a.toNat]
  | .pairShr f => [f.d.toNat, f.a.toNat]
  | .pairImin f => [f.d.toNat, f.a.toNat]
  | .pairImax f => [f.d.toNat, f.a.toNat]
  | .pairImul f => [f.d.toNat, f.a.toNat]
  | .pairFadd f => [f.d.toNat, f.a.toNat]
  | .pairFmul f => [f.d.toNat, f.a.toNat]
  | .pairFmin f => [f.d.toNat, f.a.toNat]
  | .pairFmax f => [f.d.toNat, f.a.toNat]
  | .pairHadd2 f => [f.d.toNat, f.a.toNat]
  | .pairHmul2 f => [f.d.toNat, f.a.toNat]
  | _ => []

/-- The fields of a slot. -/
def slotForm : Instr → PSlot
  | .pairNop f => f
  | .pairMov f => f
  | .pairIadd f => f
  | .pairIsub f => f
  | .pairAnd f => f
  | .pairOr f => f
  | .pairXor f => f
  | .pairShl f => f
  | .pairShr f => f
  | .pairImin f => f
  | .pairImax f => f
  | .pairImul f => f
  | .pairFadd f => f
  | .pairFmul f => f
  | .pairFmin f => f
  | .pairFmax f => f
  | .pairHadd2 f => f
  | .pairHmul2 f => f
  | .pairShli f => f
  | .pairShri f => f
  | .pairIaddi8 f => f
  | .pairMovi8 f => f
  | _ => ⟨7#3, 0#8, 0#8, 0#6⟩

/-- The register that a slot writes. -/
def slotWrites : Instr → Option Nat
  | .pairNop _ => none
  | i => some (slotForm i).d.toNat

/-- Whether a slot's result is checked (R132). -/
def slotChecked : Instr → Bool
  | .pairFadd _ => true
  | .pairFmul _ => true
  | .pairFmin _ => true
  | .pairFmax _ => true
  | .pairHadd2 _ => true
  | .pairHmul2 _ => true
  | _ => false

/-- The registers that a pair word reads, each once. -/
def pairReads (i0 i1 : Instr) : List Nat := (slotReads i0 ++ slotReads i1).eraseDups

/-- Whether a pair word breaks R58. -/
def bankClash (i0 i1 : Instr) : Bool :=
  ((slotWrites i0).isSome && slotWrites i0 == slotWrites i1) ||
    decide (((pairReads i0 i1).map (· % 4)).eraseDups.length ≠ (pairReads i0 i1).length)

/-- One more than the highest register that a pair word names. -/
def pairTop (i0 i1 : Instr) : Nat :=
  (pairReads i0 i1 ++ (slotWrites i0).toList ++ (slotWrites i1).toList).foldl (fun m n => max m (n + 1)) 0

/-- The lanes of a slot of an issue. -/
def slotLanes (g : Group) (c : Ctx) (i : Instr) : Mask :=
  if (slotWrites i).isNone then 0#32 else maskBy (fun l => has c.mask l && slotGuard g (slotForm i) l)

/-- The issue of a pair word: its causes, its operands' standing errors and its divergence are found before either slot runs
(R57, R58, R66, R411, R424). -/
def beginPair (i0 i1 : Instr) (s : State) : State :=
  withWord s fun s c g t =>
    if bankClash i0 i1 then takeTrap s c.gid .bankpair c.mask c.pc 0#64 0#64
    else if pairTop i0 i1 > g.vcount then takeTrap s c.gid .regBudget c.mask c.pc 0#64 0#64
    else
      let m0 := slotLanes g c i0
      let m1 := slotLanes g c i1
      let regs (i : Instr) := (slotReads i).map (fun n => (1, n))
      let guards := [i0, i1].flatMap (fun i =>
        if (slotWrites i).isNone || (slotForm i).pg3 = 7#3 then [] else [(3, (slotForm i).pg3.toNat)])
      readRegs s c g t [(m0, regs i0), (m1, regs i1), (c.mask, guards)] fun s g =>
        let ck := (if slotChecked i0 then m0 else 0#32) ||| (if slotChecked i1 then m1 else 0#32)
        let (g, div) := if (slotChecked i0 || slotChecked i1) && m0 ||| m1 ≠ 0#32 then fijEvent g 1 else (g, false)
        if div then diverge s c g t ck else { s with groups := mput s.groups c.gid g, cur := .pair c 0 none }

/-- PAIR_NOP (R59). -/
def execPairNop (_ : PSlot) (s : State) : Out := runSlot .none (fun _ _ => none) s

/-- PAIR_MOV (R59). -/
def execPairMov (f : PSlot) (s : State) : Out := runSlotOp f (fun _ a => a) s

/-- PAIR_IADD (R59). -/
def execPairIadd (f : PSlot) (s : State) : Out := runSlotOp f (fun d a => (d + a) % 2 ^ 32) s

/-- PAIR_ISUB (R59). -/
def execPairIsub (f : PSlot) (s : State) : Out := runSlotOp f (fun d a => wrap 32 ((d : Int) - a)) s

/-- PAIR_AND (R59). -/
def execPairAnd (f : PSlot) (s : State) : Out := runSlotOp f (fun d a => d &&& a) s

/-- PAIR_OR (R59). -/
def execPairOr (f : PSlot) (s : State) : Out := runSlotOp f (fun d a => d ||| a) s

/-- PAIR_XOR (R59). -/
def execPairXor (f : PSlot) (s : State) : Out := runSlotOp f (fun d a => d ^^^ a) s

/-- PAIR_SHL (R59). -/
def execPairShl (f : PSlot) (s : State) : Out := runSlotOp f (fun d a => opShl 32 d (a % 256)) s

/-- PAIR_SHR (R59). -/
def execPairShr (f : PSlot) (s : State) : Out := runSlotOp f (fun d a => opShr 32 (f.pm.getLsbD 0) d (a % 256)) s

/-- PAIR_IMIN (R59). -/
def execPairImin (f : PSlot) (s : State) : Out := runSlotOp f (opImin 32 (f.pm.getLsbD 0)) s

/-- PAIR_IMAX (R59). -/
def execPairImax (f : PSlot) (s : State) : Out := runSlotOp f (opImax 32 (f.pm.getLsbD 0)) s

/-- PAIR_IMUL (R59). -/
def execPairImul (f : PSlot) (s : State) : Out := runSlotOp f (opImul 32) s

/-- PAIR_FADD (R59). -/
def execPairFadd (f : PSlot) (s : State) : Out := runSlotFp (one fp32) f (fpAdd fp32 (f.pm.toNat % 4) (f.pm.getLsbD 2)) s

/-- PAIR_FMUL (R59). -/
def execPairFmul (f : PSlot) (s : State) : Out := runSlotFp (one fp32) f (fpMul fp32 (f.pm.toNat % 4) (f.pm.getLsbD 2)) s

/-- PAIR_FMIN (R59, R138). -/
def execPairFmin (f : PSlot) (s : State) : Out := runSlotFp .duplicate f (fpMinMax fp32 false false (f.pm.getLsbD 2)) s

/-- PAIR_FMAX (R59, R138). -/
def execPairFmax (f : PSlot) (s : State) : Out := runSlotFp .duplicate f (fpMinMax fp32 true false (f.pm.getLsbD 2)) s

/-- PAIR_HADD2 (R59, R146). -/
def execPairHadd2 (f : PSlot) (s : State) : Out :=
  runSlotFp (both (halfFmt (f.pm.getLsbD 0))) f (fun d a => halves (fun x y _ => fpAdd (halfFmt (f.pm.getLsbD 0)) (f.pm.toNat / 2 % 4) (f.pm.getLsbD 3) x y) d a 0) s

/-- PAIR_HMUL2 (R59, R146). -/
def execPairHmul2 (f : PSlot) (s : State) : Out :=
  runSlotFp (both (halfFmt (f.pm.getLsbD 0))) f (fun d a => halves (fun x y _ => fpMul (halfFmt (f.pm.getLsbD 0)) (f.pm.toNat / 2 % 4) (f.pm.getLsbD 3) x y) d a 0) s

/-- PAIR_SHLI (R59): A is the count. -/
def execPairShli (f : PSlot) (s : State) : Out := runSlotOp f (fun d _ => opShl 32 d f.a.toNat) s

/-- PAIR_SHRI (R59): A is the count. -/
def execPairShri (f : PSlot) (s : State) : Out := runSlotOp f (fun d _ => opShr 32 (f.pm.getLsbD 0) d f.a.toNat) s

/-- PAIR_IADDI8 (R59). -/
def execPairIaddi8 (f : PSlot) (s : State) : Out := runSlotOp f (fun d _ => wrap 32 (d + extInt true 8 f.a.toNat)) s

/-- PAIR_MOVI8 (R59). -/
def execPairMovi8 (f : PSlot) (s : State) : Out := runSlotOp f (fun _ _ => wrap 32 (extInt (!f.pm.getLsbD 0) 8 f.a.toNat)) s

end Sys2Proof.Machine
end

