-- ==== Sys2Proof/Machine/Fetch.lean ====
section
/-! DEFINITION. Which group a sub-partition issues, and the fetch of its word (R24, R27 to R29, R190 to R192, R308, R386); the
core clock; and what the next step executes. -/

namespace Sys2Proof.Machine

/-! ### ISSUE (R24) -/

/-- The lane of a set with the largest W, ties to the lowest PC. -/
def starvedLane (g : Group) (e : Mask) : Option Nat :=
  (lanesOf e).foldl (fun best l =>
    match best with
    | none => some l
    | some b =>
      if (g.lane b).w < (g.lane l).w || ((g.lane b).w = (g.lane l).w && (g.lane l).pc.toNat < (g.lane b).pc.toNat) then some l else best) none

/-- The lowest PC of a set. -/
def minPc (g : Group) (m : Mask) : Nat := (((lanesOf m).map (fun l => (g.lane l).pc.toNat)).min?).getD 0

/-- The lanes of a set at a PC. -/
def atPc (g : Group) (m : Mask) (pc : Nat) : Mask := maskBy (fun l => has m l && (g.lane l).pc.toNat == pc)

/-- The issue set (R24). -/
def issueSet (g : Group) : Mask :=
  let e := g.inState .active
  if (lanesOf e).any (fun l => (g.lane l).w == 256) then
    match starvedLane g e with
    | some m => atPc g e (g.lane m).pc.toNat
    | none => 0#32
  else
    let u := maskBy (fun l => has e l && ((g.lane l).mr == 0#64 || (g.lane l).pc != (g.lane l).mr))
    if u ≠ 0#32 then atPc g u (minPc g u) else atPc g e (minPc g e)

/-- The PC of the issue set. -/
def issuePc (g : Group) : W64 := (g.lane ((lanesOf (issueSet g)).headD 0)).pc

/-- What the issue does to MR and W (R24). -/
def afterIssue (g : Group) (issue : Mask) : Group :=
  let e := g.inState .active
  let g := g.onLanes issue (fun x => { x with mr := if x.pc = x.mr then 0#64 else x.mr, w := 0 })
  g.onLanes (e &&& ~~~issue) (fun x => { x with w := min (x.w + 1) 256 })

/-! ### Fetch -/

/-- Whether one of some walks is still under way: running, or held (R331). -/
def stillWalking (s : State) (ids : List Nat) : Bool :=
  s.walkers.any (fun w => (w.2.req.map (fun r => ids.contains r.id)).getD false) || s.held.any (fun h => ids.contains h.2.req.id)

/-- Whether a hold keeps its group from being ready. -/
def holdStands (s : State) (g : Group) : Hold → Bool
  | .until c => decide (s.clock < c)
  | .yielded => false
  | .give _ _ => true
  | .drops id => s.drops.any (fun d => d.id == id)
  | .walks ids => stillWalking s ids
  | .twin => true
  | .result gid key => (twinResult s gid (some key)).isNone
  | .entry pair trailing at_ => unwritten s pair trailing at_
  | .line n => (holderOf s n).isSome
  | .replay id => g.flights.any (fun x => x.id == id)
  | .acp n => !acpFits g n
  | .session world slot => slotBusy s world slot
  | .crypt _ _ _ _ _ => false

/-- A sub-partition with nothing issued. -/
def SubPart.zero : SubPart := ⟨none, false, 0, 0, none, 0⟩

/-- Read and change a sub-partition. -/
def subpAt (s : State) (core subp : Nat) : SubPart := mval (coreOf s core).subps SubPart.zero subp
def onSubp (s : State) (core subp : Nat) (f : SubPart → SubPart) : State :=
  onCore s core (fun c => { c with subps := mput c.subps subp (f (mval c.subps SubPart.zero subp)) })

/-- Whether a group is within a hold chain (R29): a group that is told to stop goes on to its end (R368). -/
def inChain (s : State) (g : Group) : Bool :=
  let x := subpAt s g.core g.subp
  x.held && ((x.last.bind (mget s.groups)).any (fun h => h.team == g.team && h.num == g.num))

/-- Whether a trailing team goes on issuing while its context is to be saved (R371): an entry of the leading team has no match yet. -/
def trailsOn (s : State) (g : Group) : Bool :=
  match mget s.teams g.team with
  | some t =>
    t.twin == 2 && s.cmps.any (fun e => some e.pair == t.mate && !e.trailing && !e.matched) &&
      (queueAt s t.fe t.slot).any (fun q => match q.stopping with
        | .save _ => true
        | _ => false)
  | none => false

/-- Whether an outstanding acquire keeps every later word from issuing (R195, R196): at `.grp` only the issue of a copy can tell. -/
def holdsAll (x : Flight) : Bool :=
  match x.acq with
  | some scope => scope != 0
  | none => false

/-- Whether a group can fetch and issue at all: a lane is active, nothing suspends it (R27, R106, R282, R286, R329, R331, R414,
R417, R418), and no acquire of it is outstanding (R196). -/
def canIssue (s : State) (g : Group) : Bool :=
  g.inState .active != 0#32 && (!g.stopped || inChain s g || trailsOn s g) && !g.susp.any (fun n => n.st == .pending) && g.resume.isNone &&
    g.lr.isNone && !g.holds.any (holdStands s g) && !g.flights.any holdsAll &&
    match mget s.teams g.team with
    | some t => !t.imageWait && t.answer.isNone
    | none => false

/-- Whether something is to be raised at the group's next issue (R33, R250, R358): an error of an engine, or, outside a handler, a wait
that was starved or a divergence at an EXIT. -/
def Group.pends (g : Group) : Bool := !g.errs.isEmpty || ((!g.starvePend.isEmpty || !g.divPend.isEmpty) && g.inHandler == 0#32)

/-- The word at an address as the core reads it now. -/
def readWord (s : State) (core world pa : Nat) : BitVec 64 := BitVec.ofNat 64 (leNat (viewRead s core world pa 8))

/-- The words of a line from an address on. -/
def lineWords (pc : Nat) (bytes : List Byte) : SMap (BitVec 64) :=
  (List.range (16 - pc % 128 / 8)).map (fun i => (pc + 8 * i, BitVec.ofNat 64 (leNat ((bytes.drop (pc % 128 + 8 * i)).take 8))))

/-- The lines of a world in an instruction cache stay within its portions of 64 lines each (R386). -/
def trimLines (c : Core) (world : Nat) (ls : List ILine) : List ILine :=
  let n := 64 * max 1 (mval c.portions 1 world)
  (ls.foldl (fun (x : List ILine × Nat) y =>
    if y.world = world then (if x.2 < n then (x.1 ++ [y], x.2 + 1) else x) else (x.1 ++ [y], x.2)) ([], 0)).1

/-- Fetch the word at a translated address into the group (R190 to R192): the word that the group or the instruction cache
holds, or the word as it now stands, whichever; without IFLUSH and ISYNC the manual promises neither. -/
def fetchAt (s : State) (gid : Nat) (g : Group) (t : Team) (pc pa : Nat) : State :=
  let now := readWord s g.core t.world pa
  let isLine (x : ILine) : Bool := x.world == t.world && x.space == t.space && x.vline == pc / 128 && x.line == pa / 128
  let cached := (coreOf s g.core).icache.find? isLine
  let old := (mget g.fetched pc).or (cached.map (fun x => BitVec.ofNat 64 (leNat ((x.bytes.drop (pc % 128)).take 8))))
  match old with
  | some w =>
    let fresh := decide (w ≠ now)
    let word := if fresh && Config.takesNew s.free pc then now else w
    let rest : SMap (BitVec 64) :=
      match cached with
      | some x => if (mget g.fetched pc).isSome then g.fetched else lineWords pc x.bytes
      | none => g.fetched
    onGroup { s with free := if fresh then s.free + 1 else s.free } gid (fun g => { g with fetched := mput rest pc word, susp := [] })
  | none =>
    match readError s t.world pa 8 with
    | .clean => fill
    | .corrected => fill
    | e => consumeMemory s gid e (issueSet g) (BitVec.ofNat 64 pc) 0#64 pa 0x03 t.interval
where
  /-- Read the line into the instruction cache, and its words from the PC on into the group. -/
  fill : State :=
    let bytes := viewRead s g.core t.world (pa / 128 * 128) 128
    let x : ILine := ⟨t.world, t.space, pc / 128, pa / 128, bytes⟩
    let s := onCore s g.core (fun c => { c with icache := trimLines c t.world (x :: c.icache) })
    onGroup s gid (fun g => { g with fetched := lineWords pc bytes, susp := [] })

/-- Fetch the next word of a group that can issue (R308, R324): a translation that is missing suspends it; one that failed is
taken with TPC at the word; a PC outside the address space raises ADDRESS (DEDUCED, log 10). -/
def fetchNext (s : State) (gid : Nat) : State :=
  match mget s.groups gid with
  | none => s
  | some g =>
    match mget s.teams g.team with
    | none => s
    | some t =>
      if !canIssue s g || g.pends then s
      else
        let pc := issuePc g
        if badTarget pc then takeTrap s gid .address (issueSet g) pc pc 0#64
        else
          let (s, ns) := pageStates s g t 4 [pc.toNat]
          match ns with
          | [n] =>
            match n.st with
            | .pending => onGroup s gid (fun g => { g with susp := ns })
            | .mapped frame lsize _ => fetchAt s gid g t pc.toNat (frame + pc.toNat % 2 ^ lsize)
            | .failed c info => takeTrap s gid c (issueSet g) pc pc info
          | _ => s

/-! ### Readiness (R27) -/

/-- Whether register ranges meet. -/
def rangesMeet (a n b m : Nat) : Bool := decide (a < b + m) && decide (b < a + n)

/-- The register ranges that a word may name, by its fields: four registers from each, more for the words that read or write
more; a word that reads local addresses names s28 to s30. -/
def fieldRanges (w : BitVec 64) : List (Nat × Nat) :=
  let maj := slice w.toNat 56 7
  let f := sformOf w
  if w.getLsbD 63 then [(slice w.toNat 46 8, 1), (slice w.toNat 38 8, 1), (slice w.toNat 15 8, 1), (slice w.toNat 7 8, 1)]
  else
    let n := match maj with
      | 0x42 => 8
      | 0x53 => 8
      | 0x58 => 32
      | 0x5E => 16
      | _ => 4
    [(f.d.toNat, n), (f.a.toNat, n), (f.b.toNat, n), (f.c.toNat, n)]

/-- Whether the next word must wait for an outstanding operation of its group: one of its registers, a latch it reads, or, for MSG,
any load (R60, R178, R244). (DEDUCED, log 110.) -/
def waitsFor (g : Group) (w : BitVec 64) (x : Flight) : Bool :=
  let maj := slice w.toNat 56 7
  let f := sformOf w
  let single := !w.getLsbD 63
  let n := max 1 (x.size / 4)
  let regs := match x.dest with
    | some d =>
      if x.noWrite then false
      else if x.uniform then
        (fieldRanges w).any (fun r => (List.range 4).any (fun i => rangesMeet (256 * i + r.1) r.2 d n)) || rangesMeet 28 3 d n
      else (fieldRanges w).any (fun r => rangesMeet r.1 r.2 d n)
    | none => false
  regs || (single && f.lq != 0#3 && g.latches.any (fun e => e.id == x.latch)) || (single && maj == 0x59 && !x.uniform)

/-- The majors of pair operations (R420). -/
def isPairWord (w : BitVec 64) : Bool :=
  let maj := slice w.toNat 56 7
  !w.getLsbD 63 && ([0x41, 0x44, 0x45, 0x46, 0x47, 0x73, 0x5F, 0x76].contains maj || (maj == 0x53 && w.getLsbD 10))

/-- Whether the compare buffer has room for a team's next pair operation (R421). -/
def twinRoom (s : State) (g : Group) (w : BitVec 64) : Bool :=
  match mget s.teams g.team with
  | none => true
  | some t =>
    if t.twin = 0 || !isPairWord w then true
    else
      let es := s.cmps.filter (fun e => e.pair == (if t.twin = 2 then t.mate.getD g.team else g.team))
      es.any (fun e => e.trailing == decide (t.twin = 1) && e.grp == g.num && e.count == g.pairCount) || decide (es.length < 64)

/-- Whether a word issues copies: ACP, BCP or MLD (R199). -/
def isCopyWord (w : BitVec 64) : Bool := !w.getLsbD 63 && [0x50, 0x53, 0x58].contains (slice w.toNat 56 7)

/-- Whether a word is a release, or a fence, in the matrices of R199 to R201. -/
def isReleaseWord (w : BitVec 64) : Bool :=
  let maj := slice w.toNat 56 7
  !w.getLsbD 63 && ([0x44, 0x48].contains maj || ([0x45, 0x46, 0x47, 0x73].contains maj && ordOf (sformOf w) / 2 == 1))

/-- Whether a word may issue beside the copies of its group: ACP with room for the transfers of its guarded lanes (R215), a copy with no
acquire outstanding, and a release with no source sector left that is absent (R199). -/
def copyRoom (s : State) (gid : Nat) (g : Group) (w : BitVec 64) : Bool :=
  let f := sformOf w
  let acp := !w.getLsbD 63 && slice w.toNat 56 7 == 0x50
  (!acp || acpFits g (lanesOf (clOf g ⟨gid, issueSet g, issuePc g, w⟩ f.pg f.pn)).length) &&
    (!isCopyWord w || !g.flights.any (fun x => x.acq.isSome)) &&
    (!isReleaseWord w || match mget s.teams g.team with
      | some t => !copyWaits s gid t
      | none => true)

/-- Whether a group is ready (R27): it can issue, and its word, with its operands, is at hand; or something is to be raised at
its next issue (R33, R358). -/
def ready (s : State) (gid : Nat) (g : Group) : Bool :=
  canIssue s g &&
    (g.pends ||
      match mget g.fetched (issuePc g).toNat with
      | some w => !g.flights.any (waitsFor g w) && twinRoom s g w && copyRoom s gid g w
      | none => false)

/-! ### The choice of a group (R28, R29) -/

/-- Whether a word asks to keep its group for the next cycle: its HD bit, which YIELD ignores (R29, R106). -/
def wantsHold (w : BitVec 64) : Bool :=
  let maj := slice w.toNat 56 7
  !w.getLsbD 63 && w.getLsbD 14 && !([0x0F, 0x1F, 0x66].contains maj)

/-- The better of two groups: the larger wait count, then the older (R28). -/
def better (a b : Nat × Group) : Bool := decide (b.2.waitCount < a.2.waitCount) || (a.2.waitCount == b.2.waitCount && decide (a.2.age < b.2.age))

/-- The ready group that a free cycle issues: one that yielded is passed over while another is ready (R28, R106). -/
def pick (rs : List (Nat × Group)) : Option (Nat × Group) :=
  let fresh := rs.filter (fun p => !p.2.holds.any (fun h => h == .yielded))
  (if fresh.isEmpty then rs else fresh).foldl (fun best p =>
    match best with
    | none => some p
    | some b => if better p b then some p else best) none

/-- The latches of the other groups of a sub-partition are lost (R61); a word at hand keeps the operands it was issued with. -/
def loseLatches (g : Group) : Group := if g.resume.isSome || g.lr.isSome then { g with latchLost := true } else emptyLatches g

/-- Issue the word of a group (R24, R61). -/
def issueGroup (s : State) (core subp gid : Nat) (g : Group) : State :=
  let m := issueSet g
  let pc := issuePc g
  match mget g.fetched pc.toNat with
  | none => s
  | some w =>
    let g := { afterIssue g m with fetched := mdel g.fetched pc.toNat }
    { s with
      groups := (mput s.groups gid g).map (fun p =>
        if p.1 != gid && p.2.core = core && p.2.subp = subp then (p.1, loseLatches p.2) else p)
      cur := .word ⟨gid, m, pc, w⟩ }

/-- Raise what waits for the next issue of a group (R33, R250, R358): of several errors the lowest code, the others being dropped (R359;
DEDUCED, log 32). An error, and a divergence, is answered as the interval now stands (R417). -/
def raisePending (s : State) (gid : Nat) (g : Group) : State :=
  match g.errs, g.starvePend, g.divPend with
  | e :: es, _, _ =>
    let e := es.foldl (fun a b => if b.cause.code < a.cause.code then b else a) e
    let s := onGroup s gid (fun g => { g with errs := [] })
    consumeError s gid e.cause g.live (issuePc g) 0#64 e.reason e.interval
  | [], (pc, m) :: ps, _ =>
    let s := onGroup s gid (fun g => { g with starvePend := ps })
    takeTrap s gid .barrierStarved m pc 0#64 0#64
  | [], [], (pc, m) :: ps =>
    let s := onGroup s gid (fun g => { g with divPend := ps })
    consumeError (reportConsumed s gid 0x53 4 g.core g.subp) gid .shadowDivergence m pc 0#64 0x06 (((mget s.teams g.team).map (·.interval)).getD 0)
  | [], [], [] => s

/-- One issue cycle of a sub-partition, its groups having fetched (R28, R29). (DEDUCED, log 93.) -/
def cycle (s : State) (core subp : Nat) : State :=
  let sp := subpAt s core subp
  let here := s.groups.filter (fun p => p.2.core == core && p.2.subp == subp)
  let rs := here.filter (fun p => ready s p.1 p.2)
  let kept := if sp.held then rs.find? (fun p => sp.last == some p.1) else none
  let chosen := match kept with
    | some p => some p
    | none => pick rs
  let count (p : Nat × Group) : Nat × Group :=
    if p.2.core = core && p.2.subp = subp then
      let wc := if !rs.any (fun r => r.1 == p.1) || (chosen.map (·.1)) == some p.1 then 0
        else if kept.isSome then p.2.waitCount else p.2.waitCount + 1
      (p.1, { p.2 with waitCount := wc, holds := p.2.holds.filter (fun h => h != .yielded && holdStands s p.2 h) })
    else p
  let s := { s with groups := s.groups.map count }
  match chosen with
  | none => onSubp s core subp (fun x => { x with held := false, chain := 0 })
  | some (gid, _) =>
    match mget s.groups gid with
    | none => s
    | some g =>
      if g.pends then
        raisePending (onSubp s core subp (fun x => { x with held := false, chain := 0 })) gid g
      else
        let w := (mget g.fetched (issuePc g).toNat).getD 0#64
        let chain := if kept.isSome then sp.chain else 0
        let hold := wantsHold w && decide (chain < 3)
        let s := onSubp s core subp (fun x =>
          { x with last := some gid, held := hold, chain := if hold then chain + 1 else 0, used := x.used + 1 })
        issueGroup s core subp gid g

/-- Whether a hold is the cryptographic step of XOPEN or XSEAL. -/
def Hold.isCrypt : Hold → Bool
  | .crypt _ _ _ _ _ => true
  | _ => false

/-- Whether the word at hand of a stopped group must end all the same: XOPEN and XSEAL (R406), and a pair operation whose entry has
been matched (R371). -/
def mustEnd (s : State) (g : Group) : Bool :=
  g.holds.any Hold.isCrypt ||
    match mget s.teams g.team with
    | some t =>
      t.answer.isNone && s.cmps.any (fun e => e.matched && e.pair == (if t.twin = 2 then t.mate.getD g.team else g.team) &&
        e.trailing == decide (t.twin = 2) && e.grp == g.num && e.count == g.pairCount)
    | none => false

/-- A word whose checks have ended, and whose waits are over, goes on (R160, R324). -/
def resumable (s : State) (core subp : Nat) : Option (Nat × Ctx) :=
  s.groups.findSome? (fun p =>
    if p.2.core = core && p.2.subp = subp && (!p.2.stopped || inChain s p.2 || trailsOn s p.2 || mustEnd s p.2) && !p.2.susp.any (fun n => n.st == .pending) &&
        !p.2.holds.any (holdStands s p.2) then
      (p.2.resume.or (if p.2.lr.isSome then none else onceReady s p.2)).map (fun c => (p.1, c))
    else none)

/-- ISSUE_CYCLE (R28): of the core and sub-partition that `args` gives. A sub-partition has one issue cycle in a core clock, and
issues in N of every 64 (R435). -/
def execIssueCycle (s : State) : Out :=
  match s.args with
  | [core, subp] =>
    match resumable s core subp with
    | some (gid, c) => .next { onGroup s gid (fun g => { g with resume := none }) with cur := .word c }
    | none =>
      let sp := subpAt s core subp
      if sp.cycleAt = some s.clock then .next s
      else
        let fresh := match sp.cycleAt with
          | some k => decide (k / 64 ≠ s.clock / 64)
          | none => true
        let used := if fresh then 0 else sp.used
        let s := onSubp s core subp (fun x => { x with cycleAt := some s.clock, used := used })
        if used ≥ s.ctl.n then .next s
        else
          let s := (s.groups.filter (fun p => p.2.core == core && p.2.subp == subp)).foldl (fun s p => fetchNext s p.1) s
          .next (cycle s core subp)
  | _ => .next s

/-! ### The core clock -/

/-- Whether a copy of a team is in flight: a per-thread transfer, or bytes to be credited to one of its objects (R33). -/
def teamCopies (s : State) (tid : Nat) : Bool := s.copies.any (fun p => p.2.team == tid)

/-- Whether a team is starved in this core clock (R33). -/
def starvedNow (s : State) (tid : Nat) : Bool :=
  (s.groups.filter (fun p => p.2.team == tid)).all (fun p =>
    p.2.lanes.all (fun x => x.st == .exited || x.st == .blocked)) && !teamCopies s tid && !teamBusy s tid

/-- A step of bring-up ends (R434): the fifth enumerates the CXL ports, each with at most its window (R6). (DESIGN CHOICE, log 29.) -/
def Ctl.bringUp (c : Ctl) : Ctl :=
  if c.boot < 6 && !c.off then
    { c with
      boot := c.boot + 1
      cxl := if c.boot = 4 then (List.range 4).map (fun p => (p, min (Config.cxlBytes p) 0x040000000000)) else c.cxl }
  else c

/-- One core clock passes: a step of bring-up ends (R434), L1 lines reach their age of 16,384 core clocks (R166), and starved teams count
it (R33). -/
def tick (s : State) : State :=
  { s with
    clock := s.clock + 1
    cores := s.cores.map (fun p => (p.1, { p.2 with l1 := p.2.l1.filter (fun x => decide (s.clock + 1 < x.filled + 16384)) }))
    ctl := s.ctl.bringUp
    teams := s.teams.map (fun p => (p.1, { p.2 with starved := if starvedNow s p.1 then p.2.starved + 1 else 0 })) }

/-! ### Placing an instruction where the next step executes it -/

/-- A group with nothing in it: 32 active lanes at a PC. -/
def Group.blank (team core subp vcount seed : Nat) (pc : W64) : Group where
  team := team
  num := 0
  role := 0
  core := core
  subp := subp
  age := 0
  waitCount := 0
  vcount := vcount
  tgran := 0
  agran := 0
  vmap := []
  tmap := []
  amap := []
  lanes := List.replicate 32 ⟨pc, 0#64, 0, .active, false, none, [], 0⟩
  v := []
  vEpochs := [(0, seed)]
  u := []
  p := []
  latches := []
  latchId := 0
  latchLost := false
  tiles := []
  accs := []
  seed := seed
  marks := 0#32
  markLanes := []
  divWait := []
  windows := []
  alatch := none
  tags := List.replicate 8 ⟨0, 0, 0, 0⟩
  trap := ⟨0#8, 0#32, 0#64, 0#64, 0#64, 0#64⟩
  fij := 0#64
  fijCount := 0
  fetched := []
  susp := []
  resume := none
  spWaits := []
  holds := []
  flights := []
  starvePend := []
  divPend := []
  errs := []
  regErrs := []
  strikes := []
  accStrikes := []
  lr := none
  pairCount := 0
  acqCount := 0
  acqVals := []
  stopped := false

/-- A team with nothing in it, of one group. -/
def Team.blank (world space part core : Nat) (groups : List Nat) : Team where
  fe := 0
  slot := 0
  packet := 0
  sub := 0
  recAddr := 0
  recPa := 0
  world := world
  space := space
  part := part
  x := 0
  y := 0
  z := 0
  nx := 1
  ny := 1
  nz := 1
  dx := 32
  dy := 1
  dz := 1
  flags := 0
  argPtr := 0
  argSize := 0
  scratch := 0
  fs := List.replicate 8 0#32
  twin := 0
  mate := none
  groups := groups
  ngroups := groups.length
  core := core
  smap := []
  slotNo := 0
  sp := []
  absent := []
  spErrs := []
  spSingle := []
  imageErrs := []
  rels := []
  spClock := 0
  spRecent := []
  objs := List.replicate 64 Barrier.zero
  pool := 0
  poolPhase := 0
  claims := []
  starved := 0
  interval := 0
  escaped := false
  retry := 0
  undo := []
  landings := []
  reserved := []
  imageGroups := []
  imageConvs := []
  imagePool := 0
  imageClaims := []
  imageWait := false
  answer := none

/-- Place a Fjodo word as the word that the next step executes: a resident group of 32 active lanes at PC 0 has issued it. -/
def placeWord (s : State) (w : BitVec 64) : State :=
  let gid := s.fresh
  let tid := s.fresh + 1
  { s with
    fresh := s.fresh + 2
    groups := mput s.groups gid (Group.blank tid 0 0 256 gid 0#64)
    teams := mput s.teams tid (Team.blank 0 0 0 0 [gid])
    cur := .word ⟨gid, allLanes, 0#64, w⟩ }

/-- Place a Crumb word as the word that the next step executes: engine 0 of the kind that the word belongs to runs an image that
holds it, a line routine for a word that both kinds run. -/
def placeCrumb (s : State) (w : BitVec 32) : State :=
  let op := (w.extractLsb' 26 6).toNat
  let image : Image := ⟨false, [w]⟩
  if 0x28 ≤ op && op ≤ 0x2D then
    let s := { s with fresh := s.fresh + 1, agenda := .crumb (.walker 0) :: s.agenda, cur := .idle }
    onWalker s 0 (fun x => { x with req := some ⟨s.fresh - 1, 0, 0, 0, 0, 1, [], []⟩, image := image, idx := 0, last := 0, words := 0, ldps := 0 })
  else
    let s := { s with
      fresh := s.fresh + 1, agenda := .crumb (.slice 0) :: s.agenda, cur := .idle
      invs := mput s.invs s.fresh ⟨s.fresh, 0, 0, [], 0, 0, 0, 0, 0, 0, 0#64, 0#64, 0, .running⟩ }
    onSlice s 0 (fun x => { x with inv := some (s.fresh - 1), image := image, idx := 0, buf := List.replicate 128 0#8, line := 0 })

/-- Store an instruction where the next step executes it: 32 bits are a Crumb word, 64 a Fjodo word (DESIGN CHOICE, log 11). -/
def placeInstr (s : State) (nbits w : Nat) : State :=
  if nbits = 32 then placeCrumb s (BitVec.ofNat 32 w) else placeWord s (BitVec.ofNat 64 w)

end Sys2Proof.Machine
end

