-- ==== Sys2Proof/Machine/EventCore.lean ====
section
/-! DEFINITION. Events of a core: the return of loads and atomics (R174, R178, R183, R196, R421), the contention predictor and
the leases (R174), L1 lines that expire (R166), claim deadlock (R21) and starvation (R33). -/

namespace Sys2Proof.Machine

/-- All pieces of a flight. -/
def Flight.pieces (x : Flight) : List (Nat × Nat × Nat) := x.parts.flatMap (·.pieces)

/-- The flights that must be performed before one of a group: those issued earlier on its bytes, and before those in turn; the
oldest first (R194). -/
def olderFlights (g : Group) (x : Flight) : List Nat :=
  let older := (g.flights.dropWhile (fun y => y.id != x.id)).drop 1
  (older.foldl (fun (a : List Nat × List (Nat × Nat × Nat)) y =>
    if piecesMeet y.pieces a.2 then (y.id :: a.1, y.pieces ++ a.2) else a) ([], x.pieces)).1

/-- Perform the flights that must precede one. -/
def performOlder (s : State) (gid : Nat) (g : Group) (x : Flight) : State :=
  (olderFlights g x).foldl (fun s id =>
    match flightOf s gid id with
    | some (g, y) => if mirrors s g y then s else performFlight s gid id
    | none => s) s

/-- Whether a part of an atomic waits at its home or behind another core's lease (R174). -/
def stillShipped (s : State) (gid id : Nat) : Bool := s.shipped.any (fun p => p.2.gid == gid && p.2.flight == id)

/-- What a flight takes from the other team of its pair (R421), when it has it. -/
def mirrored (s : State) (gid : Nat) (g : Group) (x : Flight) : Option Flight :=
  if mirrors s g x then (twinResult s gid x.twin).map (fun m => { x with vals := m, done := true }) else some x

/-- The results of a flight go to the registers and the latch entry of its group (R60, R178, R424). -/
def landIn (x : Flight) (g : Group) : Group :=
  let g := x.parts.foldl (fun (g : Group) (p : LanePart) =>
    finishLoad g x.uniform x.noWrite x.sx x.dest x.size x.latch p.lane (mval x.vals 0#128 p.lane).toNat) g
  let g := match x.inject, x.dest with
    | true, some d => markWrite g d (maskOf (x.parts.map LanePart.lane))
    | _, _ => g
  { g with flights := g.flights.filter (fun y => y.id != x.id) }

/-- Write the results of a performed flight (R60, R105, R178), and make its acquire (R166, R196). -/
def landFlight (s : State) (gid : Nat) (x : Flight) : State :=
  let s := onImage (onGroup s gid (landIn x)) gid (fun g => g.flights.any (fun y => y.id == x.id)) (landIn x)
  match mget s.groups gid with
  | none => s
  | some g =>
    let s := match x.acq with
      | some sc => acquireAt s g.core x.world sc
      | none => s
    let s := keepAcquire s g x
    reapGroup (tryGive s gid) gid
where
  /-- The leading team's acquires keep their values for the trailing team (R421). -/
  keepAcquire (s : State) (g : Group) (x : Flight) : State :=
    match x.twin with
    | some k =>
      if ((mget s.teams g.team).map (·.twin)).getD 0 = 1 then onGroup s gid (fun g => { g with acqVals := mput g.acqVals k x.vals }) else s
    | none => s

/-- The error that a performed flight consumes (R409, R425): its kind, the lanes that met it, and its address, virtual and physical; of
two kinds that of the lower code (R359). -/
def flightError (x : Flight) : Option (UnitRead × Mask × W64 × Nat) :=
  let integrity := x.bad.all (fun p => p.2.1)
  let bad := x.parts.filterMap (fun p => (mget x.bad p.lane).bind (fun b => if b.1 = integrity then some (p, b.2) else none))
  match bad with
  | [] => none
  | (p, pa) :: _ => some (if integrity then .integrity else .uncorrectable, maskOf (bad.map (fun q => q.1.lane)), firstVa p.pieces pa, pa)

/-- A performed operation of a group returns whole: its results land, or the error that it met is consumed (R178, R183, R409). -/
def settleFlight (s : State) (gid : Nat) (y : Flight) : State :=
  match flightError y with
  | some (e, m, va, pa) =>
    let s := onGroup s gid (fun g => { g with flights := g.flights.filter (fun z => z.id != y.id) })
    reapGroup (tryGive (consumeMemory s gid e m y.pc va pa 0x03 y.interval) gid) gid
  | none => landFlight s gid y

/-- An operation of a group returns (R178, R183). -/
def returnFlight (s : State) (gid : Nat) (g : Group) (x : Flight) : State :=
  match mirrored s gid g x with
  | none => s
  | some y =>
    if y.done then settleFlight s gid y
    else
      let s := performFlight (performOlder s gid g x) gid x.id
      match flightOf s gid x.id with
      | some (_, y) => settleFlight s gid y
      | none => s

/-- LOAD_RETURN (R178): of the group and operation that `args` gives; with a lane, only the reads of the lanes up to it are performed
now (R173, R193), and the operation stays outstanding. An atomic that was shipped returns once it has run at its home (R174). -/
def execLoadReturn (s : State) : Out :=
  match s.args with
  | gid :: id :: lane =>
    match flightOf s gid id with
    | none => .next s
    | some (g, x) =>
      match x.pieces.find? (fun p => !backed s p.2.1) with
      | some p => .fault (.unbacked p.2.1)
      | none =>
        match lane, x.op with
        | l :: _, .load =>
          if mirrors s g x then .next s
          else
            .next (performUpTo (performOlder s gid g x) gid id l)
        | _, _ => .next (if stillShipped s gid id then s else returnFlight s gid g x)
  | _ => .next s

/-- SHIPPED_ATOMIC (R174): of the message that `args` gives. It waits while a core holds the line's lease; the lower lanes of the
instruction and earlier operations of the group on the bytes come first (R173, R194). -/
def execShippedAtomic (s : State) : Out :=
  match s.args with
  | [m] =>
    match mget s.shipped m with
    | none => .next s
    | some h =>
      match flightOf s h.gid h.flight with
      | none => .next { s with shipped := mdel s.shipped m }
      | some (g, x) =>
        if !backed s (128 * h.line) then .fault (.unbacked (128 * h.line))
        else if s.cores.any (fun p => p.2.leases.any (fun y => y.line == h.line)) then .next s
        else
          let s := performOlder s h.gid g x
          let s := (x.parts.filter (fun p => decide (p.lane ≤ h.lane))).foldl (fun s p => atomicAt s h.gid h.flight p.lane) s
          let s := { s with shipped := s.shipped.filter (fun p =>
            !(p.2.gid == h.gid && p.2.flight == h.flight && decide (p.2.lane ≤ h.lane))) }
          .next (match flightOf s h.gid h.flight with
            | some (_, y) => if y.parts.all (fun p => (mget y.vals p.lane).isSome) then performAtomic s h.gid h.flight else s
            | none => s)
  | _ => .next s

/-- LEASE_END (R174): by another agent's request, or 512 fabric clocks after the last atomic. -/
def execLeaseEnd (line : Nat) (byRequest : Bool) (s : State) : Out :=
  let due := s.cores.any (fun p => p.2.leases.any (fun x => x.line == line && (byRequest || decide (x.last + 512 ≤ 2 * s.clock))))
  .next (if due then endLease s line byRequest else s)

/-- PREDICTOR_DECAY (R174): every 4,096 core clocks. -/
def execPredictorDecay (s : State) : Out :=
  .next (if s.decayAt + 4096 ≤ s.clock then
      { s with
        decayAt := s.clock
        cores := s.cores.map (fun p => (p.1, { p.2 with pred := p.2.pred.map (fun x => (x.1, x.2 - 1)) })) }
    else s)

/-- L1_LINE_EXPIRY (R166): of the core and line that `args` gives. -/
def execL1LineExpiry (s : State) : Out :=
  match s.args with
  | [core, line] =>
    .next (onCore s core (fun c => { c with l1 := c.l1.filter (fun x => !(x.line == line && decide (x.filled + 16384 ≤ s.clock))) }))
  | _ => .next s

/-- Whether a group is blocked in RCLAIM (R21). -/
def inClaim (g : Group) : Bool :=
  g.inHandler == 0#32 && (lanesOf g.live).all (fun l =>
    decide ((g.lane l).st = .blocked) &&
      match (g.lane l).wait with
      | some (.pool _) => true
      | _ => false)

/-- Whether a claim cannot be satisfied: the pool, or the free granules of the claimant's sub-partition, are too few (R20, R21). A claim
that waits for the compactor only can be (R350). -/
def claimFails (s : State) (tid : Nat) (t : Team) (cl : Claim) : Bool :=
  decide (t.pool < cl.gran) ||
    match mget s.groups cl.gid with
    | some g => (alloc 64 (vectorUsed s g.core g.subp (some tid)) cl.gran).isNone
    | none => true

/-- CLAIM_DEADLOCK (R21): of the team that `args` gives. -/
def execClaimDeadlock (s : State) : Out :=
  match s.args with
  | [tid] =>
    match mget s.teams tid with
    | none => .next s
    | some t =>
      let gs := s.groups.filter (fun p => p.2.team == tid && p.2.live != 0#32)
      match t.claims with
      | [] => .next s
      | cl :: _ =>
        if gs.all (fun p => inClaim p.2) && claimFails s tid t cl then
          let s := onTeam s tid (fun t => { t with claims := [] })
          .next (t.claims.foldl (fun s cl =>
            match mget s.groups cl.gid with
            | some g =>
              let m := cl.mask &&& g.live
              takeTrap s cl.gid .claimDeadlock m (g.lane ((lanesOf m).headD 0)).pc 0#64 0#64
            | none => s) s)
        else .next s
  | _ => .next s

/-- Withdraw the waits of a group, each with the arrival made at issue (R33); the claims are the team's. -/
def withdrawWaits (s : State) (gid : Nat) (g : Group) : State :=
  let blocked := g.inState .blocked
  let s := (lanesOf blocked).foldl (fun s l =>
    match (g.lane l).wait with
    | some (.barrier o _ true) => updateObj s g.team o (fun b => { b with arrived := b.arrived - 1 })
    | _ => s) s
  onGroup s gid (fun g =>
    { (g.onLanes blocked (fun x => { x with st := .active, wait := none })) with spWaits := dropWaits blocked g.spWaits })

/-- The addresses at which some lanes stand, ascending by lane, each with its lanes. -/
def byPc (g : Group) (m : Mask) : List (W64 × Mask) :=
  (((lanesOf m).map (fun l => (g.lane l).pc)).eraseDups).map (fun pc => (pc, maskBy (fun l => has m l && (g.lane l).pc == pc)))

/-- BARRIER_STARVED (R33): of the team that `args` gives. Lanes of a group that waited at other words raise theirs when the group
next issues outside a handler (DEDUCED, log 12). -/
def execBarrierStarved (s : State) : Out :=
  match s.args with
  | [tid] =>
    match mget s.teams tid with
    | none => .next s
    | some t =>
      if t.starved < 65536 then .next s
      else
        let s := onTeam s tid (fun t => { t with starved := 0, claims := [] })
        .next ((s.groups.filter (fun p => p.2.team == tid)).foldl (fun s p =>
          let pcs := byPc p.2 (p.2.inState .blocked)
          let s := withdrawWaits s p.1 p.2
          match pcs with
          | [] => s
          | x :: rest =>
            let s := onGroup s p.1 (fun g => { g with starvePend := g.starvePend ++ rest })
            takeTrap s p.1 .barrierStarved x.2 x.1 0#64 0#64) s)
  | _ => .next s

end Sys2Proof.Machine
end

