-- ==== Sys2Proof/Machine/Routine.lean ====
section
/-! DEFINITION. Line routines: LRINV and LRLOAD (R281 to R289), and the arrival, running and return of invocations (R275 to R280). -/

namespace Sys2Proof.Machine

/-! ### LRINV -/

/-- The two arguments of LRINV in a lane (R281). -/
def lrArgs (f : SForm) (g : Group) (l : Nat) : W64 × W64 :=
  if fnBit f 9 then (uRead64 g (uni f f.b), uRead64 g (uni f f.b + 2)) else (vRead64 g f.b.toNat l, vRead64 g (f.b.toNat + 2) l)

/-- A lane's result or fault as the leading team hands it to the trailing team (R421): bit 127 marks a fault, with the code above its
TINFO. -/
def packResult (r : Sum W64 (Cause × W64)) : BitVec 128 :=
  match r with
  | .inl x => x.setWidth 128
  | .inr (c, i) => 1#128 <<< 127 ||| BitVec.ofNat 128 c.code <<< 64 ||| i.setWidth 128
def unpackResult (x : BitVec 128) : Sum W64 (Cause × W64) :=
  if x.getLsbD 127 then .inr (if slice x.toNat 64 8 = Cause.routineAbsent.code then .routineAbsent else .routineFault, x.setWidth 64)
  else .inl (x.setWidth 64)

/-- Every invocation of an LRINV has returned: results, the acquire, and then the faults (R282, R283). -/
def completeLr (s : State) (gid : Nat) (job : LrJob) : State :=
  match mget s.groups gid with
  | none => s
  | some g =>
    let t := mget s.teams g.team
    let all : SMap (BitVec 128) := (lanesOf job.cl).map (fun l =>
      (l, match job.faults.find? (fun f => f.1 == l) with
        | some f => packResult (.inr (f.2.1, f.2.2.1))
        | none => packResult (.inl (mval job.results 0#64 l))))
    let g := match job.key with
      | some k => if (t.map (·.twin)).getD 0 = 1 then { g with acqVals := mput g.acqVals k all } else g
      | none => g
    let s := match job.acq with
      | some sc => acquireAt s g.core ((t.map (·.world)).getD 0) sc
      | none => s
    let ok := job.results.map (·.1)
    let (g, mark) := if job.noWrite then (g, false) else fijEvent g 2
    let results (g : Group) : Group := if job.noWrite then g else job.results.foldl (fun g r => vWrite64 g job.dest r.1 r.2) g
    let g := results g
    let s := onImage s gid (fun g => g.lr.isSome) (fun g =>
      advance { results g with lr := none, susp := [], resume := none } (if job.faults.isEmpty then job.ctx.mask else maskOf ok))
    let g := { (if mark then markWrite g job.dest job.cl else g) with lr := none }
    if job.faults.isEmpty then endWord s job.ctx g true job.results
    else
      let s := onGroup s gid (fun _ => advance (settleLatches { g with susp := [], resume := none }) (maskOf ok))
      let low := ((job.faults.map (fun f => f.2.1.code)).min?).getD 0
      let sorted := (lanesOf job.cl).filterMap (fun l => job.faults.find? (fun f => f.1 == l))
      match sorted, sorted.find? (fun f => f.2.1.code == low) with
      | first :: _, some f => takeTrap s gid f.2.1 (maskOf (sorted.map (·.1))) job.ctx.pc first.2.2.2 f.2.2.1
      | _, _ => s

/-- An LRINV whose lanes have all returned completes. -/
def tryLr (s : State) (gid : Nat) : State :=
  match (mget s.groups gid).bind (·.lr) with
  | some job => if (lanesOf job.cl).all (fun l => (mget job.results l).isSome || job.faults.any (fun f => f.1 == l)) then completeLr s gid job else s
  | none => s

/-- A lane of an LRINV has its answer. -/
def answerLr (s : State) (gid lane : Nat) (va : Nat) (r : Sum W64 (Cause × W64)) : State :=
  onGroup s gid (fun g =>
    { g with lr := g.lr.map (fun j =>
        match r with
        | .inl x => { j with results := mput j.results lane x }
        | .inr (c, i) => { j with faults := j.faults ++ [(lane, c, i, BitVec.ofNat 64 va)] }) })

/-- LRINV (R281 to R284): in a twin pair the trailing team takes the answers of the leading team. -/
def execLrinv (f : SForm) (s : State) : Out :=
  let a := opnd f f.a (fnBit f 10) (lqA f) true
  let b : Needs := { vtop := if fnBit f 9 then 0 else f.b.toNat + 4 }
  let d : Dest := .v f.d.toNat true
  let bregs := (List.range 4).map (fun i => if fnBit f 9 then (2, uni f f.b + i) else (1, f.b.toNat + i))
  let acq := ordOf f % 2 = 1
  let rel := ordOf f / 2 = 1
  let n := f.c.toNat % 64
  .next (issueWord s f.pg f.pn ((a.needs.and b).and d.needs) (a.regs ++ bregs) fun s c g t cl =>
    if cl = 0#32 then endWord s c g true []
    else
      let ea (l : Nat) : Nat := a.read g l
      let bad := (lanesOf cl).filterMap (fun l =>
        if ea l ≥ 2 ^ 56 || ea l % 128 ≠ 0 then some (l, Cause.address, 0#64, BitVec.ofNat 64 (ea l)) else none)
      let records := (lanesOf cl).flatMap (fun l =>
        laneRecord l (leBytes 8 (ea l) ++ leBytes 1 n ++ leBytes 8 (lrArgs f g l).1.toNat ++ leBytes 8 (lrArgs f g l).2.toNat))
      if !bad.isEmpty then trapLowest s c bad
      else
        withPages s c ((lanesOf cl).map (fun l => (l, [ea l]))) 0xB fun s g tr =>
          let key := pairKey g t
          pairOp s c g t [] records key fun s g role =>
            let pieces := (lanesOf cl).map (fun l => (ea l, (tr (ea l)).1, 128))
            let (s, before) := if rel then releaseAt s c g t cl (atomScope f) else (performOverlapping s c.gid pieces, [])
            let job : LrJob := ⟨c, cl, f.d.toNat, f.nw, if acq then some (atomScope f) else none, key, [], []⟩
            let s := onGroup (escape s g.team) c.gid (fun g => { g with lr := some job })
            if role = .trailing then
              let got := (twinResult s c.gid key).getD []
              tryLr ((lanesOf cl).foldl (fun s l => answerLr s c.gid l (ea l) (unpackResult (mval got 0#128 l))) s) c.gid
            else
              let s := (lanesOf cl).foldl (fun s l =>
                { s with
                  fresh := s.fresh + 1
                  invs := mput s.invs s.fresh
                    { gid := c.gid, lane := l, core := g.core, after := before ++ (g.lane l).fence
                      space := t.space, world := t.world, part := t.part, n := n, va := ea l, line := (tr (ea l)).1 / 128
                      a1 := (lrArgs f g l).1, a2 := (lrArgs f g l).2, attrs := (tr (ea l)).2, st := .sent } }) s
              onCore s g.core (fun c => { c with l1 := c.l1.filter (fun y => !(y.world == t.world && pieces.any (fun p => p.2.1 / 128 == y.line))) }))

/-! ### The recipe table and its images -/

/-- The address of an entry of the recipe table, and of an image slot (R272). -/
def recipeEntry (sp : Space) (n : Nat) : Nat := sp.arena + 8 * n
def recipeSlot (sp : Space) (n : Nat) : Nat := sp.arena + 0x1000 + 0xC0 * n

/-- The words of an image from its bytes after the header (R274, R310). -/
def imageWords (len : Nat) (bs : List Byte) : List (BitVec 32) :=
  (List.range len).map (fun i => BitVec.ofNat 32 (leNat ((bs.drop (4 * i)).take 4)))

/-- Whether a header of a line routine keeps to R274. -/
def headerOk (h : Nat) : Bool := decide (h / 2 ^ 9 = 0) && slice h 6 2 == 0 && decide (h % 64 ≤ 32) && !(h.testBit 8 && h % 64 == 0)

/-- A word that reads an image at a uniform address (R286, R329): the header is read and checked, then the words; a release at
`.dev` precedes the reading of the image. `same` says which drops belong to a load of the same kind: the word waits for one of its space
that is in progress. -/
def imageWord (f : SForm) (headOk : Nat → Bool) (lenOf : Nat → Nat) (cause : Cause) (reason : Nat) (same : DropJob → Bool)
    (k : State → Ctx → Group → Team → Nat → List Byte → State) (s : State) : State :=
  let a := opnd f f.a true false true
  issueWord s f.pg f.pn {} a.regs fun s c g t cl =>
    if cl = 0#32 then endWord s c g false []
    else
      let va := a.read g 0
      if va ≥ 2 ^ 56 || va % 8 ≠ 0 then trapOnce s c cl .address va
      else
        withPages s c ((lanesOf cl).map (fun l => (l, [va]))) 1 fun s g tr =>
          let piece : Nat × Nat × Nat := (va, (tr va).1, 8)
          checkedOnce s c t cl [piece] fun s =>
            let s := performOverlapping s c.gid [piece]
            let h := leNat (readPieces s g.core t.world [piece])
            let len := lenOf h
            if !headOk h then takeTrap s c.gid cause cl c.pc (BitVec.ofNat 64 va) (BitVec.ofNat 64 reason)
            else if va + 8 + 4 * len > 2 ^ 56 then trapOnce s c cl .address (2 ^ 56)
            else
              let firsts := pagesOf va (8 + 4 * len)
              withPages s c ((lanesOf cl).map (fun l => (l, firsts))) 1 fun s g tr =>
                let ps := firsts.map (fun x => (x, (tr x).1, min (va + 8 + 4 * len) (x / 4096 * 4096 + 4096) - x))
                checkedOnce s c t cl ps fun s =>
                  match s.drops.find? (fun d => d.space == t.space && same d) with
                  | some d => onGroup s c.gid (fun g => { g with resume := some c, holds := .drops d.id :: g.holds })
                  | none =>
                    let s := fenceWord s c g t cl 4
                    let bs := (readPieces s g.core t.world ps).drop 8
                    k s c ((mget s.groups c.gid).getD g) t h bs

/-- Send a drop, for which the group waits (R286, R329). -/
def sendDrop (s : State) (c : Ctx) (g : Group) (space : Nat) (routine : Option Nat) (units : List Nat) : State :=
  let id := s.fresh
  let s := { s with fresh := s.fresh + 1, drops := s.drops ++ (if units.isEmpty then [] else [⟨id, c.gid, space, routine, units⟩]) }
  endWord s c { g with holds := .drops id :: g.holds } false []

/-- LRLOAD (R285 to R287): the drop goes to the 512 slice engines. -/
def execLrload (f : SForm) (s : State) : Out :=
  let n := fnField f 0 6
  .next (imageWord f headerOk (fun h => h % 64) .routineFault 0x0A (fun d => d.routine.isSome)
    (fun s c g t h bs =>
      let sp := spaceOf s t.space
      let e := leNat (homeRead s t.world (recipeEntry sp n) 8)
      let s := deviceWrite s t.world (recipeSlot sp n) (leBytes 8 h ++ bs)
      let s := deviceWrite s t.world (recipeEntry sp n) (leBytes 8 ((e / 2 ^ 32 + 1) % 2 ^ 32 * 2 ^ 32 + (if h % 64 = 0 then 0 else 1)))
      sendDrop s c g t.space (some n) (List.range 512)) s)

/-- A unit acknowledges the drops of a space that reached it (R286, R329). -/
def ackDrop (s : State) (p : DropJob → Bool) (unit : Nat) : State :=
  { s with drops := (s.drops.map (fun d => if p d then { d with left := d.left.filter (· != unit) } else d)).filter (fun d => !d.left.isEmpty) }

/-- ROUTINE_IMAGE_DROP (R289): of the slice, space and routine that `args` gives. -/
def execRoutineImageDrop (s : State) : Out :=
  match s.args with
  | [k, space, n] =>
    let mine (d : DropJob) : Bool := d.space == space && d.routine == some n && d.left.contains k
    if s.drops.any mine then
      .next (ackDrop (onSlice s k (fun e => { e with cache := e.cache.filter (fun x => !(x.space == space && x.n == n)) })) mine k)
    else .next s
  | _ => .next s

/-! ### Invocations -/

/-- INVOCATION_ARRIVAL (R276, R282): those that one LRINV sent to one slice arrive in the order of sending. -/
def execInvocationArrival (s : State) : Out :=
  match s.args with
  | [x] =>
    match mget s.invs x with
    | none => .next s
    | some i =>
      let k := homeSlice (128 * i.line)
      let earlier := s.invs.any (fun p => decide (p.1 < x) && p.2.gid == i.gid && p.2.st == .sent && homeSlice (128 * p.2.line) == k)
      if i.st ≠ .sent || earlier then .next s
      else .next (onSlice (onInv s x (fun i => { i with st := .queued })) k (fun e => { e with queue := e.queue ++ [x] }))
  | _ => .next s

/-- The entries of an engine's image cache that each partition has: the 64 in equal shares (R275; DESIGN CHOICE, log 59). -/
def imageShare : Nat := 4

/-- An engine's image cache with an image in front, the partition's images within its share (R275). -/
def putImage (cache : List SliceImage) (x : SliceImage) : List SliceImage :=
  let rest := cache.filter (fun y => y != x)
  x :: ((rest.filter (fun y => y.part == x.part)).take (imageShare - 1) ++ rest.filter (fun y => y.part != x.part))

/-- The image of a routine for an engine (R275): from its cache, or from the arena; or the fault that ends the invocation. -/
def fetchImage (s : State) (k : Nat) (i : Inv) : State × Sum Image (Cause × Nat) :=
  match (sliceAt s k).cache.find? (fun x => x.space == i.space && x.n == i.n) with
  | some x => (onSlice s k (fun e => { e with cache := putImage e.cache x }), .inl x.image)
  | none =>
    let sp := spaceOf s i.space
    let bad (pa n : Nat) : Bool := readError s i.world pa n == .uncorrectable || readError s i.world pa n == .integrity
    let e := leNat (homeRead s i.world (recipeEntry sp i.n) 8)
    let h := leNat (homeRead s i.world (recipeSlot sp i.n) 8)
    if bad (recipeEntry sp i.n) 8 then (s, .inr (.routineFault, 8))
    else if e % 2 = 0 then (s, .inr (.routineAbsent, 0x10))
    else if bad (recipeSlot sp i.n) (8 + 4 * (h % 64)) then (s, .inr (.routineFault, 8))
    else
      let image : Image := ⟨h.testBit 8, imageWords (h % 64) (homeRead s i.world (recipeSlot sp i.n + 8) (4 * (h % 64)))⟩
      (onSlice s k (fun y => { y with cache := putImage y.cache ⟨i.space, i.n, BitVec.ofNat 32 (e / 2 ^ 32), i.part, image⟩ }), .inl image)

/-- The next invocation of an engine: the oldest of the next partition in round robin (R276). -/
def nextInv (s : State) (k : Nat) : Option (Nat × Inv) :=
  let e := sliceAt s k
  let waiting := e.queue.filterMap (fun x => (mget s.invs x).map (fun i => (x, i)))
  let parts := waiting.map (fun p => p.2.part)
  let later := parts.filter (fun p => decide (e.rr < p))
  match (if later.isEmpty then parts else later).min? with
  | some p => waiting.find? (fun q => q.2.part == p)
  | none => none

/-- The line leaves every other holder (R276 step 2): the leases, the RDCs, and what the almanac and the backstop directory record
of it (R300, R301). -/
def takeLine (s : State) (line : Nat) : State :=
  let s := endLease s line true
  { s with
    dies := s.dies.map (fun p =>
      let spilt := p.2.l2.any (fun x => x.line == line && x.xp == 3)
      (p.1, { p.2 with
        rdc := p.2.rdc.filter (fun x => x.line != line)
        l2 := p.2.l2.map (fun x => if x.line = line then { x with xp := 0 } else x)
        backstop := if spilt then
            (p.2.backstop.map (fun b => if b.region = line / 32 then { b with lines := b.lines - 1 } else b)).filter (fun b => b.lines != 0)
          else p.2.backstop }))
    nougats := s.nougats.map (fun p => (p.1, { p.2 with alm := p.2.alm.filter (fun a => a.line != line) })) }

/-- The invocation ends with a fault before its first word (R279). -/
def invFault (s : State) (k x : Nat) (i : Inv) (c : Cause) (reason : Nat) : State :=
  let s := if 6 ≤ reason && reason ≤ 9 then engineError s i.world 5 k reason else s
  onInv s x (fun i => { i with st := .faulted c (BitVec.ofNat 64 reason) })

/-- Start the next invocation of an engine (R276 steps 1 to 4, R278, R280). -/
def runInv (s : State) (k x : Nat) (i : Inv) : State :=
  let s := onSlice s k (fun e => { e with queue := e.queue.filter (· != x), rr := i.part })
  let pa := 128 * i.line
  if inDoor s pa then toDoor (onInv s x (fun i => { i with st := .ended 0#64 })) ⟨i.world, pa, 128, false, false, []⟩
  else
  match fetchImage s k i with
  | (s, .inr (c, reason)) => invFault s k x i c reason
  | (s, .inl image) =>
    let s := takeLine s i.line
    let s := (s.writes.filter (fun w => !w.home && w.core == some i.core && w.overlaps pa 128)).foldl (fun s w => drain s w.id) s
    let s := seeLatest s i.core i.world [(i.va, pa, 128)]
    match readError s i.world pa 128 with
    | .integrity => invFault s k x i .routineFault 6
    | .uncorrectable => invFault s k x i .routineFault 7
    | _ =>
      let s := onInv s x (fun i => { i with st := .running })
      let s := onSlice s k (fun e =>
        { e with inv := some x, c := [(1, i.a1), (2, i.a2)], buf := homeRead s i.world pa 128, image := image, idx := 0, holdAt := 2 * s.clock
                 line := i.line })
      if image.words.isEmpty then sliceDone s k else s

/-- INVOCATION_RUN (R276): of the slice that `args` gives. Its words follow one by one. -/
def execInvocationRun (s : State) : Out :=
  match s.args with
  | [k] =>
    match (sliceAt s k).inv, nextInv s k with
    | none, some (x, i) =>
      if !backed s (128 * i.line) then .fault (.unbacked (128 * i.line))
      else if s.nougats.any (fun p => p.2.alm.any (fun a => a.line == i.line && (a.pend || a.st == .rc))) ||
          s.msgs.any (fun p => p.2.line == i.line) then .next s
      else .next (runInv s k x i)
    | _, _ => .next s
  | _ => .next s

/-- INVOCATION_RETURN (R282): of the invocation that `args` gives. -/
def execInvocationReturn (s : State) : Out :=
  match s.args with
  | [x] =>
    match mget s.invs x with
    | none => .next s
    | some i =>
      let s' := { s with invs := mdel s.invs x }
      match i.st with
      | .ended v => .next (reapGroup (tryLr (answerLr s' i.gid i.lane i.va (.inl v)) i.gid) i.gid)
      | .faulted c info => .next (reapGroup (tryLr (answerLr s' i.gid i.lane i.va (.inr (c, info))) i.gid) i.gid)
      | _ => .next s
  | _ => .next s

end Sys2Proof.Machine
end

