-- ==== Sys2Proof/Machine/Walk.lean ====
section
/-! DEFINITION. Walk requests and their service (R308 to R312, R322), TLBINV and WRLOAD (R328 to R331). -/

namespace Sys2Proof.Machine

/-! ### Requests -/

/-- Every request that is under way or asked of the responders: queued, on a walker, held, or in a page request. -/
def openRequests (s : State) : List WalkReq :=
  s.walkq ++ s.walkers.filterMap (fun p => p.2.req) ++ s.held.map (fun p => p.2.req) ++ s.pageq.map (·.req)

/-- Form a walk request (R308): merged with one that has not yet begun, or new. -/
def formRequest (s : State) (who : Walked) (part space world : Nat) (n : PageNeed) : State :=
  requeue s ⟨0, part, space, world, n.va, n.kind, [who], []⟩

/-- The first pending page of some needs for which no request of the asker stands. -/
def unasked (s : State) (who : Walked) (part space : Nat) (ns : List PageNeed) : Option PageNeed :=
  ns.find? (fun n => n.st == .pending && !(openRequests s).any (fun r => r.wants part space n.va n.kind && r.who.contains who))

/-- WALK_REQUEST (R308): of a group, or of a queue slot of a front end. -/
def execWalkRequest (who : Walked) (s : State) : Out :=
  .next (match who with
    | .group gid =>
      match (mget s.groups gid).bind (fun g => (mget s.teams g.team).map (fun t => (g, t))) with
      | some (g, t) =>
        match unasked s who t.part t.space g.susp with
        | some n => formRequest s who t.part t.space t.world n
        | none => s
      | none => s
    | .frontEnd fe slot =>
      match (mget s.frontEnds fe).bind (fun x => (mget x.slots slot).map (fun q => (x, q))) with
      | some (x, q) =>
        match unasked s who x.part q.space q.susp with
        | some n => formRequest s who x.part q.space q.world n
        | none => s
      | none => s)

/-! ### Walks -/

/-- The clusters of a partition (R10, R381), and the partition of a cluster. -/
def partClusters (s : State) (part : Nat) : List Nat :=
  (List.range 48).filter (fun c => s.frontEnds.any (fun p => p.2.valid && p.2.part == part && decide (p.2.base ≤ c) && decide (c ≤ p.2.limit)))
def partOfCluster (s : State) (c : Nat) : Option Nat :=
  (s.frontEnds.find? (fun p => p.2.valid && decide (p.2.base ≤ c) && decide (c ≤ p.2.limit))).map (fun p => p.2.part)

/-- The walks of a space that are outstanding (R309): running, or held. -/
def outstanding (s : State) (space : Nat) : Nat :=
  (s.walkers.filter (fun p => (p.2.req.map (·.space)) == some space)).length + (s.held.filter (fun p => p.2.req.space == space)).length

/-- The next request of a partition (R309): the oldest of the next space in round robin with fewer than 32 walks outstanding. -/
def nextWalk (s : State) (part : Nat) : Option WalkReq :=
  let waiting := s.walkq.filter (fun r => r.part == part && decide (outstanding s r.space < 32))
  let spaces := waiting.map (·.space)
  let later := spaces.filter (fun x => decide ((partOf s part).rr < x))
  match (if later.isEmpty then spaces else later).min? with
  | some x => waiting.find? (fun r => r.space == x)
  | none => none

/-- The walker image of a space for a cluster (R311): from its store, or fetched; none after an error. -/
def walkerImage (s : State) (cluster : Nat) (space world : Nat) : State × Option Image :=
  let st := mval s.stores [] cluster
  match st.find? (fun x => x.space == space) with
  | some x => ({ s with stores := mput s.stores cluster (x :: st.filter (fun y => y != x)) }, some x.image)
  | none =>
    let pa := (spaceOf s space).walkerArea
    let len := leNat (homeRead s world pa 8) % 2 ^ 11
    let bad (n : Nat) : Bool := readError s world pa n == .uncorrectable || readError s world pa n == .integrity
    if bad 8 || bad (8 + 4 * len) then (s, none)
    else
      let image : Image := ⟨false, imageWords len (homeRead s world (pa + 8) (4 * len))⟩
      ({ s with stores := mput s.stores cluster ((⟨space, image⟩ :: st).take 4) }, some image)

/-- The base of the walker arena (R312): the lowest-indexed valid extent with A = 1. -/
def arenaBase (sp : Space) : Nat := ((sp.exts.find? (fun p => p.2.v && p.2.arena)).map (fun p => 4096 * p.2.base)).getD 0

/-- WALK_START (R309 to R312): of the walker that `args` gives. -/
def execWalkStart (s : State) : Out :=
  match s.args with
  | [w] =>
    match (walkerAt s w).req, (partOfCluster s (w / 4)).bind (fun p => (nextWalk s p).map (fun r => (p, r))) with
    | none, some (p, r) =>
      let s := onPart { s with walkq := s.walkq.filter (fun x => x.id != r.id) } p (fun x => { x with rr := r.space })
      .next (match walkerImage s (w / 4) r.space r.world with
        | (s, none) => failWalk s r .walkError 8 0 0
        | (s, some image) =>
          if image.words.isEmpty then failWalk s r .walkError 9 0 0
          else
            onWalker s w (fun _ =>
              { req := some r, image := image, idx := 0, last := 0, words := 0, ldps := 0, strike := 0#64
                c := [(1, BitVec.ofNat 64 r.va), (2, BitVec.ofNat 64 r.kind), (3, BitVec.ofNat 64 r.space),
                  (4, BitVec.ofNat 64 (arenaBase (spaceOf s r.space)))] }))
    | _, _ => .next s
  | _ => .next s

/-- HELD_WALK_RECHECK (R322): of the held walk that `args` gives. -/
def execHeldWalkRecheck (s : State) : Out :=
  match s.args with
  | [id] =>
    match mget s.held id with
    | none => .next s
    | some h =>
      let v := checkFrame s h.req.space h.req.kind h.c5.toNat h.c6.toNat h.c7.toNat
      .next (if v = .hold then s else settleVerdict { s with held := mdel s.held id } h.req h.c5 h.c6 h.c7 h.word v)
  | _ => .next s

/-! ### WRLOAD -/

/-- WRLOAD (R328, R329). -/
def execWrload (f : SForm) (s : State) : Out :=
  .next (imageWord f (fun h => decide (h / 2 ^ 11 = 0) && decide (h ≤ 1022)) (fun h => h) .walkError 0x0B
    (fun d => d.routine.isNone)
    (fun s c g t h bs =>
      let img := leBytes 8 h ++ bs
      let s := deviceWrite s t.world (spaceOf s t.space).walkerArea (img ++ List.replicate (4096 - img.length) 0#8)
      let s := { s with spaces := mupd s.spaces t.space (fun sp => { sp with digest := some (sha384 img) }) }
      sendDrop s c g t.space none (partClusters s t.part)) s)

/-- WALKER_STORE_DROP (R329): of the cluster and space that `args` gives. -/
def execWalkerStoreDrop (s : State) : Out :=
  match s.args with
  | [cl, space] =>
    let mine (d : DropJob) : Bool := d.space == space && d.routine.isNone && d.left.contains cl
    if s.drops.any mine then
      .next (ackDrop { s with stores := mput s.stores cl ((mval s.stores [] cl).filter (fun x => x.space != space)) } mine cl)
    else .next s
  | _ => .next s

/-! ### TLBINV -/

/-- Drop every cached translation of a space that meets a range of virtual addresses (R331). -/
def dropTrans (s : State) (space lo hi : Nat) : State :=
  let keep (t : Trans) : Bool := !(t.space == space && decide (t.vbase < hi) && decide (lo < t.vbase + 2 ^ t.lsize))
  { s with
    cores := s.cores.map (fun p => (p.1, { p.2 with tlb := p.2.tlb.filter keep }))
    dies := s.dies.map (fun p => (p.1, { p.2 with tc := p.2.tc.map (fun q => (q.1, q.2.filter keep)) })) }

/-- What suspended accesses of a space had learned of a range is forgotten: they walk again (R331). -/
def forgetPages (s : State) (space lo hi : Nat) : State :=
  let back (n : PageNeed) : PageNeed :=
    match n.st with
    | .mapped frame lsize attrs =>
      let base := n.va / 2 ^ lsize * 2 ^ lsize
      if base < hi && lo < base + 2 ^ lsize then { n with st := .pending } else { n with st := .mapped frame lsize attrs }
    | _ => n
  { s with
    groups := s.groups.map (fun p => if ((mget s.teams p.2.team).map (·.space)) == some space then (p.1, { p.2 with susp := p.2.susp.map back }) else p)
    frontEnds := s.frontEnds.map (fun p => (p.1, { p.2 with
      slots := p.2.slots.map (fun q => if q.2.space = space then (q.1, { q.2 with susp := q.2.susp.map back }) else q) })) }

/-- The walks of a space that have begun. -/
def begunWalks (s : State) (space : Nat) : List Nat :=
  (s.walkers.filterMap (fun p => p.2.req) ++ s.held.map (fun p => p.2.req)).filterMap (fun r => if r.space = space then some r.id else none)

/-- The results of walks that have begun are to be discarded where they meet a range (R331). -/
def markWalks (s : State) (space lo hi : Nat) : State :=
  let mark (r : WalkReq) : WalkReq := if r.space = space && lo < hi then { r with drop := r.drop ++ [(lo, hi)] } else r
  { s with
    walkers := s.walkers.map (fun p => (p.1, { p.2 with req := p.2.req.map mark }))
    held := s.held.map (fun p => (p.1, { p.2 with req := mark p.2.req })) }

/-- TLBINV over a range (R331): the group waits for the walks of its space that have begun. -/
def tlbinvWord (f : SForm) (regs : List (Nat × Nat)) (range : Group → Nat × Nat) (s : State) : State :=
  issueWord s f.pg f.pn {} regs fun s c g t cl =>
    if cl = 0#32 then endWord s c g false []
    else
      let (lo, hi) := range g
      let s := fenceWord s c g t cl 4
      let ids := begunWalks s t.space
      let s := if lo < hi then markWalks (forgetPages (dropTrans s t.space lo hi) t.space lo hi) t.space lo hi else s
      let g := (mget s.groups c.gid).getD g
      endWord s c (if ids.isEmpty then g else { g with holds := .walks ids :: g.holds }) false []

/-- TLBINV (R330, R331). -/
def execTlbinv (f : SForm) (s : State) : Out :=
  .next (tlbinvWord f [(2, uni f f.a), (2, uni f f.a + 1), (2, uni f f.b)] (fun g =>
    let lo := (uRead64 g (uni f f.a)).toNat / 4096 * 4096
    (lo, min (lo + 4096 * (uRead g (uni f f.b)).toNat) (2 ^ 56))) s)

/-- TLBINV_ALL (R330, R331). -/
def execTlbinvAll (f : SForm) (s : State) : Out := .next (tlbinvWord f [] (fun _ => (0, 2 ^ 64)) s)

end Sys2Proof.Machine
end

