-- ==== Sys2Proof/Machine/Place.lean ====
section
/-! DEFINITION. Launch records and the placement of teams (R17, R19, R344 to R350), compaction (R351), and the end of grids
(R342). -/

namespace Sys2Proof.Machine

/-! ### The launch record (R17, R19, R122, R123, R344) -/

/-- The bytes of a record from an offset, as a number. -/
def recNum (bs : List Byte) (o n : Nat) : Nat := leNat ((bs.drop o).take n)

/-- The format slots of a record's bytes (R122). -/
def recSlots (bs : List Byte) : List (BitVec 32) := (List.range 8).map (fun i => BitVec.ofNat 32 (recNum bs (0x30 + 4 * i) 4))

/-- Read a launch record. -/
def parseLaunch (addr pa : Nat) (bs : List Byte) : Launch where
  addr := addr
  pa := pa
  entry := BitVec.ofNat 64 (recNum bs 0 8)
  gx := recNum bs 0x08 4
  gy := recNum bs 0x0C 4
  gz := recNum bs 0x10 4
  tx := recNum bs 0x14 2
  ty := recNum bs 0x16 2
  tz := recNum bs 0x18 2
  flags := recNum bs 0x1A 2
  scratch := recNum bs 0x1C 4
  roles := (List.range 4).map (fun i => recNum bs (0x20 + 4 * i) 4)
  fs := recSlots bs
  argPtr := recNum bs 0x50 8
  argSize := recNum bs 0x58 4
  handler := BitVec.ofNat 64 (recNum bs 0x60 8)
  space := recNum bs 0x68 2
  preload := (List.range 32).map (fun i => BitVec.ofNat 32 (recNum bs (0x80 + 4 * i) 4))

/-- The threads and the groups of a team (R17), and the teams of the grid. -/
def Launch.threads (l : Launch) : Nat := l.tx * l.ty * l.tz
def Launch.ngroups (l : Launch) : Nat := (l.threads + 31) / 32
def Launch.teams (l : Launch) : Nat := l.gx * l.gy * l.gz

/-- FLAGS (R344). -/
def Launch.twin (l : Launch) : Bool := l.flags.testBit 2
def Launch.coresident (l : Launch) : Bool := l.flags.testBit 3

/-- Whether a role entry is accepted (R19). -/
def roleOk (e : Nat) : Bool :=
  let n := slice e 0 8
  let v := slice e 8 8
  e / 2 ^ 24 == 0 && decide (n ≤ 128) && decide (slice e 16 4 ≤ 8) && decide (slice e 20 4 ≤ 8) &&
    (if n = 0 then e == 0 else decide (1 ≤ v) && decide (v ≤ 32))

/-- Whether a slot descriptor is accepted (R122, R123). -/
def formatOk (d : BitVec 32) : Bool :=
  d.toNat / 2 ^ 10 == 0 && decide (fsScl d < 2) && decide (fsFmt d ≤ 10) && !(fsScl d == 1 && decide (fsFmt d ≤ 2)) &&
    !(d.getLsbD 6 && fsScl d == 0)

/-- Whether an address is 0 or a word address (R344). -/
def entryOk (x : W64) : Bool := x.toNat % 8 == 0 && decide (x.toNat < 2 ^ 56)

/-- Whether a launch record is accepted as it stands (R17, R19, R122, R123, R344), its placement aside. -/
def launchOk (s : State) (world : Nat) (l : Launch) (bs : List Byte) : Bool :=
  entryOk l.entry && decide (1 ≤ l.gx) && decide (1 ≤ l.gy) && decide (1 ≤ l.gz) && decide (1 ≤ l.threads) && decide (l.threads ≤ 4096) &&
    decide (l.flags < 16) && (!l.twin || l.flags.testBit 1) && decide (l.scratch ≤ 1048576) && l.roles.all roleOk &&
    (l.roles.map (fun e => slice e 0 8)).sum == l.ngroups && l.fs.all formatOk &&
    (l.argSize == 0 || l.argPtr % 8 == 0) && decide (l.argSize ≤ 65536) && recNum bs 0x5C 4 == 0 && entryOk l.handler &&
    recNum bs 0x6A 22 == 0 && ((mget s.spaces l.space).map (·.world)) == some world

/-! ### Room (R345, R346) -/

/-- What one group needs: its role and its granules (R345). -/
structure Need where
  role : Nat
  v : Nat
  t : Nat
  a : Nat
deriving DecidableEq, Repr

/-- The needs of a team's groups in `%grp` order (R19). -/
def Launch.needs (l : Launch) : List Need :=
  l.roles.zipIdx.flatMap (fun e => List.replicate (slice e.1 0 8) ⟨e.2, slice e.1 8 8, slice e.1 16 4, slice e.1 20 4⟩)

/-- The granules of a team's slot with its barrier area (R345). -/
def slotGranules (scratch : Nat) : Nat := (scratch + 1024 + 4095) / 4096

/-- A sub-partition of a world with what it has free. -/
structure RoomSub where
  core : Nat
  subp : Nat
  slots : Nat
  v : Nat
  t : Nat
  a : Nat
deriving DecidableEq, Repr

/-- The room of a world: its sub-partitions in ascending order, and the slot granules free on each core. -/
structure Room where
  subs : List RoomSub
  slots : SMap Nat
deriving DecidableEq, Repr

/-- The cores of a partition's clusters on which a world holds sub-partitions. -/
def worldCores (s : State) (part world : Nat) : List Nat :=
  let cs := partClusters s part
  (s.cores.filter (fun p => cs.contains (clusterOf p.1) && p.2.subpWorld.any (fun q => q.2 == world))).map (·.1)

/-- The room of a world as it stands, or with nothing resident. -/
def roomOf (s : State) (part world : Nat) (empty : Bool) : Room :=
  let cores := worldCores s part world
  let subs := cores.flatMap (fun k => ((coreOf s k).subpWorld.filter (fun q => q.2 == world)).map (fun q => (k, q.1)))
  { subs := subs.map (fun x =>
      if empty then ⟨x.1, x.2, 8, 64, 8, 8⟩
      else ⟨x.1, x.2, 8 - (groupsOn s x.1 x.2).length, 64 - granules (vectorUsed s x.1 x.2 none), 8 - granules (tileUsed s x.1 x.2),
        8 - granules (accUsed s x.1 x.2)⟩)
    slots := cores.map (fun k => (k, slotPool s k world - 4 - (if empty then 0 else granules (slotUsed s k world)))) }

/-- Whether a sub-partition has room for some groups, and what is left (R345). -/
def RoomSub.fits (r : RoomSub) (ns : List Need) : Bool :=
  decide (ns.length ≤ r.slots) && decide ((ns.map (·.v)).sum ≤ r.v) && decide ((ns.map (·.t)).sum ≤ r.t) && decide ((ns.map (·.a)).sum ≤ r.a)
def RoomSub.less (r : RoomSub) (n : Need) : RoomSub := { r with slots := r.slots - 1, v := r.v - n.v, t := r.t - n.t, a := r.a - n.a }

/-! ### Group assignment (R347) -/

/-- Where the groups of a team go, and the core and the granules of its slot. -/
structure Plan where
  groups : List (Nat × Nat × Need)
  core : Nat
  gran : Nat
deriving DecidableEq, Repr

/-- The groups that must stand on one sub-partition with group `n` (R377). -/
def pinned (pins : List (List Nat)) (n : Nat) : List Nat := ((pins.filter (fun l => l.contains n)).flatten).eraseDups

/-- Assign groups `n`, `n + 1`, … in order: each takes the first sub-partition with room, in round robin from `next` (R347). A group
that must stand with others takes the one that an earlier of them took, or one with room for all of them (R377). -/
def assign (pins : List (List Nat)) (all : List Need) : List Need → Nat → List RoomSub → Nat → List (Nat × Nat) → Option (List Nat × List RoomSub)
  | [], _, subs, _, _ => some ([], subs)
  | x :: xs, n, subs, next, done =>
    let mates := pinned pins n
    let fixed := (done.find? (fun p => mates.contains p.1)).map (·.2)
    let want := if mates.isEmpty || fixed.isSome then [x] else mates.filterMap (fun m => all[m]?)
    let order := match fixed with
      | some k => [k]
      | none => (List.range subs.length).map (fun i => (next + i) % subs.length)
    match order.find? (fun k => (subs[k]?).any (fun r => r.fits want)) with
    | none => none
    | some k =>
      (assign pins all xs (n + 1) (lupd subs k (fun r => r.less x)) ((k + 1) % subs.length) ((n, k) :: done)).map (fun r => (k :: r.1, r.2))

/-- Plan a team on a set of cores (R345, R347): the slot goes to the lowest core of the set (R18). (DEDUCED, log 64.) -/
def planOn (pins : List (List Nat)) (ns : List Need) (gran : Nat) (room : Room) (cores : List Nat) : Option (Plan × Room) :=
  let subs := room.subs.filter (fun r => cores.contains r.core)
  match assign pins ns ns 0 subs 0 [] with
  | none => none
  | some (ks, left) =>
    let at_ := ks.map (fun k => subs.getD k ⟨0, 0, 0, 0, 0, 0⟩)
    match cores.min? with
    | none => none
    | some c =>
      if mval room.slots 0 c < gran then none
      else
        let subs' := room.subs.map (fun r => (left.find? (fun x => x.core == r.core && x.subp == r.subp)).getD r)
        some (⟨(at_.zip ns).map (fun p => (p.1.core, p.1.subp, p.2)), c, gran⟩,
          { subs := subs', slots := mput room.slots c (mval room.slots 0 c - gran) })

/-- The sublists of a length, in order. -/
def combos : Nat → List Nat → List (List Nat)
  | 0, _ => [[]]
  | _ + 1, [] => []
  | k + 1, x :: xs => (combos k xs).map (fun l => x :: l) ++ combos (k + 1) xs

/-- The cores of a room by cluster, and the sets of up to `k` cores of one cluster in the order of R347. -/
def Room.clusters (r : Room) : List (List Nat) :=
  let cores := (r.subs.map (·.core)).eraseDups
  ((cores.map clusterOf).eraseDups).map (fun c => cores.filter (fun k => clusterOf k == c))
def Room.sets (r : Room) (k : Nat) : List (List Nat) := (List.range k).flatMap (fun i => r.clusters.flatMap (combos (i + 1)))

/-- A team to place: what its groups need, which must stand together, its slot's granules, and the convergence registers that must be free
where a member group of theirs goes: number and group (R377). -/
structure Seat where
  needs : List Need
  pins : List (List Nat)
  gran : Nat
  cvs : List (Nat × Nat)
deriving DecidableEq, Repr

/-- Where the convergence registers of a team would go: core and number. -/
def Seat.at_ (x : Seat) (p : Plan) : List (Nat × Nat) := x.cvs.filterMap (fun c => (p.groups[c.2]?).map (fun g => (g.1, c.1)))

/-- Plan a team on a set of cores on which its convergence registers are free. -/
def Seat.on (x : Seat) (free : Nat × Nat → Bool) (room : Room) (set : List Nat) : Option (Plan × Room) :=
  (planOn x.pins x.needs x.gran room set).filter (fun p => (x.at_ p.1).all free)

/-- Place one team: the first set of cores on which it fits (R347). -/
def planTeam (free : Nat × Nat → Bool) (x : Seat) (room : Room) : Option (List Plan × Room) :=
  (room.sets 4).findSome? (fun set => (x.on free room set).map (fun p => ([p.1], p.2)))

/-- Place a leading and a trailing team on two cores of a cluster (R349). -/
def planTwin (free : Nat × Nat → Bool) (x y : Seat) (room : Room) : Option (List Plan × Room) :=
  (room.sets 1).findSome? (fun set =>
    match x.on free room set with
    | none => none
    | some (p, room') =>
      let others := ((room.clusters.find? (fun c => c.any set.contains)).getD []).filter (fun k => !set.contains k)
      others.findSome? (fun k => (y.on free room' [k]).map (fun q => ([p, q.1], q.2))))

/-- Place a team of a launch, alone or as a pair. -/
def planLaunch (l : Launch) (room : Room) : Option (List Plan × Room) :=
  let x : Seat := ⟨l.needs, [], slotGranules l.scratch, []⟩
  if l.twin then planTwin (fun _ => true) x x room else planTeam (fun _ => true) x room

/-- Place several teams of a launch in order. -/
def planMany (l : Launch) : Nat → Room → Option (List (List Plan))
  | 0, _ => some []
  | n + 1, room =>
    match planLaunch l room with
    | none => none
    | some (p, room') => (planMany l n room').map (fun ps => p :: ps)

/-- How many teams must fit at once: all of them for a co-resident grid, which has no more than one for each group slot if it is to
fit at all (R344, R348). -/
def Launch.atOnce (l : Launch) (room : Room) : Nat := if l.coresident then min l.teams (8 * room.subs.length + 1) else 1

/-- Whether a launch fits the partition with nothing else resident (R344). (DEDUCED, log 94.) -/
def placeable (s : State) (part world : Nat) (l : Launch) : Bool :=
  let room := roomOf s part world true
  (planMany l (l.atOnce room) room).isSome

/-! ### Residence (R18, R41, R161, R211, R350) -/

/-- A pool: its kind, the core, and the sub-partition or, for the slots, the world. -/
abbrev PoolAt := PoolKind × Nat × Nat

/-- The blocks of a group on a sub-partition (R350); or the pool whose map would be too long (R351). -/
def groupBlocks (s : State) (core subp : Nat) (n : Need) : Except PoolAt (List (Nat × Nat) × List (Nat × Nat) × List (Nat × Nat)) :=
  match alloc 64 (vectorUsed s core subp none) n.v with
  | none => .error (.vector, core, subp)
  | some vm =>
    if vm.length > 6 then .error (.vector, core, subp)
    else
      match alloc 8 (tileUsed s core subp) n.t with
      | none => .error (.tile, core, subp)
      | some tm =>
        if tm.length > 2 then .error (.tile, core, subp)
        else
          match alloc 8 (accUsed s core subp) n.a with
          | none => .error (.accumulator, core, subp)
          | some am => if am.length > 2 then .error (.accumulator, core, subp) else .ok (vm, tm, am)

/-- The blocks of a team's slot (R350), in the same way. -/
def slotBlocks (s : State) (core world n : Nat) : Except PoolAt (List (Nat × Nat)) :=
  match alloc (slotPool s core world) (slotUsed s core world) n with
  | some sm => if sm.length > 8 then .error (.scratchpad, core, world) else .ok sm
  | none => .error (.scratchpad, core, world)

/-- The groups of a plan become resident one by one, each with its blocks (R350); or a pool must be compacted first (R351). -/
def seatGroups (tid : Nat) (l : Launch) : List (Nat × Nat × Need) → Nat → State → Except PoolAt (List Nat × State)
  | [], _, s => .ok ([], s)
  | (core, subp, n) :: rest, num, s =>
    match groupBlocks s core subp n with
    | .error e => .error e
    | .ok (vm, tm, am) =>
        let gid := s.fresh
        let age := ((mget (coreOf s core).subps subp).map (·.nextAge)).getD 0
        let g : Group := { Group.blank tid core subp (8 * n.v) gid l.entry with
          num := num, role := n.role, age := age, tgran := n.t, agran := n.a, vmap := vm, tmap := tm, amap := am
          u := l.preload.zipIdx.map (fun p => (p.2, p.1))
          lanes := (List.range nLanes).map (fun i =>
            ⟨l.entry, 0#64, 0, if 32 * num + i < l.threads then .active else .exited, false, none, [], 0⟩)
          trap := ⟨0#8, 0#32, 0#64, 0#64, 0#64, l.handler⟩ }
        let s := onSubp { s with fresh := s.fresh + 1, groups := mput s.groups gid g } core subp (fun x => { x with nextAge := age + 1 })
        (seatGroups tid l rest (num + 1) s).map (fun r => (gid :: r.1, r.2))

/-- The lowest core-local slot number that no team of a core has (R240). -/
def freeSlotNo (s : State) (core : Nat) : Nat :=
  let used := s.teams.filterMap (fun p => if p.2.core = core then some p.2.slotNo else none)
  ((List.range (used.length + 1)).find? (fun i => !used.contains i)).getD 0

/-- The barrier objects of a new team (R208, R211). -/
def newObjs (threads : Nat) : List Barrier := ⟨true, true, threads, 0, 0, 0, 0⟩ :: List.replicate 63 Barrier.zero

/-- One team of a grid becomes resident (R18): the linear number gives its coordinates, x fastest (R347). -/
def seatTeam (fe slot packet sub part world : Nat) (l : Launch) (linear twin : Nat) (s : State) (p : Plan) : Except PoolAt (Nat × State) :=
  let tid := s.fresh
  match slotBlocks s p.core world p.gran with
  | .error e => .error e
  | .ok sm =>
      match seatGroups tid l p.groups 0 { s with fresh := s.fresh + 1 } with
      | .error e => .error e
      | .ok (gids, s) =>
        let t : Team := { Team.blank world l.space part p.core gids with
          fe := fe, slot := slot, packet := packet, sub := sub, recAddr := l.addr, recPa := l.pa
          x := linear % l.gx, y := linear / l.gx % l.gy, z := linear / l.gx / l.gy, nx := l.gx, ny := l.gy, nz := l.gz
          dx := l.tx, dy := l.ty, dz := l.tz, flags := l.flags, argPtr := l.argPtr, argSize := l.argSize, scratch := l.scratch, fs := l.fs
          twin := twin, smap := sm, slotNo := freeSlotNo s p.core, objs := newObjs l.threads }
        -- the slot takes granules from its world's L1 (R165)
        .ok (tid, newInterval (trimL1 { s with teams := mput s.teams tid t } p.core world) tid)

/-- A team, or a pair of teams, becomes resident. -/
def seatPlans (fe slot packet sub part world : Nat) (l : Launch) (linear : Nat) (s : State) (ps : List Plan) : Except PoolAt State :=
  match ps with
  | [p] => (seatTeam fe slot packet sub part world l linear 0 s p).map (·.2)
  | [p, q] =>
    match seatTeam fe slot packet sub part world l linear 1 s p with
    | .error e => .error e
    | .ok (a, s) =>
      (seatTeam fe slot packet sub part world l linear 2 s q).map (fun r =>
        onTeam (onTeam r.2 a (fun t => { t with mate := some r.1 })) r.1 (fun t => { t with mate := some a }))
  | _ => .ok s

/-- Several teams in order. -/
def seatMany (fe slot packet sub part world : Nat) (l : Launch) : List (List Plan) → Nat → State → Except PoolAt State
  | [], _, s => .ok s
  | ps :: rest, linear, s =>
    match seatPlans fe slot packet sub part world l linear s ps with
    | .error e => .error e
    | .ok s => seatMany fe slot packet sub part world l rest (linear + 1) s

/-! ### The events of placement -/

/-- Whether the work of a packet of a queue goes on: the queue runs, or only a later packet has failed (R343). -/
def Queue.works (q : Queue) (packet : Nat) : Bool :=
  match q.stopping with
  | .run => true
  | .reset => decide (packet < q.failAt)
  | .save _ => false

/-- A sub-launch of a bundle in flight. -/
def subAt (q : Queue) (packet j : Nat) : Option Sub := (q.bundles.find? (fun b => b.index == packet)).bind (fun b => b.subs[j]?)

/-- Change a sub-launch. -/
def onSub (s : State) (fe slot packet j : Nat) (f : Sub → Sub) : State :=
  onQueue s fe slot (fun q => { q with bundles := q.bundles.map (fun b => if b.index = packet then { b with subs := lupd b.subs j f } else b) })

/-- The plan for what waits to be placed of a grid (R347, R348, R349): the next team, or all of them. -/
def nextPlan (s : State) (x : FrontEnd) (q : Queue) (l : Launch) (placed : Nat) : Option (List (List Plan)) :=
  if placed ≥ l.teams then none else planMany l (l.atOnce (roomOf s x.part q.world false)) (roomOf s x.part q.world false)

/-- Place the next team, pair or grid of a sub-launch, if it is of the kind asked for and fits. -/
def placeNext (kind : Launch → Bool) (s : State) : State :=
  match s.args with
  | [fe, slot, packet, j] =>
    match mget s.frontEnds fe, queueAt s fe slot with
    | some x, some q =>
      match subAt q packet j with
      | some (.grid l placed _ _) =>
        if !kind l || !q.works packet || s.ctl.halted then s
        else
          match nextPlan s x q l placed with
          | none => s
          | some ps =>
            match seatMany fe slot packet j x.part q.world l ps placed s with
            | .error _ => s
            | .ok s => onSub s fe slot packet j (fun y =>
                match y with
                | .grid l placed ended done => .grid l (placed + ps.length) ended done
                | z => z)
      | _ => s
    | _, _ => s
  | _ => s

/-- TEAM_PLACEMENT (R347): of the front end, slot, packet and sub-launch that `args` gives. -/
def execTeamPlacement (s : State) : Out := .next (placeNext (fun l => !l.twin && !l.coresident) s)

/-- CORESIDENT_PLACEMENT (R348). -/
def execCoresidentPlacement (s : State) : Out := .next (placeNext (fun l => l.coresident) s)

/-- TWIN_PLACEMENT (R349). -/
def execTwinPlacement (s : State) : Out := .next (placeNext (fun l => l.twin && !l.coresident) s)

/-- GRID_END (R342): of the front end, slot, packet and sub-launch that `args` gives; every write of the world's cores becomes
visible to the front end (DESIGN CHOICE, log 14). -/
def execGridEnd (s : State) : Out :=
  .next (match s.args with
    | [fe, slot, packet, j] =>
      match mget s.frontEnds fe, queueAt s fe slot with
      | some x, some q =>
        match subAt q packet j with
        | some (.grid l placed ended false) =>
          if placed = l.teams && ended = l.teams &&
              !s.teams.any (fun p => p.2.fe == fe && p.2.slot == slot && p.2.packet == packet && p.2.sub == j) then
            let s := (s.writes.filter (fun w => w.world == q.world)).foldl (fun s w => reach s w.id (4 * x.base)) s
            onSub s fe slot packet j (fun _ => .grid l placed ended true)
          else s
        | _ => s
      | _, _ => s
    | _ => s)

/-! ### Compaction (R351) -/

/-- The pools for whose compactor an allocation waits: the oldest claim of a team whose pool and free granules suffice, with its group, and
the next placement of a grid whose counts suffice (R346, R351, R352). -/
def claimPools (s : State) : List (PoolAt × Nat) :=
  s.teams.filterMap (fun p =>
    match p.2.claims with
    | [] => none
    | cl :: _ =>
      match mget s.groups cl.gid with
      | some g =>
        if decide (cl.gran ≤ p.2.pool) && (claimBlocks s p.1 p.2 cl).isNone &&
            (alloc 64 (vectorUsed s g.core g.subp (some p.1)) cl.gran).isSome then some ((.vector, g.core, g.subp), cl.gid)
        else none
      | none => none)
def placePools (s : State) : List PoolAt :=
  s.frontEnds.flatMap (fun f => f.2.slots.flatMap (fun p => p.2.bundles.flatMap (fun b => b.subs.zipIdx.filterMap (fun y =>
    match y.1 with
    | .grid l placed _ _ =>
      (nextPlan s f.2 p.2 l placed).bind (fun ps =>
        match seatMany f.1 p.1 b.index y.2 f.2.part p.2.world l ps placed s with
        | .error e => some e
        | .ok _ => none)
    | _ => none))))

/-- The first block of a map that may move, given with the granules that stand before it in the map, and that has a free place of its size
below it: the map with it moved, and its size. -/
def moveDown (size : Nat) (used map : List (Nat × Nat)) (may : Nat → Nat → Bool) : Option (List (Nat × Nat) × Nat) :=
  let free := poolFree size used
  let before := (map.foldl (fun (x : List ((Nat × Nat) × Nat) × Nat) b => (x.1 ++ [(b, x.2)], x.2 + b.2)) ([], 0)).1
  before.findSome? (fun p =>
    let b := p.1
    if !may p.2 b.2 then none
    else
      match pieceBlock (free.filter (fun x => decide (x.1 < b.1))) b.2 with
      | some a => if a < b.1 then some (map.map (fun x => if x = b then (a, b.2) else x), b.2) else none
      | none => none)

/-- Fewer blocks for what a map holds, if there are such. -/
def fewerBlocks (size : Nat) (used map : List (Nat × Nat)) : Option (List (Nat × Nat) × Nat) :=
  match alloc size (used.filter (fun b => !map.contains b)) (granules map) with
  | some m => if m.length < map.length then some (m, granules map) else none
  | none => none

/-- Whether a load, a copy, a matrix operation or a drain of a group has some granules of one of its maps as a target (R351): registers,
tiles or accumulators from `lo`, `n` of them. -/
def targeted (g : Group) (kind : PoolKind) (lo n : Nat) : Bool :=
  let meets (a k : Nat) : Bool := rangesMeet a k lo n
  match kind with
  | .vector =>
    g.flights.any (fun x => !x.uniform && !x.noWrite && (x.dest.map (fun d => meets d (max 1 (x.size / 4)))).getD false) ||
      g.spWaits.any (fun x => !x.uniform && !x.noWrite && (x.dest.map (fun d => meets d (max 2 (x.size / 4)))).getD false) ||
      (g.lr.map (fun j => !j.noWrite && meets j.dest 2)).getD false ||
      g.windows.any (fun w => !w.done && (meets w.areg w.na || meets w.sar w.nsar))
  | .tile => (g.spWaits.any (fun x => x.lane.isNone)) || g.windows.any (fun w => !w.done && (meets w.bt w.nbt || meets w.sbt w.nsbt))
  | .accumulator => (g.spWaits.any (fun x => x.lane.isNone)) || g.windows.any (fun w => !w.done && meets w.acc w.nt)
  | .scratchpad => false

/-- The owning group stays not ready for two core clocks a granule (R351). -/
def holdMove (s : State) (gids : List Nat) (n : Nat) : State :=
  gids.foldl (fun s gid => onGroup s gid (fun g => { g with holds := .until (s.clock + 2 * n) :: g.holds })) s

/-- Whether a copy into a team's slot is in flight. -/
def copiesInto (s : State) (tid : Nat) : Bool :=
  s.copies.any (fun p => p.2.team == tid &&
    match p.2.kind with
    | .acp _ _ _ _ _ => true
    | .bulk _ _ store _ _ _ _ => !store)

/-- A block of a group that is not ready moves down in its pool, an allocation of which waits (R351); the blocks of the group that asks are
replaced by fewer where that can be. -/
def compactGroup (s : State) (kind : PoolKind) (gid : Nat) (g : Group) : State :=
  let pool : PoolAt := (kind, g.core, g.subp)
  let asks := (claimPools s).contains (pool, gid)
  if ready s gid g || g.resume.isSome || !((claimPools s).any (fun p => p.1 == pool) || (placePools s).contains pool) then s
  else
    let (size, unit, used, map) := match kind with
      | .vector => (64, 8, vectorUsed s g.core g.subp (some g.team), g.vmap)
      | .tile => (8, 4, tileUsed s g.core g.subp, g.tmap)
      | _ => (8, 4, accUsed s g.core g.subp, g.amap)
    let may (lo n : Nat) : Bool := !targeted g kind (unit * lo) (unit * n)
    match (if asks && may 0 (granules map) then fewerBlocks size used map else none).or (moveDown size used map may) with
    | none => s
    | some (m, n) =>
      let put (g : Group) : Group := match kind with
        | .vector => { g with vmap := m }
        | .tile => { g with tmap := m }
        | _ => { g with amap := m }
      serveAll (holdMove (onGroup s gid put) [gid] n)

/-- COMPACTOR_MOVE (R351): a block of a group, or of the slot of its team, moves while an allocation waits for it. -/
def execCompactorMove (kind : PoolKind) (gid : Nat) (s : State) : Out :=
  .next (match mget s.groups gid with
    | none => s
    | some g =>
      match mget s.teams g.team with
      | none => s
      | some t =>
        match kind with
        | .scratchpad =>
          if (placePools s).contains (.scratchpad, t.core, t.world) && !copiesInto s g.team &&
              t.groups.all (fun x => ((mget s.groups x).map (fun y => !ready s x y && y.resume.isNone || y.live == 0#32)).getD true) then
            match moveDown (slotPool s t.core t.world) (slotUsed s t.core t.world) t.smap (fun _ _ => true) with
            | some (m, n) => holdMove (onTeam s g.team (fun t => { t with smap := m })) t.groups n
            | none => s
          else s
        | kind => compactGroup s kind gid g)

end Sys2Proof.Machine
end

