-- ==== Sys2Proof/Machine/Queue.lean ====
section
/-! DEFINITION. Queues: mapping (R333, R443), doorbells (R335), packets and bundles (R337 to R343), copy and fill sub-launches (R340),
retirement (R342), and doorbells of the host and of the doorbell frame (R429, R430). -/

namespace Sys2Proof.Machine

/-! ### Requests to the control pair (R391, R432, R433) -/

/-- Put an answer in the mailboxes. -/
def answer (s : State) (a : Asker) (r : Reply) : State := { s with ctl := { s.ctl with replies := (a, r) :: s.ctl.replies } }

/-- Whether the mailboxes are open (R432, R434, R436). -/
def mailboxOpen (s : State) : Bool := decide (6 ≤ s.ctl.boot) && !s.ctl.off

/-- A write request: only the owner's is carried out, and the control pair's own (R433); none in recovery or after a mismatch
(R432, R434). `k` answers. -/
def asOwner (s : State) (a : Asker) (k : State → State) : State :=
  if !mailboxOpen s then s
  else if s.ctl.halted || s.ctl.recovery then answer s a .refused
  else if a = .pair then k s
  else if s.ctl.owner = some a then k { s with ctl := { s.ctl with heard := s.clock } }
  else answer s a .notOwner

/-! ### The front end's own accesses (R333, R336) -/

/-- The agent through whose view a front end reads and writes: the lowest core of its partition's lowest cluster (R336; DESIGN CHOICE, log 14). -/
def feAgent (x : FrontEnd) : Nat := 4 * x.base

/-- The physical address that some answered needs give an address for a kind. -/
def feMap (ns : List PageNeed) (kind va : Nat) : Nat := (pagesMap (ns.filter (fun n => n.kind == kind)) va).1

/-- The accesses of a front end need translations (R333, R341): with all at hand `k` goes on; with one outstanding the walk requests
stand and nothing else happens; with one failed, or an address outside the space, `bad`. What was answered is kept for the next
attempt if `keep` says so. -/
def withFeKeep (keep : Bool) (s : State) (fe slot : Nat) (vas : List (Nat × Nat)) (bad : State → State)
    (k : State → FrontEnd → Queue → (Nat → Nat → Nat) → State) : State :=
  match mget s.frontEnds fe, queueAt s fe slot with
  | some x, some q =>
    if vas.any (fun p => decide (p.1 ≥ 2 ^ 56)) then bad s
    else
      let firsts := vas.foldl (fun (l : List (Nat × Nat)) p => if l.any (fun y => y.1 / 4096 == p.1 / 4096 && y.2 == p.2) then l else l ++ [p]) []
      let is (n : PageNeed) (p : Nat × Nat) : Bool := n.page == p.1 / 4096 && n.kind == p.2
      let ns := firsts.map (fun p => (q.susp.find? (fun n => is n p)).getD ⟨p.1, p.2, .pending⟩)
      let rest := q.susp.filter (fun n => !firsts.any (is n))
      if ns.any (fun n => n.st == .pending) then onQueue s fe slot (fun q => { q with susp := ns ++ rest })
      else
        let s := if keep then s else onQueue s fe slot (fun q => { q with susp := rest })
        if ns.any (fun n => n.failure.isSome) then bad s else k s x q (feMap ns)
  | _, _ => s
def withFe (s : State) (fe slot : Nat) (vas : List (Nat × Nat)) (bad : State → State)
    (k : State → FrontEnd → Queue → (Nat → Nat → Nat) → State) : State := withFeKeep false s fe slot vas bad k

/-- The answers that a queue has kept are dropped. -/
def Queue.forget (q : Queue) : Queue := { q with susp := q.susp.filter (fun n => n.st == .pending) }

/-- What a front end reads (R336). -/
def feRead (s : State) (x : FrontEnd) (q : Queue) (pa n : Nat) : List Byte := viewRead s (feAgent x) q.world pa n

/-- A front end's use of bytes that hold an error (R409): the error is reported, and the bundle is discarded (DEDUCED, log 15). -/
def feError (s : State) (fe slot : Nat) (q : Queue) (pa n sub index : Nat) (k : State → State) : State :=
  match readError s q.world pa n with
  | .uncorrectable =>
    let s := if pa < hbmEnd then report s (some q.world) 0x51 7 (stackOf pa) 0x12 else report s (some q.world) 0x51 8 (cxlPort pa) 0x13
    stopQueue s fe slot 5 sub index
  | .integrity => stopQueue (report s (some q.world) 0x52 7 (stackOf pa) 0) fe slot 5 sub index
  | .corrected => k (noteCorrection s (some q.world) 7 (stackOf pa) 0x12)
  | .clean => k s

/-- Packet `i` of a queue (R334). -/
def packetAddr (q : Queue) (i : Nat) : Nat := q.q + 64 + 64 * (i % 2 ^ q.n)

/-! ### Mapping (R333, R429, R443) -/

/-- The doorbell indices in use for a function. -/
def bellsOf (s : State) (fn : Nat) : List Nat :=
  s.frontEnds.flatMap (fun x => x.2.slots.filterMap (fun p => if p.2.fn = fn then some p.2.bell else none))

/-- The lowest doorbell index that no mapped queue of a function holds (R429). -/
def freeBell (s : State) (fn : Nat) : Option Nat := (List.range 16).find? (fun i => !(bellsOf s fn).contains i)

/-- A queue as it is mapped, before RPTR has been read. -/
def Queue.fresh (q n world space fn bell : Nat) : Queue where
  q := q
  n := n
  world := world
  space := space
  fn := fn
  bell := bell
  rptr := 0
  wptr := 0
  next := 0
  code := 0
  sub := 0
  failAt := 0
  rung := 0
  waiting := none
  bundles := []
  stopping := .run
  started := false
  susp := []
  nops := []
  saved := []
  dried := false

/-- The front end reads RPTR, starts from it and writes STATUS := 0 (R443). -/
def startQueue (s : State) (fe slot : Nat) : State :=
  match queueAt s fe slot with
  | none => s
  | some q =>
    if q.started || q.code ≠ 0 then s
    else
      withFe s fe slot [(q.q, 1), (q.q, 2)] (fun s => stopQueue s fe slot 3 0 q.rptr) fun s x q tr =>
        feError s fe slot q (tr 1 q.q) 64 0 0 fun s =>
          let r := leNat (feRead s x q (tr 1 q.q + 8) 8)
          let s := onQueue s fe slot (fun q => { q with rptr := r, wptr := r, next := r, started := true })
          deviceWrite (fenceFull s (feAgent x) allAgents) q.world (tr 2 q.q + 0x10) (leBytes 4 0)

/-- Whether a mapping is one that the control pair makes (R333, R429). -/
def mapOk (s : State) (x : FrontEnd) (fe slot q n world space fn : Nat) : Bool :=
  x.valid && decide (fe < 16) && decide (slot < 16) && (mget x.slots slot).isNone && decide (4 ≤ n) && decide (n ≤ 16) && q % 4096 == 0 &&
    decide (fn < 64) && ((mget s.spaces space).map (·.world)) == some world && ((mget s.worlds world).map (fun w => (w.part, w.revoking))) == some (x.part, false) &&
    !s.frontEnds.any (fun y => y.2.slots.any (fun p => p.2.q == q && p.2.space == space)) && (freeBell s fn).isSome

/-- QUEUE_MAP (R333, R443): a queue whose state the front end kept goes on from it. -/
def execQueueMap (by_ : Asker) (fe slot q n world space fn : Nat) (s : State) : Out :=
  .next (asOwner s by_ fun s =>
    match mget s.frontEnds fe with
    | none => answer s by_ .refused
    | some x =>
      if !mapOk s x fe slot q n world space fn then answer s by_ .refused
      else
        let bell := (freeBell s fn).getD 0
        let kept := x.kept.find? (fun k => k.2.q == q && k.2.space == space && k.2.n == n && k.2.fn == fn)
        let new := match kept with
          | some k => { k.2 with bell := bell, dried := false }
          | none => Queue.fresh q n world space fn bell
        let s := { s with frontEnds := mput s.frontEnds fe { x with
          slots := mput x.slots slot new, kept := x.kept.filter (fun k => !(k.2.q == q && k.2.space == space)) } }
        -- work of the queue that is resident or saved is named by its slot
        let s := { s with teams := s.teams.map (fun p =>
          if kept.isSome && p.2.fe = fe && some p.2.slot == kept.map (·.1) then (p.1, { p.2 with slot := slot }) else p) }
        startQueue (answer s by_ (.doorbell bell)) fe slot)

/-- The queue leaves its slot, its state kept, with the doorbells that it has not served (R355, R443); that of a queue that has stopped, or
that has not read RPTR, is kept only where it is unmapped for lack of time. -/
def unmapQueue (s : State) (fe slot : Nat) : State :=
  match mget s.frontEnds fe with
  | none => s
  | some x =>
    match mget x.slots slot with
    | none => s
    | some q =>
      { s with frontEnds := mput s.frontEnds fe { x with
        slots := mdel x.slots slot
        kept := if q.dried || (q.started && q.code = 0) then x.kept ++ [(slot, { q with stopping := .run, susp := [] })] else x.kept } }

/-- Issue stops in a context that is to be saved (R368); a trailing team goes on while an entry of its leading team has no match (R371,
`trailsOn`). -/
def beginSave (s : State) (fe slot : Nat) (unmap : Bool) : State :=
  let s := onQueue s fe slot (fun q => { q with stopping := .save unmap })
  stopIssue s ((contextTeams s fe slot).map (·.1))

/-- Unmap a queue: at once when nothing of it is resident, else after its context is saved (R355). -/
def unmapOrSave (s : State) (fe slot : Nat) : State :=
  if (contextTeams s fe slot).isEmpty then unmapQueue s fe slot else beginSave s fe slot true

/-- QUEUE_UNMAP (R355). -/
def execQueueUnmap (by_ : Asker) (fe slot : Nat) (s : State) : Out :=
  .next (asOwner s by_ fun s =>
    match queueAt s fe slot with
    | none => answer s by_ .refused
    | some q => if q.stopping = .run then answer (unmapOrSave s fe slot) by_ .done else answer s by_ .refused)

/-! ### Doorbells (R335, R429, R430) -/

/-- A doorbell is rung. (DEDUCED, log 67.) -/
def ring (s : State) (fe slot : Nat) : State := onQueue s fe slot (fun q => { q with rung := q.rung + 1 })

/-- DOORBELL (R335): of the front end and slot that `args` gives. -/
def execDoorbell (s : State) : Out :=
  .next (match s.args with
    | [fe, slot] =>
      let s := startQueue s fe slot
      match queueAt s fe slot with
      | none => s
      | some q =>
        if q.rung = 0 || !q.started then s
        else if q.code ≠ 0 then onQueue s fe slot (fun q => { q with rung := 0 })
        else
          withFe s fe slot [(q.q, 1)] (fun s => stopQueue s fe slot 3 0 q.next) fun s x q tr =>
            feError s fe slot q (tr 1 q.q) 8 0 q.next fun s =>
              let w := leNat (feRead s x q (tr 1 q.q) 8)
              let s := onQueue s fe slot (fun q => { q with rung := q.rung - 1 })
              if w > q.rptr + 2 ^ q.n || w < q.rptr || w < q.wptr then stopQueue s fe slot 6 0 q.next
              else onQueue s fe slot (fun q => { q with wptr := w })
    | _ => s)

/-- The queue of a function that holds a doorbell index (R429). -/
def bellQueue (s : State) (fn i : Nat) : Option (Nat × Nat) :=
  s.frontEnds.findSome? (fun x => (x.2.slots.find? (fun p => p.2.fn == fn && p.2.bell == i)).map (fun p => (x.1, p.1)))

/-- A function with nothing (R353). -/
def Fn.zero : Fn := ⟨.unlocked, none, 0, 0, 0, false, none, none, none, []⟩
def fnOf (s : State) (fn : Nat) : Fn := mval s.fns Fn.zero fn
def onFn (s : State) (fn : Nat) (f : Fn → Fn) : State := { s with fns := mput s.fns fn (f (fnOf s fn)) }

/-- Whether a function's doorbell writes and commits are accepted: a virtual function that is bound to a world only in RUN (R429). -/
def fnAccepted (s : State) (fn : Nat) : Bool := fn == 0 || (fnOf s fn).world.isNone || (fnOf s fn).tdisp == .run

/-- Report a dropped write of a function (R442). -/
def droppedWrite (s : State) (fn sub : Nat) : State := report s (if fn = 0 then none else (fnOf s fn).world) 0x80 11 fn sub

/-- HOST_DOORBELL_WRITE (R429): of the function and doorbell that `args` gives, after the commit that the function has under way. -/
def execHostDoorbellWrite (s : State) : Out :=
  .next (match s.args with
    | [fn, i] =>
      if !mailboxOpen s || s.ctl.halted || (fnOf s fn).commit.isSome then s
      else
        match (if fnAccepted s fn then bellQueue s fn i else none) with
        | some (fe, slot) => ring s fe slot
        | none => droppedWrite s fn (i % 16)
    | _ => s)

/-- Serve an access to a doorbell frame (R430, R442). The ring comes after the writes that the storing core saw (DEDUCED, log 16).
(DEDUCED, log 71.) -/
def serveDoor (s : State) (x : DoorAccess) : State :=
  let off := x.pa % 4096
  let fe := off / 128
  let slot := off / 8 % 16
  let other := if x.store && x.size == 8 then 0 else 2 ^ 8
  let dropped (index sub : Nat) : State := report s (some x.world) 0x80 9 index sub
  if off ≥ 0x800 then dropped 0 (2 ^ 9 + other)
  else if !(x.plain && x.size == 8 && off % 8 == 0) then dropped fe (slot + other)
  else
    match mget s.frontEnds fe, (s.worlds.find? (fun w => w.2.doorFrame / 4096 == x.pa / 4096)) with
    | some f, some (w, wd) =>
      match mget f.slots slot with
      | some q =>
        if f.valid && f.part = wd.part && q.world = w then ring (x.after.foldl (fun s id => reach s id (feAgent f)) s) fe slot else dropped fe slot
      | none => dropped fe slot
    | _, _ => dropped fe slot

/-- DOORBELL_FRAME_STORE (R430): the oldest access that waits. -/
def execDoorbellFrameStore (s : State) : Out :=
  .next (match s.doors with
    | x :: rest => serveDoor { s with doors := rest } x
    | [] => s)

/-! ### Packets (R337 to R339) -/

/-- A parsed packet. -/
structure Packet where
  typ : Nat
  n : Nat
  sigk : Nat
  ord : Bool
  kinds : List Nat
  subs : List Nat
  sigAddr : Nat
  sigVal : W64
  legal : Bool
deriving DecidableEq, Repr

/-- Read a packet and check it (R337, R338). -/
def parsePacket (bs : List Byte) : Packet :=
  let hdr := recNum bs 0 4
  let typ := slice hdr 0 8
  let n := slice hdr 8 3
  let sigk := slice hdr 13 2
  let kinds := (List.range 4).map (fun j => recNum bs (4 + j) 1)
  let subs := (List.range 4).map (fun j => recNum bs (8 + 8 * j) 8)
  let addr := recNum bs 0x28 8
  let subOk (j : Nat) : Bool :=
    let k := kinds.getD j 0
    decide (k ≤ 3) && (if j < n then k != 0 else k == 0 && subs.getD j 0 == 0)
  { typ := typ, n := n, sigk := sigk, ord := hdr.testBit 15, kinds := kinds, subs := subs, sigAddr := addr
    sigVal := BitVec.ofNat 64 (recNum bs 0x30 8)
    legal := slice hdr 16 16 == 0 && slice hdr 11 2 == 0 && recNum bs 0x38 8 == 0 && decide (typ ≤ 2) && sigk != 3 &&
      (if typ = 1 then decide (1 ≤ n) && decide (n ≤ 4) else n == 0) && (List.range 4).all subOk &&
      (sigk == 0 || addr % 8 == 0) && !(typ == 2 && (addr % 8 != 0 || sigk != 0)) }

/-- Whether a queue starts packets: it runs, it has one, no WAIT stands, and its function has time (R339, R355). -/
def starts (s : State) (q : Queue) : Bool :=
  q.started && q.code == 0 && q.stopping == .run && q.waiting.isNone && decide (q.next < q.wptr) && !(fnOf s q.fn).dry && !s.ctl.halted

/-- The next packet of a queue: an illegal one stops the queue (R338), and one of the type asked for goes to `k`. -/
def withPacket (s : State) (fe slot typ : Nat) (k : State → FrontEnd → Queue → Packet → State) : State :=
  match queueAt s fe slot with
  | none => s
  | some q =>
    if !starts s q then s
    else
      withFeKeep true s fe slot [(packetAddr q q.next, 1)] (fun s => stopQueue s fe slot 3 0 q.next) fun s x q tr =>
        let pa := tr 1 (packetAddr q q.next)
        feError s fe slot q pa 64 0 q.next fun s =>
          let p := parsePacket (feRead s x q pa 64)
          if !p.legal then stopQueue s fe slot 1 0 q.next
          else if p.typ = typ then k s x q p
          else s

/-! ### Retirement (R342) -/

/-- Retire packet `index`: a release at `.sys`, its signal, and RPTR. (DEDUCED, log 65.) -/
def retire (s : State) (fe slot index sigk sigAddr : Nat) (sigVal : W64) : State :=
  match queueAt s fe slot with
  | none => s
  | some q =>
    let kind := if sigk = 2 then 0xB else 2
    withFe s fe slot ([(q.q, 2)] ++ (if sigk = 0 then [] else [(sigAddr, kind)])) (fun s => stopQueue s fe slot 3 0 index) fun s x q tr =>
      let s := fenceFull s (feAgent x) allAgents
      let pa := tr kind sigAddr
      let s := match sigk with
        | 1 => deviceWrite s q.world pa (leBytes 8 sigVal.toNat)
        | 2 =>
          let s := flushBytes s pa 8
          deviceWrite s q.world pa (leBytes 8 ((leNat (homePlain s q.world pa 8) + sigVal.toNat) % 2 ^ 64))
        | _ => s
      let s := deviceWrite s q.world (tr 2 q.q + 8) (leBytes 8 (index + 1))
      onQueue s fe slot (fun q => { q with
        rptr := index + 1, bundles := q.bundles.filter (fun b => b.index != index), nops := q.nops.filter (fun x => x.1 != index) })

/-- Whether the retirement of a packet is due: it is the oldest, and its queue works on it. -/
def retires (q : Queue) (index : Nat) : Bool := q.rptr == index && q.works index

/-- NOP_PACKET (R339): the next packet starts, or the oldest, which has nothing to run, retires. -/
def execNopPacket (s : State) : Out :=
  .next (match s.args with
    | [fe, slot] =>
      match (queueAt s fe slot).bind (fun q => (q.nops.find? (fun x => retires q x.1))) with
      | some (index, sigk, addr, val) => retire s fe slot index sigk addr val
      | none =>
        withPacket s fe slot 0 fun s _ q p =>
          let s := onQueue s fe slot (fun q => { q.forget with next := q.next + 1, nops := q.nops ++ [(q.next, p.sigk, p.sigAddr, p.sigVal)] })
          if retires q q.next then retire s fe slot q.next p.sigk p.sigAddr p.sigVal else s
    | _ => s)

/-- WAIT (R339): later packets are held. -/
def execWait (s : State) : Out :=
  .next (match s.args with
    | [fe, slot] =>
      withPacket s fe slot 2 fun s _ _ p => onQueue s fe slot (fun q => { q.forget with waiting := some (p.sigAddr, p.sigVal.toNat) })
    | _ => s)

/-- WAIT_SATISFIED (R339): the awaited value is read; the WAIT retires in its turn. -/
def execWaitSatisfied (s : State) : Out :=
  .next (match s.args with
    | [fe, slot] =>
      match (queueAt s fe slot).bind (fun q => q.waiting.map (fun w => (q, w))) with
      | none => s
      | some (q, (addr, val)) =>
        if q.code ≠ 0 || q.stopping ≠ .run then s
        else
          withFe s fe slot [(addr, 1)] (fun s => stopQueue s fe slot 3 0 q.next) fun s x q tr =>
            feError s fe slot q (tr 1 addr) 8 0 q.next fun s =>
              if leNat (feRead s x q (tr 1 addr) 8) < val then s
              else
                let s := onQueue s fe slot (fun q => { q with waiting := none, next := q.next + 1, nops := q.nops ++ [(q.next, 0, 0, 0#64)] })
                if retires q q.next then retire s fe slot q.next 0 0 0#64 else s
    | _ => s)

/-! ### Bundles (R340, R341, R342) -/

/-- The agent that reads a launch record: a core that runs the grid, the lowest of the world's in the partition (R336; DESIGN CHOICE,
DESIGN CHOICE, log 111). -/
def launchAgent (s : State) (x : FrontEnd) (q : Queue) : Nat := ((worldCores s x.part q.world).min?).getD (feAgent x)

/-- The bytes of a sub-launch's record: a launch record is read by a core of the grid, the others by the front end (R336). -/
def subBytes (s : State) (x : FrontEnd) (q : Queue) (kind pa : Nat) : List Byte :=
  if kind = 1 then viewRead s (launchAgent s x q) q.world pa 256 else feRead s x q pa 64

/-- Read and check a sub-launch's record (R340, R344): none when it is refused. -/
def readSub (s : State) (x : FrontEnd) (q : Queue) (kind addr pa : Nat) (bs : List Byte) : Option Sub :=
  let n0 := recNum bs 0 8
  let n1 := recNum bs 8 8
  let n2 := recNum bs 0x10 8
  let sized (bytes : Nat) : Bool := bytes % 32 == 0 && decide (32 ≤ bytes) && decide (bytes ≤ 2 ^ 40)
  match kind with
  | 1 =>
    let l := parseLaunch addr pa bs
    if launchOk s q.world l bs && placeable s x.part q.world l then some (.grid l 0 0 false) else none
  | 2 =>
    if n0 % 32 == 0 && n1 % 32 == 0 && sized n2 && recNum bs 0x18 40 == 0 && (decide (n0 + n2 ≤ n1) || decide (n1 + n2 ≤ n0)) then
      some (.copy n0 n1 n2 0)
    else none
  | _ => if n0 % 32 == 0 && sized n1 && recNum bs 0x18 40 == 0 then some (.fill n0 n1 (BitVec.ofNat 64 n2) 0) else none

/-- Check the records of a bundle in order (R341): the sub-launches, or the first that fails. -/
def checkSubs (s : State) (x : FrontEnd) (q : Queue) (tr : Nat → Nat → Nat) : List (Nat × Nat) → Nat → Sum Nat (List Sub)
  | [], _ => .inr []
  | (kind, addr) :: rest, j =>
    match readSub s x q kind addr (tr 1 addr) (subBytes s x q kind (tr 1 addr)) with
    | none => .inl j
    | some y =>
      match checkSubs s x q tr rest (j + 1) with
      | .inl k => .inl k
      | .inr ys => .inr (y :: ys)

/-- The size and the alignment of a record (R341). -/
def recSize (kind : Nat) : Nat := if kind = 1 then 256 else 64

/-- The records of a bundle up to `j` are translated one after another, so that a failure names its sub-launch (R341). -/
def withRecords (fe slot index : Nat) : List (Nat × Nat × Nat) → State → (State → State) → State
  | [], s, k => k s
  | (j, kind, addr) :: rest, s, k =>
    if addr % recSize kind ≠ 0 || addr ≥ 2 ^ 56 then stopQueue s fe slot 3 j index
    else
      match (queueAt s fe slot).bind (fun q => q.susp.find? (fun n => n.page == addr / 4096 && n.kind == 1)) with
      | none => onQueue s fe slot (fun q => { q with susp := q.susp ++ [⟨addr, 1, .pending⟩] })
      | some n =>
        match n.st with
        | .pending => s
        | .failed _ _ => stopQueue s fe slot 3 j index
        | .mapped _ _ _ => withRecords fe slot index rest s k

/-- A bundle's records are at hand: it starts, or the queue stops (R341, R342). -/
def startBundle (fe slot : Nat) (q0 : Queue) (p : Packet) (recs : List (Nat × Nat)) (s : State) : State :=
  withFeKeep true s fe slot (recs.map (fun r => (r.2, 1))) (fun s => stopQueue s fe slot 3 0 q0.next) fun s x q tr =>
    match recs.zipIdx.find? (fun r => readError s q.world (tr 1 r.1.2) (recSize r.1.1) == .uncorrectable || readError s q.world (tr 1 r.1.2) (recSize r.1.1) == .integrity) with
    | some r => feError s fe slot q (tr 1 r.1.2) (recSize r.1.1) r.2 q0.next (fun s => s)
    | none =>
      match checkSubs s x q tr recs 0 with
      | .inl j => stopQueue s fe slot 2 j q0.next
      | .inr ys =>
        onQueue s fe slot (fun q => { q.forget with next := q0.next + 1, bundles := q.bundles ++ [⟨q0.next, p.sigk, p.sigAddr, p.sigVal, ys⟩] })

/-- BUNDLE (R340, R341, R342): at most 4 are in flight, and ORD waits for every earlier packet (R338). -/
def execBundle (s : State) : Out :=
  .next (match s.args with
    | [fe, slot] =>
      match queueAt s fe slot with
      | none => s
      | some q0 =>
        withPacket s fe slot 1 fun s _ q p =>
          if q.bundles.length ≥ 4 || (p.ord && q.rptr ≠ q.next) then s
          else
            let recs := (p.kinds.take p.n).zip p.subs
            withRecords fe slot q0.next (recs.zipIdx.map (fun r => (r.2, r.1.1, r.1.2))) s (startBundle fe slot q0 p recs)
    | _ => s)

/-- Whether a sub-launch has ended. -/
def Sub.ended : Sub → Bool
  | .grid _ _ _ done => done
  | .copy _ _ bytes at_ => decide (bytes ≤ at_)
  | .fill _ bytes _ at_ => decide (bytes ≤ at_)

/-- BUNDLE_RETIRE (R342): of the front end and slot that `args` gives. -/
def execBundleRetire (s : State) : Out :=
  .next (match s.args with
    | [fe, slot] =>
      match (queueAt s fe slot).bind (fun q => (q.bundles.find? (fun b => retires q b.index && b.subs.all Sub.ended))) with
      | some b => retire s fe slot b.index b.sigk b.sigAddr b.sigVal
      | none => s
    | _ => s)

/-! ### Copy and fill sub-launches (R340) -/

/-- Up to where a sub-launch moves in one step: the end of its pages. (DEDUCED, log 66.) -/
def chunkOf (left : Nat) (addrs : List Nat) : Nat := addrs.foldl (fun n a => min n (4096 - a % 4096)) left

/-- The sectors of a front end's engine are written one by one (R172, R340). -/
def writeSectors (s : State) (world : Nat) (pa : Nat) (bs : List Byte) : State :=
  if inDoor s pa then toDoor s ⟨world, pa, bs.length, false, false, []⟩
  else (List.range (bs.length / 32)).foldl (fun s i => deviceWrite s world (pa + 32 * i) ((bs.drop (32 * i)).take 32)) s

/-- COPY_SUBLAUNCH (R340): of the front end, slot, packet and sub-launch that `args` gives, the sectors up to the end of a page. -/
def execCopySublaunch (s : State) : Out :=
  .next (match s.args with
    | [fe, slot, packet, j] =>
      match (queueAt s fe slot).bind (fun q => if q.works packet then (subAt q packet j) else none) with
      | some (.copy src dst bytes at_) =>
        let n := chunkOf (bytes - at_) [src + at_, dst + at_]
        if n = 0 then s
        else
          withFe s fe slot [(src + at_, 1), (dst + at_, 2)] (fun s => stopQueue s fe slot 3 j packet) fun s x q tr =>
            let pa := tr 1 (src + at_)
            feError s fe slot q pa n j packet fun s =>
              let s := writeSectors s q.world (tr 2 (dst + at_)) (feRead s x q pa n)
              onSub s fe slot packet j (fun _ => .copy src dst bytes (at_ + n))
      | _ => s
    | _ => s)

/-- FILL_SUBLAUNCH (R340). -/
def execFillSublaunch (s : State) : Out :=
  .next (match s.args with
    | [fe, slot, packet, j] =>
      match (queueAt s fe slot).bind (fun q => if q.works packet then (subAt q packet j) else none) with
      | some (.fill dst bytes pattern at_) =>
        let n := chunkOf (bytes - at_) [dst + at_]
        if n = 0 then s
        else
          withFe s fe slot [(dst + at_, 2)] (fun s => stopQueue s fe slot 3 j packet) fun s _ q tr =>
            let s := writeSectors s q.world (tr 2 (dst + at_)) ((List.range (n / 8)).flatMap (fun _ => leBytes 8 pattern.toNat))
            onSub s fe slot packet j (fun _ => .fill dst bytes pattern (at_ + n))
      | _ => s
    | _ => s)

end Sys2Proof.Machine
end

