-- ==== Sys2Proof/Machine/SaveArea.lean ====
section
/-! DEFINITION. The layout of the context save area (R45, R209, R213, R240, R372 to R375). -/

namespace Sys2Proof.Machine

/-- Zeros up to a multiple of 64 bytes (R372). -/
def pad64 (bs : List Byte) : List Byte := bs ++ List.replicate ((64 - bs.length % 64) % 64) 0#8

/-- Bytes filled with zeros to a length. -/
def padTo (n : Nat) (bs : List Byte) : List Byte := bs ++ List.replicate (n - bs.length) 0#8

/-- A barrier object (R209). -/
def Barrier.image (b : Barrier) : List Byte :=
  leBytes 16 (b.phase + 2 ^ 32 * b.arrived + 2 ^ 48 * b.expect + (if b.auto then 2 ^ 61 else 0) + (if b.v then 2 ^ 62 else 0) + 2 ^ 64 * b.landed + 2 ^ 96 * b.xbytes)

/-- A tag (R213). -/
def Tag.image (t : Tag) : List Byte := leBytes 8 (t.opened + 2 ^ 16 * t.pend + 2 ^ 32 * (t.phase % 2 ^ 16))

/-- The code of a convergence register's state (R240). -/
def CvSt.code : CvSt → Nat
  | .idle => 0
  | .opened => 1
  | .armed => 2
  | .busy => 3

/-- A convergence register (R240). -/
def Conv.image (v : Conv) : List Byte :=
  leBytes 64 (v.phase % 2 ^ 16 + 2 ^ 16 * v.lead + 2 ^ 32 * v.st.code + 2 ^ 64 * v.owner + (if v.ru then 2 ^ 107 else 0) + (if v.za then 2 ^ 108 else 0) +
    2 ^ 109 * v.slotB + 2 ^ 112 * v.slotA + 2 ^ 115 * v.acc + 2 ^ 120 * v.areg + 2 ^ 128 * v.mset.toNat + 2 ^ 160 * v.lmask.toNat +
    2 ^ 192 * v.shape.toNat + 2 ^ 224 * v.boff.toNat + 2 ^ 256 * v.signed.toNat)

/-- The code of a lane's state (R374). -/
def LaneSt.code : LaneSt → Nat
  | .active => 0
  | .blocked => 1
  | .parked => 2
  | .exited => 3

/-- A lane's wait (R374). -/
def waitImage (w : Option Wait) : List Byte :=
  leBytes 8 (match w with
    | none => 0
    | some (.barrier o p _) => o + 2 ^ 29 * 1 + 2 ^ 32 * p
    | some (.tag t p) => t + 2 ^ 29 * 2 + 2 ^ 32 * p
    | some (.pool p) => 2 ^ 29 * 3 + 2 ^ 32 * (p % 2 ^ 32)
    | some (.conv k p _) => k % 16 + 2 ^ 29 * 4 + 2 ^ 32 * p
    | some (.sector sec) => 2 ^ 29 * 5 + 2 ^ 32 * (32 * sec))

/-- A group (R45, R374). -/
def Group.image (g : Group) : List Byte :=
  let per (f : Lane → List Byte) : List Byte := (List.range nLanes).flatMap (fun l => f (g.lane l))
  padTo 0x40 (leBytes 2 g.num ++ leBytes 1 g.role ++ leBytes 1 (g.vcount / 8) ++ leBytes 1 g.tgran ++ leBytes 1 g.agran ++
      leBytes 2 (if g.inHandler = 0#32 then 0 else 1) ++ leBytes 4 g.marks.toNat) ++
    per (fun x => leBytes 8 x.pc.toNat) ++ per (fun x => leBytes 8 x.mr.toNat) ++
    per (fun x => leBytes 2 (x.w + 2 ^ 9 * x.st.code + (if x.h then 2 ^ 11 else 0))) ++ per (fun x => waitImage x.wait) ++
    padTo 64 ((List.range 12).flatMap (fun n => leBytes 4 (mval g.p 0#32 n).toNat)) ++
    padTo 64 (leBytes 4 g.trap.cause.toNat ++ leBytes 4 g.trap.lanes.toNat ++ leBytes 8 g.trap.pc.toNat ++ leBytes 8 g.trap.addr.toNat ++
      leBytes 8 g.trap.info.toNat ++ leBytes 8 g.trap.handler.toNat) ++
    padTo 64 (g.tags.flatMap Tag.image) ++ (List.range 1024).flatMap (fun n => leBytes 4 (uRead g n).toNat) ++
    (List.range g.vcount).flatMap (fun n => (vRow g n).flatMap (fun x => leBytes 4 x.toNat)) ++
    (List.range (4 * g.tgran)).flatMap (fun t => (List.range 1024).map (tileRaw g t)) ++
    (List.range (4 * g.agran)).flatMap (fun a => (accRow g a).flatMap (fun x => leBytes 4 x.toNat))

/-- The presence image of a slot (R373). -/
def presenceImage (t : Team) : List Byte :=
  (List.range ((t.scratch + 255) / 256)).map (fun i =>
    BitVec.ofNat 8 (((List.range 8).map (fun j => if 32 * (8 * i + j) < t.scratch && !t.absent.contains (8 * i + j) then 2 ^ j else 0)).sum))

/-- The images of a team, one after another from an offset: the slot, the barrier area, the group table, the presence image and the
groups; with the offsets of the first four (R373). -/
def teamImages (t : Team) (gs : List Group) (at_ : Nat) : List Byte × (Nat × Nat × Nat × Nat) :=
  let slot := pad64 ((List.range t.scratch).map (memGet t.sp))
  let area := pad64 (t.objs.flatMap Barrier.image)
  let pres := pad64 (presenceImage t)
  let o1 := at_ + slot.length
  let o2 := o1 + area.length
  let table := (8 * gs.length + 63) / 64 * 64
  let o3 := o2 + table
  let imgs := gs.map (fun g => pad64 g.image)
  let offs := (imgs.foldl (fun (x : List Nat × Nat) i => (x.1 ++ [x.2], x.2 + i.length)) ([], o3 + pres.length)).1
  (slot ++ area ++ padTo table (offs.flatMap (leBytes 8)) ++ pres ++ imgs.flatten, (at_, o1, o2, o3))

/-- A team record (R373). -/
def teamRecord (t : Team) (claims : List Nat) (o : Nat × Nat × Nat × Nat) : List Byte :=
  padTo 0xC0 (leBytes 8 t.recAddr ++ leBytes 4 t.x ++ leBytes 4 t.y ++ leBytes 4 t.z ++ leBytes 2 t.ngroups ++ leBytes 2 t.twin ++ leBytes 4 t.pool ++
    leBytes 4 t.scratch ++ leBytes 8 o.1 ++ leBytes 8 o.2.1 ++ leBytes 8 o.2.2.1 ++ leBytes 1 claims.length ++ List.replicate 7 0#8 ++
    claims.flatMap (leBytes 1)) ++ padTo 64 (leBytes 8 o.2.2.2)

/-- The chunk of a bulk copy in which a sector lies (R369). -/
def chunkIndex (off sec : Nat) : Nat := (sec - off / 32) / 128

/-- The replay entries of a copy (R375): one for a transfer, one for each chunk of a bulk copy that has not landed whole. -/
def replayEntries (teams : List Nat) (grp : Nat → Nat) (c : Copy) : List (List Byte) :=
  let ti := (teams.findIdx? (· == c.team)).getD 0
  match c.kind with
  | .acp gid tag _ lane src =>
    [padTo 64 ([1#8] ++ leBytes 1 ti ++ leBytes 1 (grp gid) ++ leBytes 1 lane ++ leBytes 1 tag ++ leBytes 1 ((src.map (·.2.2)).sum) ++ leBytes 2 0 ++
      leBytes 8 ((src.headD (0, 0, 0)).1) ++ leBytes 8 (32 * c.sec))]
  | .bulk gid obj store rec off ks sectors =>
    let k (i : Nat) : Nat := ks.getD i 0
    ((sectors.map (fun q => chunkIndex off q.1)).eraseDups).map (fun ch =>
      padTo 64 ([2#8] ++ leBytes 1 ti ++ leBytes 1 (grp gid) ++ [0#8] ++ leBytes 1 obj ++ leBytes 1 (if store then 1 else 0) ++ leBytes 2 0 ++ leBytes 8 rec ++
        leBytes 8 off ++ leBytes 4 (k 0) ++ leBytes 4 (k 1) ++ leBytes 4 (k 2) ++ leBytes 4 (k 3) ++ leBytes 4 (k 4) ++ leBytes 4 ch))

/-- The replay entries of a group's atomics (R375): one for each lane that was not sent. -/
def atomicEntries (teams : List Nat) (g : Group) : List (List Byte) :=
  let ti := (teams.findIdx? (· == g.team)).getD 0
  g.flights.flatMap (fun x => x.parts.map (fun p =>
    padTo 64 ([3#8] ++ leBytes 1 ti ++ leBytes 1 g.num ++ leBytes 1 p.lane ++ [0#8] ++ leBytes 1 (if x.vals.isEmpty then 1 else 0) ++ leBytes 2 0 ++
      leBytes 8 (p.pieces.headD (0, 0, 0)).1 ++ leBytes 8 (mval x.opsB 0#64 p.lane).toNat ++ leBytes 8 (mval x.opsC 0#64 p.lane).toNat ++ leBytes 8 x.pc.toNat)))

/-- The bytes of the whole area (R372): the header, the team table, the replay table, the convergence table and the images. (DEDUCED,
DEDUCED, log 70.) -/
def saveArea (sv : Saved) : List Byte :=
  let tids := sv.teams.map (·.1)
  let groupsOf (tid : Nat) : List Group := (sv.groups.filter (fun p => p.2.team == tid)).map (·.2)
  let grp (gid : Nat) : Nat := ((sv.groups.find? (fun p => p.1 == gid)).map (·.2.num)).getD 0
  let replays := sv.copies.flatMap (replayEntries tids grp) ++ sv.groups.flatMap (fun p => atomicEntries tids p.2)
  let convs := sv.convs.map (fun p => padTo 128 (p.2.image ++ leBytes 1 (p.1 % 16) ++ leBytes 1 ((tids.findIdx? (· == p.2.team)).getD 0)))
  let oT := 0x100
  let oR := oT + 256 * tids.length
  let oC := oR + 64 * replays.length
  let o0 := oC + 128 * convs.length
  let r := sv.teams.foldl (fun (x : List Byte × List Byte × Nat) p =>
    let im := teamImages p.2 (groupsOf p.1) x.2.2
    (x.1 ++ teamRecord p.2 (p.2.claims.map (fun c => grp c.gid)) im.2, x.2.1 ++ im.1, x.2.2 + im.1.length)) ([], [], o0)
  padTo 0x100 (leBytes 4 1 ++ leBytes 4 tids.length ++ leBytes 2 sv.space ++ leBytes 2 sv.world ++ leBytes 4 sv.gen ++ leBytes 8 r.2.2 ++
    leBytes 4 replays.length ++ leBytes 4 convs.length ++ leBytes 8 oT ++ leBytes 8 oR ++ leBytes 8 oC ++ leBytes 8 sv.clock) ++
    r.1 ++ replays.flatten ++ convs.flatten ++ r.2.1

end Sys2Proof.Machine
end

