-- ==== Sys2Proof/Machine/Context.lean ====
section
/-! DEFINITION. Contexts: pre-emption, the save and the restore (R368 to R377, R394), queue-level reset (R343, R378, R379), the token
buckets (R353 to R355) and answers to page requests (R325 to R327). -/

namespace Sys2Proof.Machine

/-! ### Walks and page requests that are given up (R324, R327) -/

/-- Take some askers out of a request; one that serves nobody is gone. -/
def WalkReq.without (p : Walked → Bool) (r : WalkReq) : Option WalkReq :=
  let who := r.who.filter (fun w => !p w)
  if who.isEmpty then none else some { r with who := who }

/-- Some askers leave a page request (R327): one that then serves nobody is withdrawn and its entry freed, or, where a responder has taken
it, stands until its response is discarded. -/
def PageReq.without (p : Walked → Bool) (q : PageReq) : Option PageReq :=
  match q.req.without p with
  | some r => some { q with req := r }
  | none => if q.taken then some { q with req := { q.req with who := [] }, dead := true } else none

/-- The requests of some askers are aborted or withdrawn, and what they had learned is forgotten. -/
def dropAskers (s : State) (p : Walked → Bool) : State :=
  { s with
    walkq := s.walkq.filterMap (WalkReq.without p)
    walkers := s.walkers.filterMap (fun w =>
      match w.2.req with
      | some r => (r.without p).map (fun r => (w.1, { w.2 with req := some r }))
      | none => some w)
    held := s.held.filterMap (fun h => (h.2.req.without p).map (fun r => (h.1, { h.2 with req := r })))
    pageq := placePages (s.pageq.filterMap (PageReq.without p)) }

/-- Whether an asker is a group of some teams. -/
def askerOf (gids : List Nat) (w : Walked) : Bool :=
  match w with
  | .group g => gids.contains g
  | .frontEnd _ _ => false

/-! ### Quiescence (R369) -/

/-- The groups of some teams. -/
def groupsOf (s : State) (tids : List Nat) : List (Nat × Group) := s.groups.filter (fun p => tids.contains p.2.team)

/-- Whether the lanes of an operation that have not been performed may count as not sent (R369): an atomic outside a twin pair. -/
def Flight.unsent (x : Flight) : Bool :=
  x.twin.isNone && !x.done && x.bad.isEmpty &&
    match x.op with
    | .load => false
    | _ => true

/-- Whether the engines have nothing more to do for some teams: no load or atomic in flight, but, for a save, for those of which lanes may
count as not sent; no invocation, no XOPEN or XSEAL, no LRLOAD, WRLOAD or TLBINV, no hold chain, no BUSY operation (R369, R406).
(DEDUCED, log 97.) -/
def enginesQuiet (s : State) (tids : List Nat) (unsent : Bool) : Bool :=
  (groupsOf s tids).all (fun p =>
    p.2.flights.all (fun x => unsent && x.unsent) && p.2.lr.isNone && !p.2.holds.any Hold.isCrypt && !inChain s p.2 &&
      !s.invs.any (fun i => i.2.gid == p.1) &&
      !p.2.holds.any (fun h => match h with
        | .drops _ => holdStands s p.2 h
        | .walks _ => holdStands s p.2 h
        | _ => false)) &&
    !s.convs.any (fun p => tids.contains p.2.team && p.2.st == .busy)

/-- Whether a context can be saved: besides, no pair operation of it is matched and not performed, no entry of a leading team waits
(R371), and no consumed error is unanswered. (DEDUCED, log 72.) -/
def saveReady (s : State) (ts : List (Nat × Team)) (unsent : Bool) : Bool :=
  enginesQuiet s (ts.map (·.1)) unsent && ts.all (fun p => p.2.answer.isNone) &&
    !s.cmps.any (fun e => ts.any (fun p => p.1 == e.pair) && (e.matched || !e.trailing))

/-- The writes of some cores take their place at their homes (R369). -/
def drainCores (s : State) (cores : List Nat) : State :=
  (s.writes.filter (fun w => !w.home && (match w.core with
    | some k => cores.contains k
    | none => false))).foldl (fun s w => drain s w.id) s

/-- Take teams away with everything that the part holds for them (R378): their groups, copies, entries and requests; their convergence
registers are IDLE. -/
def removeTeams (s : State) (tids : List Nat) : State :=
  let gids := (groupsOf s tids).map (·.1)
  let s := dropAskers s (askerOf gids)
  serveAll { s with
    teams := s.teams.filter (fun p => !tids.contains p.1)
    groups := s.groups.filter (fun p => !tids.contains p.2.team)
    copies := s.copies.filter (fun p => !tids.contains p.2.team)
    cmps := s.cmps.filter (fun e => !tids.contains e.pair)
    shipped := s.shipped.filter (fun p => !gids.contains p.2.gid)
    invs := s.invs.filter (fun p => !gids.contains p.2.gid)
    drops := s.drops.filter (fun d => !gids.contains d.gid)
    convs := s.convs.map (fun p => if tids.contains p.2.team then (p.1, { p.2 with st := .idle }) else p) }

/-! ### The save (R368, R370, R372) -/

/-- A bulk copy as it is to be replayed: every chunk with a sector that has not landed, whole (R370); and how many sectors of those
chunks had landed. -/
def replayCopy (c : Copy) : Copy × Nat :=
  match c.kind with
  | .acp _ _ _ _ _ => (c, 0)
  | .bulk gid obj store rec off ks sectors =>
    let left := c.full.filter (fun q => sectors.any (fun x => chunkIndex off x.1 == chunkIndex off q.1))
    ({ c with kind := .bulk gid obj store rec off ks left }, left.length - sectors.length)

/-- Credits are taken back, modulo 2^32 as they were given (R210, R370). -/
def Barrier.debit (n : Nat) (b : Barrier) : Barrier := { b with landed := (b.landed + 2 ^ 32 - n % 2 ^ 32) % 2 ^ 32 }

/-- What a replayed copy does to the image of its team: credits of its chunks are not counted, and the destination sectors of a load
are absent (R370). -/
def Team.replayed (t : Team) (c : Copy) : Team :=
  match c.kind with
  | .acp _ _ _ _ _ => t
  | .bulk _ obj store _ _ _ _ =>
    let r := replayCopy c
    let t := { t with objs := lupd t.objs obj (Barrier.debit (32 * r.2)) }
    match store, r.1.kind with
    | false, .bulk _ _ _ _ _ _ left => { t with absent := (t.absent ++ left.map (·.1)).eraseDups }
    | _, _ => t

/-- The results of the lanes of an atomic that were performed are captured, and the others are left (R369). -/
def Flight.left (x : Flight) : Flight := { x with parts := x.parts.filter (fun p => (mget x.vals p.lane).isNone) }
def captureAtomic (g : Group) (x : Flight) : Group :=
  x.vals.foldl (fun g p => finishLoad g x.uniform x.noWrite x.sx x.dest x.size x.latch p.1 p.2.toNat) g

/-- A group as it is saved: latches, the A latch, fetched words and a word that waits for its translations are gone (R324, R376). -/
def Group.saved (g : Group) : Group :=
  let g := g.flights.foldl captureAtomic g
  emptyLatches { g with
    flights := g.flights.map Flight.left
    alatch := none, fetched := [], susp := [], resume := none, stopped := true
    holds := g.holds.filter (fun h => match h with
      | .give _ _ => true
      | _ => false) }

/-- The save areas in memory (R372): first byte and length. -/
def savedAreas (s : State) : List (Nat × Nat) :=
  s.frontEnds.flatMap (fun x => (x.2.slots ++ x.2.kept).flatMap (fun p => p.2.saved.map (fun sv => (sv.base, sv.len))))

/-- Where a save area of some bytes goes (R372): the highest frames of HBM4E that lie outside every space's allowance and every other
save area. (DESIGN CHOICE, log 112.) -/
def saveBase (s : State) (n : Nat) : Option Nat :=
  let size := (n + 4095) / 4096 * 4096
  let taken := s.spaces.flatMap (fun p => p.2.exts.filterMap (fun q => if q.2.v then some (4096 * q.2.base, 4096 * q.2.pages) else none)) ++
    (savedAreas s).map (fun a => (a.1, (a.2 + 4095) / 4096 * 4096))
  let fits (a : Nat) : Bool := !taken.any (fun b => decide (a < b.1 + b.2) && decide (b.1 < a + size))
  (((hbmEnd :: (taken.map (·.1)).filter (fun a => decide (a ≤ hbmEnd))).filterMap (fun a => if size ≤ a then some (a - size) else none)).filter fits).max?

/-- The context of a queue as it is saved (R368 to R371), not yet at its place in memory. -/
def savedOf (s : State) (x : FrontEnd) (fe slot : Nat) (q : Queue) : Saved :=
  let ts := contextTeams s fe slot
  let tids := ts.map (·.1)
  let copies := (s.copies.filter (fun p => tids.contains p.2.team)).map (·.2)
  { gen := s.ctl.gen.toNat, part := x.part, partReg := (x.valid, x.base, x.limit), space := q.space, world := q.world, clock := s.clock
    teams := ts.map (fun p => (p.1, (copies.filter (fun c => c.team == p.1)).foldl Team.replayed p.2))
    groups := (groupsOf s tids).map (fun p => (p.1, p.2.saved))
    copies := copies.map (fun c => (replayCopy c).1)
    convs := s.convs.filter (fun p => tids.contains p.2.team && (p.2.st == .opened || p.2.st == .armed))
    base := 0, len := 0, order := s.fresh
    seen := (groupsOf s tids).flatMap (fun p => (visibleTo s p.2.core).map (fun id => (p.1, id))) }

/-- Save the context of a queue and free its resources (R368 step 3): the area is written under the world's key (R372). -/
def saveContext (s : State) (x : FrontEnd) (fe slot : Nat) (q : Queue) : State :=
  let tids := (contextTeams s fe slot).map (·.1)
  let s := drainCores s ((groupsOf s tids).map (·.2.core)).eraseDups
  let sv := savedOf s x fe slot q
  let area := saveArea sv
  match saveBase s area.length with
  | none => s
  | some base =>
    let s := deviceWrite { s with fresh := s.fresh + 1 } q.world base area
    onQueue (removeTeams s tids) fe slot (fun q => { q with saved := q.saved ++ [{ sv with base := base, len := area.length }] })

/-- PREEMPT (R368): at the owner's request, or the control pair's own. -/
def execPreempt (by_ : Asker) (fe slot : Nat) (s : State) : Out :=
  .next (asOwner s by_ fun s =>
    match queueAt s fe slot with
    | none => answer s by_ .refused
    | some q => if q.stopping = .run then answer (beginSave s fe slot false) by_ .done else answer s by_ .refused)

/-- ENGINE_QUIESCED (R369): of the front end and slot that `args` gives, whose context is to be saved; with a third argument, lanes of
atomics that have not been performed have not been sent. -/
def execEngineQuiesced (s : State) : Out :=
  .next (match s.args with
    | fe :: slot :: more =>
      match mget s.frontEnds fe, queueAt s fe slot with
      | some x, some q =>
        match q.stopping with
        | .save unmap =>
          let ts := contextTeams s fe slot
          if !saveReady s ts !more.isEmpty then s
          else
            let s := if ts.isEmpty then s else saveContext s x fe slot q
            if !(contextTeams s fe slot).isEmpty then s
            else
              let s := onQueue s fe slot (fun q => { q with stopping := .run })
              if unmap then unmapQueue s fe slot else s
        | _ => s
      | _, _ => s
    | _ => s)

/-! ### The restore (R376, R377, R394) -/

/-- The seat of a saved team: its groups that have not exited, with the granules they hold; the members of each convergence register
stand together (R377). -/
def Saved.seat (sv : Saved) (tid : Nat) (t : Team) : Seat × List Nat :=
  let live := sv.groups.filter (fun p => p.2.team == tid && p.2.live != 0#32)
  let nums := live.map (·.2.num)
  let pos (n : Nat) : Option Nat := nums.findIdx? (· == n)
  let cvs := sv.convs.filter (fun c => c.2.team == tid)
  ({ needs := live.map (fun p => ⟨p.2.role, p.2.vcount / 8, p.2.tgran, p.2.agran⟩)
     pins := cvs.map (fun c => c.2.members.filterMap pos)
     gran := slotGranules t.scratch
     cvs := cvs.filterMap (fun c => ((c.2.members.filterMap pos).head?).map (fun i => (c.1 % 16, i))) }, live.map (·.1))

/-- Plan the teams of a context in order: a trailing team goes with its leading team (R349, R376). `free` says which convergence registers,
by core and number, can be restored (R377). -/
def planSaved (sv : Saved) : List (Nat × Team) → (Nat × Nat → Bool) → Room → Option (List (Nat × Plan))
  | [], _, _ => some []
  | (tid, t) :: rest, free, room =>
    if t.twin = 2 then planSaved sv rest free room
    else
      let x := (sv.seat tid t).1
      let mate := t.mate.bind (fun m => (sv.teams.find? (fun p => p.1 == m)).map (fun p => (m, p.2)))
      match mate with
      | none =>
        match planTeam free x room with
        | some ([p], room) =>
          (planSaved sv rest (fun c => free c && !(x.at_ p).contains c) room).map (fun ps => (tid, p) :: ps)
        | _ => none
      | some (m, u) =>
        let y := (sv.seat m u).1
        match planTwin free x y room with
        | some ([p, q], room) =>
          (planSaved sv rest (fun c => free c && !(x.at_ p ++ y.at_ q).contains c) room).map (fun ps => (tid, p) :: (m, q) :: ps)
        | _ => none

/-- The groups of a saved team go to their places with fresh blocks (R350). -/
def reseatGroups : List (Nat × Group) → List (Nat × Nat × Need) → State → Except PoolAt State
  | (gid, g) :: gs, (core, subp, n) :: ps, s =>
    match groupBlocks s core subp n with
    | .error e => .error e
    | .ok (vm, tm, am) =>
      let age := (subpAt s core subp).nextAge
      -- a group with an atomic still to return is not ready until its result is written
      let g := { g with
        core := core, subp := subp, age := age, waitCount := 0, vmap := vm, tmap := tm, amap := am, stopped := false, fij := 0#64, fijCount := 0
        holds := g.flights.map (fun x => .replay x.id) ++ g.holds }
      reseatGroups gs ps (onSubp { s with groups := mput s.groups gid g } core subp (fun x => { x with nextAge := age + 1 }))
  | _, _, s => .ok s

/-- The format slots of a team as they are loaded again from its launch record (R45): where the record has changed since it was read, each
aligned 8 bytes of it is old or new (R344). Descriptors that no launch accepts are not loaded. (DESIGN CHOICE, log 113.) -/
def reloadSlots (s : State) (fe : Nat) (t : Team) : List (BitVec 32) :=
  let agent := 4 * ((mget s.frontEnds fe).map (·.base)).getD 0
  let new := recSlots (List.replicate 0x30 0#8 ++ viewRead s agent t.world (t.recPa + 0x30) 32)
  let fs := t.fs.zipIdx.map (fun p => let x := new.getD p.2 p.1; if x = p.1 || !Config.takesNew s.free (t.recPa / 8 + p.2 / 2) then p.1 else x)
  if fs.all formatOk then fs else t.fs

/-- One team becomes resident again (R161, R376). -/
def reseatTeam (sv : Saved) (fe slot : Nat) (s : State) (tid : Nat) (t : Team) (p : Plan) : Except PoolAt State :=
  match slotBlocks s p.core sv.world p.gran with
  | .error e => .error e
  | .ok sm =>
    let gone := sv.groups.filter (fun g => g.2.team == tid && g.2.live == 0#32)
    let s := { s with groups := gone.foldl (fun gs g => mput gs g.1 g.2) s.groups }
    let live := sv.groups.filter (fun g => (sv.seat tid t).2.contains g.1)
    (reseatGroups live p.groups s).map (fun s =>
      trimL1 { s with free := s.free + 1, teams := mput s.teams tid { t with
          fe := fe, slot := slot, core := p.core, smap := sm, slotNo := freeSlotNo s p.core, retry := 0, undo := [], landings := [], reserved := []
          imageWait := false, answer := none, starved := 0, fs := reloadSlots s fe t } } p.core sv.world)

/-- The teams of a plan become resident. -/
def reseatAll (sv : Saved) (fe slot : Nat) : List (Nat × Plan) → State → Except PoolAt State
  | [], s => .ok s
  | (tid, p) :: rest, s =>
    match sv.teams.find? (fun x => x.1 == tid) with
    | none => reseatAll sv fe slot rest s
    | some x =>
      match reseatTeam sv fe slot s tid x.2 p with
      | .error e => .error e
      | .ok s => reseatAll sv fe slot rest s

/-- A list in ascending order of a key, equal ones in their order. -/
def sortOn {α : Type} (key : α → Nat) : List α → List α
  | [] => []
  | x :: xs => put x (sortOn key xs)
where
  /-- Put an element before those with no smaller key. -/
  put (x : α) : List α → List α
    | [] => [x]
    | y :: ys => if key x ≤ key y then x :: y :: ys else y :: put x ys

/-- What names a convergence register in a group names it under another key. -/
def Group.rekey (f : Nat → Nat) (g : Group) : Group :=
  { g with
    lanes := g.lanes.map (fun x => { x with wait := x.wait.map (fun w => match w with
      | .conv k ph e => .conv (f k) ph e
      | w => w) })
    windows := g.windows.map (fun w => { w with cv := f w.cv })
    divWait := g.divWait.map (fun d => (f d.1, d.2)) }

/-- The convergence registers of a context are restored under their numbers on the cores of their members (R377), in the order of becoming
ARMED (R241). -/
def reseatConvs (sv : Saved) (s : State) : State :=
  let place (c : Nat × Conv) : Option Nat :=
    (s.groups.find? (fun g => g.2.team == c.2.team && c.2.members.contains g.2.num)).map (fun g => cvKey g.2.core sv.world (c.1 % 16))
  let inOrder := sortOn (fun c => c.2.armedAt) sv.convs
  let s := inOrder.foldl (fun s c =>
    match place c with
    | none => s
    | some key =>
      let own := ((mget s.teams c.2.team).map (·.slotNo)).getD 0
      { s with fresh := s.fresh + 1, convs := mput s.convs key { c.2 with owner := own, armedAt := s.fresh } }) s
  -- the waits and windows of a group name a register where it now is, those of a completed operation too (R247, R250)
  { s with groups := s.groups.map (fun g =>
      if sv.teams.any (fun t => t.1 == g.2.team) then (g.1, g.2.rekey (fun k => cvKey g.2.core sv.world (k % 16))) else g) }

/-- The replay entries are issued in table order (R376 step 4): the copies, then the lanes of atomics that were not sent; an atomic of which
no lane was sent performs its release first. -/
def reissue (s : State) (c : Copy) : State := { s with fresh := s.fresh + 1, copies := mput s.copies s.fresh c }
def reissueAtomics (s : State) (gid : Nat) : State :=
  match mget s.groups gid with
  | none => s
  | some g => g.flights.foldl (fun s x => placeAtomic s gid g.core x.id x.lines x.parts) s

/-- A group that is resident again has seen what it had seen (R196): on its new core, whose L1 keeps nothing of its world.
(DESIGN CHOICE, log 113.) -/
def reseen (sv : Saved) (s : State) (gid : Nat) : State :=
  match mget s.groups gid with
  | none => s
  | some g => (sv.seen.filter (fun p => p.1 == gid)).foldl (fun s p => reach s p.2 g.core) (dropL1 s g.core sv.world)

/-- A refused restore (R377, R394): the save area is erased, and the queue stops. -/
def refuseRestore (s : State) (fe slot : Nat) (world : Nat) (sv : Saved) : State :=
  let s := fillRange s sv.base (sv.base + (sv.len + 4095) / 4096 * 4096)
  let s := onQueue s fe slot (fun q => { q with saved := q.saved.drop 1 })
  stopQueue (report s (some world) 0x73 9 fe 0) fe slot 7 0 0

/-- Which convergence registers can take a saved one (R377): those of the world on a core, and, as things stand, only IDLE ones. -/
def cvFree (s : State) (world : Nat) (idle : Bool) (c : Nat × Nat) : Bool :=
  decide (c.2 < cvCount s c.1 world) && (!idle || (convAt s (cvKey c.1 world c.2)).st == .idle)

/-- Whether the layout refuses a restore (R377, R394): the world's partition or its register has changed, or no placement would exist with
no other context resident. -/
def refuses (s : State) (x : FrontEnd) (world : Nat) (sv : Saved) : Bool :=
  sv.part != x.part || sv.partReg != (x.valid, x.base, x.limit) || ((mget s.worlds sv.world).map (·.part)) != some sv.part ||
    (planSaved sv sv.teams (cvFree s world false) (roomOf s x.part world true)).isNone

/-- What a restore seats, as things stand (R376 step 1): nothing where no placement exists now, and a pool where a map would be too long. -/
def reseat (s : State) (x : FrontEnd) (fe slot : Nat) (sv : Saved) : Option (Except PoolAt State) :=
  (planSaved sv sv.teams (cvFree s sv.world true) (roomOf s x.part sv.world false)).map (fun ps => reseatAll sv fe slot ps s)

/-- Restore the oldest saved context of a queue, once a placement exists (R376, R377); with whether it became resident. -/
def restoreContext (s : State) (x : FrontEnd) (fe slot : Nat) (sv : Saved) : State × Bool :=
  match reseat s x fe slot sv with
  | some (.ok s) =>
    let s := reseatConvs sv s
    let s := sv.groups.foldl (fun s p => reseen sv s p.1) s
    let s := sv.copies.foldl reissue s
    let s := sv.groups.foldl (fun s p => reissueAtomics s p.1) s
    let s := sv.teams.foldl (fun s p => newInterval s p.1) s
    (serveAll (onQueue s fe slot (fun q => { q with saved := q.saved.drop 1, dried := q.dried && !(q.saved.drop 1).isEmpty })), true)
  | _ => (s, false)

/-- The contexts of a function's queues that are mapped again, in the order of their saves (R355): front end, slot and context. -/
def driedContexts (s : State) (fn : Nat) : List (Nat × Nat × Saved) :=
  let all := s.frontEnds.flatMap (fun x => x.2.slots.flatMap (fun p =>
    if p.2.fn = fn && p.2.dried && p.2.stopping = .run && p.2.code = 0 then p.2.saved.map (fun sv => (x.1, p.1, sv)) else []))
  sortOn (fun c => c.2.2.order) all

/-- Restore contexts in order, as far as each is refused or finds a place (R355). -/
def restoreInOrder : List (Nat × Nat × Saved) → State → State
  | [], s => s
  | (fe, slot, sv) :: rest, s =>
    match mget s.frontEnds fe, queueAt s fe slot with
    | some x, some q =>
      if q.code ≠ 0 then restoreInOrder rest s
      else if refuses s x q.world sv then restoreInOrder rest (refuseRestore s fe slot q.world sv)
      else
        match restoreContext s x fe slot sv with
        | (s, true) => restoreInOrder rest s
        | (s, false) => s
    | _, _ => restoreInOrder rest s

/-- RESTORE (R376): of the oldest context of a queue. Contexts that were saved for lack of time come back in the order of their saves
(R355). -/
def execRestore (by_ : Asker) (fe slot : Nat) (s : State) : Out :=
  .next (asOwner s by_ fun s =>
    match mget s.frontEnds fe, queueAt s fe slot with
    | some x, some q =>
      match q.saved with
      | sv :: _ =>
        if q.stopping ≠ .run || q.code ≠ 0 then answer s by_ .refused
        else if q.dried then answer (restoreInOrder (driedContexts s q.fn) s) by_ .done
        else if refuses s x q.world sv then answer (refuseRestore s fe slot q.world sv) by_ .refused
        else answer (restoreContext s x fe slot sv).1 by_ .done
      | [] => answer s by_ .refused
    | _, _ => answer s by_ .refused)

/-! ### Queue-level reset (R343, R378, R379, R441) -/

/-- Whether both Nougat dies are lost (R303). -/
def bothLost (s : State) : Bool := (nougatAt s 0).lost && (nougatAt s 1).lost

/-- The reset's last steps: the report and what the queue forgets. -/
def endReset (s : State) (fe slot : Nat) (q : Queue) : State :=
  let s := if q.code = 5 then report s (some q.world) 0x55 9 fe slot else s
  let s := report s (some q.world) 0x74 9 fe (q.code + 2 ^ 8 * slot)
  let s := dropAskers s (fun w => w == .frontEnd fe slot)
  let s := onQueue s fe slot (fun q => { q with stopping := .run, bundles := [], nops := [], saved := [], waiting := none, susp := [], next := q.rptr })
  if q.dried then unmapQueue s fe slot else s

/-- Carry a reset on (R378): once earlier packets have retired and the engines are quiet, the context is discarded and STATUS is
written with a release. -/
def resetStep (s : State) (fe slot : Nat) : State :=
  match queueAt s fe slot with
  | none => s
  | some q =>
    if q.stopping ≠ .reset then s
    else
      let ts := contextTeams s fe slot
      let tids := ts.map (·.1)
      if q.bundles.any (fun b => decide (b.index < q.failAt)) || q.nops.any (fun x => decide (x.1 < q.failAt)) || !enginesQuiet s tids false then s
      else
        let s := if ts.isEmpty then s else removeTeams (drainCores s ((groupsOf s tids).map (·.2.core)).eraseDups) tids
        withFe s fe slot [(q.q, 2)] (fun s => endReset s fe slot q) fun s x q tr =>
          let pa := tr 2 q.q
          if bothLost s && homeDie pa ≠ dieOfCore (feAgent x) then endReset s fe slot q
          else
            let s := deviceWrite (fenceFull s (feAgent x) allAgents) q.world (pa + 0x10) (leBytes 4 (q.code + 2 ^ 8 * (q.sub % 2 ^ 8)))
            endReset s fe slot q

/-- QUEUE_RESET (R343, R378): begun by a failure, or asked for, with code 7. (DEDUCED, log 91.) -/
def execQueueReset (by_ : Asker) (fe slot : Nat) (s : State) : Out :=
  .next (match queueAt s fe slot with
    | none => s
    | some q =>
      if q.stopping = .reset && by_ = .pair then resetStep s fe slot
      else
        asOwner s by_ fun s =>
          if q.code ≠ 0 then answer s by_ .refused else answer (resetStep (stopQueue s fe slot 7 0 0) fe slot) by_ .done)

/-! ### Engine time (R353 to R355) -/

/-- TOKEN_BUCKET_WRITE (R353): CAP and RATE take effect at the next microsecond boundary, LEVEL at once. (DEDUCED, log 68.) -/
def execTokenBucketWrite (by_ : Asker) (fn : Nat) (fld : BucketField) (value : Int) (s : State) : Out :=
  .next (asOwner s by_ fun s =>
    if fn ≥ 64 then answer s by_ .refused
    else
      answer (onFn s fn (fun f =>
        match fld with
        | .cap => { f with newCap := some (value % 2 ^ 32).toNat }
        | .rate => { f with newRate := some (value % 2 ^ 32).toNat }
        | .level => { f with level := Int.bmod value (2 ^ 56) })) by_ .done)

/-- The sub-partitions that hold a resident group of any context of a function's queues (R354). -/
def busySubps (s : State) (fn : Nat) : Nat :=
  let ours (t : Team) : Bool := ((queueAt s t.fe t.slot).map (·.fn)) == some fn
  ((s.groups.filterMap (fun g =>
    if g.2.live ≠ 0#32 && ((mget s.teams g.2.team).map ours).getD false then some (g.2.core, g.2.subp) else none)).eraseDups).length

/-- A bucket at a boundary (R353, R354): a CAP or RATE written takes effect, with which LEVEL is clamped, and an enabled bucket is
charged and refilled. -/
def Fn.update (f : Fn) (busy : Nat) : Fn :=
  let written := f.newCap.isSome || f.newRate.isSome
  let f := { f with cap := f.newCap.getD f.cap, rate := f.newRate.getD f.rate, newCap := none, newRate := none }
  let f := if written then { f with level := min f.level (256 * f.cap) } else f
  if f.cap = 0 then f else { f with level := min (f.level - 256 * busy + f.rate) (256 * f.cap) }

/-- A function whose bucket has run dry: its queues start nothing more, are saved, and are unmapped once they have quiesced (R355); one that
is being reset is unmapped when that ends. -/
def runDry (s : State) (fn : Nat) : State :=
  let s := onFn s fn (fun f => { f with dry := true })
  s.frontEnds.foldl (fun s x => x.2.slots.foldl (fun s p =>
    if p.2.fn ≠ fn then s
    else
      let s := onQueue s x.1 p.1 (fun q => { q with dried := true })
      match p.2.stopping with
      | .run => unmapOrSave s x.1 p.1
      | .save _ => onQueue s x.1 p.1 (fun q => { q with stopping := .save true })
      | .reset => s) s) s

/-- A function has time: its queues that were unmapped for lack of it are mapped again where they were, or in the lowest free slot, and
their contexts are restored in the order of their saves (R355). (DEDUCED, log 69.) -/
def remapFn (s : State) (fn : Nat) : State :=
  let s := s.frontEnds.foldl (fun s x => x.2.kept.foldl (fun s k =>
    if k.2.fn ≠ fn || !k.2.dried then s
    else
      match mget s.frontEnds x.1, freeBell s fn with
      | some f, some bell =>
        match ((k.1 :: List.range 16).find? (fun i => (mget f.slots i).isNone)) with
        | some slot => { s with frontEnds := mput s.frontEnds x.1 { f with
            slots := mput f.slots slot { k.2 with bell := bell, dried := !k.2.saved.isEmpty }, kept := f.kept.filter (· != k) } }
        | none => s
      | _, _ => s) s) s
  restoreInOrder (driedContexts s fn) s

/-- BUCKET_UPDATE (R354, R355): every 600 core clocks, all functions at once. -/
def execBucketUpdate (s : State) : Out :=
  .next (if s.clock < s.ctl.bucketAt + 600 || s.ctl.halted then s
    else
      let s := { s with ctl := { s.ctl with bucketAt := s.clock }, fns := s.fns.map (fun (p : Nat × Fn) => (p.1, p.2.update (busySubps s p.1))) }
      s.fns.foldl (fun (s : State) (p : Nat × Fn) =>
        if p.2.cap = 0 then s
        else if !p.2.dry && decide (p.2.level ≤ 0) then runDry s p.1
        else if p.2.dry && decide (64 * (p.2.cap : Int) ≤ p.2.level) then remapFn (onFn s p.1 (fun f => { f with dry := false })) p.1
        else if p.2.dry then s
        else remapFn s p.1) s)

end Sys2Proof.Machine
end

