-- ==== Sys2Proof/Machine/Crumb.lean ====
section
/-! DEFINITION. The meanings of the Crumb words (R264 to R271, R315 to R317). -/

namespace Sys2Proof.Machine

/-- The signed immediate s of R264. -/
def imm14 (f : CForm) : W64 := f.imm.signExtend 64

/-- CRUMB_ADD (R264). -/
def execCrumbAdd (f : CForm) (s : State) : Out := crumbAlu f (fun a b => a + b) s

/-- CRUMB_SUB (R264). -/
def execCrumbSub (f : CForm) (s : State) : Out := crumbAlu f (fun a b => a - b) s

/-- CRUMB_MUL (R264). -/
def execCrumbMul (f : CForm) (s : State) : Out := crumbAlu f (fun a b => a * b) s

/-- CRUMB_AND (R264). -/
def execCrumbAnd (f : CForm) (s : State) : Out := crumbAlu f (fun a b => a &&& b) s

/-- CRUMB_OR (R264). -/
def execCrumbOr (f : CForm) (s : State) : Out := crumbAlu f (fun a b => a ||| b) s

/-- CRUMB_XOR (R264). -/
def execCrumbXor (f : CForm) (s : State) : Out := crumbAlu f (fun a b => a ^^^ b) s

/-- The count of a shift (R265). -/
def crumbCount (f : CForm) (b : W64) : Nat := (b + imm14 f).toNat % 64

/-- CRUMB_SHL (R264, R265). -/
def execCrumbShl (f : CForm) (s : State) : Out := crumbAlu f (fun a b => a <<< crumbCount f b) s

/-- CRUMB_SHR (R264, R265). -/
def execCrumbShr (f : CForm) (s : State) : Out := crumbAlu f (fun a b => a >>> crumbCount f b) s

/-- CRUMB_SAR (R264, R265). -/
def execCrumbSar (f : CForm) (s : State) : Out := crumbAlu f (fun a b => a.sshiftRight (crumbCount f b)) s

/-- CRUMB_ROTR (R264, R265). -/
def execCrumbRotr (f : CForm) (s : State) : Out := crumbAlu f (fun a b => a.rotateRight (crumbCount f b)) s

/-- CRUMB_MIN (R264). -/
def execCrumbMin (f : CForm) (s : State) : Out := crumbAlu f (fun a b => if a.sle b then a else b) s

/-- CRUMB_MAX (R264). -/
def execCrumbMax (f : CForm) (s : State) : Out := crumbAlu f (fun a b => if a.sle b then b else a) s

/-- CRUMB_MINZ (R264). -/
def execCrumbMinz (f : CForm) (s : State) : Out := crumbAlu f (fun a b => if a.ule b then a else b) s

/-- CRUMB_MAXZ (R264). -/
def execCrumbMaxz (f : CForm) (s : State) : Out := crumbAlu f (fun a b => if a.ule b then b else a) s

/-- One or zero. -/
def oneIf (b : Bool) : W64 := if b then 1#64 else 0#64

/-- CRUMB_SEQ (R264). -/
def execCrumbSeq (f : CForm) (s : State) : Out := crumbAlu f (fun a b => oneIf (a == b)) s

/-- CRUMB_SLT (R264). -/
def execCrumbSlt (f : CForm) (s : State) : Out := crumbAlu f (fun a b => oneIf (a.slt b)) s

/-- CRUMB_SLTZ (R264). -/
def execCrumbSltz (f : CForm) (s : State) : Out := crumbAlu f (fun a b => oneIf (a.ult b)) s

/-- CRUMB_SEL (R264): the destination keeps its value when c(RA) is zero. -/
def execCrumbSel (f : CForm) (s : State) : Out :=
  withCrumb s fun s e =>
    crumbNext (cPut s e f.rd.toNat (if cReg s e f.ra.toNat ≠ 0#64 then cReg s e f.rb.toNat else cReg s e f.rd.toNat)) e

/-- CRUMB_ADDI (R264). -/
def execCrumbAddi (f : CForm) (s : State) : Out := crumbAlu f (fun a _ => a + imm14 f) s

/-- CRUMB_LI (R264). -/
def execCrumbLi (f : CForm) (s : State) : Out := crumbAlu f (fun _ _ => imm14 f) s

/-- CRUMB_LIH (R264). -/
def execCrumbLih (f : CForm) (s : State) : Out := crumbAlu f (fun a _ => a <<< 14 ||| f.imm.setWidth 64) s

/-- The upset that strikes the next floating-point evaluation of an engine. -/
def crumbStrike (s : State) : Engine → W64
  | .slice k => (sliceAt s k).strike
  | .walker w => (walkerAt s w).strike

/-- An FP32 operation on bits 31:0 of the sources, zero-extended: it is evaluated twice, and a difference, which an upset of one
evaluation makes, is a fault (R266). (DESIGN CHOICE, log 9.) -/
def crumbFp (f : CForm) (op : Nat → Nat → Nat) (s : State) : Out :=
  withCrumb s fun s e =>
    let x := BitVec.ofNat 32 (op (lo32 (cReg s e f.ra.toNat)).toNat (lo32 (cReg s e f.rb.toNat)).toNat)
    if x ≠ x ^^^ lo32 (crumbStrike s e) then crumbFault s e 9 7
    else crumbNext (cPut s e f.rd.toNat (x.setWidth 64)) e

/-- CRUMB_FADD (R266). -/
def execCrumbFadd (f : CForm) (s : State) : Out := crumbFp f (fpAdd fp32 0 false) s

/-- CRUMB_FMIN (R266). -/
def execCrumbFmin (f : CForm) (s : State) : Out := crumbFp f (fpMinMax fp32 false false false) s

/-- CRUMB_FMAX (R266). -/
def execCrumbFmax (f : CForm) (s : State) : Out := crumbFp f (fpMinMax fp32 true false false) s

/-- CRUMB_BF (R267): an offset below 1 is illegal. -/
def execCrumbBf (f : CForm) (s : State) : Out :=
  withCrumb s fun s e =>
    if f.imm.toInt < 1 then crumbFault s e 1 1
    else if cReg s e f.ra.toNat ≠ 0#64 then goTo s e (cIdx s e + f.imm.toInt)
    else crumbNext s e

/-! ### Slice-only words (R268, R269) -/

/-- The width in bytes, and the offset of an access to the clear buffer. -/
def bufWidth (f : CForm) : Nat := 2 ^ slice f.imm.toNat 12 2
def bufOff (s : State) (k : Nat) (f : CForm) : Nat := (cReg s (.slice k) f.rb.toNat + BitVec.ofNat 64 (slice f.imm.toNat 0 7)).toNat

/-- Check an access to the clear buffer (R269). -/
def bufAccess (s : State) (k : Nat) (f : CForm) (act : Nat → State) : State :=
  let o := bufOff s k f
  if o ≥ 128 then sliceFault s k 3 (sliceAt s k).idx
  else if o % bufWidth f ≠ 0 then sliceFault s k 4 (sliceAt s k).idx
  else act o

/-- CRUMB_LDL (R269). -/
def execCrumbLdl (f : CForm) (s : State) : Out :=
  onlySlice s fun s k =>
    bufAccess s k f fun o =>
      let n := bufWidth f
      let x := leNat (((sliceAt s k).buf.drop o).take n)
      let v := if f.imm.getLsbD 11 then sext (8 * n) x else zext (8 * n) x
      crumbNext (cPut s (.slice k) f.rd.toNat v) (.slice k)

/-- Put bytes into a buffer. -/
def bufPut (buf : List Byte) (o : Nat) (bs : List Byte) : List Byte := buf.take o ++ bs ++ buf.drop (o + bs.length)

/-- CRUMB_STL (R269): faults where the header has RO = 1; an offset out of range or misaligned comes first (DESIGN CHOICE, log 109). -/
def execCrumbStl (f : CForm) (s : State) : Out :=
  onlySlice s fun s k =>
    bufAccess s k f fun o =>
      if (sliceAt s k).image.ro then sliceFault s k 5 (sliceAt s k).idx
      else
        let x := cReg s (.slice k) f.ra.toNat
        crumbNext (onSlice s k (fun e => { e with buf := bufPut e.buf o (leBytes (bufWidth f) x.toNat) })) (.slice k)

/-- CRUMB_RETV (R269). -/
def execCrumbRetv (_ : CForm) (s : State) : Out := onlySlice s fun s k => sliceDone s k

/-! ### Walker-only words (R270, R315 to R317) -/

/-- The cores whose threads a walk serves. -/
def walkCores (s : State) (r : WalkReq) : List Nat :=
  r.who.filterMap (fun who =>
    match who with
    | .group gid => (mget s.groups gid).map (·.core)
    | .frontEnd _ _ => none)

/-- The read of a walk (R314, R315): its threads' earlier operations on the bytes are performed first, and their writes take their place
(R194); the threads have then seen what it read. -/
def walkRead (s : State) (r : WalkReq) (a : Nat) : State × W64 :=
  let s := r.who.foldl (fun s who =>
    match who with
    | .group gid => performOverlapping s gid [(0, a, 8)]
    | .frontEnd _ _ => s) s
  let cores := walkCores s r
  let s := (s.writes.filter (fun w => !w.home && w.overlaps a 8 && cores.any (fun k => w.core == some k))).foldl (fun s w => drain s w.id) s
  let s := cores.foldl (fun s k => seeLatest s k r.world [(0, a, 8)]) s
  (s, BitVec.ofNat 64 (leNat (homeRead s r.world a 8)))

/-- CRUMB_LDP (R313, R315). -/
def execCrumbLdp (f : CForm) (s : State) : Out :=
  onlyWalker s fun s w =>
    let e := walkerAt s w
    match e.req with
    | none => s
    | some r =>
      let a := (cReg s (.walker w) f.ra.toNat + imm14 f).toNat
      if e.ldps ≥ 32 then walkerFault s w .walkLimit 2 e.idx 0
      else if !(spaceOf s r.space).exts.any (fun q => q.2.arena && extHolds q.2 a 8) then walkerFault s w .walkError 3 e.idx 0
      else if a % 8 ≠ 0 then walkerFault s w .walkError 4 e.idx 0
      else if readError s r.world a 8 = .uncorrectable || readError s r.world a 8 = .integrity then walkerFault s w .walkError 6 e.idx 0
      else
        let (s, x) := walkRead s r a
        let s := onWalker s w (fun e => { e with ldps := e.ldps + 1 })
        crumbNext (cPut s (.walker w) f.rd.toNat x) (.walker w)

/-- CRUMB_HASH (R270). -/
def execCrumbHash (f : CForm) (s : State) : Out :=
  onlyWalker s fun s w =>
    let e : Engine := .walker w
    let t := cReg s e f.ra.toNat ^^^ (cReg s e f.rb.toNat).rotateRight 29
    let t := t * 0xD6E8FEB86659FD93#64
    crumbNext (cPut s e f.rd.toNat (t ^^^ t >>> 32)) e

/-- CRUMB_BR (R316). -/
def execCrumbBr (f : CForm) (s : State) : Out :=
  onlyWalker s fun s w =>
    let e : Engine := .walker w
    if f.ra = 0#4 || cReg s e f.ra.toNat ≠ 0#64 then goTo s e (cIdx s e + f.imm.toInt) else crumbNext s e

/-- The end of a walk by its own word: the walker is free, and `k` settles the request. -/
def endWalk (s : State) (w : Nat) (k : State → WalkReq → (Nat → W64) → Nat → State) : State :=
  let e := walkerAt s w
  match e.req with
  | none => s
  | some r =>
    let c5 := cReg s (.walker w)
    k (freeWalker s w) r c5 e.idx

/-- CRUMB_MAPOK (R317, R320 to R322). -/
def execCrumbMapok (_ : CForm) (s : State) : Out :=
  onlyWalker s fun s w =>
    endWalk s w fun s r c i => settleVerdict s r (c 5) (c 6) (c 7) i (checkProposal s r.space r.kind (c 5) (c 6) (c 7))

/-- CRUMB_MAPNO (R317, R325). -/
def execCrumbMapno (_ : CForm) (s : State) : Out :=
  onlyWalker s fun s w =>
    endWalk s w fun s r c i =>
      if (c 7).getLsbD 6 then (if r.dropped (r.va / 4096 * 4096) 4096 then requeue s r else askPage s r (c 5) false)
      else failWalk s r .unmapped 1 i 0

/-- CRUMB_MAPFLT (R317, R323). -/
def execCrumbMapflt (_ : CForm) (s : State) : Out :=
  onlyWalker s fun s w => endWalk s w fun s r c i => failWalk s r .walkError 0x10 i (lo32 (c 5)).toNat

end Sys2Proof.Machine
end

