-- ==== Sys2Proof/Machine/Sealing.lean ====
section
/-! DEFINITION. XOPEN and XSEAL (R401 to R406): a world's buffers pass between a transfer extent, whose bytes they move raw, and the
scratchpad under a session slot. -/

namespace Sys2Proof.Machine

/-- An empty session slot, and a slot of a world. -/
def Session.none : Session := ⟨0#256, 0#64, 0#64, 0#32, false, false⟩
def sessionOf (s : State) (world slot : Nat) : Session :=
  match mget s.worlds world with
  | some w => w.sessions.getD slot Session.none
  | none => Session.none

/-- Change a session slot. -/
def onSession (s : State) (world slot : Nat) (f : Session → Session) : State :=
  { s with worlds := mupd s.worlds world (fun w => { w with sessions := lupd w.sessions slot f }) }

/-- Whether a world's interface is locked (R396). -/
def interfaceLocked (s : State) (world : Nat) : Bool :=
  match ((mget s.worlds world).bind (·.fn)).bind (mget s.fns) with
  | some f => f.tdisp == .run
  | none => false

/-- The slot of a handle of a world that holds a key (R389, R403). -/
def handleSlot (s : State) (world : Nat) (h : W32) : Option Nat :=
  let slot := slice h.toNat 10 3
  if h.toNat / 2 ^ 13 = 0 && h.toNat % 2 ^ 10 = world && (sessionOf s world slot).v then some slot else none

/-- The 12-byte IV: a prefix and a counter, big-endian (R403). -/
def sessionIv (pfx : BitVec 32) (ctr : W64) : List Nat := beBytes 4 pfx.toNat ++ beBytes 8 ctr.toNat

/-- Stored bytes as a core sees them, without the transform (R390): the writes visible to it have been applied. -/
def rawView (s : State) (core : Nat) (ps : List (Nat × Nat × Nat)) : List Byte :=
  let s := (s.writes.filter (fun w => w.vis.getLsbD core)).foldl settleWrite s
  ps.flatMap (fun p => homeRaw s p.2.1 p.2.2)

/-- The physical pieces of `n` bytes from an address, page by page. -/
def runPieces (tr : Nat → Nat × Nat) (va n : Nat) : List (Nat × Nat × Nat) :=
  (pagesOf va n).map (fun a => (a, (tr a).1, min (va + n) (a / 4096 * 4096 + 4096) - a))

/-- Stored bytes go to memory in place of the transform (R390, R404): each 16-byte unit is written as the plaintext that the
transform takes to them. -/
def storeRaw (s : State) (core world : Nat) (ps : List (Nat × Nat × Nat)) (bs : List Byte) (after : Before) : State :=
  let units := ps.flatMap (fun p => (List.range (p.2.2 / 16)).map (fun i => p.2.1 / 16 + i))
  units.zipIdx.foldl (fun s u =>
    storeWrite s core world (16 * u.1) (xtsUnit false (worldXts s world) u.1 ((bs.drop (16 * u.2)).take 16)) after) s

/-- The cryptographic step of a group has ended. -/
def leaveCrypt (s : State) (gid : Nat) : State :=
  onGroup s gid (fun g => { g with holds := g.holds.filter (fun h => match h with
    | .crypt _ _ _ _ _ => false
    | _ => true) })

/-- The word ends with its status (R401, R405): the result of an earlier wait, or of its issue. -/
def endStatus (f : SForm) (s : State) (c : Ctx) (st : Nat) : State :=
  let s := leaveCrypt s c.gid
  match mget s.groups c.gid with
  | none => s
  | some g =>
    let x : W32 := BitVec.ofNat 32 st
    endOnce s c (if f.nw then g else uWrite g (uni f f.d) x) true ((List.range nLanes).map (fun l => (l, x.setWidth 64)))

/-- XOPEN writes its sectors and sets their presence bits (R163, R403). -/
def openDeliver (f : SForm) (s : State) (c : Ctx) (tid off run st : Nat) (p : List Byte) : State :=
  let s := spLand (leaveCrypt s c.gid) tid off (p.take run ++ List.replicate (run - p.length) 0#8)
  let s := (sectorsOf off run).foldl (fun s sec => if copyInto s tid sec then s else present s tid sec) s
  endStatus f s c st

/-- The status that an XOPEN has before its cryptographic step (R403), or the slot with which it takes that step. -/
def openStatus (s : State) (world : Nat) (h : W32) (ctr : W64) : Sum Nat Nat :=
  match handleSlot s world h with
  | none => .inl 4
  | some slot =>
    let x := sessionOf s world slot
    if !interfaceLocked s world then .inl 3
    else if x.used && decide (ctr.toNat ≤ x.last.toNat) then .inl 2
    else .inr slot

/-- The leading team keeps the status and the plaintext of an XOPEN for the trailing team, 16 bytes to an entry (R406). -/
def keepOpen (s : State) (gid : Nat) (key : Option Nat) (st : Nat) (p : List Byte) : State :=
  let s := keepResult s gid key 0 (BitVec.ofNat 128 st)
  (List.range ((p.length + 15) / 16)).foldl (fun s i =>
    keepResult s gid key (i + 1) (BitVec.ofNat 128 (leNat ((p.drop (16 * i)).take 16)))) s

/-- The end of an XOPEN's cryptographic step (R403). -/
def openFinish (f : SForm) (s : State) (c : Ctx) (g : Group) (t : Team) (slot : Nat) (ctr : W64) (data : List Byte) (off run : Nat) : State :=
  let x := sessionOf s t.world slot
  let len := data.length - 16
  let (st, p) := match gcmDec x.key (sessionIv x.pfx ctr) [] (data.take len) (data.drop len) with
    | none => (1, [])
    | some p => if interfaceLocked s t.world then (0, p) else (3, [])
  let s := if st = 0 then onSession s t.world slot (fun x => { x with last := ctr, used := true }) else s
  let key := if t.twin = 0 then none else some (2 * (g.pairCount - 1) + 1)
  openDeliver f (keepOpen s c.gid key st p) c g.team off run st p

/-- A word of a session waits while another operation on its slot is under way (R403). -/
def waitSession (s : State) (c : Ctx) (world slot : Nat) : State :=
  onGroup s c.gid (fun g => { g with resume := some c, holds := .session world slot :: g.holds })

/-- A matched XOPEN or XSEAL escapes the interval, whatever its status (R421). -/
def escapeTwin (s : State) (tid : Nat) (role : PairRole) : State := if role = .alone then s else escape s tid

/-- XOPEN once its run is translated (R402, R403). (DEDUCED, log 61.) -/
def openStart (f : SForm) (s : State) (c : Ctx) (g : Group) (t : Team) (cl : Mask) (tr : Nat → Nat × Nat) (h : W32) (len : Nat) (ctr : W64)
    (va off run : Nat) : State :=
  let key := pairKey g t
  let record := laneRecord 0xFF (leBytes 4 h.toNat ++ leBytes 4 len ++ leBytes 8 ctr.toNat ++ leBytes 8 va ++ leBytes 4 off)
  if t.twin ≠ 2 && slotBusy s t.world (slice h.toNat 10 3) then waitSession s c t.world (slice h.toNat 10 3)
  else
    pairOp s c g t [] record key fun s g role =>
      let s := escapeTwin s g.team role
      if role = .trailing then
        let got := (twinResult s c.gid key).getD []
        let p := (List.range (run / 16)).flatMap (fun i => leBytes 16 (mval got 0#128 (i + 1)).toNat)
        openDeliver f s c g.team off run (mval got 0#128 0).toNat p
      else
        let ps := runPieces tr va (len + 16)
        let s := performOverlapping s c.gid ps
        match openStatus s t.world h ctr with
        | .inl st => openDeliver f (keepOpen s c.gid key st []) c g.team off run st []
        | .inr slot =>
          checkedOnce s c t cl ps fun s =>
            let secs := sectorsOf off run
            let s := secs.foldl (fun s sec => clearPresence s g.team sec) (escape s g.team)
            onGroup s c.gid (fun g => { g with resume := some c, holds := .crypt slot ctr (rawView s g.core ps) [] secs :: g.holds })

/-- The end of an XSEAL's cryptographic step (R404). -/
def sealFinish (f : SForm) (s : State) (c : Ctx) (g : Group) (t : Team) (cl : Mask) (slot : Nat) (n : W64) (data : List Byte)
    (ps : List (Nat × Nat × Nat)) : State :=
  let x := sessionOf s t.world slot
  let key := if t.twin = 0 then none else some (2 * (g.pairCount - 1) + 1)
  if !interfaceLocked s t.world then endStatus f (keepResult s c.gid key 0 3#128) c 3
  else
    let e := gcmEnc x.key (sessionIv (x.pfx ^^^ 0x80000000#32) n) [] data
    let after := (lanesOf cl).flatMap (fun l => (g.lane l).fence)
    let s := storeRaw s g.core t.world ps (e.1 ++ e.2 ++ leBytes 8 n.toNat ++ List.replicate 8 0#8) after
    endStatus f (escape (keepResult s c.gid key 0 0#128) g.team) c 0

/-- XSEAL once its run is translated (R402, R404). -/
def sealStart (f : SForm) (s : State) (c : Ctx) (g : Group) (t : Team) (cl : Mask) (tr : Nat → Nat × Nat) (h : W32) (len va off : Nat) : State :=
  let key := pairKey g t
  match absentSector t off len with
  | some sec => blockOnce s c g cl sec true
  | none =>
    if spBad t off len then consumeScratch s c.gid t off cl c.pc t.interval
    else if t.twin ≠ 2 && slotBusy s t.world (slice h.toNat 10 3) then waitSession s c t.world (slice h.toNat 10 3)
    else
      let s := seeBefore (correctScratch s g.team off len) g.core (relsAt t off len)
      let data := spBytes t off len
      let ps := runPieces tr va (len + 32)
      let record := laneRecord 0xFF (leBytes 4 h.toNat ++ leBytes 4 len ++ leBytes 8 va ++ leBytes 4 off ++ data)
      pairOp s c g t (ps.map (fun p => (false, p.2))) record key fun s _ role =>
        let s := escapeTwin s g.team role
        if role = .trailing then endStatus f s c (mval ((twinResult s c.gid key).getD []) 0#128 0).toNat
        else
          let done (st : Nat) : State := endStatus f (keepResult s c.gid key 0 (BitVec.ofNat 128 st)) c st
          match handleSlot s t.world h with
          | none => done 4
          | some slot =>
            let n := (sessionOf s t.world slot).sealNext
            if !interfaceLocked s t.world then done 3
            else if n = BitVec.allOnes 64 then done 5
            else
              let s := performOverlapping (onSession s t.world slot (fun x => { x with sealNext := n + 1 })) c.gid ps
              onGroup s c.gid (fun g => { g with resume := some c, holds := .crypt slot n data ps [] :: g.holds })

/-- XOPEN and XSEAL: the checks of R402, in order, then the first or the second part of the operation. -/
def cryptWord (f : SForm) (sealing : Bool) (s : State) : State :=
  let regs := [(2, uni f f.a), (2, uni f f.a + 1), (2, uni f f.b)] ++ (List.range 4).map (fun i => (2, uni f f.c + i))
  issueWord s f.pg f.pn {} regs fun s c g t cl =>
    if cl = 0#32 then endWord s c g true []
    else
      let gu := onceGroup g c
      let h := uRead gu (uni f f.c)
      let len := (uRead gu (uni f f.c + 1)).toNat
      let ctr := uRead64 gu (uni f f.c + 2)
      let va := (uRead64 gu (uni f f.a)).toNat
      let off := (uRead gu (uni f f.b)).toNat
      let run := 32 * ((len + 31) / 32)
      let total := len + (if sealing then 32 else 16)
      match cryptOf g with
      | some (slot, n, data, ps, _) => if sealing then sealFinish f s c g t cl slot n data ps else openFinish f s c g t slot n data off run
      | none =>
        if len % 16 ≠ 0 || len < 16 || len > 65536 then trapOnce s c cl .address len
        else if va ≥ 2 ^ 56 || va % 16 ≠ 0 then trapOnce s c cl .address va
        else if off % 32 ≠ 0 then trapOnce s c cl .address off
        else if off + run > t.scratch then trapOnce s c cl .scratchBounds off
        else if va + total > 2 ^ 56 then trapOnce s c cl .address (2 ^ 56)
        else
          withPages s c ((lanesOf cl).map (fun l => (l, pagesOf va total))) (if sealing then 2 else 1) fun s g tr =>
            if sealing then sealStart f s c g t cl tr h len va off else openStart f s c g t cl tr h len ctr va off run

/-- XOPEN (R401 to R403). -/
def execXopen (f : SForm) (s : State) : Out := .next (cryptWord f false s)

/-- XSEAL (R401, R402, R404). -/
def execXseal (f : SForm) (s : State) : Out := .next (cryptWord f true s)

end Sys2Proof.Machine
end

