-- ==== Sys2Proof/Machine/World.lean ====
section
/-! DEFINITION. What the control pair does for spaces, worlds and functions: extents (R318, R319), answers to page requests (R326,
R327), spaces (R272, R310), worlds (R384), the layout (R381 to R386, R391), evidence and keys (R392, R393), measured loads (R395),
device interfaces (R396) and revocation (R397). -/

namespace Sys2Proof.Machine

/-- A change that the layout generation counts: every ephemeral key is erased with it (R391, R392). -/
def bumpGen (s : State) : State :=
  { s with
    ctl := { s.ctl with gen := s.ctl.gen + 1#32 }
    worlds := s.worlds.map (fun p => (p.1, { p.2 with ephem := none })) }

/-! ### Extents (R318, R319) -/

/-- Up to where memory is backed without a gap from an address on (R6). -/
def backedUpTo (s : State) (pa : Nat) : Nat :=
  (List.range 4).foldl (fun x p => if cxlBase p ≤ x && x < cxlBase p + mval s.ctl.cxl 0 p then cxlBase p + mval s.ctl.cxl 0 p else x)
    (if pa < hbmEnd then hbmEnd else pa)

/-- Change a space. -/
def onSpace (s : State) (n : Nat) (f : Space → Space) : State := { s with spaces := mupd s.spaces n f }

/-- Whether two extents share a frame, and whether they are the same frames. -/
def extMeets (e x : Extent) : Bool := decide (e.base < x.base + x.pages) && decide (x.base < e.base + e.pages)
def extSame (e x : Extent) : Bool := e.base == x.base && e.pages == x.pages

/-- The extents that a space is to have once its waiting changes take effect (R319). -/
def comingExts (s : State) (space : Nat) (exts : SMap Extent) : List (Nat × Extent) :=
  exts ++ (s.ctl.changes.filter (fun x => x.space == space)).map (fun x => (x.idx, x.ext))

/-- Whether an extent may stand in a space's allowance (R318, R319): backed, and disjoint from every other extent that is valid or about to
be and from every save area (R372), or the same frames as one of another space of its world. -/
def extentOk (s : State) (space idx world : Nat) (e : Extent) : Bool :=
  decide (idx < 64) && decide (1 ≤ e.pages) && decide (e.pages < 2 ^ 40) && decide (e.base < 2 ^ 40) &&
    decide (4096 * (e.base + e.pages) ≤ backedUpTo s (4096 * e.base)) &&
    !(savedAreas s).any (fun a => decide (a.1 < 4096 * (e.base + e.pages)) && decide (4096 * e.base < a.1 + a.2)) &&
    s.spaces.all (fun p => (comingExts s p.1 p.2.exts).all (fun q =>
      !q.2.v || (p.1 == space && q.1 == idx) || !extMeets e q.2 || (p.1 != space && p.2.world == world && extSame e q.2)))

/-- Whether a valid extent of another space of the world is the same frames, and whether it has been filled. -/
def coincident (s : State) (space world : Nat) (e : Extent) : Option Bool :=
  (s.spaces.findSome? (fun p =>
    if p.1 = space || p.2.world ≠ world then none else p.2.exts.find? (fun q => q.2.v && extSame e q.2))).map (fun q => q.2.f)

/-- The world of a space that a request names, if both exist. -/
def spaceWorld (s : State) (space : Nat) : Option Nat :=
  (mget s.spaces space).bind (fun x => if (mget s.worlds x.world).isSome then some x.world else none)

/-- Grant an extent (R319): V, with F clear until the fill ends, or the F of the extent that it coincides with. -/
def grant (s : State) (space idx : Nat) (e : Extent) : Option State :=
  match spaceWorld s space with
  | none => none
  | some w =>
    if ((mget (spaceOf s space).exts idx).map (·.v)).getD false || !extentOk s space idx w e then none
    else
      some (onSpace s space (fun x => { x with exts := mput x.exts idx { e with v := true, f := (coincident s space w e).getD false } }))

/-- EXTENT_GRANT (R319). -/
def execExtentGrant (by_ : Asker) (space idx : Nat) (e : Extent) (s : State) : Out :=
  .next (asOwner s by_ fun s =>
    match grant s space idx e with
    | some s => answer s by_ .done
    | none => answer s by_ .refused)

/-- EXTENT_FILL_DONE (R319): of the space and index that `args` gives. The extents that coincide with it are filled too. -/
def execExtentFillDone (s : State) : Out :=
  .next (match s.args with
    | [space, idx] =>
      match spaceWorld s space, mget (spaceOf s space).exts idx with
      | some w, some e =>
        if !e.v || e.f then s
        else
          let s := fillRange s (4096 * e.base) (4096 * (e.base + e.pages))
          { s with spaces := s.spaces.map (fun p =>
            if p.2.world = w then (p.1, { p.2 with exts := p.2.exts.map (fun q => if q.2.v && extSame e q.2 then (q.1, { q.2 with f := true }) else q) })
            else p) }
      | _, _ => s
    | _ => s)

/-- Every cached translation of a space into some frames is dropped, and suspended accesses forget theirs (R319). -/
def dropFrames (s : State) (space : Nat) (e : Extent) : State :=
  let lo := 4096 * e.base
  let hi := 4096 * (e.base + e.pages)
  let hit (sp frame lsize : Nat) : Bool := sp == space && decide (frame < hi) && decide (lo < frame + 2 ^ lsize)
  let back (n : PageNeed) : PageNeed :=
    match n.st with
    | .mapped frame lsize _ => if hit space frame lsize then { n with st := .pending } else n
    | _ => n
  { s with
    cores := s.cores.map (fun p => (p.1, { p.2 with tlb := p.2.tlb.filter (fun t => !hit t.space t.frame t.lsize) }))
    dies := s.dies.map (fun p => (p.1, { p.2 with tc := p.2.tc.map (fun q => (q.1, q.2.filter (fun t => !hit t.space t.frame t.lsize))) }))
    groups := s.groups.map (fun p => if ((mget s.teams p.2.team).map (·.space)) == some space then (p.1, { p.2 with susp := p.2.susp.map back }) else p)
    frontEnds := s.frontEnds.map (fun p => (p.1, { p.2 with
      slots := p.2.slots.map (fun q => if q.2.space = space then (q.1, { q.2 with susp := q.2.susp.map back }) else q) })) }

/-- Whether an extent holds all of some bytes, as a descriptor to come. -/
def extWouldHold (e : Extent) (pa n : Nat) : Bool := extHolds { e with v := true } pa n

/-- Whether a change of an extent may be made (R319): the arenas of the space keep an extent, and a transfer extent its greatest length
(R390). (DEDUCED, log 75.) -/
def changeOk (s : State) (space idx world : Nat) (e : Extent) : Bool :=
  let sp := spaceOf s space
  let held (pa n : Nat) : Bool := (e.v && extWouldHold e pa n) || sp.exts.any (fun q => q.1 != idx && extHolds q.2 pa n)
  (!e.v || extentOk s space idx world e) && held sp.arena 16384 && held sp.walkerArea 4096 &&
    !(e.v && decide (e.pages > 4194304) && s.worlds.any (fun w => w.2.transfer.any (fun t => t.2 == (space, idx))))

/-- An extent becomes what a change makes it (R319, R391): frames that it gives up keep the form of the world, and frames that it did
not hold are filled. -/
def applyChange (s : State) (x : ExtChange) : State :=
  match spaceWorld s x.space, mget (spaceOf s x.space).exts x.idx with
  | some w, some old =>
    let s := dropFrames s x.space old
    let inside := decide (old.base ≤ x.ext.base) && decide (x.ext.base + x.ext.pages ≤ old.base + old.pages)
    let f := if inside then old.f else (coincident s x.space w x.ext).getD false
    let new := if x.ext.v then some { x.ext with f := f } else none
    let s := { s with former := if old.f then (old.base, old.pages, keyOf s w) :: s.former else s.former }
    let s := onSpace s x.space (fun sp => { sp with exts := match new with
      | some e => mput sp.exts x.idx e
      | none => mdel sp.exts x.idx })
    if s.worlds.any (fun v => v.2.transfer.any (fun t => t.2 == (x.space, x.idx))) then
      let s := if x.ext.v then s
        else { s with worlds := s.worlds.map (fun v => (v.1, { v.2 with transfer := v.2.transfer.filter (fun t => t.2 != (x.space, x.idx)) })) }
      bumpGen s
    else s
  | _, _ => s

/-- EXTENT_CHANGE (R319): the translations into the extent are dropped, the walks of the space that have begun are waited for, and
then the change takes effect. -/
def execExtentChange (by_ : Asker) (space idx : Nat) (e : Extent) (s : State) : Out :=
  .next (match s.ctl.changes.find? (fun x => x.space == space && x.idx == idx) with
    | some x =>
      if stillWalking s x.walks then s
      else
        -- what the conditions were when it was asked for may have passed
        let s := { s with ctl := { s.ctl with changes := s.ctl.changes.filter (fun y => y != x) } }
        if (spaceWorld s space).any (fun w => changeOk s space idx w x.ext) then applyChange s x else s
    | none =>
      asOwner s by_ fun s =>
        match spaceWorld s space, mget (spaceOf s space).exts idx with
        | some w, some old =>
          if !old.v || !changeOk s space idx w e then answer s by_ .refused
          else
            let ids := begunWalks s space
            let s := answer (markWalks (dropFrames s space old) space 0 (2 ^ 64)) by_ .done
            let x : ExtChange := ⟨space, idx, e, ids⟩
            if stillWalking s ids then { s with ctl := { s.ctl with changes := s.ctl.changes ++ [x] } } else applyChange s x
        | _, _ => answer s by_ .refused)

/-! ### Page requests (R325 to R327) -/

/-- Grant every extent of a list, or none. -/
def grantAll : List (Nat × Nat × Extent) → State → Option State
  | [], s => some s
  | (space, idx, e) :: rest, s => (grant s space idx e).bind (grantAll rest)

/-- PAGE_REQUEST_RESPONSE (R326, R327): with its extents, if the request stands in the queue; the response to one that has been withdrawn
since it was taken is discarded. -/
def execPageRequestResponse (by_ : Asker) (part seq : Nat) (granted : Bool) (exts : List (Nat × Nat × Extent)) (s : State) : Out :=
  .next (asOwner s by_ fun s =>
    match s.pageq.find? (fun q => q.part == part && q.seq == seq && q.where_ != 0) with
    | none => answer s by_ .refused
    | some q =>
      let free (s : State) : State := { s with pageq := placePages (s.pageq.filter (fun x => !(x.part == part && x.seq == seq))) }
      if q.dead then answer (free s) by_ .done
      else
        match grantAll (if granted then exts else []) s with
        | none => answer s by_ .refused
        | some s =>
          let s := free (answer s by_ .done)
          if granted then requeue s q.req else failWalk s q.req .unmapped 2 0 0)

/-- A responder takes the page requests that stand in the queue (R326, R327). -/
def takeRequests (s : State) : State := { s with pageq := s.pageq.map (fun q => if q.where_ = 0 then q else { q with taken := true }) }

/-! ### Spaces and worlds -/

/-- The extent of whole frames from an address. -/
def areaExtent (pa n : Nat) : Extent := ⟨pa / 4096, n / 4096, true, true, false, false, 0#3⟩

/-- SPACE_CREATE (R272, R310): its routine arena and walker image area are zero, each in an extent of its own, of indices 62 and 63,
that no mapping can use (DEDUCED, log 17). -/
def execSpaceCreate (by_ : Asker) (space world arenaPa walkerPa : Nat) (s : State) : Out :=
  .next (asOwner s by_ fun s =>
    let a := areaExtent arenaPa 16384
    let b := areaExtent walkerPa 4096
    let free (e : Extent) : Bool := s.spaces.all (fun p => p.2.exts.all (fun q => !q.2.v || !extMeets e q.2))
    if (mget s.spaces space).isSome || space ≥ 2 ^ 16 || (mget s.worlds world).isNone || arenaPa % 16384 ≠ 0 || walkerPa % 4096 ≠ 0 || extMeets a b ||
        !free a || !free b || !extentOk s space 62 world a || !extentOk s space 63 world b then answer s by_ .refused
    else
      let s := fillRange (fillRange s arenaPa (arenaPa + 16384)) walkerPa (walkerPa + 4096)
      answer { s with spaces := mput s.spaces space ⟨world, [(62, a), (63, b)], arenaPa, walkerPa, none⟩ } by_ .done)

/-- WORLD_CREATE (R384, R387, R400, R430). -/
def execWorldCreate (by_ : Asker) (world part : Nat) (test : Bool) (evFrame doorFrame : Nat) (s : State) : Out :=
  .next (asOwner s by_ fun s =>
    if world ≥ 1024 || (mget s.worlds world).isSome || !s.frontEnds.any (fun x => x.2.valid && x.2.part == part) || evFrame % 4096 ≠ 0 ||
        doorFrame % 4096 ≠ 0 || evFrame = doorFrame || evFrame ≥ 2 ^ 52 || doorFrame ≥ 2 ^ 52 then answer s by_ .refused
    else
      let s := bumpGen s
      answer { s with
        ctl := { s.ctl with drawn := s.ctl.drawn + 1 }
        -- every die's key table takes the keys
        dies := (List.range 8).foldl (fun m d => mput m d (let x := dieOf s d; { x with keys := mput x.keys world s.ctl.drawn })) s.dies
        worlds := mput s.worlds world
          { part := part, key := s.ctl.drawn, sessions := List.replicate 8 Session.none, transfer := [], meas := [], evFrame := evFrame
            count := 0, doorFrame := doorFrame, test := test, ephem := none, fn := none, revoking := false } } by_ .done)

/-! ### The layout (R381 to R386, R391) -/

/-- Whether a cluster would belong to the partition of a world. -/
def clusterInWorld (s : State) (world cluster : Nat) : Bool :=
  match mget s.worlds world with
  | some w => s.frontEnds.any (fun x => x.2.valid && x.2.part == w.part && decide (x.2.base ≤ cluster) && decide (cluster ≤ x.2.limit))
  | none => false

/-- Whether every assigned sub-partition and bank lies in its world's partition (R385). -/
def assignmentsOk (s : State) : Bool :=
  s.cores.all (fun c => (c.2.subpWorld ++ c.2.bankWorld).all (fun q => clusterInWorld s q.2 (clusterOf c.1)))

/-- The partitions that front ends serve. -/
def servedParts (s : State) : List Nat := (((s.frontEnds.map (·.2)).filter (·.valid)).map (·.part)).eraseDups

/-- What a partition has whole or in ranges: colours, almanac ways, backstop sets (R293, R300, R382). -/
def Part.ranges (p : Part) : List (Nat × Nat) := [(p.sbase, p.scount), (p.rbase, p.rcount), (p.wayFirst, p.wayCount), (p.bbase, p.bcount)]

/-- Whether two partitions' shares are disjoint. -/
def sharesApart (p q : Part) : Bool := (p.ranges.zip q.ranges).all (fun x => !rangesMeet x.1.1 x.1.2 x.2.1 x.2.2)

/-- The partition registers' conditions (R381), and that the shares of the partitions served are disjoint (R293, R300, R382). -/
def partitionsOk (s : State) : Bool :=
  let fs := (s.frontEnds.map (·.2)).filter (·.valid)
  let ps := servedParts s
  s.frontEnds.all (fun x => decide (x.2.base ≤ x.2.limit) && decide (x.2.limit ≤ 47)) &&
    fs.all (fun x => fs.all (fun y =>
      if x.part = y.part then x.base == y.base && x.limit == y.limit
      else !rangesMeet x.base (x.limit + 1 - x.base) y.base (y.limit + 1 - y.base))) &&
    ps.all (fun p => ps.all (fun q => p == q || sharesApart (partOf s p) (partOf s q)))

/-- The convergence registers that a core's worlds would see (R239). -/
def cvTotal (c : Core) : Nat :=
  let ws := (c.subpWorld.map (·.2)).eraseDups
  (ws.map (fun w =>
    let n := (c.subpWorld.filter (fun q => q.2 == w)).length
    if n = 1 then 1 else n / 2)).sum

/-- Whether the worlds of a core have what they need there (R239, R385, R386). -/
def coreOk (c : Core) : Bool :=
  ((c.subpWorld.map (·.2)).eraseDups).all (fun w => c.bankWorld.any (fun q => q.2 == w) && decide (1 ≤ mval c.portions 0 w)) &&
    decide (cvTotal c ≤ 16) && decide ((c.portions.map (·.2)).sum ≤ 16)

/-- Whether other partitions that are served keep clear of a range. -/
def othersClear (s : State) (part : Nat) (range : Part → Nat × Nat) (a n : Nat) : Bool :=
  (servedParts s).all (fun p => p == part || !rangesMeet a n (range (partOf s p)).1 (range (partOf s p)).2)

/-- Whether no die but the home has anything of a partition's lines, so that its colour can change (DEDUCED, log 18); and the caches without
the partition's lines. -/
def colourIdle (s : State) (part : Nat) : Bool :=
  let mine (line : Nat) : Bool := partOfLine s line == part
  s.dies.all (fun d => !d.2.rdc.any (fun x => mine x.line) && !d.2.l2.any (fun x => mine x.line && x.xp != 0)) &&
    s.nougats.all (fun n => !n.2.waiting.any (fun r => mine r.line)) && !s.msgs.any (fun m => mine m.2.line)
def dropColour (s : State) (part : Nat) : State :=
  let s := (s.dies.flatMap (fun d => d.2.l2.filter (fun x => x.dirty && partOfLine s x.line == part))).foldl (fun s x => writeBack s x.line) s
  { s with dies := s.dies.map (fun d => (d.1, { d.2 with l2 := d.2.l2.filter (fun x => partOfLine s x.line != part) })) }

/-- Whether the almanac entries and the backstop entries of a partition fit its shares. -/
def directoriesFit (s : State) (part : Nat) : Bool :=
  let p := partOf s part
  s.nougats.all (fun n => n.2.alm.all (fun a => a.part != part ||
      decide ((n.2.alm.filter (fun b => b.part == part && almSet b.line == almSet a.line)).length ≤ p.wayCount))) &&
    s.dies.all (fun d => d.2.backstop.all (fun b => partOfLine s (32 * b.region) != part ||
      decide ((d.2.backstop.filter (fun c => backstopSet s (32 * c.region) == backstopSet s (32 * b.region))).length ≤ 8)))

/-- Give a unit to a world or to none. -/
def assignUnit (m : SMap Nat) (k : Nat) (w : Option Nat) : SMap Nat :=
  match w with
  | some w => mput m k w
  | none => mdel m k

/-- A change of the layout (R169, R293, R300, R381 to R386, R390), refused if it breaks a condition. A unit in use is not taken from
its world (DEDUCED, log 18). -/
def relayout (s : State) (c : LayoutChange) : Option State :=
  match c with
  | .partition fe valid part base limit =>
    let x := (mget s.frontEnds fe).getD ⟨false, 0, 0, 0, [], []⟩
    let t := { s with frontEnds := mput s.frontEnds fe { x with valid := valid, part := part, base := base, limit := limit } }
    let used := s.groups.any (fun g => ((mget s.teams g.2.team).map (·.fe)) == some fe)
    if decide (fe < 16) && decide (part < 16) && partitionsOk t && assignmentsOk t && !used then some t else none
  | .colour part sbase scount rbase rcount =>
    if decide (part < 16) && sbase % 24 == 0 && scount % 24 == 0 && rbase % 1024 == 0 && rcount % 1024 == 0 && decide (1 ≤ scount) && decide (1 ≤ rcount) &&
        colourIdle s part && decide (sbase + scount ≤ 384) && decide (rbase + rcount ≤ 16384) && othersClear s part (fun p => (p.sbase, p.scount)) sbase scount &&
        othersClear s part (fun p => (p.rbase, p.rcount)) rbase rcount then
      some (onPart (dropColour s part) part (fun p => { p with sbase := sbase, scount := scount, rbase := rbase, rcount := rcount }))
    else none
  | .ways part first count =>
    if decide (part < 16) && decide (1 ≤ count) && decide (first + count ≤ 16) && othersClear s part (fun p => (p.wayFirst, p.wayCount)) first count then
      let t := onPart s part (fun p => { p with wayFirst := first, wayCount := count })
      if directoriesFit t part then some t else none
    else none
  | .backstop part bbase bcount =>
    if decide (part < 16) && decide (512 ≤ bcount) && decide (bbase + bcount ≤ 8192) && othersClear s part (fun p => (p.bbase, p.bcount)) bbase bcount then
      let t := onPart s part (fun p => { p with bbase := bbase, bcount := bcount })
      if directoriesFit t part then some t else none
    else none
  | .lane lane credits => if lane < 17 then some { s with ctl := { s.ctl with lanes := mput s.ctl.lanes lane credits } } else none
  | .quota part cls ways =>
    if decide (part < 16) && decide (cls < 4) && decide (ways ≤ 16) then some (onPart s part (fun p => { p with quota := mput p.quota cls ways })) else none
  | .subp core subp w =>
    let t := onCore s core (fun c => { c with subpWorld := assignUnit c.subpWorld subp w })
    let used := s.groups.any (fun g => g.2.core == core && g.2.subp == subp && g.2.live != 0#32)
    if decide (core < 192) && decide (subp < 32) && coreOk (coreOf t core) && assignmentsOk t && !used then some t else none
  | .bank core bank w =>
    let t := onCore s core (fun c => { c with bankWorld := assignUnit c.bankWorld bank w })
    let old := mget (coreOf s core).bankWorld bank
    let used := s.teams.any (fun p => p.2.core == core && some p.2.world == old)
    if decide (core < 192) && decide (bank < 32) && coreOk (coreOf t core) && assignmentsOk t && !used then some t else none
  | .portions core w count =>
    -- what overflows a world's portions leaves them
    let t := onCore s core (fun c =>
      let c := { c with portions := if count = 0 then mdel c.portions w else mput c.portions w count }
      { c with icache := trimLines c w c.icache })
    if decide (core < 192) && (mget s.worlds w).isSome && coreOk (coreOf t core) then some t else none
  | .transfer w i space idx =>
    match mget s.worlds w with
    | none => none
    | some x =>
      let e := mget (spaceOf s space).exts idx
      if i ≥ 4 then none
      else if idx ≥ 64 then some { s with worlds := mput s.worlds w { x with transfer := mdel x.transfer i } }
      else if ((e.map (fun e => e.v && decide (e.pages ≤ 4194304))).getD false) && spaceWorld s space == some w then
        some { s with worlds := mput s.worlds w { x with transfer := mput x.transfer i (space, idx) } }
      else none

/-- Whether the layout generation counts a change (R391): quotas of ways and backstop ranges are not in its list. (DEDUCED, log 76.) -/
def countedChange : LayoutChange → Bool
  | .quota _ _ _ => false
  | .backstop _ _ _ => false
  | _ => true

/-- LAYOUT_CHANGE (R391). -/
def execLayoutChange (by_ : Asker) (c : LayoutChange) (s : State) : Out :=
  .next (asOwner s by_ fun s =>
    match relayout s c with
    | some s => answer (if countedChange c then bumpGen s else s) by_ .done
    | none => answer s by_ .refused)

/-! ### Evidence and keys (R392, R393) -/

/-- A digest, a key or a number as bytes, most significant first. -/
def bigBytes (n x : Nat) : List Byte := toBytes (beBytes n x)

/-- The measurements of a world (R392, R395): the walker routines of its spaces, and its measured kernels. -/
def measurements (s : State) (w : Nat) (x : World) : List Meas :=
  (s.spaces.filterMap (fun p => if p.2.world = w then p.2.digest.map (fun d => ⟨1, p.1, 0, d⟩) else none)) ++ x.meas

/-- The registers that the layout digest of evidence covers (R392), each with its kind and its number. (DESIGN CHOICE, log 28.) -/
def layoutRegisters (s : State) : List Nat :=
  s.frontEnds.flatMap (fun x => [0, x.1, x.2.valid.toNat, x.2.part, x.2.base, x.2.limit]) ++
    (List.range 16).flatMap (fun p => let q := partOf s p; [1, p, q.sbase, q.scount, q.rbase, q.rcount]) ++
    s.ctl.lanes.flatMap (fun l => [2, l.1, l.2]) ++
    s.cores.flatMap (fun c => c.2.subpWorld.flatMap (fun q => [3, c.1, q.1, q.2]) ++ c.2.bankWorld.flatMap (fun q => [4, c.1, q.1, q.2]))

/-- The allow-list: at most 64 entries of a BAR offset, a count of registers and a BAR (R398); its bytes, and their digest (R392). -/
def allowEntries : List (Nat × Nat × Nat) := Config.allowList.take 64
def allowBytes : List Byte := allowEntries.flatMap (fun e => leBytes 8 (2 ^ 32 * (e.1 % 2 ^ 32) + 2 ^ 16 * (e.2.1 % 2 ^ 16) + 2 ^ 13 * (e.2.2 % 8)))

/-- The evidence of a world, without its signature (R392). -/
def evidence (s : State) (w : Nat) (x : World) (nonce : BitVec 256) (ephem : Nat) : List Byte :=
  let ms := (measurements s w x).take 96
  leBytes 4 1 ++ leBytes 2 w ++ leBytes 2 ms.length ++ leBytes 4 s.ctl.gen.toNat ++ leBytes 1 x.part ++ List.replicate 3 0#8 ++
    bigBytes 32 nonce.toNat ++ bigBytes 48 Config.firmwareDigest.toNat ++ bigBytes 48 (sha384 allowBytes).toNat ++
    bigBytes 48 (Config.layoutDigest (layoutRegisters s)).toNat ++ bigBytes 97 (Config.ephemPublic ephem).toNat ++ List.replicate 7 0#8 ++
    ms.flatMap (fun m => leBytes 1 m.kind ++ [0#8] ++ leBytes 2 m.space ++ leBytes 4 m.index ++ bigBytes 48 m.digest.toNat)

/-- EVIDENCE_REQUEST (R392): with a fresh ephemeral key pair. (DEDUCED, log 74.) -/
def execEvidenceRequest (by_ : Asker) (world : Nat) (nonce : BitVec 256) (s : State) : Out :=
  .next (asOwner s by_ fun s =>
    match mget s.worlds world with
    | none => answer s by_ .refused
    | some x =>
      let k := s.ctl.drawn
      let body := evidence s world x nonce k
      answer { s with
        ctl := { s.ctl with drawn := k + 1 }
        worlds := mput s.worlds world { x with ephem := some k } } by_ (.bytes (body ++ bigBytes 96 (Config.sign body).toNat)))

/-- The associated data of a secret-bearing message: its bytes 0x00 to 0x77 (R393). -/
def keyAad (m : KeyMsg) : List Nat :=
  leNats 4 m.typ.toNat ++ leNats 2 m.world.toNat ++ leNats 1 m.slot.toNat ++ [0] ++ leNats 4 m.gen.toNat ++ leNats 4 m.pfx.toNat ++
    beBytes 97 m.pub ++ List.replicate 7 0

/-- The key that a message carries, if it opens under the world's ephemeral key (R393). -/
def openKey (m : KeyMsg) (ephem : Nat) : Option (BitVec 256) :=
  (gcmDec (wrapKey (Config.ecdhSecret ephem m.pub)) (beBytes 12 m.iv.toNat) (keyAad m) (bigBytes 32 m.enc.toNat) (bigBytes 16 m.tag.toNat)).map
    (fun p => BitVec.ofNat 256 (beNum (toNats p)))

/-- KEY_INSTALL (R393): after the operation that uses the slot, if one is under way (R403). -/
def execKeyInstall (by_ : Asker) (m : KeyMsg) (s : State) : Out :=
  .next (if slotBusy s m.world.toNat m.slot.toNat then s
    else
      asOwner s by_ fun s =>
        match (mget s.worlds m.world.toNat).bind (·.ephem) with
        | none => answer s by_ .refused
        | some k =>
          if m.typ ≠ 1#32 || m.slot.toNat ≥ 8 || !m.reserved || m.gen ≠ s.ctl.gen then answer s by_ .refused
          else
            match openKey m k with
            | none => answer s by_ .refused
            | some key => answer (onSession s m.world.toNat m.slot.toNat (fun _ => ⟨key, 0#64, 0#64, m.pfx, false, true⟩)) by_ .done)

/-! ### Measured loads (R395) -/

/-- Whether bytes lie in a filled transfer extent of a world. -/
def inTransfer (s : State) (x : World) (pa n : Nat) : Bool :=
  x.transfer.any (fun t => ((mget (spaceOf s t.2.1).exts t.2.2).map (fun e => e.f && extHolds e pa n)).getD false)

/-- MEASURED_LOAD (R395): `len` bytes from a physical address of a transfer extent go to the start of a sealed extent.
(DEDUCED, log 73.) -/
def execMeasuredLoad (by_ : Asker) (world space src len idx : Nat) (s : State) : Out :=
  .next (asOwner s by_ fun s =>
    match mget s.worlds world, mget (spaceOf s space).exts idx with
    | some x, some e =>
      if spaceWorld s space ≠ some world || !e.v || !e.f || !e.sealed || e.rwx.getLsbD 1 || len = 0 || len > 4096 * e.pages || !inTransfer s x src len ||
          (measurements s world x).length ≥ 96 then answer s by_ .refused
      else
        let s := flushBytes s src len
        let bs := homePlain s world src len
        let s := deviceWrite s world (4096 * e.base) bs
        let m : Meas := ⟨2, space, x.meas.length, sha384 bs⟩
        answer { s with worlds := mupd s.worlds world (fun x => { x with meas := x.meas ++ [m] }) } by_ .done
    | _, _ => answer s by_ .refused)

/-! ### Device interfaces (R396) -/

/-- A function's interface changes its state; leaving for CONFIG_UNLOCKED or ERROR is reported to its world (R396; DEDUCED, log 19). -/
def setTdisp (s : State) (fn : Nat) (st : Tdisp) : State :=
  let old := fnOf s fn
  let s := onFn s fn (fun f => { f with tdisp := st })
  match old.world with
  | some w => if old.tdisp ≠ st && (st == .unlocked || st == .error) then report s (some w) 0x72 11 fn 0 else s
  | none => s

/-- INTERFACE_UNLOCKED (R396). -/
def execInterfaceUnlocked (world : Nat) (err : Bool) (s : State) : Out :=
  .next (match (mget s.worlds world).bind (·.fn) with
    | some fn => setTdisp s fn (if err then .error else .unlocked)
    | none => s)

/-- TDISP_BIND (R396). -/
def execTdispBind (by_ : Asker) (world fn : Nat) (s : State) : Out :=
  .next (asOwner s by_ fun s =>
    match mget s.worlds world with
    | none => answer s by_ .refused
    | some x =>
      if fn = 0 || fn ≥ 64 || x.fn.isSome || (fnOf s fn).world.isSome then answer s by_ .refused
      else
        let s := onFn s fn (fun f => { f with world := some world })
        answer (bumpGen { s with worlds := mput s.worlds world { x with fn := some fn } }) by_ .done)

/-! ### Revocation (R397) -/

/-- The queues of a world. -/
def worldQueues (s : State) (w : Nat) : List (Nat × Nat × Queue) :=
  s.frontEnds.flatMap (fun x => x.2.slots.filterMap (fun p => if p.2.world = w then some (x.1, p.1, p.2) else none))

/-- Whether the walks that a queue's front end still waits for are given up: none is queued or running (R327). (DEDUCED, log 87.) -/
def givenUp (s : State) (fe slot : Nat) : Bool :=
  let who : Walked := .frontEnd fe slot
  !s.walkq.any (fun r => r.who.contains who) && !s.walkers.any (fun p => ((p.2.req.map (·.who)).getD []).contains who) &&
    (s.held.any (fun h => h.2.req.who.contains who) || s.pageq.any (fun q => q.req.who.contains who))

/-- Steps 1 and 2 (R397): the queues stop; the groups' walks and page requests are withdrawn, and XOPEN and XSEAL end without effect
(R406). -/
def beginRevoke (s : State) (w : Nat) : State :=
  let s := { s with worlds := mupd s.worlds w (fun x => { x with revoking := true }) }
  let s := (worldQueues s w).foldl (fun s q => stopQueue s q.1 q.2.1 7 0 0) s
  let tids := (s.teams.filter (fun p => p.2.world == w)).map (·.1)
  let s := stopIssue s tids
  let s := dropAskers s (askerOf ((groupsOf s tids).map (·.1)))
  { s with groups := s.groups.map (fun p =>
      if tids.contains p.2.team then (p.1, { p.2 with susp := [], resume := none, holds := p.2.holds.filter (fun h => !h.isCrypt) }) else p) }

/-- A queue of a revoked world that still resets goes on (R378), without its STATUS where a walk for that is given up. -/
def revokeQueue (s : State) (fe slot : Nat) : State :=
  let s := resetStep s fe slot
  match queueAt s fe slot with
  | some q =>
    if q.stopping = .reset && (contextTeams s fe slot).isEmpty && givenUp s fe slot then
      endReset (dropAskers s (fun w => w == .frontEnd fe slot)) fe slot q
    else s
  | none => s

/-- Steps 3 to 6 (R397): caches, arrays and keys lose what they held of the world, its units and extents are released, and the
change is counted and reported. (DEDUCED, log 84.) -/
def endRevoke (s : State) (w : Nat) : State :=
  let spaces := (s.spaces.filter (fun p => p.2.world == w)).map (·.1)
  let mine (sp : Nat) : Bool := spaces.contains sp
  let exts := s.spaces.flatMap (fun p => if p.2.world = w then p.2.exts.filterMap (fun q => if q.2.v && q.2.f then some (q.2.base, q.2.pages, keyOf s w) else none) else [])
  let s := { s with
    cores := s.cores.map (fun c => (c.1, { c.2 with
      tlb := c.2.tlb.filter (fun t => !mine t.space)
      l1 := c.2.l1.filter (fun x => x.world != w)
      icache := c.2.icache.filter (fun x => x.world != w)
      portions := mdel c.2.portions w
      recs := c.2.recs.filter (fun x => !mine x.space)
      subpWorld := c.2.subpWorld.filter (fun q => q.2 != w)
      bankWorld := c.2.bankWorld.filter (fun q => q.2 != w) }))
    dies := s.dies.map (fun d => (d.1, { d.2 with
      tc := d.2.tc.map (fun q => (q.1, q.2.filter (fun t => !mine t.space))), keys := mdel d.2.keys w
      l2 := d.2.l2.filter (fun x => x.world != w), rdc := d.2.rdc.filter (fun x => x.world != w) }))
    stores := s.stores.map (fun x => (x.1, x.2.filter (fun y => !mine y.space)))
    slices := s.slices.map (fun x => (x.1, { x.2 with cache := x.2.cache.filter (fun y => !mine y.space) }))
    walkq := s.walkq.filter (fun r => !mine r.space)
    walkers := s.walkers.filter (fun p => !((p.2.req.map (fun r => mine r.space)).getD false))
    held := s.held.filter (fun h => !mine h.2.req.space)
    pageq := placePages (s.pageq.filter (fun q => !mine q.space))
    drops := s.drops.filter (fun d => !mine d.space)
    doors := s.doors.filter (fun d => d.world != w)
    frontEnds := s.frontEnds.map (fun x => (x.1, { x.2 with slots := x.2.slots.filter (fun q => q.2.world != w), kept := x.2.kept.filter (fun q => q.2.world != w) }))
    fns := s.fns.map (fun f => if f.2.world = some w then (f.1, { f.2 with world := none }) else f)
    ctl := { s.ctl with changes := s.ctl.changes.filter (fun x => !mine x.space) }
    former := exts ++ s.former
    spaces := s.spaces.filter (fun p => p.2.world != w)
    worlds := mdel s.worlds w }
  report (bumpGen s) (some w) 0x71 0 0 0

/-- Carry a revocation on: once no work of the world is left, it ends. -/
def revokeStep (s : State) (w : Nat) : State :=
  let s := (worldQueues s w).foldl (fun s q => revokeQueue s q.1 q.2.1) s
  if (worldQueues s w).any (fun q => q.2.2.stopping != .run) || s.teams.any (fun p => p.2.world == w) then s else endRevoke s w

/-- REVOCATION (R397): asked for by the owner, or by the control pair on its own account (R411), which also carries it on. -/
def execRevocation (by_ : Asker) (world : Nat) (s : State) : Out :=
  .next (match mget s.worlds world with
    | none => asOwner s by_ fun s => answer s by_ .refused
    | some x =>
      if x.revoking then revokeStep s world
      else asOwner s by_ fun s => answer (revokeStep (beginRevoke s world) world) by_ .done)

end Sys2Proof.Machine
end

