-- ==== Sys2Proof/Machine/Reliability.lean ====
section
/-! DEFINITION. Reliability: the scrubber (R380, R412), the compare buffer (R421, R422), rollbacks (R418) and discarded bundles
(R417). -/

namespace Sys2Proof.Machine

/-! ### The scrubber -/

/-- SCRUB (R380, R412): of the 64-byte unit of HBM4E that `args` gives. (DEDUCED, log 85.) -/
def execScrub (s : State) : Out :=
  .next (match s.args with
    | [u] =>
      if 64 * u ≥ hbmEnd || s.ctl.off then s
      else
        let w := ownerOf s (64 * u)
        let bad : State := report s w 0x56 7 (stackOf (64 * u)) 0
        if (mget s.poison (2 * u)).isSome || (mget s.poison (2 * u + 1)).isSome then bad
        else
          match rsRead (mval s.upsets [] u) with
          | .clean => s
          | .corrected => noteCorrection { s with upsets := mdel s.upsets u } w 7 (stackOf (64 * u)) 0x12
          | _ => bad
    | _ => s)

/-! ### Rollbacks -/

/-- Undo one logged change (R418 step 3). -/
def undoEntry (t : Team) (e : UndoEntry) : Team :=
  match e with
  | .slot sec bytes present =>
    { t with
      sp := memPutBytes t.sp (32 * sec) bytes
      absent := if present then t.absent.filter (· != sec) else if t.absent.contains sec then t.absent else sec :: t.absent }
  | .area sec objs => { t with objs := t.objs.take (2 * sec) ++ objs ++ t.objs.drop (2 * sec + objs.length) }

/-- A group as its image has it (R414, R418): FIJ, the order on its sub-partition and the model's counters go on; a context that is to be saved
stays stopped (R368, R371). -/
def imageOf (saving : Bool) (now image : Group) : Group :=
  emptyLatches { image with
    core := now.core, subp := now.subp, age := now.age, waitCount := now.waitCount, fij := now.fij, fijCount := now.fijCount
    latchId := now.latchId, alatch := none, fetched := [], susp := [], flights := [], lr := none, errs := [], starvePend := [], divPend := [], stopped := saving
    regErrs := now.regErrs.filter (fun e => image.regErrs.contains e)
    resume := if image.holds.any Hold.isCrypt then image.resume else none }

/-- A lane that waited for the operation of a convergence register that the image holds waits for it again: PHASE values go on
(R418 step 4). (DEDUCED, log 86.) -/
def rewait (s : State) (t : Team) (g : Group) : Group :=
  { g with lanes := g.lanes.map (fun x => { x with wait := x.wait.map (fun w => match w with
    | .conv k ph e =>
      if t.imageConvs.any (fun c => c.1 == k && c.2.phase == ph) then .conv k (((mget s.convs k).map (·.phase)).getD ph) e else .conv k ph e
    | w => w) }) }

/-- The convergence registers of a team return to their images, or to IDLE; PHASE values keep their counts (R418 step 4). -/
def imageConv (t : Team) (tid : Nat) (p : Nat × Conv) : Nat × Conv :=
  match t.imageConvs.find? (fun c => c.1 == p.1) with
  | some c => (p.1, { c.2 with phase := p.2.phase })
  | none => if p.2.team = tid then (p.1, { p.2 with st := .idle }) else p

/-- A landing of a copy issued before the interval is made again (R418 step 3). -/
def landAgain (s : State) (tid : Nat) (x : Landing) : State :=
  let s := if x.bytes.isEmpty then s
    else
      let s := spLand s tid (32 * x.sec) x.bytes
      if copyInto s tid x.sec then s else present s tid x.sec
  let s := match x.tag with
    | some (tag, batch) => landTag s x.gid tag batch
    | none => s
  match x.obj with
  | some o => updateObj s tid o (Barrier.credit 32)
  | none => s

/-- Roll one team back (R418 steps 3 to 5): a new interval begins, a retry of the old one (R414). -/
def rollTeam (s : State) (tid : Nat) : State :=
  match mget s.teams tid with
  | none => s
  | some t =>
    let s := dropAskers s (askerOf t.groups)
    let saving := (queueAt s t.fe t.slot).any (fun q => match q.stopping with
      | .save _ => true
      | _ => false)
    let s := { s with
      groups := s.groups.map (fun p =>
        match t.imageGroups.find? (fun q => q.1 == p.1) with
        | some q => (p.1, rewait s t (imageOf saving p.2 q.2))
        | none => p)
      convs := s.convs.map (imageConv t tid)
      cmps := s.cmps.filter (fun e => e.pair != tid) }
    let s := onTeam s tid (fun t =>
      { t.undo.foldl undoEntry t with
        pool := t.imagePool, claims := t.imageClaims, undo := [], answer := none, imageWait := false, starved := 0 })
    let s := t.landings.foldl (fun s x => landAgain s tid x) s
    let s := newInterval s tid
    let s := onTeam s tid (fun x => { x with retry := t.retry + 1 })
    t.groups.foldl tryGive s

/-- Whether the engines of some teams have come to rest for a rollback (R418 step 2): copies into the slots have landed. -/
def rollReady (s : State) (tids : List Nat) : Bool :=
  enginesQuiet s tids false && !s.copies.any (fun p => tids.contains p.2.team &&
    match p.2.kind with
    | .acp _ _ _ _ _ => true
    | .bulk _ _ store _ _ _ _ => !store)

/-- The leading team of a pair, or the team. -/
def leadOf (tid : Nat) (t : Team) : Nat := if t.twin = 2 then t.mate.getD tid else tid

/-- The errors that a rollback of a team meets in its image and its undo log (R411): the uncorrectable ones, by array code; single-bit errors
are corrected. -/
def imageHard (s : State) (tid : Nat) : List Nat := ((mget s.teams tid).map (fun t => t.imageErrs.filter (fun e => decide (e < 2 ^ 8)))).getD []
def correctImage (s : State) (tid : Nat) : State :=
  match mget s.teams tid with
  | none => s
  | some t =>
    (t.imageErrs.filter (fun e => decide (2 ^ 8 ≤ e))).foldl (fun s e => noteCorrection s (some t.world) 4 t.core (e % 2 ^ 8))
      (onTeam s tid (fun t => { t with imageErrs := t.imageErrs.filter (fun e => decide (e < 2 ^ 8)) }))

/-- ROLLBACK (R417, R418, R422, R426): of the team that `args` gives, with the other team of its pair. -/
def execRollback (s : State) : Out :=
  .next (match s.args with
    | [tid] =>
      match mget s.teams tid with
      | none => s
      | some t =>
        let tids := tid :: t.mate.toList
        if t.answer ≠ some true || !rollReady s tids then s
        else
          let core := ((mget s.teams (leadOf tid t)).map (·.core)).getD t.core
          let s := tids.foldl correctImage s
          match tids.flatMap (imageHard s) with
          | code :: _ =>
            -- there is nothing left to roll back to: the bundle is discarded (DESIGN CHOICE, log 114)
            setAnswer (report s (some t.world) 0x51 4 t.core code) tids false
          | [] =>
            let s := tids.foldl rollTeam s
            serveAll (report s (some t.world) 0x54 4 core (if t.twin = 0 then 0 else 1))
    | _ => s)

/-- BUNDLE_DISCARDED (R417): of the team that `args` gives: its queue resets with code 5 (R343). -/
def execBundleDiscarded (s : State) : Out :=
  .next (match s.args with
    | [tid] =>
      match mget s.teams tid with
      | none => s
      | some t =>
        if t.answer ≠ some false then s
        else
          let s := (tid :: t.mate.toList).foldl (fun s x => onTeam s x (fun u => { u with answer := none })) s
          stopQueue s t.fe t.slot 5 t.sub t.packet
    | _ => s)

/-! ### The compare buffer -/

/-- Two entries of a pair with one key. -/
def keysMeet (a b : CmpEntry) : Bool := a.pair == b.pair && a.grp == b.grp && a.count == b.count && !a.trailing && b.trailing && !a.matched && !b.matched

/-- The groups of an entry wait for it no more. -/
def unholdTwin (s : State) (gid : Nat) : State := onGroup s gid (fun g => { g with holds := g.holds.filter (fun h => !h.isTwin) })

/-- The lanes of CL of the word that made an entry. -/
def entryLanes (s : State) (e : CmpEntry) : Mask :=
  let f := sformOf e.ctx.word
  match mget s.groups e.ctx.gid with
  | some g => clOf g e.ctx f.pg f.pn
  | none => e.ctx.mask

/-- TWIN_MISMATCH in one team (R422, R425). -/
def takeMismatch (s : State) (e : CmpEntry) : State :=
  takeTrap (unholdTwin s e.ctx.gid) e.ctx.gid .twinMismatch (entryLanes s e) e.ctx.pc 0#64 (reasonInfo 7)

/-- The signatures of a key differ (R422): every unmatched entry of the pair is discarded, and both teams roll back, lose their bundle,
or take TWIN_MISMATCH at the third time. -/
def mismatch (s : State) (a b : CmpEntry) : State :=
  let gone := s.cmps.filter (fun e => e.pair == a.pair && !e.matched)
  let s := { gone.foldl (fun s e => unholdTwin s e.ctx.gid) s with cmps := s.cmps.filter (fun e => !(e.pair == a.pair && !e.matched)) }
  match mget s.teams a.pair with
  | none => s
  | some t =>
    let tids := a.pair :: t.mate.toList
    if escapedPair s t then setAnswer s tids false
    else if t.retry < 2 then setAnswer s tids true
    else takeMismatch (takeMismatch s a) b

/-- COMPARE_ENTRY (R421, R422): of the pair whose team `args` gives: the oldest key that both teams hold is compared. -/
def execCompareEntry (s : State) : Out :=
  .next (match s.args with
    | [tid] =>
      match mget s.teams tid with
      | none => s
      | some t =>
        match s.cmps.findSome? (fun a => if a.pair = leadOf tid t then (s.cmps.find? (keysMeet a)).map (fun b => (a, b)) else none) with
        | none => s
        | some (a, b) =>
          if a.sig = b.sig then
            let s := unholdTwin (unholdTwin s a.ctx.gid) b.ctx.gid
            { s with cmps := s.cmps.map (fun e => if e = a || e = b then { e with matched := true } else e) }
          else mismatch s a b
    | _ => s)

end Sys2Proof.Machine
end

