-- ==== Sys2Proof/Machine/HostSide.lean ====
section
/-! DEFINITION. The host's side of the part: registers and windows (R398, R428, R440), the submission window (R429), mailboxes (R431),
ownership (R433), the control pair's own failure (R432), device reset and configuration requests (R434), CXL links (R427), power and
heat (R435, R436). -/

namespace Sys2Proof.Machine

/-- What a read of a function returns. -/
def replyTo (s : State) (fn : Nat) (bs : List (Option Byte)) : State := onFn s fn (fun f => { f with reply := bs })

/-! ### Registers (R398) -/

/-- Whether the allow-list has a register (R398): offsets are multiples of 4. -/
def allowed (bar offset : Nat) : Bool :=
  allowEntries.any (fun e => e.2.2 == bar && e.1 % 4 == 0 && decide (e.1 ≤ offset) && decide (offset < e.1 + 4 * e.2.1) && offset % 4 == 0)

/-- Whether an access is none to a register (R398, R428): to the transfer extents, or a write to the doorbells or the submission window. -/
def elsewhere (fn bar offset : Nat) (write : Bool) : Bool :=
  (fn != 0 && bar == 2) ||
    (write && bar == (if fn = 0 then 2 else 0) && (decide (offset < 0x80) || (decide (0x1000 ≤ offset) && decide (offset < 0x1800))))

/-- ALLOWLIST_DENIED (R398): a host access to a register; one outside the list reads zero or is ignored, and is reported to the world
of the function (DEDUCED, log 20). -/
def execAllowlistDenied (fn bar offset : Nat) (write : Bool) (s : State) : Out :=
  .next (if s.ctl.off || s.ctl.boot < 6 || elsewhere fn bar offset write then s
    else if fn = 0 && allowed bar offset then
      (if write then s else replyTo s fn ((leBytes 4 (Config.healthRegister bar offset s.clock).toNat).map some))
    else
      let s := if write then s else replyTo s fn (List.replicate 4 (some 0#8))
      report s (if fn = 0 then none else (fnOf s fn).world) 0x70 11 fn 0)

/-! ### Transfer extents (R390, R428, R440) -/

/-- The physical address of a byte of a virtual function's window, if a transfer extent of its world backs it. -/
def windowByte (s : State) (fn offset : Nat) : Option Nat :=
  match (fnOf s fn).world.bind (mget s.worlds) with
  | none => none
  | some x =>
    match (mget x.transfer (offset / 2 ^ 34)).bind (fun t => mget (spaceOf s t.1).exts t.2) with
    | some e => if fn ≠ 0 && offset < 2 ^ 36 && e.v && e.f && offset % 2 ^ 34 < 4096 * e.pages then some (4096 * e.base + offset % 2 ^ 34) else none
    | none => none

/-- The host writes stored bytes, which it sees at once and other agents later (R193, R390). (DEDUCED, log 77.) -/
def hostRawWrite (s : State) (w pa : Nat) (b : Byte) : State :=
  let u := pa / 16
  let raw := (rawView s hostAgent [(0, 16 * u, 16)]).set (pa % 16) b
  { s with
    fresh := s.fresh + 1
    writes := s.writes ++ [{ id := s.fresh, pa := 16 * u, bytes := xtsUnit false (worldXts s w) u raw, world := w, core := none, home := false
                             vis := 1#193 <<< hostAgent, after := [], skip := [] }] }

/-- A byte that the host reads of a window, raw: the tags and codes of its unit are checked as for every other read, and one that fails is
delivered as poisoned (R390, R409). -/
def hostByte (s : State) (w : Nat) (pa : Nat) : Option Byte :=
  match readError s w pa 1 with
  | .uncorrectable => none
  | .integrity => none
  | _ => some ((rawView s hostAgent [(0, pa, 1)]).getD 0 0#8)

/-- HOST_WINDOW_ACCESS (R440): a read of as many bytes as `bytes` has, or a write of them, raw. Bytes beyond the extents read zero and
take nothing. (DEDUCED, log 78.) -/
def execHostWindowAccess (fn offset : Nat) (write : Bool) (bytes : List Byte) (s : State) : Out :=
  .next (if s.ctl.off || s.ctl.boot < 6 then s
    else
      let w := ((fnOf s fn).world).getD 0
      if write then
        bytes.zipIdx.foldl (fun s b =>
          match windowByte s fn (offset + b.2) with
          | some pa => hostRawWrite s w pa b.1
          | none => s) s
      else
        let pas := (List.range bytes.length).map (fun i => windowByte s fn (offset + i))
        let s := ((pas.filterMap (fun p => p.map (· / 64))).eraseDups.filter (fun u => readError s w (64 * u) 1 == .corrected)).foldl
          (fun s u => noteCorrection s (some w) 7 (stackOf (64 * u)) 0x12) s
        replyTo s fn (pas.map (fun p => match p with
          | some pa => hostByte s w pa
          | none => some 0#8)))

/-! ### Submission window (R429) -/

/-- A commit ends. -/
def endCommit (s : State) (fn : Nat) : State := onFn s fn (fun f => { f with commit := none })

/-- A commit is dropped and reported (R442). -/
def dropCommit (s : State) (fn e : Nat) : State := droppedWrite (endCommit s fn) fn (e % 16 + 2 ^ 8)

/-- Whether an address is the control block of a queue of a function in a space. -/
def isControlBlock (s : State) (fn space va : Nat) : Bool :=
  s.frontEnds.any (fun x => x.2.slots.any (fun p => p.2.fn == fn && p.2.space == space && p.2.q == va))

/-- SUBMISSION_COMMIT (R429): the front end writes the data through its encryption engine; the commit stands until its translation is at
hand, before any later write of the function. (DEDUCED, log 79.) -/
def execSubmissionCommit (fn e : Nat) (data : List Byte) (target q : Nat) (s : State) : Out :=
  .next (if !mailboxOpen s || s.ctl.halted then s
    else if !((fnOf s fn).commit == none || (fnOf s fn).commit == some (e, data, target, q)) then s
    else
      match (if fnAccepted s fn then bellQueue s fn q else none) with
      | none => dropCommit s fn e
      | some (fe, slot) =>
        if target % 64 ≠ 0 || e ≥ 16 then dropCommit s fn e
        else
          let s := onFn s fn (fun f => { f with commit := some (e, data, target, q) })
          withFe s fe slot [(target, 2)] (fun s => dropCommit s fn e) fun s x qu tr =>
            let n := if isControlBlock s fn qu.space target then 8 else 64
            let s := deviceWrite (fenceFull s (feAgent x) allAgents) qu.world (tr 2 target) ((data ++ List.replicate (64 - data.length) 0#8).take n)
            endCommit s fn)

/-! ### Mailboxes and ownership (R431, R433) -/

/-- DOE_REQUEST (R431): discovery, SPDM and secured sessions are answered on every function; the control requests of type 0x80 on the
physical function. In recovery only SPDM is accepted (R434). (DESIGN CHOICE, log 83.) -/
def execDoeRequest (by_ : Asker) (fn : Nat) (k : DoeKind) (s : State) : Out :=
  .next (if !mailboxOpen s then s
    else if s.ctl.recovery && k ≠ .spdm then answer s by_ .refused
    else
      match k with
      | .discovery => answer s by_ .done
      | .spdm => answer s by_ .done
      | .ideKeys => answer s by_ .done
      | .tdispLock f => if (fnOf s f).tdisp = .unlocked then answer (setTdisp s f .locked) by_ .done else answer s by_ .refused
      | .tdispStart f => if (fnOf s f).tdisp = .locked then answer (setTdisp s f .run) by_ .done else answer s by_ .refused
      | .tdispStop f => answer (setTdisp s f .unlocked) by_ .done
      | .controlRead _ =>
        let s := if s.ctl.owner = some by_ then { s with ctl := { s.ctl with heard := s.clock } } else s
        answer (if fn = 0 then takeRequests s else s) by_ (if fn = 0 then .done else .refused)
      | .controlWrite _ => if fn = 0 then asOwner s by_ (fun s => answer s by_ .done) else answer s by_ .refused)

/-- The number of a master (R442, class 0x84). -/
def Asker.number : Asker → Nat
  | .pair => 0
  | .host => 0
  | .host2 => 1
  | .board => 2

/-- A master becomes owner (R433, R442). -/
def becomeOwner (s : State) (a : Asker) : State :=
  report { s with ctl := { s.ctl with owner := some a, offer := none, heard := s.clock } } none 0x84 0 0 (Asker.number a)

/-- An ownership request is handled when the mailboxes are open and the control pair works (R432, R434). -/
def asMaster (s : State) (a : Asker) (k : State → State) : State :=
  if !mailboxOpen s then s
  else if s.ctl.halted || s.ctl.recovery || a = .pair then answer s a .refused
  else k s

/-- CLAIM (R433). (DEDUCED, log 82.) -/
def execClaim (by_ : Asker) (s : State) : Out :=
  .next (asMaster s by_ fun s =>
    match s.ctl.owner with
    | none => answer (becomeOwner s by_) by_ .done
    | some o => answer s by_ (if o = by_ then .refused else .notOwner))

/-- HANDOVER (R433). -/
def execHandover (by_ to_ : Asker) (s : State) : Out :=
  .next (asMaster s by_ fun s =>
    asOwner s by_ fun s =>
      if to_ = .pair then answer s by_ .refused else answer { s with ctl := { s.ctl with offer := some (to_, s.clock) } } by_ .done)

/-- Core clocks in a second (R5). -/
def oneSecond : Nat := 600000000

/-- ACCEPT (R433): of an offer within the last second. -/
def execAccept (by_ : Asker) (s : State) : Out :=
  .next (asMaster s by_ fun s =>
    match s.ctl.offer with
    | some (m, at_) => if m = by_ && s.clock < at_ + oneSecond then answer (becomeOwner s by_) by_ .done else answer s by_ .notOwner
    | none => answer s by_ .notOwner)

/-- FORCE (R433): of the board controller, when the owner has been silent for 10 s. -/
def execForce (by_ : Asker) (s : State) : Out :=
  .next (asMaster s by_ fun s =>
    if by_ = .board && s.ctl.owner.isSome && s.ctl.heard + 10 * oneSecond ≤ s.clock then answer (becomeOwner s by_) by_ .done
    else answer s by_ .notOwner)

/-- HANDOVER_TIMEOUT (R433). -/
def execHandoverTimeout (s : State) : Out :=
  .next (match s.ctl.offer with
    | some (_, at_) => if at_ + oneSecond ≤ s.clock then { s with ctl := { s.ctl with offer := none } } else s
    | none => s)

/-- CONTROL_PAIR_MISMATCH (R432): also three packet cores in disagreement. -/
def execControlPairMismatch (s : State) : Out :=
  let told := report s none 0x81 0 0 0
  .next (if s.ctl.halted then s else stopAll { told with ctl := { told.ctl with halted := true } } 7)

/-! ### Reset (R434) -/

/-- The part with everything lost but what the HBM4E stacks hold, and what reached the outside; the model's counters go on.
(DEDUCED, log 81.) -/
def lost (s : State) : State :=
  { State.reset with
    agenda := s.agenda, args := s.args, fresh := s.fresh, free := s.free, mem := s.mem, forms := s.forms, former := s.former, upsets := s.upsets
    poison := s.poison
    ctl := { Ctl.reset with events := s.ctl.events, replies := s.ctl.replies, drawn := s.ctl.drawn } }

/-- DEVICE_RESET (R434): bring-up begins; a firmware signature that fails leaves the device in recovery. -/
def execDeviceReset (signed : Bool) (s : State) : Out :=
  .next { lost s with ctl := { (lost s).ctl with recovery := !signed } }

/-- CONFIGURATION_REQUEST (R434): Request Retry Status until step 6. -/
def execConfigurationRequest (s : State) : Out :=
  .next (if s.ctl.off then s else answer s .host (if s.ctl.boot < 6 then .retry else .done))

/-! ### Links, power and heat (R427, R435, R436) -/

/-- CXL_LINK_FAILURE (R427): of the port that `args` gives. -/
def execCxlLinkFailure (s : State) : Out :=
  .next (match s.args with
    | [p] =>
      if p ≥ 4 || s.ctl.cxlFailed.contains p || s.ctl.off then s
      else report { s with ctl := { s.ctl with cxlFailed := p :: s.ctl.cxlFailed } } none 0x83 8 p 0
    | _ => s)

/-- POWER_CAP_SET (R435): the host's cap and the board controller's, each set by its own master (DEDUCED, log 21). -/
def execPowerCapSet (by_ : Asker) (watts : Nat) (s : State) : Out :=
  .next (asMaster s by_ fun s =>
    if watts < 1200 || watts > 3200 || watts % 25 ≠ 0 then answer s by_ .refused
    else if by_ = .board then answer { s with ctl := { s.ctl with capBoard := watts } } by_ .done
    else asOwner s by_ fun s => answer { s with ctl := { s.ctl with capHost := watts } } by_ .done)

/-- The effective cap (R435). -/
def effectiveCap (s : State) : Nat := min s.ctl.capHost s.ctl.capBoard

/-- POWER_AVERAGE (R435): of the average in watts and the new N that `args` gives: the manual fixes only that N falls above the cap,
rises again from 5% below it, and lies in 8 to 64 (DESIGN CHOICE, log 22). -/
def execPowerAverage (s : State) : Out :=
  .next (match s.args with
    | [watts, n] =>
      if s.ctl.off || s.ctl.hot ≠ [] || n < 8 || n > 64 then s
      else if watts > effectiveCap s then
        if n < s.ctl.n then
          let t := { s with ctl := { s.ctl with n := n } }
          if s.ctl.n = 64 then report t none 0x82 0 0 n else t
        else s
      else if 100 * watts ≤ 95 * effectiveCap s && n > s.ctl.n then { s with ctl := { s.ctl with n := n } }
      else s
    | _ => s)

/-- The part without power (R436): what the HBM4E stacks held is lost with the rest. CXL memory is not the device's own (DEDUCED, log 88). -/
def powerLost (s : State) : State := fillRange (lost s) 0 hbmEnd

/-- THERMAL_LIMIT (R436): a die's temperature. At 100 °C N is held at 8, until the die is cooler; at 115 °C power goes. -/
def execThermalLimit (nougat : Bool) (unit celsius : Nat) (s : State) : Out :=
  .next (if s.ctl.off then s
    else
      let die := (nougat, unit)
      let told := report s none 0x83 (if nougat then 2 else 1) unit celsius
      if celsius ≥ 115 then { powerLost told with ctl := { (powerLost told).ctl with off := true } }
      else if celsius ≥ 100 then
        if s.ctl.hot.contains die then s else { told with ctl := { told.ctl with hot := die :: s.ctl.hot, n := 8 } }
      else { s with ctl := { s.ctl with hot := s.ctl.hot.filter (fun d => d != die) } })

end Sys2Proof.Machine
end

