-- ==== Sys2Proof/Machine/Matrix.lean ====
section
/-! DEFINITION. The matrix engine: declaring, signing and waiting (R239 to R247), the operation (R234 to R238, R128, R129), its
undefined windows (R206, R248), the A latch (R249), divergence (R250), and the words that move its operands (R253 to R259). -/

namespace Sys2Proof.Machine

/-! ### Members and units -/

/-- The member groups of an operation, with their numbers in the device. -/
def memberGroups (s : State) (v : Conv) : List (Nat × Group) :=
  v.members.filterMap (fun num => s.groups.find? (fun p => p.2.team == v.team && p.2.num == num))

/-- The lead group of an operation. -/
def leadGroup (s : State) (v : Conv) : Option (Nat × Group) :=
  s.groups.find? (fun p => p.2.team == v.team && p.2.num == v.gbase + v.lead)

/-- The sub-partition whose unit runs an operation: its core and number. -/
def unitOf (s : State) (v : Conv) : Option (Nat × Nat) := (leadGroup s v).map (fun p => (p.2.core, p.2.subp))

/-- Whether the unit of an ARMED operation can begin it: it runs one operation at a time, in the order of arming (R241). -/
def unitFree (s : State) (key : Nat) (v : Conv) : Bool :=
  !s.convs.any (fun p => p.1 != key && unitOf s p.2 == unitOf s v &&
    (p.2.st == .busy || (p.2.st == .armed && decide (p.2.armedAt < v.armedAt))))

/-- Whether every scratchpad sector of B and of its scales is present (R163, R241). -/
def operandsPresent (t : Team) (v : Conv) : Bool :=
  !v.bsrc || ((absentSector t v.boff.toNat (v.nb t)).isNone && (absentSector t (v.sboff t) (v.nsb t)).isNone)

/-- An ARMED operation whose turn it is and whose operands are present becomes BUSY (R241). -/
def startConv (s : State) (key : Nat) : State :=
  let v := convAt s key
  match mget s.teams v.team with
  | none => s
  | some t =>
    if v.st = .armed && unitFree s key v && operandsPresent t v then
      { s with convs := mput s.convs key { v with st := .busy, busyAt := s.clock } }
    else s

/-- The operations whose B lies in tiles begin as soon as their unit is free (R241). -/
def startTiled (s : State) : State :=
  (s.convs.filter (fun p => p.2.st == .armed && !p.2.bsrc)).foldl (fun s p => startConv s p.1) s

/-! ### MMA -/

/-- The register as a declaration would leave it (R240, R242, R254). -/
def declared (f : SForm) (g : Group) (t : Team) (old : Conv) : Conv :=
  let w (i : Nat) : W32 := uRead g (uni f f.a + i)
  { old with
    st := .opened, owner := t.slotNo, team := g.team, mset := w 0, lmask := w 1, shape := w 2, boff := w 3
    areg := f.c.toNat, acc := f.b.toNat, slotA := fnField f 8 3, slotB := fnField f 5 3, za := fnBit f 4, ru := f.ru, signed := 0#256
    lead := g.num - (w 0).toNat % 128, interval := t.interval, mofn := 0, stale := [], stored := [] }

/-- Where the scratchpad operand of an operation ends. -/
def Conv.spEnd (v : Conv) (t : Team) : Nat := if fsScl (v.fsB t) = 1 then v.sboff t + v.nsb t else v.boff.toNat + v.nb t

/-- Whether the descriptor's reserved and unused fields are zero, and its masks are not (R242, R243). -/
def descriptorOk (v : Conv) (t : Team) : Bool :=
  slice v.mset.toNat 16 16 == 0 && !v.mset.getLsbD 7 && v.gmask != 0 && v.lmask != 0#32 && slice v.shape.toNat 26 6 == 0 &&
    !v.shape.getLsbD 20 && (v.sbt == 0 || (!v.bsrc && fsScl (v.fsB t) == 1)) && (v.sar == 0 || fsScl (v.fsA t) == 1) &&
    (v.bt == 0 || !v.bsrc) && (v.boff == 0#32 || v.bsrc)

/-- Whether the member groups stand as R243 asks: there, not exited, on the sub-partition of the declaring group, which is one of
them, with every lane of LMASK. -/
def membersOk (s : State) (g : Group) (v : Conv) : Bool :=
  (v.member g.num).isSome && v.members.all (fun num =>
    match s.groups.find? (fun p => p.2.team == g.team && p.2.num == num) with
    | some p => p.2.live != 0#32 && p.2.core == g.core && p.2.subp == g.subp && v.lmask &&& ~~~p.2.live == 0#32
    | none => false)

/-- Whether the formats and sizes are those of an operation (R243). -/
def shapeOk (v : Conv) (t : Team) : Bool :=
  let fa := fsFmt (v.fsA t)
  let fb := fsFmt (v.fsB t)
  let scaled (d : BitVec 32) : Bool := fsScl d != 1 || v.k % fsBlock d == 0
  fa != 0 && fb != 0 && slotIsInt fa == slotIsInt fb && decide (v.members.length * v.nt * v.kg ≤ 256) && scaled (v.fsA t) &&
    scaled (v.fsB t) && decide (v.kba t ≤ 16) && (!v.bsrc || v.boff.toNat % 128 == 0)

/-- The cause that a declaration raises, with its TADDR: the lowest code (R156, R243, R359). A slot B of format FP32, for which no width
is given, counts with 32 bits where the size of B decides (DESIGN CHOICE, log 106). -/
def declareCause (s : State) (g : Group) (t : Team) (old v : Conv) : Option (Cause × W64) :=
  let scB := fsScl (v.fsB t) == 1
  if !v.bsrc && (decide (v.bt + (v.nb t + 1023) / 1024 > 4 * g.tgran) || (scB && decide (v.sbt + 1 > 4 * g.tgran))) then
    some (.regBudget, 0#64)
  else if v.bsrc && decide (v.spEnd t > t.scratch) then
    some (.scratchBounds, BitVec.ofNat 64 (if v.boff.toNat + v.nb t > t.scratch then v.boff.toNat else v.sboff t))
  else if old.st == .idle && descriptorOk v t && membersOk s g v && shapeOk v t then none
  else some (.convergence, 0#64)

/-- An operation's undefined window in a group, with nothing in it yet (R248). -/
def windowOf (s : State) (key : Nat) (v : Conv) (t : Team) : Window :=
  { cv := key, phase := v.phase, lmask := v.lmask, areg := v.areg, na := v.na t, sar := v.sar, nsar := v.nsar t, acc := v.acc, nt := v.nt
    bt := v.bt, nbt := if v.bsrc then 0 else (v.nb t + 1023) / 1024, sbt := v.sbt
    nsbt := if !v.bsrc && fsScl (v.fsB t) == 1 then 1 else 0, lanes := 0#32, lead := false, done := false, spoilt := false, spoiltB := false
    slo := if v.bsrc then v.boff.toNat else 0, shi := if v.bsrc then v.spEnd t else 0, k := v.k, wB := slotWidth (fsFmt (v.fsB t))
    sboff := if v.bsrc then v.sboff t else 0, kbb := v.kbb t, peers := (memberGroups s v).map (·.1) }

/-- Open or extend a group's window for an operation under way. -/
def openWindow (g : Group) (w : Window) (lanes : Mask) (lead : Bool) : Group :=
  if g.windows.any (fun x => x.cv == w.cv && !x.done) then
    { g with windows := g.windows.map (fun x => if x.cv = w.cv && !x.done then { x with lanes := x.lanes ||| lanes } else x) }
  else { g with windows := { w with lanes := lanes, lead := lead } :: g.windows }

/-- MMA (R239, R242, R243, R254): it names the first accumulator and the first A register besides its convergence register (R19, R66);
the window of the lead's tiles opens at the declaration (R248). -/
def execMma (f : SForm) (s : State) : Out :=
  .next (issueWord s f.pg f.pn { vtop := f.c.toNat + 1, atop := f.b.toNat + 1, cvtop := f.d.toNat + 1 }
      ((List.range 4).map (fun i => (2, uni f f.a + i))) fun s c g t cl =>
    if cl = 0#32 then endWord s c g false []
    else
      let key := cvKey g.core t.world f.d.toNat
      let old := convAt s key
      let v := declared f g t old
      match declareCause s g t old v with
      | some (x, addr) => takeTrap s c.gid x cl c.pc addr 0#64
      | none =>
        let v := { v with bEnd := if v.bsrc then v.spEnd t else 0 }
        let w := windowOf s key v t
        endWord { s with convs := mput s.convs key v } c (openWindow g w 0#32 true) false [])

/-! ### MSG, MOFN, MWT -/

/-- Whether a group's budget does not cover its registers and accumulators of an operation (R244). -/
def overBudget (g : Group) (t : Team) (v : Conv) : Bool :=
  decide (v.areg + v.na t > g.vcount) || (decide (v.nsar t > 0) && decide (v.sar + v.nsar t > g.vcount)) ||
    decide (v.acc + v.nt > 4 * g.agran)

/-- The last member lane has signed: the operation is ARMED. The stores that no signer's MOFN covers need not be read (R202 n). -/
def arm (s : State) (key : Nat) (t : Team) (v : Conv) : State :=
  let late := if v.bsrc then (t.spRecent.filter (fun p =>
      decide (v.boff.toNat ≤ p.1) && decide (p.1 < v.bEnd) && decide (v.mofn < p.2))).map (·.1) else []
  startTiled { s with
    fresh := s.fresh + 1
    convs := mput s.convs key { v with st := .armed, armedAt := s.fresh, interval := t.interval, stale := late } }

/-- MSG (R244). (DEDUCED, log 56.) -/
def execMsg (f : SForm) (s : State) : Out :=
  .next (issueWord s f.pg f.pn { cvtop := f.d.toNat + 1 } [] fun s c g t cl =>
    if cl = 0#32 then endWord s c g false []
    else
      let key := cvKey g.core t.world f.d.toNat
      let v := convAt s key
      let mine := v.st == .opened && v.team == g.team
      if mine && overBudget g t v then takeTrap s c.gid .regBudget cl c.pc 0#64 0#64
      else
        match (if mine then v.member g.num else none) with
        | none => takeTrap s c.gid .convergence cl c.pc 0#64 0#64
        | some m =>
          if cl &&& ~~~v.lmask ≠ 0#32 || cl &&& v.signedOf m ≠ 0#32 then takeTrap s c.gid .convergence cl c.pc 0#64 0#64
          else
            let v := { v with
              signed := v.signed ||| (cl.setWidth 256 <<< (32 * m))
              mofn := (lanesOf cl).foldl (fun n l => max n (g.lane l).mofn) v.mofn }
            let s := { s with convs := mput s.convs key v }
            let s := endWord s c (openWindow g (windowOf s key v t) cl false) false []
            if v.members.all (fun num => v.signedOf (num - v.gbase) == v.lmask) then arm s key t v else s)

/-- MOFN (R206, R255): the stores to the slot so far are covered for what these lanes sign later. -/
def execMofn (f : SForm) (s : State) : Out :=
  .next (issueWord s f.pg f.pn {} [] fun s c g t cl =>
    endWord s c (g.onLanes cl (fun x => { x with mofn := t.spClock })) false [])

/-- MWT (R247, R250). -/
def execMwt (f : SForm) (s : State) : Out :=
  .next (issueWord s f.pg f.pn { cvtop := f.d.toNat + 1 } [] fun s c g t cl =>
    if cl = 0#32 then endWord s c g false []
    else
      let key := cvKey g.core t.world f.d.toNat
      let v := convAt s key
      let div := g.diverged key &&& cl
      if div ≠ 0#32 then raiseDivergence s c.gid key div c.pc
      else if v.st = .idle || v.team ≠ g.team then endWord s c (closeWindows g key cl) false []
      else endWord s c (block g cl (.conv key v.phase false)) false [])

/-! ### The operation -/

/-- The A operand of a member group, register by register, and the A latch after it (R249). Where the latch and a register differ
the operation takes either, register by register. (DEDUCED, log 23.) -/
def operandA (n : Nat) (gid : Nat) (g : Group) (v : Conv) (na : Nat) : List (List W32) × Option (Nat × Nat × Nat × List (List W32)) :=
  let rows := (List.range na).map (fun r => vRow g (v.areg + r))
  if !v.ru then (rows, none)
  else
    match g.alatch with
    | some (areg, k, slot, old) =>
      if areg = v.areg && k = na && (slot = v.slotA || slot = 8) then
        (rows.zipIdx.map (fun p => if Config.takesNew n (256 * gid + p.2) then p.1 else old.getD p.2 p.1), g.alatch)
      else (rows, some (v.areg, na, v.slotA, rows))
    | none => (rows, some (v.areg, na, v.slotA, rows))

/-- Element k of row i of A with its scale (R236, R238): a lane outside LMASK gives zero. (DEDUCED, log 54.) -/
def elemA (g : Group) (v : Conv) (d : BitVec 32) (rows : List (List W32)) (i k : Nat) : FV :=
  let w := slotWidth (fsFmt d)
  let lane := i + 16 * (k * w / 32 % 2)
  let word := if has v.lmask lane then ((rows.getD (k * w / 64) []).getD lane 0#32).toNat else 0
  let x := slotValue (fsFmt d) (slice word (k * w % 32) w)
  if fsScl d = 1 then
    let b := k / fsBlock d
    scaleBy (slice (vRaw g (v.sar + b / 8) (i + 16 * (b % 8 / 4))).toNat (8 * (b % 4)) 8) x
  else x

/-- Byte `b` of a scratchpad operand at an offset: free where the unit may read it before or after a store (R202 n, R206). -/
def operandByte (n : Nat) (t : Team) (v : Conv) (o : Nat) : Byte :=
  if v.stale.contains o || v.stored.contains o then Config.freeByte (t.sp.map (·.2)) n o else memGet t.sp o

/-- Byte `b` of B and of its scales (R237, R238). -/
def byteB (n : Nat) (t : Team) (v : Conv) (lead : Group) (b : Nat) : Byte :=
  if v.bsrc then operandByte n t v (v.boff.toNat + b) else tileRaw lead (v.bt + b / 1024) (b % 1024)
def scaleByteB (n : Nat) (t : Team) (v : Conv) (lead : Group) (b : Nat) : Byte :=
  if v.bsrc then operandByte n t v (v.sboff t + b) else tileRaw lead v.sbt b

/-- Element (k, j) of panel p of B with its scale. -/
def elemB (n : Nat) (t : Team) (v : Conv) (lead : Group) (p k j : Nat) : FV :=
  let d := v.fsB t
  let w := slotWidth (fsFmt d)
  let at_ := p * v.k * w + (8 * k + j) * w / 8
  let word := (byteB n t v lead at_).toNat + (if w = 16 then 256 * (byteB n t v lead (at_ + 1)).toNat else 0)
  let x := slotValue (fsFmt d) (if w = 4 then slice word (4 * (j % 2)) 4 else word)
  if fsScl d = 1 then scaleBy (scaleByteB n t v lead (8 * (p * v.kbb t + k / fsBlock d) + j)).toNat x else x

/-- Element (i, j) of an accumulator tile after the operation (R128, R129, R234). -/
def accElem (k : Nat) (a : Nat → FV) (b : Nat → FV) (start : Nat) : Nat :=
  (List.range (k / 16)).foldl (fun acc q => accGroup acc ((List.range 16).map (fun i => FV.mul (a (16 * q + i)) (b (16 * q + i))))) start

/-- Tile p of a member group's accumulators after the operation. -/
def accTile (n : Nat) (t : Team) (v : Conv) (lead g : Group) (rows : List (List W32)) (p : Nat) : List W32 :=
  (List.range 128).map (fun e =>
    BitVec.ofNat 32 (accElem v.k (elemA g v (v.fsA t) rows (e / 8)) (fun k => elemB n t v lead p k (e % 8))
      (if v.za then 0 else (accRaw g (v.acc + p) e).toNat)))

/-- The marks of a member group whose results diverged (R250). -/
def markDiverged (g : Group) (key : Nat) (v : Conv) : Group :=
  { g with
    marks := (List.range v.nt).foldl (fun m i => m ||| 1#32 <<< (v.acc + i)) g.marks
    markLanes := (List.range v.nt).foldl (fun m i => mput m (v.acc + i) v.lmask) g.markLanes
    divWait := g.divWait ++ (lanesOf v.lmask).map (fun l => (key, l)) }

/-- The registers that the unit reads in a member group: those of A and its scales in the lanes of LMASK, the accumulators, and the
lead's tiles of B (R234, R245, R411). -/
def unitReads (v : Conv) (t : Team) (lead : Bool) : List (Mask × List (Nat × Nat)) :=
  let run (array lo n : Nat) : List (Nat × Nat) := (List.range n).map (fun i => (array, lo + i))
  [(v.lmask, run 1 v.areg (v.na t) ++ run 1 v.sar (v.nsar t)),
   (allLanes, (if v.za then [] else run 5 v.acc v.nt) ++
     if lead && !v.bsrc then run 4 v.bt ((v.nb t + 1023) / 1024) ++ (if fsScl (v.fsB t) = 1 then [(4, v.sbt)] else []) else [])]

/-- The accumulator elements of a member group as the unit computes them, upsets having struck some, and whether they all pass the
check (R131, R250). -/
def checkTiles (g : Group) (v : Conv) (tiles : List (List W32)) : List (List W32) × Bool :=
  if g.accStrikes.isEmpty then (tiles, true)
  else
    let main (p e : Nat) (x : W32) : W32 := x ^^^ mval g.accStrikes 0#32 (128 * (v.acc + p) + e)
    (tiles.zipIdx.map (fun q => q.1.zipIdx.map (fun y => main q.2 y.2 y.1)),
      tiles.zipIdx.all (fun q => q.1.zipIdx.all (fun y => fp32.passes 3 (main q.2 y.2 y.1).toNat y.1.toNat)))

/-- The operation in one member group (R234, R248, R249): the group after it, and whether every element passes its check. `lost` says
that an operand, or a register written meanwhile, leaves its accumulators without a defined value. -/
def computeMember (s : State) (key : Nat) (v : Conv) (t : Team) (lead : Group) (lost : Bool) (gid : Nat) (g : Group) : Group × Bool :=
  let (rows, latch) := operandA s.free gid g v (v.na t)
  let lost := lost || !(g.hardErrs (unitReads v t false)).isEmpty || g.windows.any (fun w => w.cv == key && !w.done && w.spoilt)
  let g1 := if v.za then { g with marks := (List.range v.nt).foldl (fun m i => m &&& ~~~(1#32 <<< (v.acc + i))) g.marks } else g
  let (tiles, ok) := if lost then ([], true) else checkTiles g v ((List.range v.nt).map (accTile s.free t v lead g rows))
  let g1 := if lost then (List.range v.nt).foldl (fun x i => undefAcc x (v.acc + i)) g1
    else { g1 with accs := tiles.zipIdx.foldl (fun m q => mput m (v.acc + q.2) q.1) g1.accs }
  ({ g1 with
      alatch := latch, accStrikes := []
      windows := g1.windows.map (fun w => if w.cv = key && !w.done then { w with done := true } else w) }, ok)

/-- The end of the operation in one member group: a divergence of any member marks every one's accumulators, FIJ's only those of its own
group (R250, R424); an error in the group's registers is consumed by it (R411). -/
def completeMember (s : State) (key : Nat) (v : Conv) (t : Team) (lead : Bool) (diverged : Bool) (gid : Nat) (g : Group) : State :=
  let errs := g.hardErrs (unitReads v t lead)
  let (g, fij) := fijEvent g 1
  let s := onGroup s gid (fun _ => if diverged || fij then markDiverged g key v else g)
  match errs with
  | [] => s
  | e :: _ => engineConsume (reportConsumed s gid 0x51 4 g.core (e.array + 2 ^ 8 * g.subp)) gid .uncorrectable 0x01 v.interval

/-- The sectors of B and its scales that hold an uncorrectable error (R411). -/
def errorInB (t : Team) (v : Conv) : Bool := v.bsrc && (spBad t v.boff.toNat (v.nb t) || spBad t (v.sboff t) (v.nsb t))

/-- The single-bit errors among an operation's operands are corrected (R411). -/
def correctOperands (s : State) (v : Conv) (t : Team) (leadId : Nat) (ms : List (Nat × Group)) : State :=
  let s := if v.bsrc then correctScratch (correctScratch s v.team v.boff.toNat (v.nb t)) v.team (v.sboff t) (v.nsb t) else s
  ms.foldl (fun s p => (correctRegs s p.1 p.2 t.world (unitReads v t (p.1 == leadId))).1) s

/-- A BUSY operation completes (R234, R241, R247). -/
def completeConv (s : State) (key : Nat) (v : Conv) : State :=
  match mget s.teams v.team, leadGroup s v with
  | some t, some (leadId, lead) =>
    let s := correctOperands s v t leadId (memberGroups s v)
    let errB := errorInB t v
    let lost := errB || !(lead.hardErrs (unitReads v t true)).isEmpty || lead.windows.any (fun w => w.cv == key && !w.done && w.spoiltB)
    let done := (memberGroups s v).map (fun p => (p.1, computeMember s key v t lead lost p.1 p.2))
    let s := done.foldl (fun s p => completeMember s key v t (p.1 == leadId) (done.any (fun q => !q.2.2)) p.1 p.2.1) s
    let s := { s with free := s.free + 1, convs := mput s.convs key { v with st := .idle, phase := (v.phase + 1) % 2 ^ 16 } }
    let s := releaseConv s key
    let s := if errB then
        engineConsume (reportConsumed s leadId 0x51 4 t.core (0x09 + 2 ^ 8 * bankOf s t v.boff.toNat)) leadId .uncorrectable 0x02 v.interval
      else s
    takeImages (startTiled (done.foldl (fun s p => tryGive s p.1) s))
  | _, _ => { s with convs := mput s.convs key { v with st := .idle } }

/-- MATRIX_ARMED_START (R241): of the register that `args` gives. -/
def execMatrixArmedStart (s : State) : Out :=
  match s.args with
  | [key] => .next (startConv s key)
  | _ => .next s

/-- MATRIX_COMPLETE (R241): of the register that `args` gives. -/
def execMatrixComplete (s : State) : Out :=
  match s.args with
  | [key] => .next (if (convAt s key).st = .busy then completeConv s key (convAt s key) else s)
  | _ => .next s

/-! ### MLD -/

/-- The lead writes tiles: the operations whose window they lie in have undefined accumulators in every member group (R248).
(DEDUCED, log 53.) -/
def spoilTiles (s : State) (gid : Nat) (g : Group) (lo n : Nat) : State :=
  let hit (w : Window) : Bool := (List.range n).any (fun i => w.hasTile (lo + i))
  if g.windows.any hit then
    let s := (g.windows.filter (fun w => hit w && w.done)).foldl (fun s w =>
      w.peers.foldl (fun s p => onGroup s p (fun x => (List.range w.nt).foldl (fun x i => undefAcc x (w.acc + i)) x)) s) s
    onGroup s gid (fun g => { g with windows := g.windows.map (fun w => if hit w then { w with spoiltB := true } else w) })
  else s

/-- MLD_T (R253). -/
def execMldT (f : SForm) (s : State) : Out :=
  let n := fnField f 3 5 + 1
  .next (issueWord s f.pg f.pn { ttop := f.d.toNat + n } [(2, uni f f.a)] fun s c g t cl =>
    if cl = 0#32 then endWord s c g false []
    else
      let o := (uRead (onceGroup g c) (uni f f.a)).toNat
      if o % 128 ≠ 0 then trapOnce s c cl .address o
      else if o + 1024 * n > t.scratch then trapOnce s c cl .scratchBounds o
      else
        match absentSector t o (1024 * n) with
        | some sec => blockOnce s c g cl sec false
        | none =>
          let (g, inj) := fijEvent g 5
          let s := { s with groups := mput s.groups c.gid g }
          if inj || spBad t o (1024 * n) then consumeScratch s c.gid t o cl c.pc t.interval
          else
            let s := seeBefore (correctScratch s g.team o (1024 * n)) g.core (relsAt t o (1024 * n))
            let s := spoilTiles s c.gid g f.d.toNat n
            let g := (mget s.groups c.gid).getD g
            let g := { g with
              tiles := (List.range n).foldl (fun m i => mput m (f.d.toNat + i) (spBytes t (o + 1024 * i) 1024)) g.tiles
              regErrs := g.regErrs.filter (fun e => !(e.array == 4 && decide (f.d.toNat ≤ e.reg) && decide (e.reg < f.d.toNat + n))) }
            endOnce s c g false [])

/-- MLD_A (R249, R253): each lane of CL reads its part of row l mod 16; with RU = 1 the A latch holds the words as they are loaded, and
in the other lanes what the registers hold. (DEDUCED, log 55.) The TADDR of a misaligned stride is o + S (DESIGN CHOICE, log 105). -/
def execMldA (f : SForm) (s : State) : Out :=
  let n := fnField f 3 5 + 1
  .next (issueWord s f.pg f.pn { vtop := f.d.toNat + n } [(2, uni f f.a), (2, uni f f.b)] fun s c g t cl =>
    if cl = 0#32 then endWord s c g true []
    else
      let o := (uRead g (uni f f.a)).toNat
      let stride := (uRead g (uni f f.b)).toNat
      let size := 8 * (n - 1) + 4
      let off (l : Nat) : Nat := o + l % 16 * stride + 4 * (l / 16)
      let far := maskBy (fun l => has cl l && decide (off l + size > t.scratch))
      if o % 8 ≠ 0 || stride % 8 ≠ 0 then trapOnce s c cl .address (if o % 8 ≠ 0 then o else o + stride)
      else if far ≠ 0#32 then takeTrap s c.gid .scratchBounds far c.pc (BitVec.ofNat 64 (off ((lanesOf far).headD 0))) 0#64
      else
        let (g, inj) := fijEvent g 5
        let s := { s with groups := mput s.groups c.gid g }
        let bad := maskBy (fun l => has cl l && (absentSector t (off l) size).isNone && spBad t (off l) size)
        if inj then consumeScratch s c.gid t (off ((lanesOf cl).headD 0)) (maskOf [(lanesOf cl).headD 0]) c.pc t.interval
        else if bad ≠ 0#32 then consumeScratch s c.gid t (off ((lanesOf bad).headD 0)) bad c.pc t.interval
        else
          let (g, mark) := if f.nw then (g, false) else fijEvent g 2
          let xs := (lanesOf cl).zipIdx.map (fun p =>
            ({ lane := some p.1, mask := maskOf [p.1], by_ := maskOf [p.1], sec := 0, off := off p.1, size := size, op := .rows n f.ru
               dest := some f.d.toNat, uniform := false, noWrite := f.nw, sx := false, latch := g.latchId, pc := c.pc, key := none
               inject := mark && p.2 == 0, interval := t.interval, acq := none, after := [] } : SpAccess))
          let g := if f.ru then { g with alatch := some (f.d.toNat, n, 8, (List.range n).map (fun r => vRow g (f.d.toNat + r))) } else g
          spRun (endWord s c g true []) c.gid g.team xs)

/-! ### MZ and MDR -/

/-- MZ (R256). -/
def execMz (f : SForm) (s : State) : Out :=
  let n := fnField f 0 3 + 1
  .next (issueWord s f.pg f.pn { atop := f.d.toNat + n } [] fun s c g _ cl =>
    endWord s c (if cl = 0#32 then g else (List.range n).foldl (fun x i => accWrite x (f.d.toNat + i) (List.replicate 128 0#32) (List.range 128)) g) false [])

/-- A read of marked accumulators raises the report of their divergence in the member lanes of CL (R250, R425), and what it
reports is not reported again at MWT or EXIT. (DEDUCED, log 57.) -/
def raiseMarked (s : State) (c : Ctx) (g : Group) (t : Team) (cl : Mask) (as : List Nat) : State :=
  let marked := as.filter (fun a => has g.marks a)
  let lanes := cl &&& marked.foldl (fun m a => m ||| mval g.markLanes 0#32 a) 0#32
  let T := if lanes = 0#32 then cl else lanes
  let keys := (g.windows.filter (fun w => w.done && marked.any w.hasAcc)).map (·.cv)
  let s := onGroup s c.gid (fun g => keys.foldl (fun g k => g.reported k T) g)
  consumeError (reportConsumed s c.gid 0x53 4 g.core g.subp) c.gid .shadowDivergence T c.pc 0#64 0x06 t.interval

/-- The accumulator element that MDR moves (R257). -/
def mdrElem (l q : Nat) : Nat := 8 * (l % 16) + 2 * q + l / 16

/-- MDR_GET (R257). -/
def execMdrGet (f : SForm) (s : State) : Out :=
  let n := fnField f 1 2 + 1
  let as := (List.range n).map (· + f.a.toNat)
  .next (issueWord s f.pg f.pn { vtop := f.d.toNat + 4 * n, atop := f.a.toNat + n } (as.map (fun a => (5, a))) fun s c g t cl =>
    if cl = 0#32 then endWord s c g true []
    else if as.any (fun a => has g.marks a) then raiseMarked s c g t cl as
    else
      let val (l i : Nat) : W32 := accRead g (f.a.toNat + i / 4) (mdrElem l (i % 4)) (some l)
      let (g, mark) := if f.nw then (g, false) else fijEvent g 2
      let g' := if f.nw then g
        else (lanesOf cl).foldl (fun x l => (List.range (4 * n)).foldl (fun x i => vWrite x (f.d.toNat + i) l (val l i)) x) g
      endWord s c (if mark then markWrite g' f.d.toNat cl else g') true ((lanesOf cl).map (fun l => (l, pair64 (val l 0) (val l 1)))))

/-- MDR_PUT (R257). -/
def execMdrPut (f : SForm) (s : State) : Out :=
  let n := fnField f 1 2 + 1
  .next (issueWord s f.pg f.pn { vtop := f.d.toNat + 4 * n, atop := f.a.toNat + n } ((List.range (4 * n)).map (fun i => (1, f.d.toNat + i)))
    fun s c g _ cl =>
      if cl = 0#32 then endWord s c g false []
      else
        let row (i : Nat) : List W32 := (lanesOf cl).foldl (fun es l =>
          (List.range 4).foldl (fun (es : List W32) q => es.set (mdrElem l q) (vRead g (f.d.toNat + 4 * i + q) l)) es) (accRow g (f.a.toNat + i))
        let elems := (lanesOf cl).flatMap (fun l => (List.range 4).map (mdrElem l))
        endWord s c ((List.range n).foldl (fun x i => accWrite x (f.a.toNat + i) (row i) elems) g) false [])

/-! ### MDRX -/

/-- The destination slot of the word at hand. -/
def slotAtHand (s : State) (slot : Nat) : BitVec 32 :=
  match s.cur with
  | .word c => (((mget s.groups c.gid).bind (fun g => mget s.teams g.team)).map (fun t => t.fs.getD slot 0#32)).getD 0#32
  | _ => 0#32

/-- The width in bits of an element in memory (R121). -/
def memWidth (fmt : Nat) : Nat := if fmt = 5 || fmt = 6 then 6 else slotWidth fmt

/-- Elements packed as memory holds them (R121). -/
def packElems (w : Nat) (xs : List Nat) : List Byte := leBytes (xs.length * w / 8) (xs.zipIdx.foldl (fun v p => v + 2 ^ (w * p.2) * p.1) 0)

/-- Lists of a length. -/
def chunks {α : Type} (n : Nat) : Nat → List α → List (List α)
  | 0, _ => []
  | k + 1, l => l.take n :: chunks n k (l.drop n)

/-- One row of MDRX (R259): its scale bytes and its element bytes. -/
def drainRow (d : BitVec 32) (vs : List W32) : List Byte × List Byte :=
  let fmt := fsFmt d
  if fsScl d = 1 then
    let bs := (chunks (fsBlock d) (vs.length / fsBlock d) (vs.map (fun v => fp32.value v.toNat))).map (quantise d)
    (bs.map (fun b => BitVec.ofNat 8 b.1), packElems (memWidth fmt) (bs.flatMap (·.2)))
  else ([], packElems (memWidth fmt) (vs.map (fun v => if fmt = 0 then v.toNat else slotConvert d (fp32.value v.toNat))))

/-- The writes of MDRX in ascending row order: an address and its bytes; scales first within a row (R259). -/
def drainWrites (d : BitVec 32) (g : Group) (acc n e stride sc : Nat) : List (Nat × List Byte) :=
  (List.range 16).flatMap (fun i =>
    let r := drainRow d ((List.range (8 * n)).map (fun c => accRead g (acc + c / 8) (8 * i + c % 8) none))
    (if r.1.isEmpty then [] else [(sc + r.1.length * i, r.1)]) ++ [(e + i * stride, r.2)])

/-- MDRX's record (R439): elements, then scales. -/
def drainRecord (sp : Bool) (d : BitVec 32) (e stride sc : Nat) (ws : List (Nat × List Byte)) : List Byte :=
  let addr (a : Nat) : List Byte := leBytes (if sp then 4 else 8) a
  let scaled := fsScl d == 1
  let part (k : Nat) : List Byte := (ws.zipIdx.filter (fun p => p.2 % 2 == k)).flatMap (fun p => p.1.2)
  laneRecord 0xFF (addr e ++ leBytes 4 stride ++ (if scaled then addr sc else []) ++
    (if scaled then part 1 ++ part 0 else ws.flatMap (·.2)))

/-- What makes an MDRX illegal in its slot (R258). -/
def mdrxIllegal (f : SForm) (d : BitVec 32) (n : Nat) : Bool :=
  if fsScl d = 1 then 8 * n % fsBlock d != 0 else slotIsInt (fsFmt d) || f.c != 0#8

/-- The effect of MDRX once its checks have passed: `k` writes. -/
def drainEffect (d : BitVec 32) (s : State) (c : Ctx) (g : Group) (t : Team) (cl : Mask) (k : State → Group → State) : State :=
  let (g, div) := if fsFmt d = 0 then (g, false) else fijEvent g 1
  if div then diverge s c g t cl else k { s with groups := mput s.groups c.gid g } g

/-- MDRX to scratchpad. -/
def drainScratch (d : BitVec 32) (as : List Nat) (ws : List (Nat × List Byte)) (record : List Byte) (s : State) (c : Ctx) (g : Group) (t : Team)
    (cl : Mask) : State :=
  match ws.find? (fun w => decide (w.1 + w.2.length > t.scratch)) with
  | some w => trapOnce s c cl .scratchBounds w.1
  | none =>
    if as.any (fun a => has g.marks a) then raiseMarked s c g t cl as
    else
      match (if t.twin = 0 then ws.findSome? (fun w => absentSector t w.1 w.2.length) else none) with
      | some sec => blockOnce s c g cl sec false
      | none =>
        pairOp s c g t (ws.map (fun w => (true, w.1, w.2.length))) record none fun s g _ =>
          drainEffect d s c g t cl fun s g =>
            let after := (lanesOf cl).flatMap (fun l => (g.lane l).fence)
            let s := if t.twin = 0 then endOnce s c g false [] else endWord s c g false []
            spRun s c.gid g.team (ws.map (fun w =>
              { lane := none, mask := 0#32, by_ := cl, sec := 0, off := w.1, size := w.2.length, op := .store w.2, dest := none, uniform := true
                noWrite := true, sx := false, latch := 0, pc := c.pc, key := none, inject := false, interval := t.interval, acq := none
                after := after }))

/-- MDRX to global memory. -/
def drainGlobal (d : BitVec 32) (as : List Nat) (ws : List (Nat × List Byte)) (record : List Byte) (s : State) (c : Ctx) (t : Team) (cl : Mask) : State :=
  let bytes := ws.flatMap (fun w => w.2.zipIdx.map (fun p => ((w.1 + p.2) % 2 ^ 64, p.1)))
  match bytes.find? (fun b => decide (b.1 ≥ 2 ^ 56)) with
  | some b => trapOnce s c cl .address b.1
  | none =>
    let firsts := (ws.flatMap (fun w => pagesOf (w.1 % 2 ^ 64) w.2.length))
    withPages s c ((lanesOf cl).map (fun l => (l, firsts))) 2 fun s g tr =>
      if as.any (fun a => has g.marks a) then raiseMarked s c g t cl as
      else
        let phys := bytes.map (fun b => (b.1, (tr b.1).1, 1))
        let key := pairKey g t
        pairOp s c g t (phys.map (fun p => (false, p.2))) record key fun s g role =>
          drainEffect d s c g t cl fun s g =>
            if role = .trailing then
              let s := mirrorStore s c.gid g t.world phys
              endWord s c ((mget s.groups c.gid).getD g) false []
            else
              let s := performOverlapping s c.gid phys
              let g := (mget s.groups c.gid).getD g
              let after := (lanesOf cl).flatMap (fun l => (g.lane l).fence)
              let s := bytes.foldl (fun s b => storeOne s g.core t.world ((tr b.1).2.testBit 5) (tr b.1).1 [b.2] after) s
              let s := if role = .leading then keepResult s c.gid key 0 0#128 else s
              endWord (if role = .alone && t.flags % 2 = 0 then escape s g.team else s) c ((mget s.groups c.gid).getD g) false []

/-- MDRX (R258, R259). -/
def execMdrx (f : SForm) (s : State) : Out :=
  let n := fnField f 5 2 + 1
  let sp := fnBit f 10
  let d := slotAtHand s (fnField f 7 3)
  let as := (List.range n).map (· + f.d.toNat)
  let base (g : Group) (x : BitVec 8) : Nat := if sp then (uRead g (uni f x)).toNat else (uRead64 g (uni f x)).toNat
  let pr (x : BitVec 8) : List (Nat × Nat) := if sp then [(2, uni f x)] else [(2, uni f x), (2, uni f x + 1)]
  .next (issueWord s f.pg f.pn { illegal := mdrxIllegal f d n, atop := f.d.toNat + n }
      (pr f.a ++ [(2, uni f f.b)] ++ (if fsScl d = 1 then pr f.c else []) ++ as.map (fun a => (5, a))) fun s c g t cl =>
    if cl = 0#32 then endWord s c g false []
    else
      let gu := onceGroup g c
      let e := base gu f.a
      let stride := (uRead gu (uni f f.b)).toNat
      let sc := if fsScl d = 1 then base gu f.c else 0
      if e % 16 ≠ 0 || stride % 16 ≠ 0 then trapOnce s c cl .address (if e % 16 ≠ 0 then e else e + stride)
      else
        let ws := drainWrites d g f.d.toNat n e stride sc
        let record := if t.twin = 0 then [] else drainRecord sp d e stride sc ws
        if sp then drainScratch d as ws record s c g t cl else drainGlobal d as ws record s c t cl)

end Sys2Proof.Machine
end

