-- ==== Sys2Proof/Machine/Trap.lean ====
section
/-! DEFINITION. TRAP, BKPT, RTT, SRR and SRW (R47, R363 to R367). -/

namespace Sys2Proof.Machine

/-- TRAP (R364): the code stands in TINFO bits 31:16. -/
def execTrap (f : SForm) (s : State) : Out :=
  .next (issueWord s f.pg f.pn {} [] fun s c g _ cl =>
    if cl = 0#32 then endWord s c g false []
    else takeTrap s c.gid .software cl c.pc 0#64 (BitVec.ofNat 64 (2 ^ 16 * (256 * f.b.toNat + f.c.toNat))))

/-- BKPT (R364). -/
def execBkpt (f : SForm) (s : State) : Out :=
  .next (issueWord s f.pg f.pn {} [] fun s c g _ cl =>
    if cl = 0#32 then endWord s c g false [] else takeTrap s c.gid .breakpoint cl c.pc 0#64 0#64)

/-- Whether a lane of the issue at hand is outside a trap handler (R47, R365). -/
def outsideHandler (s : State) : Bool :=
  match s.cur with
  | .word c => ((mget s.groups c.gid).map (fun g => c.mask &&& ~~~g.inHandler != 0#32)).getD false
  | _ => false

/-- The return from a handler (R362, R365): lanes of CL stand parked at the address; the last of them ends the handler. -/
def returnFrom (f : SForm) (skip : Bool) (s : State) : State :=
  issueWord s f.pg f.pn { priv := outsideHandler s } [] fun s c g _ cl =>
    let pc := if skip then g.trap.pc + 8#64 else g.trap.pc
    let g := g.onLanes cl (fun x => { x with pc := pc - 8#64, h := false, st := .parked })
    onGroup (endWord s c g false []) c.gid endHandler

/-- RTT (R365). -/
def execRtt (f : SForm) (s : State) : Out := .next (returnFrom f false s)

/-- RTT_SKIP (R365). -/
def execRttSkip (f : SForm) (s : State) : Out := .next (returnFrom f true s)

/-- Whether a system register is out of reach of the issue at hand (R47, R424). -/
def sysregPriv (s : State) (x : Nat) : Bool :=
  if x ≤ 4 then outsideHandler s
  else if x = 0x20 then
    match s.cur with
    | .word c => !((((mget s.groups c.gid).bind (fun g => mget s.teams g.team)).bind (fun t => mget s.worlds t.world)).map (·.test)).getD false
    | _ => false
  else false

/-- Whether a system register has 64 bits (R366). -/
def sysregPair (x : Nat) : Bool := [0x01, 0x02, 0x04, 0x08, 0x12, 0x20].contains x

/-- The value of a system register (R47, R363). -/
def sysreg (s : State) (g : Group) (t : Team) (x : Nat) : Nat :=
  match x with
  | 0x00 => g.trap.cause.toNat
  | 0x01 => g.trap.pc.toNat
  | 0x02 => g.trap.addr.toNat
  | 0x03 => g.trap.lanes.toNat
  | 0x04 => g.trap.info.toNat
  | 0x08 => g.trap.handler.toNat
  | 0x10 => t.space
  | 0x11 => t.world
  | 0x12 => s.clock % 2 ^ 64
  | _ => g.fij.toNat

/-- SRR (R47, R366). -/
def execSrr (f : SForm) (s : State) : Out :=
  let x := f.a.toNat
  let d : Dest := if ud f then .u (uni f f.d) (sysregPair x) else .v f.d.toNat (sysregPair x)
  .next (issueWord s f.pg f.pn (d.needs.and { priv := sysregPriv s x }) [] fun s c g t cl =>
    endResult s c g cl d (ud f) f.nw (fun _ => sysreg s g t x))

/-- Write a system register (R363, R367, R424): a read-only one ignores the write. -/
def sysregWrite (g : Group) (x : Nat) (v : W64) : Group :=
  match x with
  | 0x00 => { g with trap := { g.trap with cause := v.setWidth 8 } }
  | 0x01 => { g with trap := { g.trap with pc := v &&& ~~~7#64 } }
  | 0x08 => { g with trap := { g.trap with handler := v &&& ~~~7#64 } }
  | 0x20 => { g with fij := v &&& 0x0000FFFF003F000F#64, fijCount := 0 }
  | _ => g

/-- SRW (R47, R367). -/
def execSrw (f : SForm) (s : State) : Out :=
  let x := f.a.toNat
  let b := opnd f f.b (fnBit f 8) (lqB f) (sysregPair x)
  .next (issueWord s f.pg f.pn (b.needs.and { priv := sysregPriv s x }) b.regs fun s c g _ cl =>
    if cl = 0#32 then endWord s c g false []
    else endWord s c (sysregWrite g x (BitVec.ofNat 64 (b.read g ((lanesOf cl).headD 0)))) false [])

end Sys2Proof.Machine
end

