-- ==== Sys2Proof/Machine/Dispatch.lean ====
section
/-! DEFINITION. The meaning of every instruction and event: one arm for each constructor of `Instr`. -/

namespace Sys2Proof.Machine

def exec (i : Instr) (s : State) : Host.Outcome State Fault Refusal :=
  match i with
  | .nop f => Sys2Proof.Machine.execNop f s
  | .iadd f => Sys2Proof.Machine.execIadd f s
  | .isub f => Sys2Proof.Machine.execIsub f s
  | .iadd3 f => Sys2Proof.Machine.execIadd3 f s
  | .imul f => Sys2Proof.Machine.execImul f s
  | .imad f => Sys2Proof.Machine.execImad f s
  | .imulh f => Sys2Proof.Machine.execImulh f s
  | .imin f => Sys2Proof.Machine.execImin f s
  | .imax f => Sys2Proof.Machine.execImax f s
  | .iabs f => Sys2Proof.Machine.execIabs f s
  | .and f => Sys2Proof.Machine.execAnd f s
  | .or f => Sys2Proof.Machine.execOr f s
  | .xor f => Sys2Proof.Machine.execXor f s
  | .tern f => Sys2Proof.Machine.execTern f s
  | .lea f => Sys2Proof.Machine.execLea f s
  | .movi f => Sys2Proof.Machine.execMovi f s
  | .iaddi f => Sys2Proof.Machine.execIaddi f s
  | .shl f => Sys2Proof.Machine.execShl f s
  | .shr f => Sys2Proof.Machine.execShr f s
  | .fsh f => Sys2Proof.Machine.execFsh f s
  | .bfx f => Sys2Proof.Machine.execBfx f s
  | .bfi f => Sys2Proof.Machine.execBfi f s
  | .popc f => Sys2Proof.Machine.execPopc f s
  | .clz f => Sys2Proof.Machine.execClz f s
  | .brev f => Sys2Proof.Machine.execBrev f s
  | .bsel f => Sys2Proof.Machine.execBsel f s
  | .isetp f => Sys2Proof.Machine.execIsetp f s
  | .sel f => Sys2Proof.Machine.execSel f s
  | .mov f => Sys2Proof.Machine.execMov f s
  | .psetp f => Sys2Proof.Machine.execPsetp f s
  | .p2v f => Sys2Proof.Machine.execP2v f s
  | .v2p f => Sys2Proof.Machine.execV2p f s
  | .fadd f => Sys2Proof.Machine.execFadd f s
  | .fmul f => Sys2Proof.Machine.execFmul f s
  | .ffma f => Sys2Proof.Machine.execFfma f s
  | .fmin f => Sys2Proof.Machine.execFmin f s
  | .fmax f => Sys2Proof.Machine.execFmax f s
  | .fsetp f => Sys2Proof.Machine.execFsetp f s
  | .fclass f => Sys2Proof.Machine.execFclass f s
  | .frnd f => Sys2Proof.Machine.execFrnd f s
  | .frcp f => Sys2Proof.Machine.execFrcp f s
  | .frsq f => Sys2Proof.Machine.execFrsq f s
  | .fsqrt f => Sys2Proof.Machine.execFsqrt f s
  | .fex2 f => Sys2Proof.Machine.execFex2 f s
  | .flg2 f => Sys2Proof.Machine.execFlg2 f s
  | .fsin f => Sys2Proof.Machine.execFsin f s
  | .fcos f => Sys2Proof.Machine.execFcos f s
  | .ftanh f => Sys2Proof.Machine.execFtanh f s
  | .dadd f => Sys2Proof.Machine.execDadd f s
  | .dmul f => Sys2Proof.Machine.execDmul f s
  | .dfma f => Sys2Proof.Machine.execDfma f s
  | .fscl f => Sys2Proof.Machine.execFscl f s
  | .hadd2 f => Sys2Proof.Machine.execHadd2 f s
  | .hmul2 f => Sys2Proof.Machine.execHmul2 f s
  | .hfma2 f => Sys2Proof.Machine.execHfma2 f s
  | .hmnmx2 f => Sys2Proof.Machine.execHmnmx2 f s
  | .pdot4 f => Sys2Proof.Machine.execPdot4 f s
  | .pdot8 f => Sys2Proof.Machine.execPdot8 f s
  | .f2i f => Sys2Proof.Machine.execF2i f s
  | .i2f f => Sys2Proof.Machine.execI2f f s
  | .f2f f => Sys2Proof.Machine.execF2f f s
  | .pcvt f => Sys2Proof.Machine.execPcvt f s
  | .unpk f => Sys2Proof.Machine.execUnpk f s
  | .ld f => Sys2Proof.Machine.execLd f s
  | .st f => Sys2Proof.Machine.execSt f s
  | .sld f => Sys2Proof.Machine.execSld f s
  | .lda f => Sys2Proof.Machine.execLda f s
  | .strel f => Sys2Proof.Machine.execStrel f s
  | .atom f => Sys2Proof.Machine.execAtom f s
  | .atomx f => Sys2Proof.Machine.execAtomx f s
  | .red f => Sys2Proof.Machine.execRed f s
  | .fence f => Sys2Proof.Machine.execFence f s
  | .cctlIvl1 f => Sys2Proof.Machine.execCctlIvl1 f s
  | .cctlIvl1All f => Sys2Proof.Machine.execCctlIvl1All f s
  | .cctlDemote f => Sys2Proof.Machine.execCctlDemote f s
  | .prf f => Sys2Proof.Machine.execPrf f s
  | .iflush f => Sys2Proof.Machine.execIflush f s
  | .isync f => Sys2Proof.Machine.execIsync f s
  | .presTest f => Sys2Proof.Machine.execPresTest f s
  | .presSet f => Sys2Proof.Machine.execPresSet f s
  | .presClr f => Sys2Proof.Machine.execPresClr f s
  | .acp f => Sys2Proof.Machine.execAcp f s
  | .acpc f => Sys2Proof.Machine.execAcpc f s
  | .acpw f => Sys2Proof.Machine.execAcpw f s
  | .bcpLd f => Sys2Proof.Machine.execBcpLd f s
  | .bcpSt f => Sys2Proof.Machine.execBcpSt f s
  | .rfence f => Sys2Proof.Machine.execRfence f s
  | .rfenceAll f => Sys2Proof.Machine.execRfenceAll f s
  | .binit f => Sys2Proof.Machine.execBinit f s
  | .barv f => Sys2Proof.Machine.execBarv f s
  | .bwait f => Sys2Proof.Machine.execBwait f s
  | .bwaitToken f => Sys2Proof.Machine.execBwaitToken f s
  | .bwaitTest f => Sys2Proof.Machine.execBwaitTest f s
  | .mldT f => Sys2Proof.Machine.execMldT f s
  | .mldA f => Sys2Proof.Machine.execMldA f s
  | .mma f => Sys2Proof.Machine.execMma f s
  | .msg f => Sys2Proof.Machine.execMsg f s
  | .mofn f => Sys2Proof.Machine.execMofn f s
  | .mwt f => Sys2Proof.Machine.execMwt f s
  | .mz f => Sys2Proof.Machine.execMz f s
  | .mdrGet f => Sys2Proof.Machine.execMdrGet f s
  | .mdrPut f => Sys2Proof.Machine.execMdrPut f s
  | .mdrx f => Sys2Proof.Machine.execMdrx f s
  | .bra f => Sys2Proof.Machine.execBra f s
  | .brx f => Sys2Proof.Machine.execBrx f s
  | .call f => Sys2Proof.Machine.execCall f s
  | .callInd f => Sys2Proof.Machine.execCallInd f s
  | .ret f => Sys2Proof.Machine.execRet f s
  | .meet f => Sys2Proof.Machine.execMeet f s
  | .meetClr f => Sys2Proof.Machine.execMeetClr f s
  | .meetReg f => Sys2Proof.Machine.execMeetReg f s
  | .exit f => Sys2Proof.Machine.execExit f s
  | .yield f => Sys2Proof.Machine.execYield f s
  | .voteAll f => Sys2Proof.Machine.execVoteAll f s
  | .voteAny f => Sys2Proof.Machine.execVoteAny f s
  | .voteSame f => Sys2Proof.Machine.execVoteSame f s
  | .voteBallot f => Sys2Proof.Machine.execVoteBallot f s
  | .shfl f => Sys2Proof.Machine.execShfl f s
  | .matchAny f => Sys2Proof.Machine.execMatchAny f s
  | .matchAll f => Sys2Proof.Machine.execMatchAll f s
  | .elect f => Sys2Proof.Machine.execElect f s
  | .gred f => Sys2Proof.Machine.execGred f s
  | .sread f => Sys2Proof.Machine.execSread f s
  | .tbar f => Sys2Proof.Machine.execTbar f s
  | .rgive f => Sys2Proof.Machine.execRgive f s
  | .rclaim f => Sys2Proof.Machine.execRclaim f s
  | .lrinv f => Sys2Proof.Machine.execLrinv f s
  | .lrload f => Sys2Proof.Machine.execLrload f s
  | .tlbinv f => Sys2Proof.Machine.execTlbinv f s
  | .tlbinvAll f => Sys2Proof.Machine.execTlbinvAll f s
  | .xopen f => Sys2Proof.Machine.execXopen f s
  | .xseal f => Sys2Proof.Machine.execXseal f s
  | .rchk f => Sys2Proof.Machine.execRchk f s
  | .trap f => Sys2Proof.Machine.execTrap f s
  | .rtt f => Sys2Proof.Machine.execRtt f s
  | .rttSkip f => Sys2Proof.Machine.execRttSkip f s
  | .srr f => Sys2Proof.Machine.execSrr f s
  | .srw f => Sys2Proof.Machine.execSrw f s
  | .bkpt f => Sys2Proof.Machine.execBkpt f s
  | .wrload f => Sys2Proof.Machine.execWrload f s
  | .pairNop f => Sys2Proof.Machine.execPairNop f s
  | .pairMov f => Sys2Proof.Machine.execPairMov f s
  | .pairIadd f => Sys2Proof.Machine.execPairIadd f s
  | .pairIsub f => Sys2Proof.Machine.execPairIsub f s
  | .pairAnd f => Sys2Proof.Machine.execPairAnd f s
  | .pairOr f => Sys2Proof.Machine.execPairOr f s
  | .pairXor f => Sys2Proof.Machine.execPairXor f s
  | .pairShl f => Sys2Proof.Machine.execPairShl f s
  | .pairShr f => Sys2Proof.Machine.execPairShr f s
  | .pairImin f => Sys2Proof.Machine.execPairImin f s
  | .pairImax f => Sys2Proof.Machine.execPairImax f s
  | .pairImul f => Sys2Proof.Machine.execPairImul f s
  | .pairFadd f => Sys2Proof.Machine.execPairFadd f s
  | .pairFmul f => Sys2Proof.Machine.execPairFmul f s
  | .pairFmin f => Sys2Proof.Machine.execPairFmin f s
  | .pairFmax f => Sys2Proof.Machine.execPairFmax f s
  | .pairHadd2 f => Sys2Proof.Machine.execPairHadd2 f s
  | .pairHmul2 f => Sys2Proof.Machine.execPairHmul2 f s
  | .pairShli f => Sys2Proof.Machine.execPairShli f s
  | .pairShri f => Sys2Proof.Machine.execPairShri f s
  | .pairIaddi8 f => Sys2Proof.Machine.execPairIaddi8 f s
  | .pairMovi8 f => Sys2Proof.Machine.execPairMovi8 f s
  | .crumbAdd f => Sys2Proof.Machine.execCrumbAdd f s
  | .crumbSub f => Sys2Proof.Machine.execCrumbSub f s
  | .crumbMul f => Sys2Proof.Machine.execCrumbMul f s
  | .crumbAnd f => Sys2Proof.Machine.execCrumbAnd f s
  | .crumbOr f => Sys2Proof.Machine.execCrumbOr f s
  | .crumbXor f => Sys2Proof.Machine.execCrumbXor f s
  | .crumbShl f => Sys2Proof.Machine.execCrumbShl f s
  | .crumbShr f => Sys2Proof.Machine.execCrumbShr f s
  | .crumbSar f => Sys2Proof.Machine.execCrumbSar f s
  | .crumbRotr f => Sys2Proof.Machine.execCrumbRotr f s
  | .crumbMin f => Sys2Proof.Machine.execCrumbMin f s
  | .crumbMax f => Sys2Proof.Machine.execCrumbMax f s
  | .crumbMinz f => Sys2Proof.Machine.execCrumbMinz f s
  | .crumbMaxz f => Sys2Proof.Machine.execCrumbMaxz f s
  | .crumbSeq f => Sys2Proof.Machine.execCrumbSeq f s
  | .crumbSlt f => Sys2Proof.Machine.execCrumbSlt f s
  | .crumbSltz f => Sys2Proof.Machine.execCrumbSltz f s
  | .crumbSel f => Sys2Proof.Machine.execCrumbSel f s
  | .crumbAddi f => Sys2Proof.Machine.execCrumbAddi f s
  | .crumbLi f => Sys2Proof.Machine.execCrumbLi f s
  | .crumbLih f => Sys2Proof.Machine.execCrumbLih f s
  | .crumbFadd f => Sys2Proof.Machine.execCrumbFadd f s
  | .crumbFmin f => Sys2Proof.Machine.execCrumbFmin f s
  | .crumbFmax f => Sys2Proof.Machine.execCrumbFmax f s
  | .crumbBf f => Sys2Proof.Machine.execCrumbBf f s
  | .crumbLdl f => Sys2Proof.Machine.execCrumbLdl f s
  | .crumbStl f => Sys2Proof.Machine.execCrumbStl f s
  | .crumbRetv f => Sys2Proof.Machine.execCrumbRetv f s
  | .crumbLdp f => Sys2Proof.Machine.execCrumbLdp f s
  | .crumbHash f => Sys2Proof.Machine.execCrumbHash f s
  | .crumbBr f => Sys2Proof.Machine.execCrumbBr f s
  | .crumbMapok f => Sys2Proof.Machine.execCrumbMapok f s
  | .crumbMapno f => Sys2Proof.Machine.execCrumbMapno f s
  | .crumbMapflt f => Sys2Proof.Machine.execCrumbMapflt f s
  | .leaseEnd line byRequest => Sys2Proof.Machine.execLeaseEnd line byRequest s
  | .walkRequest who => Sys2Proof.Machine.execWalkRequest who s
  | .pageRequestResponse by_ part seq grant exts => Sys2Proof.Machine.execPageRequestResponse by_ part seq grant exts s
  | .queueMap by_ fe slot q n world space fn => Sys2Proof.Machine.execQueueMap by_ fe slot q n world space fn s
  | .queueUnmap by_ fe slot => Sys2Proof.Machine.execQueueUnmap by_ fe slot s
  | .compactorMove kind gid => Sys2Proof.Machine.execCompactorMove kind gid s
  | .tokenBucketWrite by_ fn fld value => Sys2Proof.Machine.execTokenBucketWrite by_ fn fld value s
  | .preempt by_ fe slot => Sys2Proof.Machine.execPreempt by_ fe slot s
  | .restore by_ fe slot => Sys2Proof.Machine.execRestore by_ fe slot s
  | .queueReset by_ fe slot => Sys2Proof.Machine.execQueueReset by_ fe slot s
  | .extentGrant by_ space idx e => Sys2Proof.Machine.execExtentGrant by_ space idx e s
  | .extentChange by_ space idx e => Sys2Proof.Machine.execExtentChange by_ space idx e s
  | .layoutChange by_ c => Sys2Proof.Machine.execLayoutChange by_ c s
  | .worldCreate by_ world part test evFrame doorFrame => Sys2Proof.Machine.execWorldCreate by_ world part test evFrame doorFrame s
  | .evidenceRequest by_ world nonce => Sys2Proof.Machine.execEvidenceRequest by_ world nonce s
  | .keyInstall by_ m => Sys2Proof.Machine.execKeyInstall by_ m s
  | .measuredLoad by_ world space src len idx => Sys2Proof.Machine.execMeasuredLoad by_ world space src len idx s
  | .revocation by_ world => Sys2Proof.Machine.execRevocation by_ world s
  | .interfaceUnlocked world err => Sys2Proof.Machine.execInterfaceUnlocked world err s
  | .tdispBind by_ world fn => Sys2Proof.Machine.execTdispBind by_ world fn s
  | .allowlistDenied fn bar offset write => Sys2Proof.Machine.execAllowlistDenied fn bar offset write s
  | .hostWindowAccess fn offset write bytes => Sys2Proof.Machine.execHostWindowAccess fn offset write bytes s
  | .submissionCommit fn e data target q => Sys2Proof.Machine.execSubmissionCommit fn e data target q s
  | .doeRequest by_ fn k => Sys2Proof.Machine.execDoeRequest by_ fn k s
  | .claim by_ => Sys2Proof.Machine.execClaim by_ s
  | .handover by_ to_ => Sys2Proof.Machine.execHandover by_ to_ s
  | .accept by_ => Sys2Proof.Machine.execAccept by_ s
  | .force by_ => Sys2Proof.Machine.execForce by_ s
  | .deviceReset signed => Sys2Proof.Machine.execDeviceReset signed s
  | .powerCapSet by_ watts => Sys2Proof.Machine.execPowerCapSet by_ watts s
  | .thermalLimit nougat unit celsius => Sys2Proof.Machine.execThermalLimit nougat unit celsius s
  | .spaceCreate by_ space world arenaPa walkerPa => Sys2Proof.Machine.execSpaceCreate by_ space world arenaPa walkerPa s
  | .issueCycle => Sys2Proof.Machine.execIssueCycle s
  | .claimDeadlock => Sys2Proof.Machine.execClaimDeadlock s
  | .barrierStarved => Sys2Proof.Machine.execBarrierStarved s
  | .transferLands => Sys2Proof.Machine.execTransferLands s
  | .bulkSectorLands => Sys2Proof.Machine.execBulkSectorLands s
  | .bulkStoreSectorCredit => Sys2Proof.Machine.execBulkStoreSectorCredit s
  | .matrixArmedStart => Sys2Proof.Machine.execMatrixArmedStart s
  | .matrixComplete => Sys2Proof.Machine.execMatrixComplete s
  | .predictorDecay => Sys2Proof.Machine.execPredictorDecay s
  | .shippedAtomic => Sys2Proof.Machine.execShippedAtomic s
  | .l1LineExpiry => Sys2Proof.Machine.execL1LineExpiry s
  | .invocationArrival => Sys2Proof.Machine.execInvocationArrival s
  | .invocationRun => Sys2Proof.Machine.execInvocationRun s
  | .invocationReturn => Sys2Proof.Machine.execInvocationReturn s
  | .routineImageDrop => Sys2Proof.Machine.execRoutineImageDrop s
  | .walkStart => Sys2Proof.Machine.execWalkStart s
  | .heldWalkRecheck => Sys2Proof.Machine.execHeldWalkRecheck s
  | .rds => Sys2Proof.Machine.execRds s
  | .rdx => Sys2Proof.Machine.execRdx s
  | .upg => Sys2Proof.Machine.execUpg s
  | .wbd => Sys2Proof.Machine.execWbd s
  | .evc => Sys2Proof.Machine.execEvc s
  | .fws => Sys2Proof.Machine.execFws s
  | .fwx => Sys2Proof.Machine.execFwx s
  | .inv => Sys2Proof.Machine.execInv s
  | .rcl => Sys2Proof.Machine.execRcl s
  | .hrc => Sys2Proof.Machine.execHrc s
  | .hrs => Sys2Proof.Machine.execHrs s
  | .hrx => Sys2Proof.Machine.execHrx s
  | .hwb => Sys2Proof.Machine.execHwb s
  | .rel => Sys2Proof.Machine.execRel s
  | .spl => Sys2Proof.Machine.execSpl s
  | .prb => Sys2Proof.Machine.execPrb s
  | .dat => Sys2Proof.Machine.execDat s
  | .dak => Sys2Proof.Machine.execDak s
  | .iak => Sys2Proof.Machine.execIak s
  | .wak => Sys2Proof.Machine.execWak s
  | .recallTimeout => Sys2Proof.Machine.execRecallTimeout s
  | .nougatLost => Sys2Proof.Machine.execNougatLost s
  | .doorbell => Sys2Proof.Machine.execDoorbell s
  | .nopPacket => Sys2Proof.Machine.execNopPacket s
  | .bundle => Sys2Proof.Machine.execBundle s
  | .wait => Sys2Proof.Machine.execWait s
  | .waitSatisfied => Sys2Proof.Machine.execWaitSatisfied s
  | .copySublaunch => Sys2Proof.Machine.execCopySublaunch s
  | .fillSublaunch => Sys2Proof.Machine.execFillSublaunch s
  | .gridEnd => Sys2Proof.Machine.execGridEnd s
  | .bundleRetire => Sys2Proof.Machine.execBundleRetire s
  | .teamPlacement => Sys2Proof.Machine.execTeamPlacement s
  | .coresidentPlacement => Sys2Proof.Machine.execCoresidentPlacement s
  | .twinPlacement => Sys2Proof.Machine.execTwinPlacement s
  | .bucketUpdate => Sys2Proof.Machine.execBucketUpdate s
  | .engineQuiesced => Sys2Proof.Machine.execEngineQuiesced s
  | .scrub => Sys2Proof.Machine.execScrub s
  | .rollback => Sys2Proof.Machine.execRollback s
  | .bundleDiscarded => Sys2Proof.Machine.execBundleDiscarded s
  | .compareEntry => Sys2Proof.Machine.execCompareEntry s
  | .extentFillDone => Sys2Proof.Machine.execExtentFillDone s
  | .hostDoorbellWrite => Sys2Proof.Machine.execHostDoorbellWrite s
  | .doorbellFrameStore => Sys2Proof.Machine.execDoorbellFrameStore s
  | .controlPairMismatch => Sys2Proof.Machine.execControlPairMismatch s
  | .handoverTimeout => Sys2Proof.Machine.execHandoverTimeout s
  | .cxlLinkFailure => Sys2Proof.Machine.execCxlLinkFailure s
  | .powerAverage => Sys2Proof.Machine.execPowerAverage s
  | .walkerStoreDrop => Sys2Proof.Machine.execWalkerStoreDrop s
  | .loadReturn => Sys2Proof.Machine.execLoadReturn s
  | .configurationRequest => Sys2Proof.Machine.execConfigurationRequest s

end Sys2Proof.Machine
end

