-- ==== Sys2Proof/Machine/Todo.lean ====
section
/-! DEFINITION. What the next step executes: the word at hand, a word of an engine, or a move of the agenda; what upsets do (R131, R407, R411);
and what a held line makes wait (R276, R277). -/

namespace Sys2Proof.Machine

/-! ### What the next step executes -/

/-- What the next step does: an instruction or event to execute, the state at which to execute it and the move that asked for
it; or an outcome. -/
inductive Todo where
  | run (i : Instr) (s : State)
  | done (o : Out)

/-- Whether every byte that a write would give memory is backed (R6). -/
def unbackedWrite (s : State) (id : Nat) : Option Nat :=
  match s.writes.find? (fun w => w.id == id) with
  | some w => if backed s w.pa then none else some w.pa
  | none => none

/-- The word of an engine (R262, R313): a walk ends instead of executing its 513th word; an illegal word faults. (DEDUCED, log 33.)
(DEDUCED, log 95.) -/
def crumbTodo (s : State) (e : Engine) : Todo :=
  let go (s : State) : Todo :=
    match (cWords s e)[cIdx s e]? with
    | none => .done (.next s)
    | some w =>
      match decodeCrumb w with
      | .ok i => .run i { s with cur := .crumb e w }
      | .error _ => .done (.next (crumbFault s e 1 1))
  match e with
  | .slice k => if (sliceAt s k).inv.isNone then .done (.next s) else go s
  | .walker w =>
    let x := walkerAt s w
    if x.req.isNone then .done (.next s)
    else if x.words ≥ 512 then .done (.next (walkerFault s w .walkLimit 1 x.last 0))
    else go (onWalker s w (fun x => { x with last := x.idx, words := x.words + 1 }))

/-! ### Upsets (R131, R266, R407, R411) -/

/-- An error enters an array of a group: a second one of a word makes it uncorrectable. -/
def addRegErr (e : RegErr) (g : Group) : Group :=
  let same (x : RegErr) : Bool := x.array == e.array && x.reg == e.reg && x.lane == e.lane
  { g with regErrs := { e with single := e.single && !g.regErrs.any same } :: g.regErrs.filter (fun x => !same x) }

/-- Bits of stored bytes that change, with those that have changed already (R407). -/
def mergeUpset (old new : List (Nat × Byte)) : List (Nat × Byte) :=
  (new.foldl (fun m b => mput m b.1 (mval m 0#8 b.1 ^^^ b.2)) old).filter (fun b => b.2 != 0#8 && decide (b.1 < 72))

/-- An error in a coded word of an array: a single-bit error is corrected and counted, any other has an effect. -/
def onUpset (single : Bool) (s : State) (world : Option Nat) (kind index sub : Nat) (hard : State → State) : State :=
  if single then noteCorrection s world kind index sub else hard s

/-- A dirty sector of a cache is poisoned (R409). -/
def poisonSector (s : State) (sec : Nat) : State := { s with poison := mput s.poison sec false }

/-- What an upset does (R131, R407, R411): an error that waits in an array is met by its next read; of a cache, a directory, a key table or a
session slot, where it is met is not modelled: what it leads to happens at once. (DESIGN CHOICE, log 31.) -/
def strike (s : State) : Upset → State
  | .memory unit bytes =>
    if 64 * unit ≥ hbmEnd then s
    else
      match mergeUpset (mval s.upsets [] unit) bytes with
      | [] => { s with upsets := mdel s.upsets unit }
      | bs => { s with upsets := mput s.upsets unit bs }
  | .array gid array reg lane single =>
    match mget s.groups gid with
    | none => s
    | some g =>
      if 1 ≤ array && array ≤ 5 then onGroup s gid (addRegErr ⟨array, reg, lane, single⟩)
      else if array = 6 || array = 7 then
        onTeam s g.team (fun t => if t.rollbacks then { t with imageErrs := (if single then array + 2 ^ 8 else array) :: t.imageErrs } else t)
      else s
  | .slot tid word single =>
    onTeam s tid (fun t =>
      if t.scratch ≤ 8 * word || t.spErrs.contains word then t
      else if single && !t.spSingle.contains word then { t with spSingle := word :: t.spSingle }
      else { t with spErrs := word :: t.spErrs, spSingle := t.spSingle.filter (· != word) })
  | .result gid lane flip => onGroup s gid (fun g => { g with strikes := mput g.strikes lane flip })
  | .element gid acc elem flip => onGroup s gid (fun g => { g with accStrikes := mput g.accStrikes (128 * acc + elem) flip })
  | .crumb e flip =>
    match e with
    | .slice k => onSlice s k (fun x => { x with strike := flip })
    | .walker w => onWalker s w (fun x => { x with strike := flip })
  | .l2 sec single =>
    match l2Of s (sec / 4) with
    | some x => onUpset single s (some x.world) 5 (homeSlice (32 * sec)) 0x0B (fun s => if x.dirty then poisonSector s sec else s)
    | none => s
  | .rdc die sec single =>
    match rdcOf s die (sec / 4) with
    | some x => onUpset single s (some x.world) 1 die 0x0C (fun s => if x.dirty then poisonSector s sec else s)
    | none => s
  | .almanac line single =>
    if (almOf s line).isSome then onUpset single s none 2 (halfOf line) 0x0D coherenceFatal else s
  | .backstop die single => if (dieOf s die).backstop.isEmpty then s else onUpset single s none 1 die 0x0E coherenceFatal
  | .icache core world vline =>
    { s with cores := mupd s.cores core (fun c => { c with icache := c.icache.filter (fun x => !(x.world == world && x.vline == vline)) }) }
  | .keyTable die world single =>
    if (mget (dieOf s die).keys world).isNone then s
    else onUpset single s (some world) 1 die 0x10 (fun s => loseWorld (report s (some world) 0x51 1 die 0x10) world)
  | .sessions world single =>
    if (mget s.worlds world).isNone then s
    else onUpset single s (some world) 0 0 0x11 (fun s => loseWorld (report s (some world) 0x51 0 0 0x11) world)
  | .team tid array single =>
    onTeam s tid (fun t =>
      if t.rollbacks && (array == 8 || (array == 0x0A && !t.undo.isEmpty)) then
        { t with imageErrs := (if single then array + 2 ^ 8 else array) :: t.imageErrs }
      else t)
where
  /-- The control pair revokes a world on its own account (R397, R411). -/
  loseWorld (s : State) (w : Nat) : State :=
    if ((mget s.worlds w).map (·.revoking)).getD true then s else revokeStep (beginRevoke s w) w

/-- What a move of the agenda asks for. (DESIGN CHOICE, log 25.) -/
def moveTodo (s : State) : Move → Todo
  | .event i args => .run i { s with args := args }
  | .crumb e => crumbTodo s e
  | .drain id =>
    match unbackedWrite s id with
    | some pa => .done (.fault (.unbacked pa))
    | none => .done (.next (settle (drain s id)))
  | .reach id agent => .done (.next (reach s id agent))
  | .strike u => .done (.next (strike s u))
  | .tick => .done (.next (tick s))

/-- What the next step executes. -/
def todo (s : State) : Todo :=
  match s.cur with
  | .word c =>
    match decode c.word with
    | .ok (.one i) => .run i s
    | .ok (.two i0 i1) =>
      let s' := beginPair i0 i1 s
      match s'.cur with
      | .pair _ _ _ => .run i0 s'
      | _ => .done (.next s')
    | .error _ => .done (.next (withWord s fun s c _ _ => takeTrap s c.gid .illegal c.mask c.pc 0#64 0#64))
  | .pair c slot _ =>
    match decode c.word with
    | .ok (.two i0 i1) => .run (if slot = 0 then i0 else i1) s
    | _ => .done (.next { s with cur := .idle })
  | .crumb _ w =>
    match decodeCrumb w with
    | .ok i => .run i s
    | .error _ => .done (.next { s with cur := .idle })
  | .idle =>
    match s.agenda with
    | [] => .done (.next (tick s))
    | m :: ms => moveTodo { s with agenda := ms } m

/-! ### Held lines (R276, R277) -/

/-- Whether bytes lie in a line. -/
def onLine (line pa n : Nat) : Bool := decide (pa < 128 * line + 128) && decide (128 * line < pa + n)

/-- Whether a step changes what a held line's memory holds: its bytes, their form, or its writes at home. -/
def lineChanged (s t : State) (line : Nat) : Bool :=
  let pa := 128 * line
  let ws (x : State) := x.writes.filter (fun w => w.home && w.overlaps pa 128)
  ws s != ws t || memGetBytes s.mem pa 128 != memGetBytes t.mem pa 128

/-- Whether a step performs a lane of a load or atomic on a line. -/
def lanePerformed (s t : State) (line : Nat) : Bool :=
  s.groups.any (fun p => (mget t.groups p.1).isSome && p.2.flights.any (fun x => x.parts.any (fun q =>
    (mget x.vals q.lane).isNone && q.pieces.any (fun r => onLine line r.2.1 r.2.2) &&
      !((flightOf t p.1 x.id).map (fun y => (mget y.2.vals q.lane).isNone)).getD false)))

/-- The destination sectors for which a copy has bytes of a line still to read. -/
def Copy.toRead (c : Copy) (line : Nat) : List Nat :=
  let unread (sec : Nat) : Bool := (mget c.got sec).isNone && (mget c.failed sec).isNone
  match c.kind with
  | .acp _ _ _ _ src => if src.any (fun r => onLine line r.2.1 r.2.2) && unread c.sec then [c.sec] else []
  | .bulk _ _ store _ _ _ sectors =>
    if store then [] else (sectors.filter (fun q => q.2.any (fun b => b.2.1.any (fun pa => onLine line pa 1)) && unread q.1)).map (·.1)

/-- Whether a step reads bytes of a line for a copy. -/
def copyRead (s t : State) (line : Nat) : Bool :=
  s.copies.any (fun p => (mget t.teams p.2.team).isSome && (p.2.toRead line).any (fun sec =>
    !((mget t.copies p.1).map (fun c => (c.toRead line).contains sec)).getD false))

/-- The slice at which a move of the agenda waits before anything of it is done: a coherence message for a line that is held at the home, and a
shipped atomic whose engine is at work (R277). -/
def heldMove (s : State) : Move → Option Nat
  | .event i [id] =>
    let coherence : Option Nat := (mget s.msgs id).bind (fun m => if m.dst = homeOf m.line then holderOf s m.line else none)
    match i with
    | .hrs => coherence
    | .hrx => coherence
    | .fws => coherence
    | .fwx => coherence
    | .inv => coherence
    | .rcl => coherence
    | .shippedAtomic =>
      (mget s.shipped id).bind (fun h => if (sliceAt s (homeSlice (128 * h.line))).inv.isSome then some (homeSlice (128 * h.line)) else none)
    | _ => none
  | _ => none

/-- A held line waits for its routine (R276, R277): a word or move that would write it, give a write of it its place, or read it beyond a
core's L1 is not performed yet. The word of a group waits, and a move of the agenda waits at the slice, to be served in the order of
arrival. (DESIGN CHOICE, log 89.) -/
def lineGuard (s : State) (o : Out) : Out :=
  match o with
  | .next t =>
    match (heldLines s).find? (fun ln => (heldLines t).contains ln && (lineChanged s t ln || lanePerformed s t ln || copyRead s t ln)) with
    | none => o
    | some ln =>
      match s.cur with
      | .word c => .next { onGroup s c.gid (fun g => { g with resume := some c, holds := .line ln :: g.holds }) with cur := .idle }
      | _ =>
        match s.agenda, holderOf s ln with
        | m :: ms, some k => .next (waitAtSlice { s with cur := .idle, agenda := ms } k m)
        | _, _ => .next { s with cur := .idle, agenda := s.agenda.tail }
  | _ => o

/-- What the next step executes, a move that must wait at a slice waiting there. -/
def nextTodo (s : State) : Todo :=
  match s.cur, s.agenda with
  | .idle, m :: ms =>
    match heldMove s m with
    | some k => .done (.next (waitAtSlice { s with agenda := ms } k m))
    | none => todo s
  | _, _ => todo s

end Sys2Proof.Machine
end

