-- ==== Sys2Proof/Machine/Step.lean ====
section
/-! DEFINITION. One step of the machine, and the placing of an instruction where the next step executes it. -/

namespace Sys2Proof.Machine

/-- One step: the word at hand, or the next move of the agenda; with neither, a core clock passes. -/
def step (s : State) : Host.Outcome State Fault Refusal :=
  lineGuard s (match nextTodo s with
    | .run i s' => exec i s'
    | .done o => o)

/-- `s` with an instruction stored where `step` executes it next (DESIGN CHOICE, log 11). -/
def State.withFetchWord (s : State) (nbits w : Nat) : State := placeInstr s nbits w

end Sys2Proof.Machine
end

