-- ==== Sys2Proof/Laws/PerInstr.lean ====
section
/-! SUPPORT. The round trip of encoder and decoder, one lemma per constructor: a well-formed instruction that has a word
is what its word decodes to (R48 to R66, R260 to R271). -/

namespace Sys2Proof.Laws

open Sys2Proof Sys2Proof.Machine

theorem sformOf_encodeS (maj : Nat) (f : SForm) : sformOf (encodeS maj f) = f := by
  obtain ⟨pg, pn, d, a, b, c, lq, nw, hd, ru, fn⟩ := f
  simp only [sformOf, encodeS, SForm.mk.injEq]
  refine ⟨?_, ?_, ?_, ?_, ?_, ?_, ?_, ?_, ?_, ?_, ?_⟩
  all_goals
    repeat first
      | exact BitVec.extractLsb'_eq_self
      | rw [BitVec.extractLsb'_append_eq_of_le (by decide)]
      | rw [BitVec.extractLsb'_append_eq_of_add_le (by decide)]
      | rw [BitVec.getLsbD_append, if_neg (by decide)]
      | rw [BitVec.getLsbD_append, if_pos (by decide)]
  all_goals simp

theorem majOf_encodeS (maj : Nat) (f : SForm) (h : maj < 128) : ((encodeS maj f).extractLsb' 56 7).toNat = maj := by
  have e : (encodeS maj f).extractLsb' 56 7 = BitVec.ofNat 7 maj := by
    unfold encodeS
    repeat first
      | exact BitVec.extractLsb'_eq_self
      | rw [BitVec.extractLsb'_append_eq_of_le (by decide)]
      | rw [BitVec.extractLsb'_append_eq_of_add_le (by decide)]
  rw [e, BitVec.toNat_ofNat]; omega

theorem kOf_encodeS (maj : Nat) (f : SForm) : (encodeS maj f).getLsbD 63 = false := by
  unfold encodeS
  repeat first
    | rw [BitVec.getLsbD_append, if_neg (by decide)]
    | rw [BitVec.getLsbD_append, if_pos (by decide)]
  simp

theorem siformOf_encodeSI (maj : Nat) (f : SIForm) : siformOf (encodeSI maj f) = f := by
  obtain ⟨pg, pn, d, a, imm, ud, f3⟩ := f
  simp only [siformOf, encodeSI, SIForm.mk.injEq]
  refine ⟨?_, ?_, ?_, ?_, ?_, ?_, ?_⟩
  all_goals
    repeat first
      | exact BitVec.extractLsb'_eq_self
      | rw [BitVec.extractLsb'_append_eq_of_le (by decide)]
      | rw [BitVec.extractLsb'_append_eq_of_add_le (by decide)]
      | rw [BitVec.getLsbD_append, if_neg (by decide)]
      | rw [BitVec.getLsbD_append, if_pos (by decide)]
  all_goals simp

theorem majOf_encodeSI (maj : Nat) (f : SIForm) (h : maj < 128) : ((encodeSI maj f).extractLsb' 56 7).toNat = maj := by
  have e : (encodeSI maj f).extractLsb' 56 7 = BitVec.ofNat 7 maj := by
    unfold encodeSI
    repeat first
      | exact BitVec.extractLsb'_eq_self
      | rw [BitVec.extractLsb'_append_eq_of_le (by decide)]
      | rw [BitVec.extractLsb'_append_eq_of_add_le (by decide)]
  rw [e, BitVec.toNat_ofNat]; omega

theorem kOf_encodeSI (maj : Nat) (f : SIForm) : (encodeSI maj f).getLsbD 63 = false := by
  unfold encodeSI
  repeat first
    | rw [BitVec.getLsbD_append, if_neg (by decide)]
    | rw [BitVec.getLsbD_append, if_pos (by decide)]
  simp

theorem pslotOf_encodeP (pop : Nat) (f : PSlot) : pslotOf (encodeP pop f) = f := by
  obtain ⟨pg3, d, a, pm⟩ := f
  simp only [pslotOf, encodeP, PSlot.mk.injEq]
  refine ⟨?_, ?_, ?_, ?_⟩
  all_goals
    repeat first
      | exact BitVec.extractLsb'_eq_self
      | rw [BitVec.extractLsb'_append_eq_of_le (by decide)]
      | rw [BitVec.extractLsb'_append_eq_of_add_le (by decide)]

theorem popOf_encodeP (pop : Nat) (f : PSlot) (h : pop < 64) : ((encodeP pop f).extractLsb' 25 6).toNat = pop := by
  have e : (encodeP pop f).extractLsb' 25 6 = BitVec.ofNat 6 pop := by
    unfold encodeP
    repeat first
      | exact BitVec.extractLsb'_eq_self
      | rw [BitVec.extractLsb'_append_eq_of_le (by decide)]
      | rw [BitVec.extractLsb'_append_eq_of_add_le (by decide)]
  rw [e, BitVec.toNat_ofNat]; omega

theorem cformOf_encodeC (op : Nat) (f : CForm) : cformOf (encodeC op f) = f := by
  obtain ⟨rd, ra, rb, imm⟩ := f
  simp only [cformOf, encodeC, CForm.mk.injEq]
  refine ⟨?_, ?_, ?_, ?_⟩
  all_goals
    repeat first
      | exact BitVec.extractLsb'_eq_self
      | rw [BitVec.extractLsb'_append_eq_of_le (by decide)]
      | rw [BitVec.extractLsb'_append_eq_of_add_le (by decide)]

theorem opOf_encodeC (op : Nat) (f : CForm) (h : op < 64) : ((encodeC op f).extractLsb' 26 6).toNat = op := by
  have e : (encodeC op f).extractLsb' 26 6 = BitVec.ofNat 6 op := by
    unfold encodeC
    repeat first
      | exact BitVec.extractLsb'_eq_self
      | rw [BitVec.extractLsb'_append_eq_of_le (by decide)]
      | rw [BitVec.extractLsb'_append_eq_of_add_le (by decide)]
  rw [e, BitVec.toNat_ofNat]; omega

/-- A single-form word of a major and fields decodes to the operation that they name, if its entry allows it. -/
theorem decoded_encodeS {maj : Nat} {f : SForm} {i : Instr} (hm : maj < 128) (h : ∀ w, singleOp maj f w = some i)
    (hw : i.wellFormed = true) : (Word.fjodo (encodeS maj f)).decoded = some i := by
  simp only [Word.decoded, decode, kOf_encodeS, decodeSingle, majOf_encodeS maj f hm, sformOf_encodeS, h, accept, hw,
    Bool.false_eq_true, if_false, if_true]

theorem decoded_encodeSI {maj : Nat} {f : SIForm} {i : Instr} (hm : maj < 128)
    (h : ∀ g w, siformOf w = f → singleOp maj g w = some i)
    (hw : i.wellFormed = true) : (Word.fjodo (encodeSI maj f)).decoded = some i := by
  simp only [Word.decoded, decode, kOf_encodeSI, decodeSingle, majOf_encodeSI maj f hm, h _ _ (siformOf_encodeSI maj f),
    accept, hw, Bool.false_eq_true, if_false, if_true]

theorem decoded_encodeP {pop : Nat} {f : PSlot} {i : Instr} (hm : pop < 64) (h : slotOp pop f = some i)
    (hw : i.wellFormed = true) : (Word.slot (encodeP pop f)).decoded = some i := by
  simp only [Word.decoded, decodeSlot, popOf_encodeP pop f hm, pslotOf_encodeP, h, accept, hw, if_true, Except.toOption]

theorem decoded_encodeC {op : Nat} {f : CForm} {i : Instr} (hm : op < 64) (h : crumbOp op f = some i)
    (hw : i.wellFormed = true) : (Word.crumb (encodeC op f)).decoded = some i := by
  simp only [Word.decoded, decodeCrumb, opOf_encodeC op f hm, cformOf_encodeC, h, accept, hw, if_true, Except.toOption]

/-- A field of FN all of whose bits an entry requires to be zero is zero. -/
theorem fnField_zero {f : SForm} {m lo len : Nat} (h : fnZero f m = true)
    (hm : ∀ k, k < len → m.testBit (lo + k) = true) : fnField f lo len = 0 := by
  have h0 : f.fn.toNat &&& m = 0 := by simpa [fnZero] using h
  apply Nat.eq_of_testBit_eq
  intro k
  simp only [fnField, slice, Nat.testBit_mod_two_pow, Nat.testBit_shiftRight, Nat.zero_testBit]
  by_cases hk : k < len
  · have := congrArg (fun n => n.testBit (lo + k)) h0
    simpa [Nat.testBit_and, hm k hk, hk] using this
  · simp [hk]

/-- A one-bit field of FN is 1 when its bit is set. -/
theorem fnField_one {f : SForm} {k : Nat} (h : fnBit f k = true) : fnField f k 1 = 1 := by
  have : f.fn.toNat.testBit k = true := h
  simpa [fnField, slice, Nat.testBit, Nat.and_one_is_mod, bne_iff_ne, Nat.and_comm] using this

theorem fnZero_bit {f : SForm} {m k : Nat} (h : fnZero f m = true) (hm : m.testBit k = true) : fnBit f k = false := by
  have h0 : f.fn.toNat &&& m = 0 := by simpa [fnZero] using h
  have := congrArg (fun n => n.testBit k) h0
  change f.fn.toNat.testBit k = false
  simpa [Nat.testBit_and, hm] using this

theorem fnField_two {f : SForm} {k : Nat} : fnField f k 2 = (fnBit f k).toNat + 2 * (fnBit f (k + 1)).toNat := by
  have e : ∀ j, fnBit f j = f.fn.toNat.testBit j := fun _ => rfl
  simp only [e, fnField, slice, Nat.testBit_eq_decide_div_mod_eq, Nat.shiftRight_eq_div_pow, Nat.pow_succ, ← Nat.div_div_eq_div_mul]
  generalize f.fn.toNat / 2 ^ k = n
  rcases Nat.mod_two_eq_zero_or_one n with h | h <;> rcases Nat.mod_two_eq_zero_or_one (n / 2) with h' | h' <;> simp [h, h'] <;> omega

namespace RoundTrip

/-- Decoding what the encoder writes for a well-formed instruction gives the instruction, with every operand; an event of
the part has no word. -/
def Statement (i : Instr) : Prop := i.wellFormed = true → encode i = .none ∨ (encode i).decoded = some i

theorem issueCycle : Statement .issueCycle := fun _ => .inl rfl
theorem claimDeadlock : Statement .claimDeadlock := fun _ => .inl rfl
theorem barrierStarved : Statement .barrierStarved := fun _ => .inl rfl
theorem transferLands : Statement .transferLands := fun _ => .inl rfl
theorem bulkSectorLands : Statement .bulkSectorLands := fun _ => .inl rfl
theorem bulkStoreSectorCredit : Statement .bulkStoreSectorCredit := fun _ => .inl rfl
theorem matrixArmedStart : Statement .matrixArmedStart := fun _ => .inl rfl
theorem matrixComplete : Statement .matrixComplete := fun _ => .inl rfl
theorem leaseEnd : ∀ a0 a1, Statement (.leaseEnd a0 a1) := by
  intros; exact fun _ => .inl rfl
theorem predictorDecay : Statement .predictorDecay := fun _ => .inl rfl
theorem shippedAtomic : Statement .shippedAtomic := fun _ => .inl rfl
theorem l1LineExpiry : Statement .l1LineExpiry := fun _ => .inl rfl
theorem invocationArrival : Statement .invocationArrival := fun _ => .inl rfl
theorem invocationRun : Statement .invocationRun := fun _ => .inl rfl
theorem invocationReturn : Statement .invocationReturn := fun _ => .inl rfl
theorem routineImageDrop : Statement .routineImageDrop := fun _ => .inl rfl
theorem walkRequest : ∀ a0, Statement (.walkRequest a0) := by
  intros; exact fun _ => .inl rfl
theorem walkStart : Statement .walkStart := fun _ => .inl rfl
theorem heldWalkRecheck : Statement .heldWalkRecheck := fun _ => .inl rfl
theorem pageRequestResponse : ∀ a0 a1 a2 a3 a4, Statement (.pageRequestResponse a0 a1 a2 a3 a4) := by
  intros; exact fun _ => .inl rfl
theorem rds : Statement .rds := fun _ => .inl rfl
theorem rdx : Statement .rdx := fun _ => .inl rfl
theorem upg : Statement .upg := fun _ => .inl rfl
theorem wbd : Statement .wbd := fun _ => .inl rfl
theorem evc : Statement .evc := fun _ => .inl rfl
theorem fws : Statement .fws := fun _ => .inl rfl
theorem fwx : Statement .fwx := fun _ => .inl rfl
theorem inv : Statement .inv := fun _ => .inl rfl
theorem rcl : Statement .rcl := fun _ => .inl rfl
theorem hrc : Statement .hrc := fun _ => .inl rfl
theorem hrs : Statement .hrs := fun _ => .inl rfl
theorem hrx : Statement .hrx := fun _ => .inl rfl
theorem hwb : Statement .hwb := fun _ => .inl rfl
theorem rel : Statement .rel := fun _ => .inl rfl
theorem spl : Statement .spl := fun _ => .inl rfl
theorem prb : Statement .prb := fun _ => .inl rfl
theorem dat : Statement .dat := fun _ => .inl rfl
theorem dak : Statement .dak := fun _ => .inl rfl
theorem iak : Statement .iak := fun _ => .inl rfl
theorem wak : Statement .wak := fun _ => .inl rfl
theorem recallTimeout : Statement .recallTimeout := fun _ => .inl rfl
theorem nougatLost : Statement .nougatLost := fun _ => .inl rfl
theorem queueMap : ∀ a0 a1 a2 a3 a4 a5 a6 a7, Statement (.queueMap a0 a1 a2 a3 a4 a5 a6 a7) := by
  intros; exact fun _ => .inl rfl
theorem queueUnmap : ∀ a0 a1 a2, Statement (.queueUnmap a0 a1 a2) := by
  intros; exact fun _ => .inl rfl
theorem doorbell : Statement .doorbell := fun _ => .inl rfl
theorem nopPacket : Statement .nopPacket := fun _ => .inl rfl
theorem bundle : Statement .bundle := fun _ => .inl rfl
theorem wait : Statement .wait := fun _ => .inl rfl
theorem waitSatisfied : Statement .waitSatisfied := fun _ => .inl rfl
theorem copySublaunch : Statement .copySublaunch := fun _ => .inl rfl
theorem fillSublaunch : Statement .fillSublaunch := fun _ => .inl rfl
theorem gridEnd : Statement .gridEnd := fun _ => .inl rfl
theorem bundleRetire : Statement .bundleRetire := fun _ => .inl rfl
theorem teamPlacement : Statement .teamPlacement := fun _ => .inl rfl
theorem coresidentPlacement : Statement .coresidentPlacement := fun _ => .inl rfl
theorem twinPlacement : Statement .twinPlacement := fun _ => .inl rfl
theorem compactorMove : ∀ a0 a1, Statement (.compactorMove a0 a1) := by
  intros; exact fun _ => .inl rfl
theorem tokenBucketWrite : ∀ a0 a1 a2 a3, Statement (.tokenBucketWrite a0 a1 a2 a3) := by
  intros; exact fun _ => .inl rfl
theorem bucketUpdate : Statement .bucketUpdate := fun _ => .inl rfl
theorem preempt : ∀ a0 a1 a2, Statement (.preempt a0 a1 a2) := by
  intros; exact fun _ => .inl rfl
theorem engineQuiesced : Statement .engineQuiesced := fun _ => .inl rfl
theorem restore : ∀ a0 a1 a2, Statement (.restore a0 a1 a2) := by
  intros; exact fun _ => .inl rfl
theorem queueReset : ∀ a0 a1 a2, Statement (.queueReset a0 a1 a2) := by
  intros; exact fun _ => .inl rfl
theorem scrub : Statement .scrub := fun _ => .inl rfl
theorem rollback : Statement .rollback := fun _ => .inl rfl
theorem bundleDiscarded : Statement .bundleDiscarded := fun _ => .inl rfl
theorem compareEntry : Statement .compareEntry := fun _ => .inl rfl
theorem extentGrant : ∀ a0 a1 a2 a3, Statement (.extentGrant a0 a1 a2 a3) := by
  intros; exact fun _ => .inl rfl
theorem extentFillDone : Statement .extentFillDone := fun _ => .inl rfl
theorem extentChange : ∀ a0 a1 a2 a3, Statement (.extentChange a0 a1 a2 a3) := by
  intros; exact fun _ => .inl rfl
theorem layoutChange : ∀ a0 a1, Statement (.layoutChange a0 a1) := by
  intros; exact fun _ => .inl rfl
theorem worldCreate : ∀ a0 a1 a2 a3 a4 a5, Statement (.worldCreate a0 a1 a2 a3 a4 a5) := by
  intros; exact fun _ => .inl rfl
theorem evidenceRequest : ∀ a0 a1 a2, Statement (.evidenceRequest a0 a1 a2) := by
  intros; exact fun _ => .inl rfl
theorem keyInstall : ∀ a0 a1, Statement (.keyInstall a0 a1) := by
  intros; exact fun _ => .inl rfl
theorem measuredLoad : ∀ a0 a1 a2 a3 a4 a5, Statement (.measuredLoad a0 a1 a2 a3 a4 a5) := by
  intros; exact fun _ => .inl rfl
theorem revocation : ∀ a0 a1, Statement (.revocation a0 a1) := by
  intros; exact fun _ => .inl rfl
theorem interfaceUnlocked : ∀ a0 a1, Statement (.interfaceUnlocked a0 a1) := by
  intros; exact fun _ => .inl rfl
theorem tdispBind : ∀ a0 a1 a2, Statement (.tdispBind a0 a1 a2) := by
  intros; exact fun _ => .inl rfl
theorem allowlistDenied : ∀ a0 a1 a2 a3, Statement (.allowlistDenied a0 a1 a2 a3) := by
  intros; exact fun _ => .inl rfl
theorem hostWindowAccess : ∀ a0 a1 a2 a3, Statement (.hostWindowAccess a0 a1 a2 a3) := by
  intros; exact fun _ => .inl rfl
theorem hostDoorbellWrite : Statement .hostDoorbellWrite := fun _ => .inl rfl
theorem submissionCommit : ∀ a0 a1 a2 a3 a4, Statement (.submissionCommit a0 a1 a2 a3 a4) := by
  intros; exact fun _ => .inl rfl
theorem doorbellFrameStore : Statement .doorbellFrameStore := fun _ => .inl rfl
theorem doeRequest : ∀ a0 a1 a2, Statement (.doeRequest a0 a1 a2) := by
  intros; exact fun _ => .inl rfl
theorem controlPairMismatch : Statement .controlPairMismatch := fun _ => .inl rfl
theorem claim : ∀ a0, Statement (.claim a0) := by
  intros; exact fun _ => .inl rfl
theorem handover : ∀ a0 a1, Statement (.handover a0 a1) := by
  intros; exact fun _ => .inl rfl
theorem accept : ∀ a0, Statement (.accept a0) := by
  intros; exact fun _ => .inl rfl
theorem handoverTimeout : Statement .handoverTimeout := fun _ => .inl rfl
theorem force : ∀ a0, Statement (.force a0) := by
  intros; exact fun _ => .inl rfl
theorem deviceReset : ∀ a0, Statement (.deviceReset a0) := by
  intros; exact fun _ => .inl rfl
theorem cxlLinkFailure : Statement .cxlLinkFailure := fun _ => .inl rfl
theorem powerCapSet : ∀ a0 a1, Statement (.powerCapSet a0 a1) := by
  intros; exact fun _ => .inl rfl
theorem powerAverage : Statement .powerAverage := fun _ => .inl rfl
theorem thermalLimit : ∀ a0 a1 a2, Statement (.thermalLimit a0 a1 a2) := by
  intros; exact fun _ => .inl rfl
theorem nop (f : SForm) : Statement (.nop f) := fun h => .inr (decoded_encodeS (by decide) (fun _ => rfl) h)
theorem iadd (f : SForm) : Statement (.iadd f) := fun h => .inr (decoded_encodeS (by decide) (fun _ => rfl) h)
theorem isub (f : SForm) : Statement (.isub f) := fun h => .inr (decoded_encodeS (by decide) (fun _ => rfl) h)
theorem iadd3 (f : SForm) : Statement (.iadd3 f) := fun h => .inr (decoded_encodeS (by decide) (fun _ => rfl) h)
theorem imul (f : SForm) : Statement (.imul f) := fun h => .inr (decoded_encodeS (by decide) (fun _ => rfl) h)
theorem imad (f : SForm) : Statement (.imad f) := fun h => .inr (decoded_encodeS (by decide) (fun _ => rfl) h)
theorem imulh (f : SForm) : Statement (.imulh f) := fun h => .inr (decoded_encodeS (by decide) (fun _ => rfl) h)
theorem imin (f : SForm) : Statement (.imin f) := fun h => .inr (decoded_encodeS (by decide) (fun _ => rfl) h)
theorem imax (f : SForm) : Statement (.imax f) := fun h => .inr (decoded_encodeS (by decide) (fun _ => rfl) h)
theorem iabs (f : SForm) : Statement (.iabs f) := fun h => .inr (decoded_encodeS (by decide) (fun _ => rfl) h)
theorem and (f : SForm) : Statement (.and f) := fun h => .inr (decoded_encodeS (by decide) (fun _ => rfl) h)
theorem or (f : SForm) : Statement (.or f) := fun h => .inr (decoded_encodeS (by decide) (fun _ => rfl) h)
theorem xor (f : SForm) : Statement (.xor f) := fun h => .inr (decoded_encodeS (by decide) (fun _ => rfl) h)
theorem tern (f : SForm) : Statement (.tern f) := fun h => .inr (decoded_encodeS (by decide) (fun _ => rfl) h)
theorem lea (f : SForm) : Statement (.lea f) := fun h => .inr (decoded_encodeS (by decide) (fun _ => rfl) h)
theorem movi (f : SIForm) : Statement (.movi f) := fun h =>
  .inr (decoded_encodeSI (by decide) (fun _ _ e => by simp only [singleOp, e]) h)
theorem iaddi (f : SIForm) : Statement (.iaddi f) := fun h =>
  .inr (decoded_encodeSI (by decide) (fun _ _ e => by simp only [singleOp, e]) h)
theorem shl (f : SForm) : Statement (.shl f) := fun h => .inr (decoded_encodeS (by decide) (fun _ => rfl) h)
theorem shr (f : SForm) : Statement (.shr f) := fun h => .inr (decoded_encodeS (by decide) (fun _ => rfl) h)
theorem fsh (f : SForm) : Statement (.fsh f) := fun h => .inr (decoded_encodeS (by decide) (fun _ => rfl) h)
theorem bfx (f : SForm) : Statement (.bfx f) := fun h => .inr (decoded_encodeS (by decide) (fun _ => rfl) h)
theorem bfi (f : SForm) : Statement (.bfi f) := fun h => .inr (decoded_encodeS (by decide) (fun _ => rfl) h)
theorem popc (f : SForm) : Statement (.popc f) := fun h => .inr (decoded_encodeS (by decide) (fun _ => rfl) h)
theorem clz (f : SForm) : Statement (.clz f) := fun h => .inr (decoded_encodeS (by decide) (fun _ => rfl) h)
theorem brev (f : SForm) : Statement (.brev f) := fun h => .inr (decoded_encodeS (by decide) (fun _ => rfl) h)
theorem bsel (f : SForm) : Statement (.bsel f) := fun h => .inr (decoded_encodeS (by decide) (fun _ => rfl) h)
theorem isetp (f : SForm) : Statement (.isetp f) := fun h => .inr (decoded_encodeS (by decide) (fun _ => rfl) h)
theorem sel (f : SForm) : Statement (.sel f) := fun h => .inr (decoded_encodeS (by decide) (fun _ => rfl) h)
theorem mov (f : SForm) : Statement (.mov f) := fun h => .inr (decoded_encodeS (by decide) (fun _ => rfl) h)
theorem psetp (f : SForm) : Statement (.psetp f) := fun h => .inr (decoded_encodeS (by decide) (fun _ => rfl) h)
theorem p2v (f : SForm) : Statement (.p2v f) := fun h => .inr (decoded_encodeS (by decide) (fun _ => rfl) h)
theorem v2p (f : SForm) : Statement (.v2p f) := fun h => .inr (decoded_encodeS (by decide) (fun _ => rfl) h)
theorem fadd (f : SForm) : Statement (.fadd f) := fun h => .inr (decoded_encodeS (by decide) (fun _ => rfl) h)
theorem fmul (f : SForm) : Statement (.fmul f) := fun h => .inr (decoded_encodeS (by decide) (fun _ => rfl) h)
theorem ffma (f : SForm) : Statement (.ffma f) := fun h => .inr (decoded_encodeS (by decide) (fun _ => rfl) h)
theorem fmin (f : SForm) : Statement (.fmin f) := fun h => .inr (decoded_encodeS (by decide) (fun _ => rfl) h)
theorem fmax (f : SForm) : Statement (.fmax f) := fun h => .inr (decoded_encodeS (by decide) (fun _ => rfl) h)
theorem fsetp (f : SForm) : Statement (.fsetp f) := fun h => .inr (decoded_encodeS (by decide) (fun _ => rfl) h)
theorem fclass (f : SForm) : Statement (.fclass f) := fun h => .inr (decoded_encodeS (by decide) (fun _ => rfl) h)
theorem frnd (f : SForm) : Statement (.frnd f) := fun h => .inr (decoded_encodeS (by decide) (fun _ => rfl) h)
theorem frcp (f : SForm) : Statement (.frcp f) := by
  intro h
  have s : fnField f 0 3 = 0 := by
    have h' : (aluOk f (Dst.reg false) (Use.src false) Use.no Use.no (fnZero f 0x70 && fnField f 0 3 == 0) true) = true := h
    simp only [aluOk, Bool.and_eq_true, beq_iff_eq] at h'
    simp [h']
  exact .inr (decoded_encodeS (by decide) (fun _ => by change (match fnField f 0 3 with | 0 => some (.frcp f) | 1 => some (.frsq f) | 2 => some (.fsqrt f) | 3 => some (.fex2 f) | 4 => some (.flg2 f) | 5 => some (.fsin f) | 6 => some (.fcos f) | 7 => some (.ftanh f) | _ => none : Option Instr) = _; rw [s]; rfl) h)
theorem frsq (f : SForm) : Statement (.frsq f) := by
  intro h
  have s : fnField f 0 3 = 1 := by
    have h' : (aluOk f (Dst.reg false) (Use.src false) Use.no Use.no (fnZero f 0x70 && fnField f 0 3 == 1) true) = true := h
    simp only [aluOk, Bool.and_eq_true, beq_iff_eq] at h'
    simp [h']
  exact .inr (decoded_encodeS (by decide) (fun _ => by change (match fnField f 0 3 with | 0 => some (.frcp f) | 1 => some (.frsq f) | 2 => some (.fsqrt f) | 3 => some (.fex2 f) | 4 => some (.flg2 f) | 5 => some (.fsin f) | 6 => some (.fcos f) | 7 => some (.ftanh f) | _ => none : Option Instr) = _; rw [s]; rfl) h)
theorem fsqrt (f : SForm) : Statement (.fsqrt f) := by
  intro h
  have s : fnField f 0 3 = 2 := by
    have h' : (aluOk f (Dst.reg false) (Use.src false) Use.no Use.no (fnZero f 0x70 && fnField f 0 3 == 2) true) = true := h
    simp only [aluOk, Bool.and_eq_true, beq_iff_eq] at h'
    simp [h']
  exact .inr (decoded_encodeS (by decide) (fun _ => by change (match fnField f 0 3 with | 0 => some (.frcp f) | 1 => some (.frsq f) | 2 => some (.fsqrt f) | 3 => some (.fex2 f) | 4 => some (.flg2 f) | 5 => some (.fsin f) | 6 => some (.fcos f) | 7 => some (.ftanh f) | _ => none : Option Instr) = _; rw [s]; rfl) h)
theorem fex2 (f : SForm) : Statement (.fex2 f) := by
  intro h
  have s : fnField f 0 3 = 3 := by
    have h' : (aluOk f (Dst.reg false) (Use.src false) Use.no Use.no (fnZero f 0x70 && fnField f 0 3 == 3) true) = true := h
    simp only [aluOk, Bool.and_eq_true, beq_iff_eq] at h'
    simp [h']
  exact .inr (decoded_encodeS (by decide) (fun _ => by change (match fnField f 0 3 with | 0 => some (.frcp f) | 1 => some (.frsq f) | 2 => some (.fsqrt f) | 3 => some (.fex2 f) | 4 => some (.flg2 f) | 5 => some (.fsin f) | 6 => some (.fcos f) | 7 => some (.ftanh f) | _ => none : Option Instr) = _; rw [s]; rfl) h)
theorem flg2 (f : SForm) : Statement (.flg2 f) := by
  intro h
  have s : fnField f 0 3 = 4 := by
    have h' : (aluOk f (Dst.reg false) (Use.src false) Use.no Use.no (fnZero f 0x70 && fnField f 0 3 == 4) true) = true := h
    simp only [aluOk, Bool.and_eq_true, beq_iff_eq] at h'
    simp [h']
  exact .inr (decoded_encodeS (by decide) (fun _ => by change (match fnField f 0 3 with | 0 => some (.frcp f) | 1 => some (.frsq f) | 2 => some (.fsqrt f) | 3 => some (.fex2 f) | 4 => some (.flg2 f) | 5 => some (.fsin f) | 6 => some (.fcos f) | 7 => some (.ftanh f) | _ => none : Option Instr) = _; rw [s]; rfl) h)
theorem fsin (f : SForm) : Statement (.fsin f) := by
  intro h
  have s : fnField f 0 3 = 5 := by
    have h' : (aluOk f (Dst.reg false) (Use.src false) Use.no Use.no (fnZero f 0x70 && fnField f 0 3 == 5) true) = true := h
    simp only [aluOk, Bool.and_eq_true, beq_iff_eq] at h'
    simp [h']
  exact .inr (decoded_encodeS (by decide) (fun _ => by change (match fnField f 0 3 with | 0 => some (.frcp f) | 1 => some (.frsq f) | 2 => some (.fsqrt f) | 3 => some (.fex2 f) | 4 => some (.flg2 f) | 5 => some (.fsin f) | 6 => some (.fcos f) | 7 => some (.ftanh f) | _ => none : Option Instr) = _; rw [s]; rfl) h)
theorem fcos (f : SForm) : Statement (.fcos f) := by
  intro h
  have s : fnField f 0 3 = 6 := by
    have h' : (aluOk f (Dst.reg false) (Use.src false) Use.no Use.no (fnZero f 0x70 && fnField f 0 3 == 6) true) = true := h
    simp only [aluOk, Bool.and_eq_true, beq_iff_eq] at h'
    simp [h']
  exact .inr (decoded_encodeS (by decide) (fun _ => by change (match fnField f 0 3 with | 0 => some (.frcp f) | 1 => some (.frsq f) | 2 => some (.fsqrt f) | 3 => some (.fex2 f) | 4 => some (.flg2 f) | 5 => some (.fsin f) | 6 => some (.fcos f) | 7 => some (.ftanh f) | _ => none : Option Instr) = _; rw [s]; rfl) h)
theorem ftanh (f : SForm) : Statement (.ftanh f) := by
  intro h
  have s : fnField f 0 3 = 7 := by
    have h' : (aluOk f (Dst.reg false) (Use.src false) Use.no Use.no (fnZero f 0x70 && fnField f 0 3 == 7) true) = true := h
    simp only [aluOk, Bool.and_eq_true, beq_iff_eq] at h'
    simp [h']
  exact .inr (decoded_encodeS (by decide) (fun _ => by change (match fnField f 0 3 with | 0 => some (.frcp f) | 1 => some (.frsq f) | 2 => some (.fsqrt f) | 3 => some (.fex2 f) | 4 => some (.flg2 f) | 5 => some (.fsin f) | 6 => some (.fcos f) | 7 => some (.ftanh f) | _ => none : Option Instr) = _; rw [s]; rfl) h)
theorem dadd (f : SForm) : Statement (.dadd f) := fun h => .inr (decoded_encodeS (by decide) (fun _ => rfl) h)
theorem dmul (f : SForm) : Statement (.dmul f) := fun h => .inr (decoded_encodeS (by decide) (fun _ => rfl) h)
theorem dfma (f : SForm) : Statement (.dfma f) := fun h => .inr (decoded_encodeS (by decide) (fun _ => rfl) h)
theorem fscl (f : SForm) : Statement (.fscl f) := fun h => .inr (decoded_encodeS (by decide) (fun _ => rfl) h)
theorem hadd2 (f : SForm) : Statement (.hadd2 f) := fun h => .inr (decoded_encodeS (by decide) (fun _ => rfl) h)
theorem hmul2 (f : SForm) : Statement (.hmul2 f) := fun h => .inr (decoded_encodeS (by decide) (fun _ => rfl) h)
theorem hfma2 (f : SForm) : Statement (.hfma2 f) := fun h => .inr (decoded_encodeS (by decide) (fun _ => rfl) h)
theorem hmnmx2 (f : SForm) : Statement (.hmnmx2 f) := fun h => .inr (decoded_encodeS (by decide) (fun _ => rfl) h)
theorem pdot4 (f : SForm) : Statement (.pdot4 f) := fun h => .inr (decoded_encodeS (by decide) (fun _ => rfl) h)
theorem pdot8 (f : SForm) : Statement (.pdot8 f) := fun h => .inr (decoded_encodeS (by decide) (fun _ => rfl) h)
theorem f2i (f : SForm) : Statement (.f2i f) := fun h => .inr (decoded_encodeS (by decide) (fun _ => rfl) h)
theorem i2f (f : SForm) : Statement (.i2f f) := fun h => .inr (decoded_encodeS (by decide) (fun _ => rfl) h)
theorem f2f (f : SForm) : Statement (.f2f f) := fun h => .inr (decoded_encodeS (by decide) (fun _ => rfl) h)
theorem pcvt (f : SForm) : Statement (.pcvt f) := fun h => .inr (decoded_encodeS (by decide) (fun _ => rfl) h)
theorem unpk (f : SForm) : Statement (.unpk f) := fun h => .inr (decoded_encodeS (by decide) (fun _ => rfl) h)
theorem ld (f : SForm) : Statement (.ld f) := fun h => .inr (decoded_encodeS (by decide) (fun _ => rfl) h)
theorem st (f : SForm) : Statement (.st f) := fun h => .inr (decoded_encodeS (by decide) (fun _ => rfl) h)
theorem sld (f : SForm) : Statement (.sld f) := fun h => .inr (decoded_encodeS (by decide) (fun _ => rfl) h)
theorem lda (f : SForm) : Statement (.lda f) := fun h => .inr (decoded_encodeS (by decide) (fun _ => rfl) h)
theorem strel (f : SForm) : Statement (.strel f) := fun h => .inr (decoded_encodeS (by decide) (fun _ => rfl) h)
theorem atom (f : SForm) : Statement (.atom f) := fun h => .inr (decoded_encodeS (by decide) (fun _ => rfl) h)
theorem atomx (f : SForm) : Statement (.atomx f) := fun h => .inr (decoded_encodeS (by decide) (fun _ => rfl) h)
theorem red (f : SForm) : Statement (.red f) := fun h => .inr (decoded_encodeS (by decide) (fun _ => rfl) h)
theorem fence (f : SForm) : Statement (.fence f) := fun h => .inr (decoded_encodeS (by decide) (fun _ => rfl) h)
theorem cctlIvl1 (f : SForm) : Statement (.cctlIvl1 f) := by
  intro h
  have s : fnField f 0 3 = 0 := by
    have h' : (ctlOk f false false && fnZero f 0x3FF && f.d == 0#8 && !lqB f && !lqC f && addrOk true f.a (fnBit f 10) (lqA f)) = true := h
    simp only [Bool.and_eq_true, beq_iff_eq] at h'
    exact fnField_zero (m := 0x3FF) (by simp [h']) (by decide)
  exact .inr (decoded_encodeS (by decide) (fun _ => by change (match fnField f 0 3 with | 0 => some (.cctlIvl1 f) | 1 => some (.cctlIvl1All f) | 2 => some (.cctlDemote f) | _ => none : Option Instr) = _; rw [s]; rfl) h)
theorem cctlIvl1All (f : SForm) : Statement (.cctlIvl1All f) := by
  intro h
  have s : fnField f 0 3 = 1 := by
    have h' : (ctlOk f false false && noFields f && fnZero f 0x7F8 && fnField f 0 3 == 1) = true := h
    simp only [Bool.and_eq_true, beq_iff_eq] at h'
    simp [h']
  exact .inr (decoded_encodeS (by decide) (fun _ => by change (match fnField f 0 3 with | 0 => some (.cctlIvl1 f) | 1 => some (.cctlIvl1All f) | 2 => some (.cctlDemote f) | _ => none : Option Instr) = _; rw [s]; rfl) h)
theorem cctlDemote (f : SForm) : Statement (.cctlDemote f) := by
  intro h
  have s : fnField f 0 3 = 2 := by
    have h' : (ctlOk f false false && fnZero f 0x3F8 && fnField f 0 3 == 2 && f.d == 0#8 && !lqB f && !lqC f && addrOk true f.a (fnBit f 10) (lqA f)) = true := h
    simp only [Bool.and_eq_true, beq_iff_eq] at h'
    simp [h']
  exact .inr (decoded_encodeS (by decide) (fun _ => by change (match fnField f 0 3 with | 0 => some (.cctlIvl1 f) | 1 => some (.cctlIvl1All f) | 2 => some (.cctlDemote f) | _ => none : Option Instr) = _; rw [s]; rfl) h)
theorem prf (f : SForm) : Statement (.prf f) := fun h => .inr (decoded_encodeS (by decide) (fun _ => rfl) h)
theorem iflush (f : SForm) : Statement (.iflush f) := fun h => .inr (decoded_encodeS (by decide) (fun _ => rfl) h)
theorem isync (f : SForm) : Statement (.isync f) := fun h => .inr (decoded_encodeS (by decide) (fun _ => rfl) h)
theorem presTest (f : SForm) : Statement (.presTest f) := by
  intro h
  have s : fnField f 0 2 = 0 := by
    have h' : (ctlOk f false false && fnZero f 0x3FF && dstOk Dst.pred f.d && addrOk false f.a (fnBit f 10) (lqA f) && useOk (Use.imm 32) f.b false (lqB f) && f.c == 0#8 && !lqC f) = true := h
    simp only [Bool.and_eq_true, beq_iff_eq] at h'
    exact fnField_zero (m := 0x3FF) (by simp [h']) (by decide)
  exact .inr (decoded_encodeS (by decide) (fun _ => by change (match fnField f 0 2 with | 0 => some (.presTest f) | 1 => some (.presSet f) | 2 => some (.presClr f) | _ => none : Option Instr) = _; rw [s]; rfl) h)
theorem presSet (f : SForm) : Statement (.presSet f) := by
  intro h
  have s : fnField f 0 2 = 1 := by
    have h' : (ctlOk f false false && fnZero f 0x3FC && fnField f 0 2 == 1 && f.d == 0#8 && addrOk false f.a (fnBit f 10) (lqA f) && useOk (Use.imm 32) f.b false (lqB f) && f.c == 0#8 && !lqC f) = true := h
    simp only [Bool.and_eq_true, beq_iff_eq] at h'
    simp [h']
  exact .inr (decoded_encodeS (by decide) (fun _ => by change (match fnField f 0 2 with | 0 => some (.presTest f) | 1 => some (.presSet f) | 2 => some (.presClr f) | _ => none : Option Instr) = _; rw [s]; rfl) h)
theorem presClr (f : SForm) : Statement (.presClr f) := by
  intro h
  have s : fnField f 0 2 = 2 := by
    have h' : (ctlOk f false false && fnZero f 0x3FC && fnField f 0 2 == 2 && f.d == 0#8 && addrOk false f.a (fnBit f 10) (lqA f) && useOk (Use.imm 32) f.b false (lqB f) && f.c == 0#8 && !lqC f) = true := h
    simp only [Bool.and_eq_true, beq_iff_eq] at h'
    simp [h']
  exact .inr (decoded_encodeS (by decide) (fun _ => by change (match fnField f 0 2 with | 0 => some (.presTest f) | 1 => some (.presSet f) | 2 => some (.presClr f) | _ => none : Option Instr) = _; rw [s]; rfl) h)
theorem acp (f : SForm) : Statement (.acp f) := fun h => .inr (decoded_encodeS (by decide) (fun _ => rfl) h)
theorem acpc (f : SForm) : Statement (.acpc f) := fun h => .inr (decoded_encodeS (by decide) (fun _ => rfl) h)
theorem acpw (f : SForm) : Statement (.acpw f) := fun h => .inr (decoded_encodeS (by decide) (fun _ => rfl) h)
theorem bcpLd (f : SForm) : Statement (.bcpLd f) := by
  intro h
  have s : fnField f 10 1 = 0 := by
    have h' : (ctlOk f false false && fnZero f 0x40F && f.d == 0#8 && f.lq == 0#3 && evenOk true f.a && decide (f.c.toNat ≤ 251)) = true := h
    simp only [Bool.and_eq_true, beq_iff_eq] at h'
    exact fnField_zero (m := 0x40F) (by simp [h']) (by decide)
  exact .inr (decoded_encodeS (by decide) (fun _ => by change (match fnField f 10 1 with | 0 => some (.bcpLd f) | 1 => some (.bcpSt f) | _ => none : Option Instr) = _; rw [s]; rfl) h)
theorem bcpSt (f : SForm) : Statement (.bcpSt f) := by
  intro h
  have s : fnField f 10 1 = 1 := by
    have h' : (ctlOk f false false && fnZero f 0xF && fnBit f 10 && f.d == 0#8 && f.lq == 0#3 && evenOk true f.a && decide (f.c.toNat ≤ 251)) = true := h
    simp only [Bool.and_eq_true, beq_iff_eq] at h'
    exact fnField_one (by simp [h'])
  exact .inr (decoded_encodeS (by decide) (fun _ => by change (match fnField f 10 1 with | 0 => some (.bcpLd f) | 1 => some (.bcpSt f) | _ => none : Option Instr) = _; rw [s]; rfl) h)
theorem rfence (f : SForm) : Statement (.rfence f) := by
  intro h
  have s : fnField f 0 1 = 0 := by
    have h' : (ctlOk f false false && fnZero f 0x3FF && f.d == 0#8 && f.b == 0#8 && f.c == 0#8 && !lqB f && !lqC f && addrOk true f.a (fnBit f 10) (lqA f)) = true := h
    simp only [Bool.and_eq_true, beq_iff_eq] at h'
    exact fnField_zero (m := 0x3FF) (by simp [h']) (by decide)
  exact .inr (decoded_encodeS (by decide) (fun _ => by change (match fnField f 0 1 with | 0 => some (.rfence f) | 1 => some (.rfenceAll f) | _ => none : Option Instr) = _; rw [s]; rfl) h)
theorem rfenceAll (f : SForm) : Statement (.rfenceAll f) := by
  intro h
  have s : fnField f 0 1 = 1 := by
    have h' : (plainOk f 0x7FE && fnBit f 0) = true := h
    simp only [plainOk, Bool.and_eq_true] at h'
    exact fnField_one (by simp [h'])
  exact .inr (decoded_encodeS (by decide) (fun _ => by change (match fnField f 0 1 with | 0 => some (.rfence f) | 1 => some (.rfenceAll f) | _ => none : Option Instr) = _; rw [s]; rfl) h)
theorem binit (f : SForm) : Statement (.binit f) := fun h => .inr (decoded_encodeS (by decide) (fun _ => rfl) h)
theorem barv (f : SForm) : Statement (.barv f) := fun h => .inr (decoded_encodeS (by decide) (fun _ => rfl) h)
theorem bwait (f : SForm) : Statement (.bwait f) := by
  intro h
  have s : fnField f 2 2 = 0 := by
    have h' : (plainOk f 0x40F) = true := h
    simp only [plainOk, Bool.and_eq_true] at h'
    exact fnField_zero (m := 0x40F) (by simp [h']) (by decide)
  exact .inr (decoded_encodeS (by decide) (fun _ => by change (match fnField f 2 2 with | 0 => some (.bwait f) | 1 => some (.bwaitToken f) | 3 => some (.bwaitTest f) | _ => none : Option Instr) = _; rw [s]; rfl) h)
theorem bwaitToken (f : SForm) : Statement (.bwaitToken f) := by
  intro h
  have s : fnField f 2 2 = 1 := by
    have h' : (ctlOk f false false && fnZero f 0xB && fnBit f 2 && f.d == 0#8 && f.a == 0#8 && f.c == 0#8 && !lqA f && !lqC f && useOk (Use.src false) f.b (fnBit f 10) (lqB f)) = true := h
    simp only [Bool.and_eq_true, beq_iff_eq] at h'
    rw [fnField_two, (by simp [h'] : fnBit f 2 = true), (fnZero_bit (m := 0xB) (by simp [h']) (by decide) : fnBit f 3 = false)]; rfl
  exact .inr (decoded_encodeS (by decide) (fun _ => by change (match fnField f 2 2 with | 0 => some (.bwait f) | 1 => some (.bwaitToken f) | 3 => some (.bwaitTest f) | _ => none : Option Instr) = _; rw [s]; rfl) h)
theorem bwaitTest (f : SForm) : Statement (.bwaitTest f) := by
  intro h
  have s : fnField f 2 2 = 3 := by
    have h' : (ctlOk f false false && fnZero f 0x3 && fnBit f 2 && fnBit f 3 && dstOk Dst.pred f.d && f.a == 0#8 && f.c == 0#8 && !lqA f && !lqC f && useOk (Use.src false) f.b (fnBit f 10) (lqB f)) = true := h
    simp only [Bool.and_eq_true, beq_iff_eq] at h'
    rw [fnField_two, (by simp [h'] : fnBit f 2 = true), (by simp [h'] : fnBit f 3 = true)]; rfl
  exact .inr (decoded_encodeS (by decide) (fun _ => by change (match fnField f 2 2 with | 0 => some (.bwait f) | 1 => some (.bwaitToken f) | 3 => some (.bwaitTest f) | _ => none : Option Instr) = _; rw [s]; rfl) h)
theorem mldT (f : SForm) : Statement (.mldT f) := by
  intro h
  have s : fnField f 8 1 = 0 := by
    have h' : (ctlOk f false false && fnZero f 0x707 && f.lq == 0#3 && decide (f.d.toNat < 32) && f.b == 0#8 && f.c == 0#8) = true := h
    simp only [Bool.and_eq_true, beq_iff_eq] at h'
    exact fnField_zero (m := 0x707) (by simp [h']) (by decide)
  exact .inr (decoded_encodeS (by decide) (fun _ => by change (match fnField f 8 1 with | 0 => some (.mldT f) | 1 => some (.mldA f) | _ => none : Option Instr) = _; rw [s]; rfl) h)
theorem mldA (f : SForm) : Statement (.mldA f) := by
  intro h
  have s : fnField f 8 1 = 1 := by
    have h' : (ctlOk f true true && fnZero f 0x607 && fnBit f 8 && f.lq == 0#3 && f.c == 0#8) = true := h
    simp only [Bool.and_eq_true, beq_iff_eq] at h'
    exact fnField_one (by simp [h'])
  exact .inr (decoded_encodeS (by decide) (fun _ => by change (match fnField f 8 1 with | 0 => some (.mldT f) | 1 => some (.mldA f) | _ => none : Option Instr) = _; rw [s]; rfl) h)
theorem mma (f : SForm) : Statement (.mma f) := fun h => .inr (decoded_encodeS (by decide) (fun _ => rfl) h)
theorem msg (f : SForm) : Statement (.msg f) := fun h => .inr (decoded_encodeS (by decide) (fun _ => rfl) h)
theorem mofn (f : SForm) : Statement (.mofn f) := fun h => .inr (decoded_encodeS (by decide) (fun _ => rfl) h)
theorem mwt (f : SForm) : Statement (.mwt f) := fun h => .inr (decoded_encodeS (by decide) (fun _ => rfl) h)
theorem mz (f : SForm) : Statement (.mz f) := fun h => .inr (decoded_encodeS (by decide) (fun _ => rfl) h)
theorem mdrGet (f : SForm) : Statement (.mdrGet f) := by
  intro h
  have s : fnField f 0 1 = 0 := by
    have h' : (ctlOk f true false && fnZero f 0x1FF9 && f.lq == 0#3 && f.d.toNat % 4 == 0 && decide (f.a.toNat < 32) && f.b == 0#8 && f.c == 0#8) = true := h
    simp only [Bool.and_eq_true, beq_iff_eq] at h'
    exact fnField_zero (m := 0x1FF9) (by simp [h']) (by decide)
  exact .inr (decoded_encodeS (by decide) (fun _ => by change (match fnField f 0 1 with | 0 => some (.mdrGet f) | 1 => some (.mdrPut f) | _ => none : Option Instr) = _; rw [s]; rfl) h)
theorem mdrPut (f : SForm) : Statement (.mdrPut f) := by
  intro h
  have s : fnField f 0 1 = 1 := by
    have h' : (ctlOk f false false && fnZero f 0x1FF8 && fnBit f 0 && f.lq == 0#3 && f.d.toNat % 4 == 0 && decide (f.a.toNat < 32) && f.b == 0#8 && f.c == 0#8) = true := h
    simp only [Bool.and_eq_true, beq_iff_eq] at h'
    exact fnField_one (by simp [h'])
  exact .inr (decoded_encodeS (by decide) (fun _ => by change (match fnField f 0 1 with | 0 => some (.mdrGet f) | 1 => some (.mdrPut f) | _ => none : Option Instr) = _; rw [s]; rfl) h)
theorem mdrx (f : SForm) : Statement (.mdrx f) := fun h => .inr (decoded_encodeS (by decide) (fun _ => rfl) h)
theorem bra (f : SForm) : Statement (.bra f) := fun h => .inr (decoded_encodeS (by decide) (fun _ => rfl) h)
theorem brx (f : SForm) : Statement (.brx f) := fun h => .inr (decoded_encodeS (by decide) (fun _ => rfl) h)
theorem call (f : SForm) : Statement (.call f) := by
  intro h
  have s : fnField f 0 1 = 0 := by
    have h' : (ctlOk f true false && fnZero f 0x1FFD && f.lq == 0#3 && evenOk true f.d) = true := h
    simp only [Bool.and_eq_true, beq_iff_eq] at h'
    exact fnField_zero (m := 0x1FFD) (by simp [h']) (by decide)
  exact .inr (decoded_encodeS (by decide) (fun _ => by change (match fnField f 0 1 with | 0 => some (.call f) | 1 => some (.callInd f) | _ => none : Option Instr) = _; rw [s]; rfl) h)
theorem callInd (f : SForm) : Statement (.callInd f) := by
  intro h
  have s : fnField f 0 1 = 1 := by
    have h' : (ctlOk f true false && fnZero f 0x5FC && fnBit f 0 && evenOk true f.d && addrOk true f.a (fnBit f 9) (lqA f) && f.b == 0#8 && f.c == 0#8 && !lqB f && !lqC f) = true := h
    simp only [Bool.and_eq_true, beq_iff_eq] at h'
    exact fnField_one (by simp [h'])
  exact .inr (decoded_encodeS (by decide) (fun _ => by change (match fnField f 0 1 with | 0 => some (.call f) | 1 => some (.callInd f) | _ => none : Option Instr) = _; rw [s]; rfl) h)
theorem ret (f : SForm) : Statement (.ret f) := fun h => .inr (decoded_encodeS (by decide) (fun _ => rfl) h)
theorem meet (f : SForm) : Statement (.meet f) := by
  intro h
  have s : fnField f 0 2 = 0 := by
    have h' : (ctlOk f false false && fnZero f 0x1FFF && f.lq == 0#3) = true := h
    simp only [Bool.and_eq_true, beq_iff_eq] at h'
    exact fnField_zero (m := 0x1FFF) (by simp [h']) (by decide)
  exact .inr (decoded_encodeS (by decide) (fun _ => by change (match fnField f 0 2 with | 0 => some (.meet f) | 1 => some (.meetClr f) | 2 => some (.meetReg f) | _ => none : Option Instr) = _; rw [s]; rfl) h)
theorem meetClr (f : SForm) : Statement (.meetClr f) := by
  intro h
  have s : fnField f 0 2 = 1 := by
    have h' : (plainOk f 0x1FFE && fnBit f 0) = true := h
    simp only [plainOk, Bool.and_eq_true] at h'
    rw [fnField_two, (by simp [h'] : fnBit f 0 = true), (fnZero_bit (m := 0x1FFE) (by simp [h']) (by decide) : fnBit f 1 = false)]; rfl
  exact .inr (decoded_encodeS (by decide) (fun _ => by change (match fnField f 0 2 with | 0 => some (.meet f) | 1 => some (.meetClr f) | 2 => some (.meetReg f) | _ => none : Option Instr) = _; rw [s]; rfl) h)
theorem meetReg (f : SForm) : Statement (.meetReg f) := by
  intro h
  have s : fnField f 0 2 = 2 := by
    have h' : (ctlOk f false false && fnZero f 0x5FD && fnBit f 1 && addrOk true f.a (fnBit f 9) (lqA f) && f.d == 0#8 && f.b == 0#8 && f.c == 0#8 && !lqB f && !lqC f) = true := h
    simp only [Bool.and_eq_true, beq_iff_eq] at h'
    rw [fnField_two, (fnZero_bit (m := 0x5FD) (by simp [h']) (by decide) : fnBit f 0 = false), (by simp [h'] : fnBit f 1 = true)]; rfl
  exact .inr (decoded_encodeS (by decide) (fun _ => by change (match fnField f 0 2 with | 0 => some (.meet f) | 1 => some (.meetClr f) | 2 => some (.meetReg f) | _ => none : Option Instr) = _; rw [s]; rfl) h)
theorem exit (f : SForm) : Statement (.exit f) := fun h => .inr (decoded_encodeS (by decide) (fun _ => rfl) h)
theorem yield (f : SForm) : Statement (.yield f) := fun h => .inr (decoded_encodeS (by decide) (fun _ => rfl) h)
theorem voteAll (f : SForm) : Statement (.voteAll f) := by
  intro h
  have s : fnField f 0 2 = 0 := by
    have h' : (ctlOk f false false && fnZero f 0x7F8 && fnField f 0 2 == 0 && dstOk Dst.pred f.d && useOk Use.pred f.a false (lqA f) && f.b == 0#8 && f.c == 0#8 && !lqB f && !lqC f) = true := h
    simp only [Bool.and_eq_true, beq_iff_eq] at h'
    simp [h']
  exact .inr (decoded_encodeS (by decide) (fun _ => by change (match fnField f 0 2 with | 0 => some (.voteAll f) | 1 => some (.voteAny f) | 2 => some (.voteSame f) | 3 => some (.voteBallot f) | _ => none : Option Instr) = _; rw [s]; rfl) h)
theorem voteAny (f : SForm) : Statement (.voteAny f) := by
  intro h
  have s : fnField f 0 2 = 1 := by
    have h' : (ctlOk f false false && fnZero f 0x7F8 && fnField f 0 2 == 1 && dstOk Dst.pred f.d && useOk Use.pred f.a false (lqA f) && f.b == 0#8 && f.c == 0#8 && !lqB f && !lqC f) = true := h
    simp only [Bool.and_eq_true, beq_iff_eq] at h'
    simp [h']
  exact .inr (decoded_encodeS (by decide) (fun _ => by change (match fnField f 0 2 with | 0 => some (.voteAll f) | 1 => some (.voteAny f) | 2 => some (.voteSame f) | 3 => some (.voteBallot f) | _ => none : Option Instr) = _; rw [s]; rfl) h)
theorem voteSame (f : SForm) : Statement (.voteSame f) := by
  intro h
  have s : fnField f 0 2 = 2 := by
    have h' : (ctlOk f false false && fnZero f 0x7F8 && fnField f 0 2 == 2 && dstOk Dst.pred f.d && useOk Use.pred f.a false (lqA f) && f.b == 0#8 && f.c == 0#8 && !lqB f && !lqC f) = true := h
    simp only [Bool.and_eq_true, beq_iff_eq] at h'
    simp [h']
  exact .inr (decoded_encodeS (by decide) (fun _ => by change (match fnField f 0 2 with | 0 => some (.voteAll f) | 1 => some (.voteAny f) | 2 => some (.voteSame f) | 3 => some (.voteBallot f) | _ => none : Option Instr) = _; rw [s]; rfl) h)
theorem voteBallot (f : SForm) : Statement (.voteBallot f) := by
  intro h
  have s : fnField f 0 2 = 3 := by
    have h' : (ctlOk f true false && fnZero f 0x3F8 && fnField f 0 2 == 3 && useOk Use.pred f.a false (lqA f) && f.b == 0#8 && f.c == 0#8 && !lqB f && !lqC f) = true := h
    simp only [Bool.and_eq_true, beq_iff_eq] at h'
    simp [h']
  exact .inr (decoded_encodeS (by decide) (fun _ => by change (match fnField f 0 2 with | 0 => some (.voteAll f) | 1 => some (.voteAny f) | 2 => some (.voteSame f) | 3 => some (.voteBallot f) | _ => none : Option Instr) = _; rw [s]; rfl) h)
theorem shfl (f : SForm) : Statement (.shfl f) := fun h => .inr (decoded_encodeS (by decide) (fun _ => rfl) h)
theorem matchAny (f : SForm) : Statement (.matchAny f) := by
  intro h
  have s : fnField f 1 1 = 0 := by
    have h' : (ctlOk f true false && fnZero f 0x1FFE && useOk (Use.src (fnBit f 0)) f.a false (lqA f) && f.b == 0#8 && f.c == 0#8 && !lqB f && !lqC f) = true := h
    simp only [Bool.and_eq_true, beq_iff_eq] at h'
    exact fnField_zero (m := 0x1FFE) (by simp [h']) (by decide)
  exact .inr (decoded_encodeS (by decide) (fun _ => by change (match fnField f 1 1 with | 0 => some (.matchAny f) | 1 => some (.matchAll f) | _ => none : Option Instr) = _; rw [s]; rfl) h)
theorem matchAll (f : SForm) : Statement (.matchAll f) := by
  intro h
  have s : fnField f 1 1 = 1 := by
    have h' : (ctlOk f true false && fnZero f 0x1FFC && fnBit f 1 && useOk (Use.src (fnBit f 0)) f.a false (lqA f) && f.b == 0#8 && useOk Use.pred f.c false (lqC f) && !lqB f) = true := h
    simp only [Bool.and_eq_true, beq_iff_eq] at h'
    exact fnField_one (by simp [h'])
  exact .inr (decoded_encodeS (by decide) (fun _ => by change (match fnField f 1 1 with | 0 => some (.matchAny f) | 1 => some (.matchAll f) | _ => none : Option Instr) = _; rw [s]; rfl) h)
theorem elect (f : SForm) : Statement (.elect f) := fun h => .inr (decoded_encodeS (by decide) (fun _ => rfl) h)
theorem gred (f : SForm) : Statement (.gred f) := fun h => .inr (decoded_encodeS (by decide) (fun _ => rfl) h)
theorem sread (f : SForm) : Statement (.sread f) := fun h => .inr (decoded_encodeS (by decide) (fun _ => rfl) h)
theorem tbar (f : SForm) : Statement (.tbar f) := fun h => .inr (decoded_encodeS (by decide) (fun _ => rfl) h)
theorem rgive (f : SForm) : Statement (.rgive f) := fun h => .inr (decoded_encodeS (by decide) (fun _ => rfl) h)
theorem rclaim (f : SForm) : Statement (.rclaim f) := fun h => .inr (decoded_encodeS (by decide) (fun _ => rfl) h)
theorem lrinv (f : SForm) : Statement (.lrinv f) := fun h => .inr (decoded_encodeS (by decide) (fun _ => rfl) h)
theorem lrload (f : SForm) : Statement (.lrload f) := fun h => .inr (decoded_encodeS (by decide) (fun _ => rfl) h)
theorem tlbinv (f : SForm) : Statement (.tlbinv f) := by
  intro h
  have s : fnField f 0 1 = 0 := by
    have h' : (ctlOk f false false && fnZero f 0x1FF && fnBit f 10 && fnBit f 9 && evenOk true f.a && f.d == 0#8 && f.c == 0#8 && f.lq == 0#3) = true := h
    simp only [Bool.and_eq_true, beq_iff_eq] at h'
    exact fnField_zero (m := 0x1FF) (by simp [h']) (by decide)
  exact .inr (decoded_encodeS (by decide) (fun _ => by change (match fnField f 0 1 with | 0 => some (.tlbinv f) | 1 => some (.tlbinvAll f) | _ => none : Option Instr) = _; rw [s]; rfl) h)
theorem tlbinvAll (f : SForm) : Statement (.tlbinvAll f) := by
  intro h
  have s : fnField f 0 1 = 1 := by
    have h' : (plainOk f 0x7FE && fnBit f 0) = true := h
    simp only [plainOk, Bool.and_eq_true] at h'
    exact fnField_one (by simp [h'])
  exact .inr (decoded_encodeS (by decide) (fun _ => by change (match fnField f 0 1 with | 0 => some (.tlbinv f) | 1 => some (.tlbinvAll f) | _ => none : Option Instr) = _; rw [s]; rfl) h)
theorem xopen (f : SForm) : Statement (.xopen f) := by
  intro h
  have s : fnField f 0 1 = 0 := by
    have h' : (ctlOk f true false && fnZero f 0x7FF && f.lq == 0#3 && evenOk true f.a && f.c.toNat % 4 == 0) = true := h
    simp only [Bool.and_eq_true, beq_iff_eq] at h'
    exact fnField_zero (m := 0x7FF) (by simp [h']) (by decide)
  exact .inr (decoded_encodeS (by decide) (fun _ => by change (match fnField f 0 1 with | 0 => some (.xopen f) | 1 => some (.xseal f) | _ => none : Option Instr) = _; rw [s]; rfl) h)
theorem xseal (f : SForm) : Statement (.xseal f) := by
  intro h
  have s : fnField f 0 1 = 1 := by
    have h' : (ctlOk f true false && fnZero f 0x7FE && fnBit f 0 && f.lq == 0#3 && evenOk true f.a && f.c.toNat % 4 == 0) = true := h
    simp only [Bool.and_eq_true, beq_iff_eq] at h'
    exact fnField_one (by simp [h'])
  exact .inr (decoded_encodeS (by decide) (fun _ => by change (match fnField f 0 1 with | 0 => some (.xopen f) | 1 => some (.xseal f) | _ => none : Option Instr) = _; rw [s]; rfl) h)
theorem rchk (f : SForm) : Statement (.rchk f) := fun h => .inr (decoded_encodeS (by decide) (fun _ => rfl) h)
theorem trap (f : SForm) : Statement (.trap f) := fun h => .inr (decoded_encodeS (by decide) (fun _ => rfl) h)
theorem rtt (f : SForm) : Statement (.rtt f) := by
  intro h
  have s : fnField f 0 1 = 0 := by
    have h' : (plainOk f 0x1FFF) = true := h
    simp only [plainOk, Bool.and_eq_true] at h'
    exact fnField_zero (m := 0x1FFF) (by simp [h']) (by decide)
  exact .inr (decoded_encodeS (by decide) (fun _ => by change (match fnField f 0 1 with | 0 => some (.rtt f) | 1 => some (.rttSkip f) | _ => none : Option Instr) = _; rw [s]; rfl) h)
theorem rttSkip (f : SForm) : Statement (.rttSkip f) := by
  intro h
  have s : fnField f 0 1 = 1 := by
    have h' : (plainOk f 0x1FFE && fnBit f 0) = true := h
    simp only [plainOk, Bool.and_eq_true] at h'
    exact fnField_one (by simp [h'])
  exact .inr (decoded_encodeS (by decide) (fun _ => by change (match fnField f 0 1 with | 0 => some (.rtt f) | 1 => some (.rttSkip f) | _ => none : Option Instr) = _; rw [s]; rfl) h)
theorem srr (f : SForm) : Statement (.srr f) := fun h => .inr (decoded_encodeS (by decide) (fun _ => rfl) h)
theorem srw (f : SForm) : Statement (.srw f) := fun h => .inr (decoded_encodeS (by decide) (fun _ => rfl) h)
theorem bkpt (f : SForm) : Statement (.bkpt f) := fun h => .inr (decoded_encodeS (by decide) (fun _ => rfl) h)
theorem wrload (f : SForm) : Statement (.wrload f) := fun h => .inr (decoded_encodeS (by decide) (fun _ => rfl) h)
theorem pairNop (f : PSlot) : Statement (.pairNop f) := fun h => .inr (decoded_encodeP (by decide) rfl h)
theorem pairMov (f : PSlot) : Statement (.pairMov f) := fun h => .inr (decoded_encodeP (by decide) rfl h)
theorem pairIadd (f : PSlot) : Statement (.pairIadd f) := fun h => .inr (decoded_encodeP (by decide) rfl h)
theorem pairIsub (f : PSlot) : Statement (.pairIsub f) := fun h => .inr (decoded_encodeP (by decide) rfl h)
theorem pairAnd (f : PSlot) : Statement (.pairAnd f) := fun h => .inr (decoded_encodeP (by decide) rfl h)
theorem pairOr (f : PSlot) : Statement (.pairOr f) := fun h => .inr (decoded_encodeP (by decide) rfl h)
theorem pairXor (f : PSlot) : Statement (.pairXor f) := fun h => .inr (decoded_encodeP (by decide) rfl h)
theorem pairShl (f : PSlot) : Statement (.pairShl f) := fun h => .inr (decoded_encodeP (by decide) rfl h)
theorem pairShr (f : PSlot) : Statement (.pairShr f) := fun h => .inr (decoded_encodeP (by decide) rfl h)
theorem pairImin (f : PSlot) : Statement (.pairImin f) := fun h => .inr (decoded_encodeP (by decide) rfl h)
theorem pairImax (f : PSlot) : Statement (.pairImax f) := fun h => .inr (decoded_encodeP (by decide) rfl h)
theorem pairImul (f : PSlot) : Statement (.pairImul f) := fun h => .inr (decoded_encodeP (by decide) rfl h)
theorem pairFadd (f : PSlot) : Statement (.pairFadd f) := fun h => .inr (decoded_encodeP (by decide) rfl h)
theorem pairFmul (f : PSlot) : Statement (.pairFmul f) := fun h => .inr (decoded_encodeP (by decide) rfl h)
theorem pairFmin (f : PSlot) : Statement (.pairFmin f) := fun h => .inr (decoded_encodeP (by decide) rfl h)
theorem pairFmax (f : PSlot) : Statement (.pairFmax f) := fun h => .inr (decoded_encodeP (by decide) rfl h)
theorem pairHadd2 (f : PSlot) : Statement (.pairHadd2 f) := fun h => .inr (decoded_encodeP (by decide) rfl h)
theorem pairHmul2 (f : PSlot) : Statement (.pairHmul2 f) := fun h => .inr (decoded_encodeP (by decide) rfl h)
theorem pairShli (f : PSlot) : Statement (.pairShli f) := fun h => .inr (decoded_encodeP (by decide) rfl h)
theorem pairShri (f : PSlot) : Statement (.pairShri f) := fun h => .inr (decoded_encodeP (by decide) rfl h)
theorem pairIaddi8 (f : PSlot) : Statement (.pairIaddi8 f) := fun h => .inr (decoded_encodeP (by decide) rfl h)
theorem pairMovi8 (f : PSlot) : Statement (.pairMovi8 f) := fun h => .inr (decoded_encodeP (by decide) rfl h)
theorem crumbAdd (f : CForm) : Statement (.crumbAdd f) := fun h => .inr (decoded_encodeC (by decide) rfl h)
theorem crumbSub (f : CForm) : Statement (.crumbSub f) := fun h => .inr (decoded_encodeC (by decide) rfl h)
theorem crumbMul (f : CForm) : Statement (.crumbMul f) := fun h => .inr (decoded_encodeC (by decide) rfl h)
theorem crumbAnd (f : CForm) : Statement (.crumbAnd f) := fun h => .inr (decoded_encodeC (by decide) rfl h)
theorem crumbOr (f : CForm) : Statement (.crumbOr f) := fun h => .inr (decoded_encodeC (by decide) rfl h)
theorem crumbXor (f : CForm) : Statement (.crumbXor f) := fun h => .inr (decoded_encodeC (by decide) rfl h)
theorem crumbShl (f : CForm) : Statement (.crumbShl f) := fun h => .inr (decoded_encodeC (by decide) rfl h)
theorem crumbShr (f : CForm) : Statement (.crumbShr f) := fun h => .inr (decoded_encodeC (by decide) rfl h)
theorem crumbSar (f : CForm) : Statement (.crumbSar f) := fun h => .inr (decoded_encodeC (by decide) rfl h)
theorem crumbRotr (f : CForm) : Statement (.crumbRotr f) := fun h => .inr (decoded_encodeC (by decide) rfl h)
theorem crumbMin (f : CForm) : Statement (.crumbMin f) := fun h => .inr (decoded_encodeC (by decide) rfl h)
theorem crumbMax (f : CForm) : Statement (.crumbMax f) := fun h => .inr (decoded_encodeC (by decide) rfl h)
theorem crumbMinz (f : CForm) : Statement (.crumbMinz f) := fun h => .inr (decoded_encodeC (by decide) rfl h)
theorem crumbMaxz (f : CForm) : Statement (.crumbMaxz f) := fun h => .inr (decoded_encodeC (by decide) rfl h)
theorem crumbSeq (f : CForm) : Statement (.crumbSeq f) := fun h => .inr (decoded_encodeC (by decide) rfl h)
theorem crumbSlt (f : CForm) : Statement (.crumbSlt f) := fun h => .inr (decoded_encodeC (by decide) rfl h)
theorem crumbSltz (f : CForm) : Statement (.crumbSltz f) := fun h => .inr (decoded_encodeC (by decide) rfl h)
theorem crumbSel (f : CForm) : Statement (.crumbSel f) := fun h => .inr (decoded_encodeC (by decide) rfl h)
theorem crumbAddi (f : CForm) : Statement (.crumbAddi f) := fun h => .inr (decoded_encodeC (by decide) rfl h)
theorem crumbLi (f : CForm) : Statement (.crumbLi f) := fun h => .inr (decoded_encodeC (by decide) rfl h)
theorem crumbLih (f : CForm) : Statement (.crumbLih f) := fun h => .inr (decoded_encodeC (by decide) rfl h)
theorem crumbFadd (f : CForm) : Statement (.crumbFadd f) := fun h => .inr (decoded_encodeC (by decide) rfl h)
theorem crumbFmin (f : CForm) : Statement (.crumbFmin f) := fun h => .inr (decoded_encodeC (by decide) rfl h)
theorem crumbFmax (f : CForm) : Statement (.crumbFmax f) := fun h => .inr (decoded_encodeC (by decide) rfl h)
theorem crumbBf (f : CForm) : Statement (.crumbBf f) := fun h => .inr (decoded_encodeC (by decide) rfl h)
theorem crumbLdl (f : CForm) : Statement (.crumbLdl f) := fun h => .inr (decoded_encodeC (by decide) rfl h)
theorem crumbStl (f : CForm) : Statement (.crumbStl f) := fun h => .inr (decoded_encodeC (by decide) rfl h)
theorem crumbRetv (f : CForm) : Statement (.crumbRetv f) := fun h => .inr (decoded_encodeC (by decide) rfl h)
theorem crumbLdp (f : CForm) : Statement (.crumbLdp f) := fun h => .inr (decoded_encodeC (by decide) rfl h)
theorem crumbHash (f : CForm) : Statement (.crumbHash f) := fun h => .inr (decoded_encodeC (by decide) rfl h)
theorem crumbBr (f : CForm) : Statement (.crumbBr f) := fun h => .inr (decoded_encodeC (by decide) rfl h)
theorem crumbMapok (f : CForm) : Statement (.crumbMapok f) := fun h => .inr (decoded_encodeC (by decide) rfl h)
theorem crumbMapno (f : CForm) : Statement (.crumbMapno f) := fun h => .inr (decoded_encodeC (by decide) rfl h)
theorem crumbMapflt (f : CForm) : Statement (.crumbMapflt f) := fun h => .inr (decoded_encodeC (by decide) rfl h)
theorem spaceCreate : ∀ a0 a1 a2 a3 a4, Statement (.spaceCreate a0 a1 a2 a3 a4) := by
  intros; exact fun _ => .inl rfl
theorem walkerStoreDrop : Statement .walkerStoreDrop := fun _ => .inl rfl
theorem loadReturn : Statement .loadReturn := fun _ => .inl rfl
theorem configurationRequest : Statement .configurationRequest := fun _ => .inl rfl

end RoundTrip

end Sys2Proof.Laws
end

