-- ==== Sys2Proof/Reading/Coherence.lean ====
section
/-! DEFINITION. How the statements read the table of R296: the entry that a request leaves and the messages that a Nougat die
sends for it. -/

namespace Sys2Proof.Reading

open Sys2Proof.Machine

/-- A row of R296 for a request of die `r` on a line of home die `home`: the new entry's state, SHR and OWN, and the messages sent with
their receivers, the supply first. `e` is the entry before: its state, SHR and OWN, or none in state I. -/
def resolution (home r : Nat) (k : ReqKind) (e : Option (AlmSt × BitVec 8 × Nat)) :
    Option ((AlmSt × BitVec 8 × Nat) × List (MsgKind × Nat)) :=
  let bit (d : Nat) : BitVec 8 := 1#8 <<< d
  let only (m : BitVec 8) : List Nat := (List.range 8).filter (fun d => m.getLsbD d)
  let mine : AlmSt × BitVec 8 × Nat := (.ex, bit r, r)
  let inv (ds : List Nat) : List (MsgKind × Nat) := ds.map (fun d => (.inv, d))
  match e, k with
  | none, .rds => if r = home then none else some ((.sh, bit home ||| bit r, 0), [(.hrs, home)])
  | none, .rdx => if r = home then none else some (mine, [(.hrx, home)])
  | none, .upg => if r = home then none else some (mine, [(.hrx, home)])
  | some (.sh, shr, _), .rds =>
    match only (shr &&& ~~~bit r) with
    | d :: _ => some ((.sh, shr ||| bit r, 0), [(.fws, d)])
    | [] => none
  | some (.sh, shr, _), .rdx =>
    match only (shr &&& ~~~bit r) with
    | d :: ds => some (mine, (.fwx, d) :: inv ds)
    | [] => none
  | some (.sh, shr, _), .upg =>
    if shr.getLsbD r then some (mine, inv (only (shr &&& ~~~bit r)))
    else match only (shr &&& ~~~bit r) with
      | d :: ds => some (mine, (.fwx, d) :: inv ds)
      | [] => none
  | some (.ex, _, own), .rds => some ((.ex, bit own ||| bit r, own), [(.fws, own)])
  | some (.ex, _, own), .rdx => if own = r then none else some (mine, [(.fwx, own)])
  | some (.ex, _, own), .upg => if own = r then none else some (mine, [(.fwx, own)])
  | some (.ow, shr, own), .rds => some ((.ow, shr ||| bit r, own), [(.fws, own)])
  | some (.ow, shr, own), .rdx =>
    if shr.getLsbD r then some (mine, inv (only (shr &&& ~~~bit r)))
    else some (mine, (.fwx, own) :: inv ((only shr).filter (fun d => d != own)))
  | some (.ow, shr, own), .upg =>
    if shr.getLsbD r then some (mine, inv (only (shr &&& ~~~bit r)))
    else some (mine, (.fwx, own) :: inv ((only shr).filter (fun d => d != own)))
  | _, _ => none

end Sys2Proof.Reading
end

