-- ==== Sys2Proof/Reading/Queues.lean ====
section
/-! DEFINITION. What the statements take from the manual's chapter on command queues: the pages that a front end has at hand, and
packets. -/

namespace Sys2Proof.Reading

open Sys2Proof.Machine

/-- What a queue has learned of a page for an access kind (R333). -/
def known (q : Queue) (va kind : Nat) : Option PageNeed := q.susp.find? (fun n => n.page == va / 4096 && n.kind == kind)

/-- The front end has the translation of an address at hand for an access kind. -/
def atHand (q : Queue) (va kind : Nat) : Prop :=
  va < 2 ^ 56 ∧ ∃ n fr sz at_, known q va kind = some n ∧ n.st = .mapped fr sz at_

/-- The physical address that it gives. -/
def fePa (q : Queue) (va kind : Nat) : Nat :=
  match known q va kind with
  | some n =>
    match n.st with
    | .mapped fr sz _ => fr + va % 2 ^ sz
    | _ => 0
  | none => 0

/-- Bytes of a queue's space as its front end reads them, at an address at hand for a read (R336). -/
def feBytes (s : State) (x : FrontEnd) (q : Queue) (va n : Nat) : List Byte := viewRead s (4 * x.base) q.world (fePa q va 1) n

/-- A queue is mapped in a slot, and a front end at hand. -/
def mapped (s : State) (fe slot : Nat) (x : FrontEnd) (q : Queue) : Prop :=
  mget s.frontEnds fe = some x ∧ mget x.slots slot = some q

/-- Memory at a physical address can be written and read back: no doorbell frame, no failed link. -/
def plainAt (s : State) (pa : Nat) : Prop := inDoor s pa = false ∧ cxlLost s pa = false

/-- The packet of a type that a queue starts next (R334, R337, R338): legal, at hand and read without error. -/
def nextPacket (s : State) (x : FrontEnd) (q : Queue) (typ : Nat) (p : Packet) : Prop :=
  let va := q.q + 64 + 64 * (q.next % 2 ^ q.n)
  starts s q = true ∧ atHand q va 1 ∧ readError s q.world (fePa q va 1) 64 = .clean ∧ p = parsePacket (feBytes s x q va 64) ∧
    p.legal = true ∧ p.typ = typ

end Sys2Proof.Reading
end

