-- ==== Sys2Proof/Safety.lean ====
section
/-! DEFINITION. What the statements call safe: the conditions under which an instruction executes, what a completed word leaves,
and invariants of the state. -/

namespace Sys2Proof

open Sys2Proof.Machine

/-- The outcome of a step. -/
abbrev Outcome := Host.Outcome State Fault Refusal

/-- An outcome is no stop. -/
def goesOn (o : Outcome) : Prop := ∃ t, o = .next t

/-- Global memory is in canonical form: addresses strictly rising, no entry equal to what an unlisted address reads as. -/
def memoryOk (s : State) : Prop := Memory.wf s.mem = true

/-- A word of a group is at hand (R24, R25): the issue, the group and its team. -/
structure Issuing (s : State) (c : Ctx) (g : Group) (t : Team) : Prop where
  cur : s.cur = .word c
  group : mget s.groups c.gid = some g
  team : mget s.teams g.team = some t

/-- No error stands in the group's arrays, none is injected and no upset strikes its results (R131, R411, R424), no window of a matrix operation is open (R248), its
latch queue is its own (R61), and no barrier image is about to be taken (R414). -/
structure Undisturbed (s : State) (g : Group) : Prop where
  noError : g.regErrs = []
  noInjection : slice g.fij.toNat 0 4 = 0
  noStrike : g.strikes = []
  noWindow : g.windows = []
  ownLatches : g.latchLost = false
  noImage : ∀ p ∈ s.teams, p.2.imageWait = false

/-- The state after a word of the issue `c` that left its group as `g'` and changed nothing else. -/
def afterWord (s : State) (c : Ctx) (g' : Group) : State := { s with cur := .idle, groups := mput s.groups c.gid g' }

/-- The lanes of ISSUE stand at the next word, and nothing else of a lane has changed (R25). -/
def advanced (c : Ctx) (g g' : Group) : Prop :=
  g'.lanes.length = g.lanes.length ∧ ∀ l, l < g.lanes.length →
    g'.lane l = if has c.mask l then { g.lane l with pc := (g.lane l).pc + 8#64 } else g.lane l

/-- A word of the issue `c` has completed in the state `u`: its latch entry is pushed, and the lanes of ISSUE stand at the next word. -/
def wordDone (c : Ctx) (g : Group) (u : State) : Prop :=
  ∃ g', mget u.groups c.gid = some g' ∧ advanced c g g' ∧ g'.latchId = g.latchId + 1

/-- What a number written to a destination puts into vector register `n`, or into uniform register `n`. -/
def vpart (d : Dest) (n x : Nat) : Option W32 :=
  match d with
  | .v m wide => if n = m then some (BitVec.ofNat 32 x) else if wide && n == m + 1 then some (BitVec.ofNat 32 (x / 2 ^ 32)) else none
  | _ => none
def upart (d : Dest) (n x : Nat) : Option W32 :=
  match d with
  | .u m wide => if n = m then some (BitVec.ofNat 32 x) else if wide && n == m + 1 then some (BitVec.ofNat 32 (x / 2 ^ 32)) else none
  | _ => none

/-- An operation that computes in each lane, or once for the group, as the manual describes it: its fields, the operands that it
reads, its destination, the predicate that it writes, and the results in a lane. -/
structure LaneOp where
  f : SForm
  ops : List Opnd
  d : Dest
  pd : Option Nat := none
  val : Group → Nat → Nat
  pv : Group → Nat → Bool := fun _ _ => false

/-- The operands of an operation can be read and its destination exists: every latch that it reads has a result, every vector
register that it names is the group's (R62, R66). -/
def canRead (g : Group) (ops : List Opnd) (d : Dest) : Prop :=
  (∀ o ∈ ops, ∀ q ∈ o.latches, latchReady g q = true) ∧ (∀ o ∈ ops, o.vtop ≤ g.vcount) ∧ d.vtop ≤ g.vcount

/-- What a lane operation leaves of its group (R25, R54, R60, R77, R78): the destination register in the lanes of CL, or the
uniform register once if CL is not empty, unless NW; the predicate in the lanes of CL, or once in every lane of ISSUE; a latch
entry; the lanes of ISSUE at the next word; and nothing else changed. -/
structure LanePost (c : Ctx) (g g' : Group) (once nw : Bool) (cl : Mask) (d : Dest) (pd : Option Nat)
    (val : Nat → Nat) (pv : Nat → Bool) : Prop where
  vector : ∀ n l, l < 32 → vRaw g' n l =
    if has cl l && !nw && !once then (vpart d n (val l)).getD (vRaw g n l) else vRaw g n l
  uniform : ∀ n, uRead g' n = if cl ≠ 0#32 ∧ nw = false ∧ once = true then (upart d n (val 0)).getD (uRead g n) else uRead g n
  predicate : ∀ n l, l < 32 → pRead g' n l =
    if pd = some n && (if once then decide (cl ≠ 0#32) && has c.mask l else has cl l) then pv (if once then 0 else l) else pRead g n l
  latch : ∃ vals, g'.latches = (⟨g.latchId, d.isReg, vals⟩ :: g.latches).take 4 ∧
    ∀ l, l < 32 → mval vals 0#64 l =
      if (once && decide (cl ≠ 0#32)) || (!once && has cl l) then latchVal d (val (if once then 0 else l)) else 0#64
  pcs : advanced c g g'
  rest : g' = { g with v := g'.v, u := g'.u, p := g'.p, lanes := g'.lanes, latches := g'.latches, latchId := g.latchId + 1,
                       susp := [], resume := none }

/-- A lane operation completes: its group as `LanePost` says, and nothing else of the machine changed. -/
def LaneOp.completes (x : LaneOp) (i : Instr) (s : State) (c : Ctx) (g : Group) : Prop :=
  ∃ g', exec i s = .next (afterWord s c g') ∧
    LanePost c g g' (ud x.f) x.f.nw (clOf g c x.f.pg x.f.pn) x.d x.pd (x.val g) (x.pv g)

/-- What a taken cause leaves of its group (R360): the trap registers, the lanes of T at the handler, the other active lanes parked,
an empty latch queue, no wait of a lane of T for an absent sector, and nothing else changed. -/
structure EntersHandler (g g' : Group) (x : Cause) (T : Mask) (tpc taddr tinfo : W64) : Prop where
  registers : g'.trap = { g.trap with cause := BitVec.ofNat 8 x.code, lanes := T, pc := tpc, addr := taddr, info := tinfo }
  lanes : ∀ l, l < g.lanes.length → g'.lane l =
    if (g.lane l).st = .exited then g.lane l
    else if has T l then { g.lane l with pc := g.trap.handler, h := true, st := .active, wait := none }
    else if (g.lane l).st = .active then { g.lane l with st := .parked } else g.lane l
  latches : g'.latches = []
  rest : g' = { g with trap := g'.trap, lanes := g'.lanes, latches := [], latchLost := false, susp := [], resume := none
                       spWaits := dropWaits T g.spWaits }

/-- A cause can be taken by a handler of the group (R360). -/
def canTrap (g : Group) : Prop := g.trap.handler ≠ 0#64 ∧ g.inHandler = 0#32

/-- A word takes a cause in its group's handler, and changes nothing else of the machine. -/
def traps (i : Instr) (s : State) (c : Ctx) (g : Group) (x : Cause) (T : Mask) (taddr tinfo : W64) : Prop :=
  ∃ g', exec i s = .next (afterWord s c g') ∧ EntersHandler g g' x T c.pc taddr tinfo

/-- The latch entry of a word that has no result. -/
def plainLatches (g g' : Group) : Prop :=
  g'.latches = (⟨g.latchId, false, []⟩ :: g.latches).take 4 ∧ g'.latchId = g.latchId + 1

end Sys2Proof
end

