-- ==== Sys2Proof/Reading/Integer.lean ====
section
/-! DEFINITION. The integer, logic, shift, compare and predicate instructions as R83 to R99 give them, in bit vectors and
integers: what the statements hold the machine's own operations against. -/

namespace Sys2Proof.Reading

open Sys2Proof Sys2Proof.Machine

/-- An operand of w bits, and its integer value by R85's `ext`. -/
def bits (w x : Nat) : BitVec w := BitVec.ofNat w x
def int (w : Nat) (signed : Bool) (x : Nat) : Int := if signed then (bits w x).toInt else ((bits w x).toNat : Int)

/-- An integer mod 2^w, and one limited to the range of the type (R85). -/
def modw (w : Nat) (v : Int) : Nat := (BitVec.ofInt w v).toNat
def limit (w : Nat) (signed : Bool) (v : Int) : Nat :=
  if signed then
    if v < -(2 ^ (w - 1)) then modw w (-(2 ^ (w - 1))) else if v > 2 ^ (w - 1) - 1 then modw w (2 ^ (w - 1) - 1) else modw w v
  else if v < 0 then 0 else if v > 2 ^ w - 1 then 2 ^ w - 1 else modw w v

/-- The width of a word whose W bit is `wide`. -/
def width (wide : Bool) : Nat := if wide then 64 else 32

/-- The value of source A, B or C in a lane (R53, R62). -/
def rdA (f : SForm) (wide : Bool) (g : Group) (l : Nat) : Nat := (srcA f wide).read g l
def rdB (f : SForm) (wide : Bool) (g : Group) (l : Nat) : Nat := (srcB f wide).read g l
def rdC (f : SForm) (wide : Bool) (g : Group) (l : Nat) : Nat := (srcC f wide).read g l

/-- The carry or borrow in (R85): the predicate that C names, with X. -/
def carry (f : SForm) (g : Group) (l : Nat) : Nat := if fnBit f 4 then (pRead g f.c.toNat l).toNat else 0

/-- IADD and its carry out, ISUB and its borrow (R85). -/
def iadd (f : SForm) (g : Group) (l : Nat) : Nat × Bool :=
  let w := width (fnBit f 0)
  let a := rdA f (fnBit f 0) g l
  let b := rdB f (fnBit f 0) g l
  (if fnBit f 2 then limit w (fnBit f 1) (int w (fnBit f 1) a + int w (fnBit f 1) b)
   else (bits w a + bits w b + bits w (carry f g l)).toNat, decide (a + b + carry f g l ≥ 2 ^ w))
def isub (f : SForm) (g : Group) (l : Nat) : Nat × Bool :=
  let w := width (fnBit f 0)
  let a := rdA f (fnBit f 0) g l
  let b := rdB f (fnBit f 0) g l
  (if fnBit f 2 then limit w (fnBit f 1) (int w (fnBit f 1) a - int w (fnBit f 1) b)
   else (bits w a - bits w b - bits w (carry f g l)).toNat, decide (a < b + carry f g l))

/-- IADD3, IMUL, IMAD, IMULH, IMIN, IMAX and IABS on values (R85). -/
def iadd3 (w : Nat) (s sat : Bool) (a b c : Nat) : Nat :=
  let v := int w s a + int w s b + int w s c
  if sat then limit w s v else modw w v
def imul (w a b : Nat) : Nat := (bits w a * bits w b).toNat
def imad (w : Nat) (s wide : Bool) (a b c : Nat) : Nat :=
  if wide then modw 64 (int 32 s a * int 32 s b + c) else (bits w a * bits w b + bits w c).toNat
def imulh (w : Nat) (s : Bool) (a b : Nat) : Nat := modw w ((int w s a * int w s b) >>> w)
def imin (w : Nat) (s : Bool) (a b : Nat) : Nat :=
  if (if s then (bits w a).sle (bits w b) else (bits w a).ule (bits w b)) then a else b
def imax (w : Nat) (s : Bool) (a b : Nat) : Nat :=
  if (if s then (bits w b).sle (bits w a) else (bits w b).ule (bits w a)) then a else b
def iabs (w : Nat) (sat : Bool) (a : Nat) : Nat :=
  if sat && bits w a == BitVec.intMin w then 2 ^ (w - 1) - 1 else (bits w a).abs.toNat

/-- B, complemented under NB (R86). -/
def nb (w : Nat) (n : Bool) (b : Nat) : BitVec w := if n then ~~~bits w b else bits w b

/-- TERN (R87): the minterms of the indices 1 to 7 whose bit of lut is 1. -/
def tern (lut a b c : Nat) : Nat :=
  let pick (k i : Nat) (x : BitVec 32) : BitVec 32 := if k.testBit i then x else ~~~x
  ((List.range' 1 7).foldl (fun (r : BitVec 32) k =>
    if lut.testBit (k - 1) then r ||| (pick k 0 (bits 32 a) &&& pick k 1 (bits 32 b) &&& pick k 2 (bits 32 c)) else r) 0#32).toNat

/-- LEA (R88). -/
def lea (wide s : Bool) (sh a b : Nat) : Nat :=
  if wide then (((if s then (bits 32 a).signExtend 64 else (bits 32 a).setWidth 64) <<< sh) + bits 64 b).toNat
  else ((bits 32 a <<< sh) + bits 32 b).toNat

/-- SHL and SHR (R90). -/
def shl (w a n : Nat) : Nat := (bits w a <<< n).toNat
def shr (w : Nat) (ari : Bool) (a n : Nat) : Nat := if ari then ((bits w a).sshiftRight n).toNat else (bits w a >>> n).toNat

/-- FSH (R91) of the concatenation of B and A. -/
def fsh (left : Bool) (a b n : Nat) : Nat :=
  let hl : BitVec 64 := bits 32 b ++ bits 32 a
  if left then ((hl <<< n).extractLsb' 32 32).toNat else ((hl >>> n).extractLsb' 0 32).toNat

/-- BFX and BFI (R92). -/
def bfx (w : Nat) (s : Bool) (a pos len : Nat) : Nat :=
  if len = 0 ∨ pos ≥ w then 0
  else
    let e := min len (w - pos)
    if s then (((bits w a).extractLsb' pos e).signExtend w).toNat else (((bits w a).extractLsb' pos e).setWidth w).toNat
def bfi (w a c pos len : Nat) : Nat :=
  if len = 0 ∨ pos ≥ w then c
  else
    let m : BitVec w := ((BitVec.allOnes (min len (w - pos))).setWidth w) <<< pos
    ((bits w c &&& ~~~m) ||| ((bits w a <<< pos) &&& m)).toNat

/-- POPC, CLZ and BREV (R93). -/
def popc (w a : Nat) : Nat := (List.range w).countP (fun i => (bits w a).getLsbD i)
def clz (w a : Nat) : Nat := ((List.range w).reverse.takeWhile (fun i => !(bits w a).getLsbD i)).length
def brev (w a : Nat) : Nat := (bits w a).reverse.toNat

/-- The bytes of BSEL (R94), in ascending order. -/
def bselByte (ba : BitVec 64) (k : Nat) (below : BitVec 8) : BitVec 8 :=
  if k < 8 then ba.extractLsb' (8 * k) 8
  else if k = 9 then 0xFF#8
  else if k = 10 then (if below.getLsbD 7 then 0xFF#8 else 0x00#8)
  else 0x00#8
def bsel (a b c : Nat) : Nat :=
  let ba : BitVec 64 := bits 32 b ++ bits 32 a
  let sel (i : Nat) : Nat := ((bits 32 c).extractLsb' (4 * i) 4).toNat
  let b0 := bselByte ba (sel 0) 0x00#8
  let b1 := bselByte ba (sel 1) b0
  let b2 := bselByte ba (sel 2) b1
  let b3 := bselByte ba (sel 3) b2
  (b3 ++ b2 ++ b1 ++ b0).toNat

/-- The comparison of ISETP (R95). -/
def cond (w : Nat) (s : Bool) (cnd a b : Nat) : Bool :=
  let x := bits w a
  let y := bits w b
  match cnd with
  | 0 => x == y
  | 1 => x != y
  | 2 => if s then x.slt y else x.ult y
  | 3 => if s then x.sle y else x.ule y
  | 4 => if s then y.slt x else y.ult x
  | _ => if s then y.sle x else y.ule x

/-- Two predicates combined (R95, R98): 0 and, 1 or, 2 xor. -/
def both (op : Nat) (x y : Bool) : Bool :=
  match op with
  | 0 => x && y
  | 1 => x || y
  | _ => xor x y

/-- The integer arithmetic instructions (R83 to R85). -/
def arithOp : Instr → Option LaneOp
  | .iadd f => some { f := f, ops := [srcA f (fnBit f 0), srcB f (fnBit f 0)], d := dstD f (fnBit f 0)
                      pd := if fnBit f 3 then some f.c.toNat else none, val := fun g l => (iadd f g l).1, pv := fun g l => (iadd f g l).2 }
  | .isub f => some { f := f, ops := [srcA f (fnBit f 0), srcB f (fnBit f 0)], d := dstD f (fnBit f 0)
                      pd := if fnBit f 3 then some f.c.toNat else none, val := fun g l => (isub f g l).1, pv := fun g l => (isub f g l).2 }
  | .iadd3 f => some { f := f, ops := [srcA f (fnBit f 0), srcB f (fnBit f 0), srcC f (fnBit f 0)], d := dstD f (fnBit f 0)
                       val := fun g l => iadd3 (width (fnBit f 0)) (fnBit f 1) (fnBit f 2) (rdA f (fnBit f 0) g l) (rdB f (fnBit f 0) g l)
                         (rdC f (fnBit f 0) g l) }
  | .imul f => some { f := f, ops := [srcA f (fnBit f 0), srcB f (fnBit f 0)], d := dstD f (fnBit f 0)
                      val := fun g l => imul (width (fnBit f 0)) (rdA f (fnBit f 0) g l) (rdB f (fnBit f 0) g l) }
  | .imad f => some { f := f, ops := [srcA f (fnBit f 0), srcB f (fnBit f 0), srcC f (fnBit f 0 || fnBit f 5)]
                      d := dstD f (fnBit f 0 || fnBit f 5)
                      val := fun g l => imad (width (fnBit f 0)) (fnBit f 1) (fnBit f 5) (rdA f (fnBit f 0) g l) (rdB f (fnBit f 0) g l)
                        (rdC f (fnBit f 0 || fnBit f 5) g l) }
  | .imulh f => some { f := f, ops := [srcA f (fnBit f 0), srcB f (fnBit f 0)], d := dstD f (fnBit f 0)
                       val := fun g l => imulh (width (fnBit f 0)) (fnBit f 1) (rdA f (fnBit f 0) g l) (rdB f (fnBit f 0) g l) }
  | .imin f => some { f := f, ops := [srcA f (fnBit f 0), srcB f (fnBit f 0)], d := dstD f (fnBit f 0)
                      val := fun g l => imin (width (fnBit f 0)) (fnBit f 1) (rdA f (fnBit f 0) g l) (rdB f (fnBit f 0) g l) }
  | .imax f => some { f := f, ops := [srcA f (fnBit f 0), srcB f (fnBit f 0)], d := dstD f (fnBit f 0)
                      val := fun g l => imax (width (fnBit f 0)) (fnBit f 1) (rdA f (fnBit f 0) g l) (rdB f (fnBit f 0) g l) }
  | .iabs f => some { f := f, ops := [srcA f (fnBit f 0)], d := dstD f (fnBit f 0)
                      val := fun g l => iabs (width (fnBit f 0)) (fnBit f 2) (rdA f (fnBit f 0) g l) }
  | _ => none

/-- The count of SHL, SHR and FSH, and pos and len of BFX and BFI: an immediate field, or bits of a 32-bit source (R90 to R92). -/
def countOp (f : SForm) : Opnd := if fnBit f 2 then .imm f.b.toNat else srcB f false

/-- The logic, address, shift and bit-field instructions (R86 to R88, R90 to R94). -/
def logicOp : Instr → Option LaneOp
  | .and f => some { f := f, ops := [srcA f (fnBit f 0), srcB f (fnBit f 0)], d := dstD f (fnBit f 0)
                     val := fun g l => (bits (width (fnBit f 0)) (rdA f (fnBit f 0) g l) &&& nb (width (fnBit f 0)) (fnBit f 1) (rdB f (fnBit f 0) g l)).toNat }
  | .or f => some { f := f, ops := [srcA f (fnBit f 0), srcB f (fnBit f 0)], d := dstD f (fnBit f 0)
                    val := fun g l => (bits (width (fnBit f 0)) (rdA f (fnBit f 0) g l) ||| nb (width (fnBit f 0)) (fnBit f 1) (rdB f (fnBit f 0) g l)).toNat }
  | .xor f => some { f := f, ops := [srcA f (fnBit f 0), srcB f (fnBit f 0)], d := dstD f (fnBit f 0)
                     val := fun g l => (bits (width (fnBit f 0)) (rdA f (fnBit f 0) g l) ^^^ nb (width (fnBit f 0)) (fnBit f 1) (rdB f (fnBit f 0) g l)).toNat }
  | .tern f => some { f := f, ops := [srcA f false, srcB f false, srcC f false], d := dstD f false
                      val := fun g l => tern (fnField f 0 7) (rdA f false g l) (rdB f false g l) (rdC f false g l) }
  | .lea f => some { f := f, ops := [srcA f false, srcB f (fnBit f 5)], d := dstD f (fnBit f 5)
                     val := fun g l => lea (fnBit f 5) (fnBit f 6) (fnField f 0 5) (rdA f false g l) (rdB f (fnBit f 5) g l) }
  | .shl f => some { f := f, ops := [srcA f (fnBit f 0), countOp f], d := dstD f (fnBit f 0)
                     val := fun g l => shl (width (fnBit f 0)) (rdA f (fnBit f 0) g l) ((countOp f).read g l % 256) }
  | .shr f => some { f := f, ops := [srcA f (fnBit f 0), countOp f], d := dstD f (fnBit f 0)
                     val := fun g l => shr (width (fnBit f 0)) (fnBit f 1) (rdA f (fnBit f 0) g l) ((countOp f).read g l % 256) }
  | .fsh f => some { f := f, ops := [srcA f false, srcB f false, if fnBit f 2 then .imm f.c.toNat else srcC f false], d := dstD f false
                     val := fun g l => fsh (fnBit f 0) (rdA f false g l) (rdB f false g l)
                       (if fnBit f 2 then f.c.toNat else rdC f false g l % 32) }
  | .bfx f => some { f := f, ops := [srcA f (fnBit f 0), if fnBit f 2 then .imm f.b.toNat else srcB f false], d := dstD f (fnBit f 0)
                     val := fun g l => bfx (width (fnBit f 0)) (fnBit f 1) (rdA f (fnBit f 0) g l)
                       (if fnBit f 2 then f.b.toNat else rdB f false g l % 256)
                       (if fnBit f 2 then f.c.toNat else rdB f false g l / 256 % 256) }
  | .bfi f => some { f := f, ops := [srcA f (fnBit f 0), srcB f false, srcC f (fnBit f 0)], d := dstD f (fnBit f 0)
                     val := fun g l => bfi (width (fnBit f 0)) (rdA f (fnBit f 0) g l) (rdC f (fnBit f 0) g l)
                       (rdB f false g l % 256) (rdB f false g l / 256 % 256) }
  | .popc f => some { f := f, ops := [srcA f (fnBit f 0)], d := dstD f false, val := fun g l => popc (width (fnBit f 0)) (rdA f (fnBit f 0) g l) }
  | .clz f => some { f := f, ops := [srcA f (fnBit f 0)], d := dstD f false, val := fun g l => clz (width (fnBit f 0)) (rdA f (fnBit f 0) g l) }
  | .brev f => some { f := f, ops := [srcA f (fnBit f 0)], d := dstD f (fnBit f 0)
                      val := fun g l => brev (width (fnBit f 0)) (rdA f (fnBit f 0) g l) }
  | .bsel f => some { f := f, ops := [srcA f false, srcB f false, srcC f false], d := dstD f false
                      val := fun g l => bsel (rdA f false g l) (rdB f false g l) (rdC f false g l) }
  | _ => none

/-- The predicates of a lane that P2V gathers (R99). -/
def predMask (g : Group) (l : Nat) : Nat :=
  (BitVec.ofFnLE (fun (i : Fin 12) => pRead g i l)).toNat

/-- The compare, select, move and predicate instructions but V2P (R95 to R99). -/
def compareOp : Instr → Option LaneOp
  | .isetp f => some { f := f, ops := [srcA f (fnBit f 4), srcB f (fnBit f 4)], d := .p f.d.toNat, pd := some f.d.toNat, val := fun _ _ => 0
                       pv := fun g l =>
                         let t := cond (width (fnBit f 4)) (fnBit f 3) (fnField f 0 3) (rdA f (fnBit f 4) g l) (rdB f (fnBit f 4) g l)
                         if fnField f 5 2 = 0 then t else both (fnField f 5 2 - 1) t (pRead g f.c.toNat l) }
  | .sel f => some { f := f, ops := [srcA f (fnBit f 0), srcB f (fnBit f 0)], d := dstD f (fnBit f 0)
                     val := fun g l => if pRead g f.c.toNat l then rdA f (fnBit f 0) g l else rdB f (fnBit f 0) g l }
  | .mov f => some { f := f, ops := [srcA f (fnBit f 0)], d := dstD f (fnBit f 0), val := fun g l => rdA f (fnBit f 0) g l }
  | .psetp f => some { f := f, ops := [], d := .p f.d.toNat, pd := some f.d.toNat, val := fun _ _ => 0
                       pv := fun g l =>
                         let x := both (fnField f 0 2) (xor (pRead g f.a.toNat l) (fnBit f 4)) (xor (pRead g f.b.toNat l) (fnBit f 5))
                         if fnField f 2 2 = 3 then x else both (fnField f 2 2) x (xor (pRead g f.c.toNat l) (fnBit f 6)) }
  | .p2v f => some { f := f, ops := [], d := dstD f false, val := fun g l => predMask g l }
  | _ => none

end Sys2Proof.Reading
end

