-- ==== Sys2Proof/Reading/Memory.lean ====
section
/-! DEFINITION. What the statements take from the manual's memory chapter: which lanes access which bytes, and the writes, the loaded
values and the slot accesses that a word makes of them. -/

namespace Sys2Proof.Reading

open Sys2Proof.Machine

/-- The pages of some addresses as the caches give them to the word at hand (R306, R321). -/
def looked (s : State) (g : Group) (t : Team) (kind : Nat) (vas : List Nat) : State × List PageNeed :=
  pageStates { s with cur := .idle } g t kind vas

/-- Every page of some addresses is mapped, with what the access requires. -/
def allMapped (s : State) (g : Group) (t : Team) (kind : Nat) (vas : List Nat) : Prop :=
  ∀ n ∈ (looked s g t kind vas).2, ∃ fr sz at_, n.st = .mapped fr sz at_

/-- The physical address of each virtual one, with the attributes of its page. -/
def physOf (s : State) (g : Group) (t : Team) (kind : Nat) (vas : List Nat) : Nat → Nat × Nat := pagesMap (looked s g t kind vas).2

/-- The address operand of LD, LDA, ST and STREL in space `spc` (R155, R176). -/
def addrOp (f : SForm) (spc : Nat) : Opnd := opnd f f.a (fnBit f 9) (lqA f) (spc == 0)

/-- The accesses of a load or store of `n` bytes: of each lane of CL, or of the lowest for a single execution (R54, R155 to R158). -/
def accesses (f : SForm) (g : Group) (t : Team) (once : Bool) (spc n : Nat) (cl : Mask) : List (Nat × LaneAcc) :=
  (if once then (lanesOf cl).take 1 else lanesOf cl).map (fun l => (l, laneAcc g t spc l ((addrOp f spc).read g l) (offOf f) n))

/-- No access fails before translation (R155 to R159). -/
def allOk (as : List (Nat × LaneAcc)) : Prop := ∀ p ∈ as, ∃ ps, p.2 = .ok ps

/-- The addresses of some accesses. -/
def vasOf (as : List (Nat × LaneAcc)) : List Nat := as.flatMap (fun p => p.2.pieces.map (·.1))

/-- The parts of an access: for each lane, its pieces as virtual address, physical address and bytes. -/
def partsOf (tr : Nat → Nat × Nat) (as : List (Nat × LaneAcc)) : List LanePart :=
  as.map (fun p => ⟨p.1, p.2.pieces.map (fun q => (q.1, (tr q.1).1, q.2))⟩)

/-- Every byte of some parts can be read without an error or a correction (R407 to R409). -/
def allClean (s : State) (w : Nat) (ps : List LanePart) : Prop :=
  ∀ p ∈ ps, ∀ q ∈ p.pieces, readError s w q.2.1 q.2.2 = .clean

/-- No byte of some parts lies in a doorbell frame (R430). -/
def noDoor (s : State) (ps : List LanePart) : Prop :=
  ∀ p ∈ ps, (∀ q ∈ p.pieces, inDoor s q.2.1 = false) ∧ ∀ q ∈ halfPieces p.pieces, inDoor s q.2.1 = false

/-- The lanes of ISSUE have not exited (R22). -/
def lanesLive (g : Group) (c : Ctx) : Prop := ∀ l, has c.mask l = true → (g.lane l).st = .active

/-- The data of a lane's store of `n` bytes, as a number: register D, or the registers from D up, or the uniform ones (R180). -/
def storeNat (f : SForm) (g : Group) (n l : Nat) : Nat :=
  let r (i : Nat) : Nat := if ud f then (uRead g (uni f f.d + i)).toNat else (vRead g (f.d.toNat + i) l).toNat
  match n with
  | 16 => r 0 + 2 ^ 32 * r 1 + 2 ^ 64 * r 2 + 2 ^ 96 * r 3
  | 8 => r 0 + 2 ^ 32 * r 1
  | _ => r 0

/-- The bytes of a lane's piece: they follow those of the earlier pieces, the least significant first (R154, R180). -/
def pieceWrites (bs : List Byte) : List (Nat × Nat × Nat) → List (Nat × List Byte)
  | [] => []
  | p :: ps => (p.2.1, bs.take p.2.2) :: pieceWrites (bs.drop p.2.2) ps

/-- The writes of a store: of each lane, in ascending order, its pieces of at most 8 bytes (R172). -/
def storeWrites (f : SForm) (g : Group) (n : Nat) (ps : List LanePart) : List (Nat × Nat × List Byte) :=
  ps.flatMap (fun p => (pieceWrites (leBytes n (storeNat f g n p.lane)) (halfPieces p.pieces)).map (fun w => (p.lane, w.1, w.2)))

/-- The registers that a load of `n` bytes into registers from `d` up writes, with the number loaded (R178, R179): 1 and 2 bytes are
extended to a register. -/
def loadedReg (n : Nat) (sx : Bool) (d x r : Nat) : Option W32 :=
  if n ≤ 2 then
    (if r = d then some (if sx then (BitVec.ofNat (8 * n) x).signExtend 32 else (BitVec.ofNat (8 * n) x).setWidth 32) else none)
  else if d ≤ r ∧ r < d + n / 4 then some (BitVec.ofNat 32 (x / 2 ^ (32 * (r - d)))) else none

/-- The address operand of ATOM, ATOMX and RED, and their other operands (R182). -/
def atomA (f : SForm) : Opnd := opnd f f.a (fnBit f 10) (lqA f) (!fnBit f 8)
def atomB (f : SForm) : Opnd := opnd f f.b (fnBit f 9) (lqB f) (fnBit f 7)
def atomC (f : SForm) (x : Bool) : Opnd := if x then opnd f f.c (fnBit f 1) (lqC f) (fnBit f 7) else .none

/-- The accesses of an atomic's lanes. -/
def atomAccesses (f : SForm) (g : Group) (t : Team) (cl : Mask) : List (Nat × LaneAcc) :=
  let n := if fnBit f 7 then 8 else 4
  (lanesOf cl).map (fun l => (l, if fnBit f 8 then scratchAcc t (((atomA f).read g l % 2 ^ 32 : Nat) : Int) n n
    else globalAcc (BitVec.ofNat 64 ((atomA f).read g l)) n))

/-- The new value of AOP for an old value and the operand, of `w` bits (R183). -/
def aopResult (w aop old b : Nat) : Nat :=
  match aop with
  | 0 => (old + b) % 2 ^ w
  | 1 => imin w true old b
  | 2 => imax w true old b
  | 3 => min old b
  | 4 => max old b
  | 5 => (bits w old &&& bits w b).toNat
  | 6 => (bits w old ||| bits w b).toNat
  | 7 => (bits w old ^^^ bits w b).toNat
  | 8 => b
  | 9 => fpAdd fp32 0 false old b
  | 10 => if b ≤ old then 0 else old + 1
  | _ => if old = 0 ∨ b < old then b else old - 1

end Sys2Proof.Reading
end

