-- ==== Sys2Proof/Reading/Systems.lean ====
section
/-! DEFINITION. What the statements take from the manual's chapters on line routines, translation walkers and sessions: an image that a
word loads, and the operands of XOPEN and XSEAL. -/

namespace Sys2Proof.Reading

open Sys2Proof.Machine

/-- The lanes of ISSUE stand at the next word, and nothing else of a lane has changed but what stands before its later writes (R196). -/
def advancedFenced (c : Ctx) (g g' : Group) : Prop :=
  g'.lanes.length = g.lanes.length ∧ ∀ l, l < g.lanes.length →
    { g'.lane l with fence := (g.lane l).fence } = if has c.mask l then { g.lane l with pc := (g.lane l).pc + 8#64 } else g.lane l

/-- The address of the image that LRLOAD or WRLOAD names, its header, and the pages that the whole image touches. -/
def imageVa (g : Group) (f : SForm) : Nat := (opnd f f.a true false true).read g 0
def imageOne (g : Group) (c : Ctx) (f : SForm) : List Nat := (lanesOf (clOf g c f.pg f.pn)).map (fun _ => imageVa g f)
def imageHead (s : State) (c : Ctx) (g : Group) (t : Team) (f : SForm) : Nat :=
  leNat (coreRead s g.core t.world (physOf s g t 1 (imageOne g c f) (imageVa g f)).1 8)
def imagePages (s : State) (c : Ctx) (g : Group) (t : Team) (f : SForm) (len : Nat) : State × List PageNeed :=
  pageStates (looked s g t 1 (imageOne g c f)).1 g t 1 ((lanesOf (clOf g c f.pg f.pn)).flatMap (fun _ => pagesOf (imageVa g f) (8 + 4 * len)))
def imagePieces (s : State) (c : Ctx) (g : Group) (t : Team) (f : SForm) (len : Nat) : List (Nat × Nat × Nat) :=
  let va := imageVa g f
  (pagesOf va (8 + 4 * len)).map (fun x =>
    (x, (pagesMap (imagePages s c g t f len).2 x).1, min (va + 8 + 4 * len) (x / 4096 * 4096 + 4096) - x))

/-- The state at which the image is read: after the release that LRLOAD and WRLOAD are (R286, R329); and the words as they are read. -/
def imageState (s : State) (c : Ctx) (g : Group) (t : Team) (f : SForm) (len : Nat) : State :=
  fenceWord (imagePages s c g t f len).1 c g t (clOf g c f.pg f.pn) 4
def imageBytes (s : State) (c : Ctx) (g : Group) (t : Team) (f : SForm) (len : Nat) : List Byte :=
  (readPieces (imageState s c g t f len) g.core t.world (imagePieces s c g t f len)).drop 8

/-- An image of `len` words can be read: its address is aligned, its pages are mapped, no error stands in it, and no load of an image of
its kind (walker images, or routines) in the space is in progress. -/
structure ImageAtHand (s : State) (c : Ctx) (g : Group) (t : Team) (f : SForm) (walker : Bool) (len : Nat) : Prop where
  lanes : clOf g c f.pg f.pn ≠ 0#32
  aligned : imageVa g f % 8 = 0
  inside : imageVa g f + 8 + 4 * len ≤ 2 ^ 56
  noFlight : g.flights = []
  headMapped : allMapped s g t 1 (imageOne g c f)
  headClean : readError s t.world (physOf s g t 1 (imageOne g c f) (imageVa g f)).1 8 = .clean
  mapped : ∀ n ∈ (imagePages s c g t f len).2, ∃ fr sz at_, n.st = .mapped fr sz at_
  clean : ∀ q ∈ imagePieces s c g t f len, readError s t.world q.2.1 q.2.2 = .clean
  noDrop : ∀ d ∈ s.drops, d.space = t.space → d.routine.isSome = walker

/-- The operands of XOPEN and XSEAL (R401): the handle, the length, the counter, the buffer's address, the slot offset, and the bytes of
the slot that they cover. -/
def cryptHandle (g : Group) (f : SForm) : W32 := uRead g (uni f f.c)
def cryptLen (g : Group) (f : SForm) : Nat := (uRead g (uni f f.c + 1)).toNat
def cryptCtr (g : Group) (f : SForm) : W64 := uRead64 g (uni f f.c + 2)
def cryptVa (g : Group) (f : SForm) : Nat := (uRead64 g (uni f f.a)).toNat
def cryptOff (g : Group) (f : SForm) : Nat := (uRead g (uni f f.b)).toNat
def cryptRun (g : Group) (f : SForm) : Nat := 32 * ((cryptLen g f + 31) / 32)
def cryptSlot (g : Group) (f : SForm) : Nat := slice (cryptHandle g f).toNat 10 3

/-- The pages of a buffer of `n` bytes. -/
def cryptVas (g : Group) (c : Ctx) (f : SForm) (n : Nat) : List Nat := (lanesOf (clOf g c f.pg f.pn)).flatMap (fun _ => pagesOf (cryptVa g f) n)

/-- A word of a session whose operands are legal (R402), with no other operation on a session slot under way, in a team of its own
that does not roll back and waits for nothing. -/
structure SessionWord (s : State) (c : Ctx) (g : Group) (t : Team) (f : SForm) : Prop where
  issuing : Issuing s c g t
  calm : Undisturbed s g
  single : t.twin = 0
  keepsNoImage : t.rollbacks = false
  noFlight : g.flights = []
  noWait : ∀ p ∈ s.groups, p.2.team = g.team → p.2.spWaits = []
  noCopy : ∀ p ∈ s.copies, p.2.team ≠ g.team
  noOther : ∀ p ∈ s.groups, p.1 ≠ c.gid → p.2.holds = []
  rising : mrising s.groups = true
  lanes : clOf g c f.pg f.pn ≠ 0#32
  len : cryptLen g f % 16 = 0 ∧ 16 ≤ cryptLen g f ∧ cryptLen g f ≤ 65536
  aligned : cryptVa g f % 16 = 0 ∧ cryptOff g f % 32 = 0
  inside : cryptOff g f + cryptRun g f ≤ t.scratch ∧ cryptVa g f + cryptLen g f + 32 ≤ 2 ^ 56
  noRelease : t.rels = []
  noSingle : t.spSingle = []

/-- The word ends with a status: D holds it, the lanes of ISSUE stand at the next word, and no other register changes. -/
def sessionEnds (s' : State) (c : Ctx) (g : Group) (f : SForm) (st : Nat) : Prop :=
  ∃ g', mget s'.groups c.gid = some g' ∧ advanced c g g' ∧ (f.nw = false → uRead g' (uni f f.d) = BitVec.ofNat 32 st) ∧
    (∀ k, f.nw = true ∨ k ≠ uni f f.d → uRead g' k = uRead g k) ∧ g'.v = g.v ∧ g'.p = g.p

end Sys2Proof.Reading
end

