-- ==== Sys2Proof/Reading/Lanes.lean ====
section
/-! DEFINITION. The floating-point, packed, conversion and group instructions and SRR as R107 to R112, R135 to R153 and R366 give
them, over the exact values and the rounding of R118 to R128. -/

namespace Sys2Proof.Reading

open Sys2Proof Sys2Proof.Machine

/-- Bits of a format flushed under FTZ and read as a value (R118, R125). -/
def val (m : Fmt) (ftz : Bool) (x : Nat) : FV := m.value (m.flushIn ftz x)

/-- The operand of a word negated (R134). -/
def sgn (m : Fmt) (n : Bool) (x : Nat) : Nat := if n then x ^^^ 2 ^ (m.ebits + m.mbits) else x

/-- The exact sum, product and fused sum of R136, rounded once in RM and flushed. -/
def fsum (m : Fmt) (rm : Nat) (ftz : Bool) (a b : Nat) : Nat := m.round rm ftz (FV.add rm (val m ftz a) (val m ftz b))
def fprod (m : Fmt) (rm : Nat) (ftz : Bool) (a b : Nat) : Nat := m.round rm ftz (FV.mul (val m ftz a) (val m ftz b))
def ffused (m : Fmt) (rm : Nat) (ftz : Bool) (a b c : Nat) : Nat :=
  m.round rm ftz (FV.add rm (FV.mul (val m ftz a) (val m ftz b)) (val m ftz c))

/-- SAT of R136: a NaN gives +0, everything else is limited to [+0, 1.0]. -/
def sat01 (on : Bool) (x : Nat) : Nat :=
  if on then
    match fp32.value x with
    | .nan => 0
    | v => if v.sign then 0 else if x > 0x3F800000 then 0x3F800000 else x
  else x

/-- FADD, FMUL and FFMA (R135, R136), and the FP64 forms (R137), with the fields of an OPX. -/
def add3 (m : Fmt) (f : SForm) (a b : Nat) : Nat := fsum m (fnField f 0 2) (fnBit f 2) (sgn m (fnBit f 3) a) (sgn m (fnBit f 4) b)
def mul3 (m : Fmt) (f : SForm) (a b : Nat) : Nat := fprod m (fnField f 0 2) (fnBit f 2) (sgn m (fnBit f 3) a) (sgn m (fnBit f 4) b)
def fma3 (m : Fmt) (f : SForm) (a b c : Nat) : Nat :=
  ffused m (fnField f 0 2) (fnBit f 2) (sgn m (fnBit f 3) a) (sgn m (fnBit f 4) b) (sgn m (fnBit f 5) c)

/-- An operation on both halves of a register (R146). -/
def onHalves (fn : Nat → Nat → Nat → Nat) (a b c : Nat) : Nat :=
  (BitVec.ofNat 16 (fn (b16 a 1) (b16 b 1) (b16 c 1)) ++ BitVec.ofNat 16 (fn (b16 a 0) (b16 b 0) (b16 c 0))).toNat
where
  /-- Half `h` of a register. -/
  b16 (x h : Nat) : Nat := ((bits 32 x).extractLsb' (16 * h) 16).toNat

/-- The floating-point arithmetic instructions (R135 to R144). -/
def floatOp : Instr → Option LaneOp
  | .fadd f => some { f := f, ops := [srcA f false, srcB f false], d := dstD f false
                      val := fun g l => sat01 (fnBit f 6) (add3 fp32 f (rdA f false g l) (rdB f false g l)) }
  | .fmul f => some { f := f, ops := [srcA f false, srcB f false], d := dstD f false
                      val := fun g l => sat01 (fnBit f 6) (mul3 fp32 f (rdA f false g l) (rdB f false g l)) }
  | .ffma f => some { f := f, ops := [srcA f false, srcB f false, srcC f false], d := dstD f false
                      val := fun g l => sat01 (fnBit f 6) (fma3 fp32 f (rdA f false g l) (rdB f false g l) (rdC f false g l)) }
  | .fmin f => some { f := f, ops := [srcA f (fnBit f 1), srcB f (fnBit f 1)], d := dstD f (fnBit f 1)
                      val := fun g l => fpMinMax (if fnBit f 1 then fp64 else fp32) false (fnBit f 0) (fnBit f 2)
                        (rdA f (fnBit f 1) g l) (rdB f (fnBit f 1) g l) }
  | .fmax f => some { f := f, ops := [srcA f (fnBit f 1), srcB f (fnBit f 1)], d := dstD f (fnBit f 1)
                      val := fun g l => fpMinMax (if fnBit f 1 then fp64 else fp32) true (fnBit f 0) (fnBit f 2)
                        (rdA f (fnBit f 1) g l) (rdB f (fnBit f 1) g l) }
  | .fsetp f => some { f := f, ops := [srcA f (fnBit f 4), srcB f (fnBit f 4)], d := .p f.d.toNat, pd := some f.d.toNat, val := fun _ _ => 0
                       pv := fun g l =>
                         let t := fpCmp (if fnBit f 4 then fp64 else fp32) (fnField f 0 4) (rdA f (fnBit f 4) g l) (rdB f (fnBit f 4) g l)
                         if fnField f 5 2 = 0 then t else both (fnField f 5 2 - 1) t (pRead g f.c.toNat l) }
  | .fclass f => some { f := f, ops := [srcA f (fnField f 0 2 == 1)], d := dstD f false
                        val := fun g l => fpClass (typeFmt (fnField f 0 2)) (typeSrc (fnField f 0 2) false (rdA f (fnField f 0 2 == 1) g l)) }
  | .frnd f => some { f := f, ops := [srcA f (fnBit f 3)], d := dstD f (fnBit f 3)
                      val := fun g l => fpRnd (if fnBit f 3 then fp64 else fp32) (fnField f 0 2) (fnBit f 2) (rdA f (fnBit f 3) g l) }
  | .frcp f => some { f := f, ops := [srcA f false], d := dstD f false, val := fun g l => fspec 0 (fnBit f 3) (rdA f false g l) }
  | .frsq f => some { f := f, ops := [srcA f false], d := dstD f false, val := fun g l => fspec 1 (fnBit f 3) (rdA f false g l) }
  | .fsqrt f => some { f := f, ops := [srcA f false], d := dstD f false, val := fun g l => fspec 2 (fnBit f 3) (rdA f false g l) }
  | .fex2 f => some { f := f, ops := [srcA f false], d := dstD f false, val := fun g l => fspec 3 (fnBit f 3) (rdA f false g l) }
  | .flg2 f => some { f := f, ops := [srcA f false], d := dstD f false, val := fun g l => fspec 4 (fnBit f 3) (rdA f false g l) }
  | .fsin f => some { f := f, ops := [srcA f false], d := dstD f false, val := fun g l => fspec 5 (fnBit f 3) (rdA f false g l) }
  | .fcos f => some { f := f, ops := [srcA f false], d := dstD f false, val := fun g l => fspec 6 (fnBit f 3) (rdA f false g l) }
  | .ftanh f => some { f := f, ops := [srcA f false], d := dstD f false, val := fun g l => fspec 7 (fnBit f 3) (rdA f false g l) }
  | .dadd f => some { f := f, ops := [srcA f true, srcB f true], d := dstD f true
                      val := fun g l => add3 fp64 f (rdA f true g l) (rdB f true g l) }
  | .dmul f => some { f := f, ops := [srcA f true, srcB f true], d := dstD f true
                      val := fun g l => mul3 fp64 f (rdA f true g l) (rdB f true g l) }
  | .dfma f => some { f := f, ops := [srcA f true, srcB f true, srcC f true], d := dstD f true
                      val := fun g l => fma3 fp64 f (rdA f true g l) (rdB f true g l) (rdC f true g l) }
  | .fscl f => some { f := f, ops := [srcA f false, srcB f false, if fnBit f 3 then srcC f false else .none], d := dstD f false
                      val := fun g l => fsclOp f (rdA f false g l) (rdB f false g l) (if fnBit f 3 then rdC f false g l else 0) }
  | _ => none

/-- The format of paired halves (R145). -/
def half (f : SForm) : Fmt := if fnBit f 0 then bf16 else fp16

/-- The paired-half, packed and conversion instructions (R145 to R153); PCVT and UNPK read the team's format slots. -/
def packedOp (t : Team) : Instr → Option LaneOp
  | .hadd2 f => some { f := f, ops := [srcA f false, srcB f false], d := dstD f false
                       val := fun g l => onHalves (fun x y _ => fsum (half f) (fnField f 1 2) (fnBit f 3)
                         (sgn (half f) (fnBit f 4) x) (sgn (half f) (fnBit f 5) y)) (rdA f false g l) (rdB f false g l) 0 }
  | .hmul2 f => some { f := f, ops := [srcA f false, srcB f false], d := dstD f false
                       val := fun g l => onHalves (fun x y _ => fprod (half f) (fnField f 1 2) (fnBit f 3)
                         (sgn (half f) (fnBit f 4) x) (sgn (half f) (fnBit f 5) y)) (rdA f false g l) (rdB f false g l) 0 }
  | .hfma2 f => some { f := f, ops := [srcA f false, srcB f false, srcC f false], d := dstD f false
                       val := fun g l => onHalves (fun x y z => ffused (half f) (fnField f 1 2) (fnBit f 3)
                         (sgn (half f) (fnBit f 4) x) (sgn (half f) (fnBit f 5) y) (sgn (half f) (fnBit f 6) z))
                         (rdA f false g l) (rdB f false g l) (rdC f false g l) }
  | .hmnmx2 f => some { f := f, ops := [srcA f false, srcB f false], d := dstD f false
                        val := fun g l => onHalves (fun x y _ => fpMinMax (half f) (fnBit f 4) (fnBit f 5) (fnBit f 3) x y)
                          (rdA f false g l) (rdB f false g l) 0 }
  | .pdot4 f => some { f := f, ops := [srcA f false, srcB f false, srcC f false], d := dstD f false
                       val := fun g l => dotOp false f (rdA f false g l) (rdB f false g l) (rdC f false g l) }
  | .pdot8 f => some { f := f, ops := [srcA f false, srcB f false, srcC f false], d := dstD f false
                       val := fun g l => dotOp true f (rdA f false g l) (rdB f false g l) (rdC f false g l) }
  | .f2i f => some { f := f, ops := [srcA f (fnField f 2 2 == 1)], d := dstD f (fnBit f 5)
                     val := fun g l =>
                       let w := intWidth (fnField f 4 2)
                       let r := intRange (intSigned (fnField f 4 2)) w
                       modw w (toInt (fnField f 0 2) r.1 r.2 ((typeFmt (fnField f 2 2)).value
                         (typeSrc (fnField f 2 2) (fnBit f 6) (rdA f (fnField f 2 2 == 1) g l)))) }
  | .i2f f => some { f := f, ops := [srcA f (fnBit f 3)], d := dstD f (fnField f 4 2 == 1)
                     val := fun g l => (typeFmt (fnField f 4 2)).round (fnField f 0 2) false
                       (FV.ofInt (int (intWidth (fnField f 2 2)) (intSigned (fnField f 2 2)) (rdA f (fnBit f 3) g l))) }
  | .f2f f => some { f := f, ops := [srcA f (fnField f 2 2 == 1)], d := dstD f (fnField f 4 2 == 1)
                     val := fun g l => (typeFmt (fnField f 4 2)).round (fnField f 0 2) (fnBit f 6)
                       (val (typeFmt (fnField f 2 2)) (fnBit f 6) (typeSrc (fnField f 2 2) false (rdA f (fnField f 2 2 == 1) g l))) }
  | .pcvt f => some { f := f, ops := [srcA f false, srcB f false, if fnBit f 5 then .imm 0 else srcC f false], d := dstD f false
                      val := fun g l =>
                        let fs := t.fs.getD (fnField f 0 3) 0#32
                        pcvtOp fs (fnField f 3 2) (rdA f false g l) (rdB f false g l) (if fnBit f 5 then 0 else rdC f false g l) }
  | .unpk f => some { f := f, ops := [srcA f false], d := dstD f false
                      val := fun g l => unpkOp (t.fs.getD (fnField f 0 3) 0#32) (fnField f 3 3) (rdA f false g l) }
  | _ => none

/-- The format slot of PCVT and UNPK takes the element (R152, R153). -/
def slotTakes (t : Team) : Instr → Prop
  | .pcvt f => fsFmt (t.fs.getD (fnField f 0 3) 0#32) ≠ 0 ∧
      2 * fnField f 3 2 + 1 < slotCount (fsFmt (t.fs.getD (fnField f 0 3) 0#32))
  | .unpk f => fsFmt (t.fs.getD (fnField f 0 3) 0#32) ≠ 0 ∧ fnField f 3 3 < slotCount (fsFmt (t.fs.getD (fnField f 0 3) 0#32))
  | _ => True

/-- The mask of the lanes of CL with a property, as a number (R107, R109). -/
def maskNat (cl : Mask) (p : Nat → Bool) : Nat := (BitVec.ofFnLE (fun (i : Fin 32) => has cl i && p i)).toNat

/-- The lane that SHFL reads for lane `l`, where it is a lane (R108). -/
def shuffle (mode l s : Nat) : Option Nat :=
  let j : Int := match mode with
    | 0 => (s % 32 : Nat)
    | 1 => (l : Int) - s
    | 2 => (l : Int) + s
    | _ => (l ^^^ s % 32 : Nat)
  if 0 ≤ j ∧ j ≤ 31 then some j.toNat else none

/-- The reduction of GRED over values in ascending lane order (R111). -/
def reduce (w : Nat) (signed : Bool) (op : Nat) (xs : List Nat) : Nat :=
  match xs with
  | [] => 0
  | x :: rest => rest.foldl (fun r y =>
      match op with
      | 0 => (bits w r + bits w y).toNat
      | 1 => imin w signed r y
      | 2 => imax w signed r y
      | 3 => (bits w r &&& bits w y).toNat
      | 4 => (bits w r ||| bits w y).toNat
      | 5 => (bits w r ^^^ bits w y).toNat
      | _ => r) x

/-- A vector, uniform or latch operand of a group operation (R53, R62). -/
def opA (f : SForm) (wide : Bool) : Opnd := opnd f f.a false (lqA f) wide

/-- The group operations (R107 to R112) and SRR (R366): the values depend on CL and on the group's own special values. -/
def groupOp (s : State) (t : Team) (cl : Mask) : Instr → Option LaneOp
  | .voteAll f => some { f := f, ops := [], d := .none, pd := some f.d.toNat, val := fun _ _ => 0
                         pv := fun g _ => (List.range 32).all (fun l => !has cl l || xor (pRead g f.a.toNat l) (fnBit f 2)) }
  | .voteAny f => some { f := f, ops := [], d := .none, pd := some f.d.toNat, val := fun _ _ => 0
                         pv := fun g _ => (List.range 32).any (fun l => has cl l && xor (pRead g f.a.toNat l) (fnBit f 2)) }
  | .voteSame f => some { f := f, ops := [], d := .none, pd := some f.d.toNat, val := fun _ _ => 0
                          pv := fun g _ => (List.range 32).all (fun l => !has cl l || xor (pRead g f.a.toNat l) (fnBit f 2)) ||
                            (List.range 32).all (fun l => !has cl l || !xor (pRead g f.a.toNat l) (fnBit f 2)) }
  | .voteBallot f => some { f := f, ops := [], d := dstU f false
                            val := fun g _ => maskNat cl (fun l => xor (pRead g f.a.toNat l) (fnBit f 2)) }
  | .shfl f => some { f := f, ops := [opA f (fnBit f 4), if fnBit f 2 then .imm f.b.toNat else srcB f false,
                                      if fnBit f 3 then .none else srcC f false], d := .v f.d.toNat (fnBit f 4)
                      val := fun g l =>
                        let sel := if fnBit f 2 then f.b.toNat else rdB f false g l % 256
                        match shuffle (fnField f 0 2) l sel with
                        | some j => if has cl j && (fnBit f 3 || (rdC f false g l).testBit j) then (opA f (fnBit f 4)).read g j
                                    else (opA f (fnBit f 4)).read g l
                        | none => (opA f (fnBit f 4)).read g l }
  | .matchAny f => some { f := f, ops := [opA f (fnBit f 0)], d := .v f.d.toNat false
                          val := fun g l => maskNat cl (fun j => (opA f (fnBit f 0)).read g j == (opA f (fnBit f 0)).read g l) }
  | .matchAll f =>
    let alike (g : Group) : Bool := (List.range 32).all (fun i => (List.range 32).all (fun j =>
      !(has cl i && has cl j) || (opA f (fnBit f 0)).read g i == (opA f (fnBit f 0)).read g j))
    some { f := f, ops := [opA f (fnBit f 0)], d := .v f.d.toNat false, pd := some f.c.toNat
           val := fun g _ => if alike g then cl.toNat else 0, pv := fun g _ => alike g }
  | .elect f => some { f := f, ops := [], d := .none, pd := some f.d.toNat, val := fun _ _ => 0
                       pv := fun _ l => has cl l && (List.range l).all (fun j => !has cl j) }
  | .gred f => some { f := f, ops := [opA f (fnBit f 4)], d := dstU f (fnBit f 4)
                      val := fun g _ => reduce (width (fnBit f 4)) (fnBit f 3) (fnField f 0 3) ((lanesOf cl).map ((opA f (fnBit f 4)).read g)) }
  | .sread f => some { f := f, ops := [], d := dstU f (f.a == 16#8), val := fun g l => special g t l f.a.toNat }
  | .srr f => some { f := f, ops := [], d := dstU f (sysregPair f.a.toNat), val := fun g _ => sysreg s g t f.a.toNat }
  | _ => none

end Sys2Proof.Reading
end

