-- ==== Sys2Proof/Reading/Barriers.lean ====
section
/-! DEFINITION. What the statements take from the manual's chapter on copies and barriers: barrier objects, and lanes that wait. -/

namespace Sys2Proof.Reading

open Sys2Proof.Machine

/-- The check for completion of an updated object (R210): the object after it. -/
def checked (b : Barrier) : Barrier :=
  if b.v = true ∧ b.expect ≤ b.arrived ∧ b.landed = b.xbytes then
    { b with phase := (b.phase + 1) % 2 ^ 32, arrived := 0, landed := 0, xbytes := 0 }
  else b

/-- Whether an updated object completes its phase (R210). -/
def completes (b : Barrier) : Bool := b.v && decide (b.expect ≤ b.arrived) && decide (b.landed = b.xbytes)

/-- Whether a lane waits on an object with a phase number. -/
def waitsFor (o ph : Nat) (x : Lane) : Bool :=
  x.st == .blocked &&
    match x.wait with
    | some (.barrier n p _) => n == o && p == ph
    | _ => false

/-- One lane of BARV (R232): the token that it receives and the object after it. -/
def barvLane (exp na : Bool) (bytes : Nat) (b : Barrier) : Nat × Barrier :=
  let b1 := if exp then { b with xbytes := (b.xbytes + bytes) % 2 ^ 32 } else b
  (b.phase, checked (if na then b1 else { b1 with arrived := if b1.arrived < 8191 then b1.arrived + 1 else 8191 }))

/-- The lanes of BARV in order: the tokens and the object at the end. -/
def barvLanes (exp na : Bool) (bytes : Nat → Nat) : List Nat → Barrier → List (Nat × Nat) × Barrier
  | [], b => ([], b)
  | l :: ls, b =>
    let r := barvLane exp na (bytes l) b
    let q := barvLanes exp na bytes ls r.2
    ((l, r.1) :: q.1, q.2)

/-- Lanes of a group wait at the word (R31, R32): their PCs stay; the other lanes of ISSUE go on. -/
def waitsAt (c : Ctx) (g g' : Group) (m : Mask) (w : Wait) : Prop :=
  ∀ l, l < g.lanes.length → g'.lane l =
    if has m l then { g.lane l with st := .blocked, wait := some w }
    else if has c.mask l then { g.lane l with pc := (g.lane l).pc + 8#64 } else g.lane l

/-- A lane that its wait releases (R32, R360). -/
def released (g : Group) (x : Lane) : Lane :=
  { x with wait := none, pc := x.pc + 8#64, st := if g.inHandler ≠ 0#32 ∧ x.h = false then .parked else .active }

/-- The bytes of an ACP transfer of a lane, page by page (R222): virtual address, physical address, count. -/
def transferPieces (tr : Nat → Nat × Nat) (src n : Nat) : List (Nat × Nat × Nat) :=
  (pagesOf src n).map (fun va => (va, (tr va).1, min (src + n) (va / 4096 * 4096 + 4096) - va))

/-- The first bytes of a tensor shape record, page by page (R216): virtual address, physical address, count. -/
def recordPieces (tr : Nat → Nat × Nat) (va n : Nat) : List (Nat × Nat × Nat) :=
  ((pagesOf va 192).filter (fun x => decide (x < va + n))).map (fun x => (x, (tr x).1, min (va + n) (x / 4096 * 4096 + 4096) - x))

/-- The valid-byte count of ACP in a lane (R222): an immediate, or the register's value, at most 32. -/
def transferCount (f : SForm) (g : Group) (l : Nat) : Nat :=
  if fnBit f 7 then f.c.toNat else min 32 ((opnd f f.c (fnBit f 8) (lqC f) false).read g l)

end Sys2Proof.Reading
end

