-- ==== Sys2Proof/Reading/Matrix.lean ====
section
/-! DEFINITION. What the statements take from the manual's matrix chapter: where the elements of the operands lie, and the fields of a
descriptor. -/

namespace Sys2Proof.Reading

open Sys2Proof.Machine

/-- Bits `lo` to `lo + n - 1` of a number. -/
def field (x lo n : Nat) : Nat := x / 2 ^ lo % 2 ^ n

/-- Row `i`, element `k` of A in a member group (R121, R235, R236): the element's bits in register AREG + r of lane i + 16 h; zero where
the lane is outside LMASK. -/
def matrixA (g : Group) (v : Conv) (fmt i k : Nat) : Nat :=
  let w := slotWidth fmt
  let lane := i + 16 * (k * w / 32 % 2)
  if has v.lmask lane then field (vRaw g (v.areg + k * w / 64) lane).toNat (k * w % 32) w else 0

/-- The E8M0 scale of block `b` of row `i` of A (R238). -/
def scaleA (g : Group) (v : Conv) (i b : Nat) : Nat := field (vRaw g (v.sar + b / 8) (i + 16 * (b % 8 / 4))).toNat (8 * (b % 4)) 8

/-- Byte `b` of B, and of its scales, in tiles of the lead group or in the slot (R237, R238). -/
def matrixByte (t : Team) (v : Conv) (lead : Group) (b : Nat) : Nat :=
  (if v.bsrc then memGet t.sp (v.boff.toNat + b) else tileRaw lead (v.bt + b / 1024) (b % 1024)).toNat
def scaleByte (t : Team) (v : Conv) (lead : Group) (b : Nat) : Nat :=
  (if v.bsrc then memGet t.sp (v.boff.toNat + (v.nb t + 31) / 32 * 32 + b) else tileRaw lead v.sbt b).toNat

/-- Element (k, j) of panel `p` of B (R237). -/
def matrixB (t : Team) (v : Conv) (lead : Group) (fmt p k j : Nat) : Nat :=
  let w := slotWidth fmt
  let o := p * v.k * w + (8 * k + j) * w / 8
  match w with
  | 16 => matrixByte t v lead o + 256 * matrixByte t v lead (o + 1)
  | 8 => matrixByte t v lead o
  | _ => field (matrixByte t v lead o) (4 * (j % 2)) 4

/-- An element's value with its block scale, where the slot has one (R128, R238). -/
def scaled (d : BitVec 32) (bits scale : Nat) : FV := if fsScl d = 1 then scaleBy scale (slotValue (fsFmt d) bits) else slotValue (fsFmt d) bits

/-- Element (i, j) of accumulator tile `p` after the operation (R128, R234): groups of sixteen products in ascending k. -/
def matrixResult (t : Team) (v : Conv) (lead g : Group) (p i j : Nat) : Nat :=
  (List.range v.kg).foldl (fun acc q => accGroup acc ((List.range 16).map (fun x =>
      let k := 16 * q + x
      FV.mul (scaled (v.fsA t) (matrixA g v (fsFmt (v.fsA t)) i k) (scaleA g v i (k / fsBlock (v.fsA t))))
        (scaled (v.fsB t) (matrixB t v lead (fsFmt (v.fsB t)) p k j) (scaleByte t v lead (8 * (p * v.kbb t + k / fsBlock (v.fsB t)) + j))))))
    (if v.za then 0 else (accRaw g (v.acc + p) (8 * i + j)).toNat)

/-- The bytes that some writes leave at an address, the last of those that cover it. -/
def written (ws : List (Nat × List Byte)) (a : Nat) (b : Byte) : Byte :=
  ws.foldl (fun b w => if w.1 ≤ a ∧ a < w.1 + w.2.length then w.2.getD (a - w.1) 0#8 else b) b

end Sys2Proof.Reading
end

