-- ==== Sys2Proof/Reading/Words.lean ====
section
/-! DEFINITION. The slot operations of R59 and the Crumb operations of R264 to R271 as the manual gives them, in bit vectors. -/

namespace Sys2Proof.Reading

open Sys2Proof.Machine

/-- A slot's operation (R59): what it writes to D from D and A, or nothing. -/
structure SlotOp where
  f : PSlot
  writes : Bool := true
  fn : W32 → W32 → W32 := fun d _ => d

/-- A value of FP32, or of both halves, as a register. -/
def reg32 (x : Nat) : W32 := BitVec.ofNat 32 x

/-- The slot operations. -/
def slotOp : Instr → Option SlotOp
  | .pairNop f => some { f := f, writes := false }
  | .pairMov f => some { f := f, fn := fun _ a => a }
  | .pairIadd f => some { f := f, fn := fun d a => d + a }
  | .pairIsub f => some { f := f, fn := fun d a => d - a }
  | .pairAnd f => some { f := f, fn := fun d a => d &&& a }
  | .pairOr f => some { f := f, fn := fun d a => d ||| a }
  | .pairXor f => some { f := f, fn := fun d a => d ^^^ a }
  | .pairShl f => some { f := f, fn := fun d a => d <<< (a.toNat % 256) }
  | .pairShr f => some { f := f, fn := fun d a => if f.pm.getLsbD 0 then d.sshiftRight (a.toNat % 256) else d >>> (a.toNat % 256) }
  | .pairImin f => some { f := f, fn := fun d a => if (if f.pm.getLsbD 0 then d.sle a else d.ule a) then d else a }
  | .pairImax f => some { f := f, fn := fun d a => if (if f.pm.getLsbD 0 then a.sle d else a.ule d) then d else a }
  | .pairImul f => some { f := f, fn := fun d a => d * a }
  | .pairFadd f => some { f := f, fn := fun d a => reg32 (fsum fp32 (f.pm.toNat % 4) (f.pm.getLsbD 2) d.toNat a.toNat) }
  | .pairFmul f => some { f := f, fn := fun d a => reg32 (fprod fp32 (f.pm.toNat % 4) (f.pm.getLsbD 2) d.toNat a.toNat) }
  | .pairFmin f => some { f := f, fn := fun d a => reg32 (fpMinMax fp32 false false (f.pm.getLsbD 2) d.toNat a.toNat) }
  | .pairFmax f => some { f := f, fn := fun d a => reg32 (fpMinMax fp32 true false (f.pm.getLsbD 2) d.toNat a.toNat) }
  | .pairHadd2 f => some { f := f, fn := fun d a => reg32 (onHalves (fun x y _ => fsum (half f) (f.pm.toNat / 2 % 4) (f.pm.getLsbD 3) x y) d.toNat a.toNat 0) }
  | .pairHmul2 f => some { f := f, fn := fun d a => reg32 (onHalves (fun x y _ => fprod (half f) (f.pm.toNat / 2 % 4) (f.pm.getLsbD 3) x y) d.toNat a.toNat 0) }
  | .pairShli f => some { f := f, fn := fun d _ => d <<< f.a.toNat }
  | .pairShri f => some { f := f, fn := fun d _ => if f.pm.getLsbD 0 then d.sshiftRight f.a.toNat else d >>> f.a.toNat }
  | .pairIaddi8 f => some { f := f, fn := fun d _ => d + f.a.signExtend 32 }
  | .pairMovi8 f => some { f := f, fn := fun _ _ => if f.pm.getLsbD 0 then f.a.setWidth 32 else f.a.signExtend 32 }
  | _ => none
where
  /-- The format of a half (R59, R146). -/
  half (f : PSlot) : Fmt := halfFmt (f.pm.getLsbD 0)

/-- The lanes of ISSUE in which a slot acts (R56): predicate PG3, or all of them for 7. -/
def slotCl (x : SlotOp) (g : Group) (c : Ctx) (l : Nat) : Bool := x.writes && has c.mask l && (x.f.pg3 == 7#3 || pRead g x.f.pg3.toNat l)

/-- The Crumb operations that write c(RD) from c(RA), c(RB) and the former c(RD) (R264 to R266). -/
def crumbOp : Instr → Option (CForm × (W64 → W64 → W64 → W64))
  | .crumbAdd f => some (f, fun a b _ => a + b)
  | .crumbSub f => some (f, fun a b _ => a - b)
  | .crumbMul f => some (f, fun a b _ => a * b)
  | .crumbAnd f => some (f, fun a b _ => a &&& b)
  | .crumbOr f => some (f, fun a b _ => a ||| b)
  | .crumbXor f => some (f, fun a b _ => a ^^^ b)
  | .crumbShl f => some (f, fun a b _ => a <<< count f b)
  | .crumbShr f => some (f, fun a b _ => a >>> count f b)
  | .crumbSar f => some (f, fun a b _ => a.sshiftRight (count f b))
  | .crumbRotr f => some (f, fun a b _ => a >>> count f b ||| a <<< (64 - count f b))
  | .crumbMin f => some (f, fun a b _ => if a.toInt ≤ b.toInt then a else b)
  | .crumbMax f => some (f, fun a b _ => if b.toInt ≤ a.toInt then a else b)
  | .crumbMinz f => some (f, fun a b _ => if a.toNat ≤ b.toNat then a else b)
  | .crumbMaxz f => some (f, fun a b _ => if b.toNat ≤ a.toNat then a else b)
  | .crumbSeq f => some (f, fun a b _ => if a = b then 1#64 else 0#64)
  | .crumbSlt f => some (f, fun a b _ => if a.toInt < b.toInt then 1#64 else 0#64)
  | .crumbSltz f => some (f, fun a b _ => if a.toNat < b.toNat then 1#64 else 0#64)
  | .crumbSel f => some (f, fun a b d => if a = 0#64 then d else b)
  | .crumbAddi f => some (f, fun a _ _ => a + f.imm.signExtend 64)
  | .crumbLi f => some (f, fun _ _ _ => f.imm.signExtend 64)
  | .crumbLih f => some (f, fun a _ _ => a <<< 14 ||| f.imm.setWidth 64)
  | .crumbFadd f => some (f, fun a b _ => (reg32 (fsum fp32 0 false (lo a) (lo b))).setWidth 64)
  | .crumbFmin f => some (f, fun a b _ => (reg32 (fpMinMax fp32 false false false (lo a) (lo b))).setWidth 64)
  | .crumbFmax f => some (f, fun a b _ => (reg32 (fpMinMax fp32 true false false (lo a) (lo b))).setWidth 64)
  | _ => none
where
  /-- The count of a shift (R265). -/
  count (f : CForm) (b : W64) : Nat := (b + f.imm.signExtend 64).toNat % 64
  /-- Bits 31:0. -/
  lo (x : W64) : Nat := (x.extractLsb' 0 32).toNat

/-- The word whose engine is at hand is not the last of its image. -/
def hasNext (s : State) (e : Engine) : Prop := cIdx s e + 1 < (cWords s e).length

/-- An engine goes on at word `i` with `c(RD)` written, `c0` excepted, and nothing else changed (R261). -/
def crumbAfter (s : State) (e : Engine) (rd : Nat) (x : W64) (i : Nat) : State :=
  let put (m : SMap W64) : SMap W64 := if rd = 0 then m else mput m rd x
  match e with
  | .slice k => { s with cur := .idle, slices := mput s.slices k { sliceAt s k with c := put (sliceAt s k).c, idx := i } }
  | .walker w => { s with cur := .idle, walkers := mput s.walkers w { walkerAt s w with c := put (walkerAt s w).c, idx := i } }

end Sys2Proof.Reading
end

