-- ==== Sys2Proof/Certificates/Slice0/Obligations.lean ====
section
/-! DEFINITION. The statements for the provers: encodings, the step, and the words of a group. The log entries that a statement rests
on are named in its docstring. -/

open Sys2Proof Sys2Proof.Machine

/-! ### Encodings -/

/-- Decoding inverts encoding: for every well-formed instruction that has a word, the word decodes to it, every operand and
every selector as it was; an event of the part has no word. -/
def Obligations.RoundTrip : Prop := ∀ i : Instr, Sys2Proof.Laws.RoundTrip.Statement i

/-- Each single word has one meaning and each meaning one word: a Fjodo word that decodes to an instruction is the word that the
encoder gives the instruction, a slot likewise, and a Crumb word likewise. -/
def Sys2Proof.Says.OneWordPerInstruction : Prop :=
  (∀ (w : BitVec 64) (i : Instr), decode w = .ok (.one i) → encode i = .fjodo w) ∧
  (∀ (w : BitVec 31) (i : Instr), decodeSlot w = .ok i → encode i = .slot w) ∧
  (∀ (w : BitVec 32) (i : Instr), decodeCrumb w = .ok i → encode i = .crumb w)

/-- Two encoded slots put into a pair word (bit 63 set, slot 0 in bits 62:32, slot 1 in bits 31:1, bit 0 clear) decode to the two
slot instructions in order; with bit 0 set the word is rejected by that name. -/
def Sys2Proof.Says.PairWordRoundTrip : Prop :=
  ∀ (i j : Instr) (a b : BitVec 31), i.wellFormed = true → j.wellFormed = true → encode i = .slot a → encode j = .slot b →
    decode (1#1 ++ a ++ b ++ 0#1) = .ok (.two i j) ∧ decode (1#1 ++ a ++ b ++ 1#1) = .error .pairBit

/-- Words and instructions match one to one: a word that decodes is the encoding of what it decodes to, and two encoded slots in a pair
word decode to the two instructions in order. -/
def Obligations.WordsAndInstructionsMatch : Prop := Says.OneWordPerInstruction ∧ Says.PairWordRoundTrip

/-- Words written out from the manual's encodings decode to the instructions they stand for, one or two of each family, and
words that the tables do not list are refused. -/
def Obligations.DecodedWords : Prop :=
  decode 0x01F0204050080008#64 = .ok (.one (.iadd ⟨15#4, false, 4#8, 8#8, 10#8, 1#8, 0#3, false, false, false, 0x8#13⟩)) ∧
  decode 0x0FF0480091A2B3C0#64 = .ok (.one (.movi ⟨15#4, false, 9#8, 0#8, 0x12345678#32, false, 0#2⟩)) ∧
  decode 0x22F0400810180011#64 = .ok (.one (.ffma ⟨15#4, false, 8#8, 1#8, 2#8, 3#8, 0#3, false, false, false, 0x11#13⟩)) ∧
  decode 0x65F0000000000000#64 = .ok (.one (.exit ⟨15#4, false, 0#8, 0#8, 0#8, 0#8, 0#3, false, false, false, 0#13⟩)) ∧
  decode 0x48F0000000000004#64 = .ok (.one (.fence ⟨15#4, false, 0#8, 0#8, 0#8, 0#8, 0#3, false, false, false, 4#13⟩)) ∧
  decodeCrumb 0x05914000#32 = .ok (.crumbAdd ⟨6#4, 4#4, 5#4, 0#14⟩) ∧
  decode 0x01F0080000000001#64 = .error .field ∧ decode 0x00F8000000000000#64 = .error .field ∧
  decode 0x2DF0000000000000#64 = .error .unlisted ∧ decode 0x7FF0000000000000#64 = .error .unlisted ∧
  decodeCrumb 0x00000000#32 = .error .unlisted ∧ decodeCrumb 0xFC000000#32 = .error .unlisted

/-! ### One step -/

/-- No line is held by a line-routine engine (R276): the step then adds nothing to what it executes. -/
def noLineHeld (s : State) : Prop := heldLines s = []

/-- A step runs the decoded instruction: with a Fjodo word of an issue at hand that decodes to one operation, the step is that
operation's meaning at the same state. -/
def Sys2Proof.Says.StepRunsDecodedWord : Prop :=
  ∀ (s : State) (c : Ctx) (i : Instr), s.cur = .word c → noLineHeld s → decode c.word = .ok (.one i) → step s = exec i s

/-- A step runs the decoded slots of a pair word, slot 0 and then slot 1, once the pair word's own checks are passed; and a
decoded Crumb word of an engine. -/
def Sys2Proof.Says.StepRunsDecodedSlotsAndCrumb : Prop :=
  (∀ (s : State) (c : Ctx) (i j : Instr), s.cur = .word c → noLineHeld s → decode c.word = .ok (.two i j) →
    ∀ c' k d, (beginPair i j s).cur = .pair c' k d → step s = exec i (beginPair i j s)) ∧
  (∀ (s : State) (c : Ctx) (d) (i j : Instr), s.cur = .pair c 1 d → noLineHeld s → decode c.word = .ok (.two i j) → step s = exec j s) ∧
  (∀ (s : State) (e : Engine) (w : BitVec 32) (i : Instr), s.cur = .crumb e w → noLineHeld s → decodeCrumb w = .ok i →
    step s = exec i s)

/-- With nothing at hand the step takes the oldest entry of the agenda: an event of the part runs its meaning with the units that
the entry names (the model's own form of the events, logs 5 and 11), and with an empty agenda one core clock passes. -/
def Sys2Proof.Says.StepRunsEvents : Prop :=
  (∀ (s : State) (i : Instr) (args : List Nat) (ms : List Move), s.cur = .idle → noLineHeld s → s.agenda = .event i args :: ms →
    step s = exec i { s with agenda := ms, args := args }) ∧
  (∀ s : State, s.cur = .idle → noLineHeld s → s.agenda = [] → step s = .next (tick s))

/-- A step runs the decoded instruction: of a Fjodo word, of the two slots of a pair word in turn, and of a Crumb word; with nothing at
hand it runs the oldest event of the agenda (the model's own form of the events, logs 5 and 11), and else one core clock passes. -/
def Obligations.StepRunsDecodedInstruction : Prop := Says.StepRunsDecodedWord ∧ Says.StepRunsDecodedSlotsAndCrumb ∧ Says.StepRunsEvents

/-- A word that is no instruction takes ILLEGAL in every lane of ISSUE, with TPC at the word: the group has a handler and no lane
in it, so its lanes enter the handler. -/
def Sys2Proof.Says.UndefinedWordIsIllegal : Prop :=
  ∀ (s : State) (c : Ctx) (g : Group) (t : Team) (e : Reject), Issuing s c g t → noLineHeld s → decode c.word = .error e →
    g.trap.handler ≠ 0#64 → g.inHandler = 0#32 →
    ∃ g', step s = .next { s with cur := .idle, groups := mput s.groups c.gid g' } ∧
      g'.trap.cause = 0x01#8 ∧ g'.trap.lanes = c.mask ∧ g'.trap.pc = c.pc ∧
      ∀ l, l < g.lanes.length → has c.mask l = true → (g.lane l).st ≠ .exited →
        (g'.lane l).pc = g.trap.handler ∧ (g'.lane l).h = true ∧ (g'.lane l).st = .active

/-! ### Words that compute in each lane -/

/-- A word executes: its group and team are at hand, nothing disturbs it, it is an instruction, and its operands can be read. -/
def Executes (s : State) (c : Ctx) (g : Group) (t : Team) (i : Instr) (x : LaneOp) : Prop :=
  Issuing s c g t ∧ Undisturbed s g ∧ i.wellFormed = true ∧ canRead g x.ops x.d

/-- IADD, ISUB, IADD3, IMUL, IMAD, IMULH, IMIN, IMAX and IABS: D is the sum, difference, product, high product, minimum, maximum or
absolute value of R85 in 32 or 64 bits, wrapped, saturated or with carry; the carry or borrow goes to predicate C; and nothing else
of the machine changes but what every word changes. -/
def Sys2Proof.Says.IntegerArithmetic : Prop :=
  ∀ (s : State) (c : Ctx) (g : Group) (t : Team) (i : Instr) (x : LaneOp), Reading.arithOp i = some x → Executes s c g t i x →
    x.completes i s c g

/-- AND, OR, XOR, TERN, LEA, SHL, SHR, FSH, BFX, BFI, POPC, CLZ, BREV and BSEL: D is what R86 to R94 give, and nothing else of the
machine changes but what every word changes. -/
def Sys2Proof.Says.LogicAndShifts : Prop :=
  ∀ (s : State) (c : Ctx) (g : Group) (t : Team) (i : Instr) (x : LaneOp), Reading.logicOp i = some x → Executes s c g t i x →
    x.completes i s c g

/-- ISETP, SEL, MOV, PSETP and P2V: the predicate or register that R95 to R99 give, and nothing else of the machine changes but
what every word changes. -/
def Sys2Proof.Says.CompareSelectMove : Prop :=
  ∀ (s : State) (c : Ctx) (g : Group) (t : Team) (i : Instr) (x : LaneOp), Reading.compareOp i = some x → Executes s c g t i x →
    x.completes i s c g

/-- The integer instructions IADD to BSEL, ISETP, SEL, MOV, PSETP and P2V complete with the results of R85 to R99. -/
def Obligations.IntegerInstructions : Prop := Says.IntegerArithmetic ∧ Says.LogicAndShifts ∧ Says.CompareSelectMove

/-- V2P: in each lane of CL, or with UD in every lane of ISSUE once CL is not empty, predicate `pi` becomes A[i] where B[i] is 1,
for i from 0 to 11; every other predicate and every register keeps its value. -/
def Sys2Proof.Says.V2pSetsPredicates : Prop :=
  ∀ (s : State) (c : Ctx) (g : Group) (t : Team) (f : SForm), Issuing s c g t → Undisturbed s g → (Instr.v2p f).wellFormed = true →
    canRead g [srcA f false, srcB f false] .none →
    ∃ g', exec (.v2p f) s = .next (afterWord s c g') ∧ advanced c g g' ∧
      g' = { g with p := g'.p, lanes := g'.lanes, latches := (⟨g.latchId, false, []⟩ :: g.latches).take 4, latchId := g.latchId + 1,
                    susp := [], resume := none } ∧
      ∀ n l, l < 32 → pRead g' n l =
        if (if ud f then decide (clOf g c f.pg f.pn ≠ 0#32) && has c.mask l else has (clOf g c f.pg f.pn) l) && decide (n < 12) &&
            (Reading.rdB f false g l).testBit n
        then (Reading.rdA f false g l).testBit n else pRead g n l

/-- MOVI and IADDI: D, or the pair D, becomes the immediate, or A plus the immediate, as R89's table gives; with UD once, in a
uniform register. -/
def Sys2Proof.Says.Immediates : Prop :=
  (∀ (s : State) (c : Ctx) (g : Group) (t : Team) (f : SIForm), Issuing s c g t → Undisturbed s g → (Instr.movi f).wellFormed = true →
    canRead g [] (dstI f (f.f3 != 0#2)) →
    ∃ g', exec (.movi f) s = .next (afterWord s c g') ∧
      LanePost c g g' f.ud false (clOf g c f.pg f.pn) (dstI f (f.f3 != 0#2)) none
        (fun _ => if f.f3 = 1#2 then (f.imm.signExtend 64).toNat else f.imm.toNat) (fun _ => false)) ∧
  (∀ (s : State) (c : Ctx) (g : Group) (t : Team) (f : SIForm), Issuing s c g t → Undisturbed s g → (Instr.iaddi f).wellFormed = true →
    canRead g [srcI f (f.f3 == 1#2)] (dstI f (f.f3 == 1#2)) →
    ∃ g', exec (.iaddi f) s = .next (afterWord s c g') ∧
      LanePost c g g' f.ud false (clOf g c f.pg f.pn) (dstI f (f.f3 == 1#2)) none
        (fun l => if f.f3 = 1#2 then (BitVec.ofNat 64 ((srcI f true).read g l) + f.imm.signExtend 64).toNat
          else (BitVec.ofNat 32 ((srcI f false).read g l) + f.imm).toNat) (fun _ => false))

/-- V2P, MOVI and IADDI complete with the predicates and the registers of R99 and R89. -/
def Obligations.PredicatesAndImmediates : Prop := Says.V2pSetsPredicates ∧ Says.Immediates

/-- FADD, FMUL, FFMA, FMIN, FMAX, FSETP, FCLASS, FRND, the eight functions of FSPEC, FSCL, and DADD, DMUL and DFMA: D or the
predicate is the exact result of R136 rounded once, the minimum or maximum, the comparison, the class, the integral value, the
special function or the scaled value. The bits of the special functions but FRCP and FSQRT within their bound are free (DEDUCED, log 4). -/
def Sys2Proof.Says.FloatingPoint : Prop :=
  ∀ (s : State) (c : Ctx) (g : Group) (t : Team) (i : Instr) (x : LaneOp), Reading.floatOp i = some x → Executes s c g t i x →
    x.completes i s c g

/-- HADD2, HMUL2, HFMA2, HMNMX2, PDOT4, PDOT8, F2I, I2F, F2F, PCVT and UNPK: D is what R146 to R153 give from the operands and, for
PCVT and UNPK, the format slot of the team, which takes the element that the word names. -/
def Sys2Proof.Says.PackedAndConversions : Prop :=
  ∀ (s : State) (c : Ctx) (g : Group) (t : Team) (i : Instr) (x : LaneOp), Reading.packedOp t i = some x → Executes s c g t i x →
    Reading.slotTakes t i → x.completes i s c g

/-- The floating-point, packed and conversion instructions complete with the results of R136 to R153. The bits of the special functions
but FRCP and FSQRT within their bound are free (DEDUCED, log 4). -/
def Obligations.FloatingPointInstructions : Prop := Says.FloatingPoint ∧ Says.PackedAndConversions

/-- VOTE, SHFL, MATCH, ELECT, GRED and SREAD: the predicate or register of R107 to R112, from the lanes of CL alone. -/
def Sys2Proof.Says.GroupOperations : Prop :=
  ∀ (s : State) (c : Ctx) (g : Group) (t : Team) (i : Instr) (f : SForm) (x : LaneOp),
    Reading.groupOp s t (clOf g c f.pg f.pn) i = some x → x.f = f → i ≠ .srr f → Executes s c g t i x → x.completes i s c g

/-! ### Control transfer, and the end of threads -/

/-- What a word with no register result leaves of its group: the lanes changed by `h`, an empty latch entry, ISSUE at the next
word, and nothing else. -/
def PlainWord (s : State) (c : Ctx) (g : Group) (h : Group → Group) : State :=
  afterWord s c (advance { (h g) with latches := (⟨g.latchId, false, []⟩ :: g.latches).take 4, latchId := g.latchId + 1,
                                      susp := [], resume := none } c.mask)

/-- NOP, and BRA, BRX, RET, CALL, MEET, EXIT, YIELD and TRAP of whose lanes none passes the guard, do nothing: the word's latch
entry is pushed, empty, and the lanes of ISSUE stand at PC + 8. -/
def Sys2Proof.Says.NopOnlyAdvances : Prop :=
  ∀ (s : State) (c : Ctx) (g : Group) (t : Team) (f : SForm), Issuing s c g t → Undisturbed s g →
    exec (.nop f) s = .next (PlainWord s c g id) ∧
    (clOf g c f.pg f.pn = 0#32 → ∀ i ∈ [Instr.bra f, .meet f, .meetClr f, .exit f, .yield f, .trap f, .bkpt f, .tbar f, .isync f],
      exec i s = .next (PlainWord s c g id))

/-- A target that R100 accepts: an aligned address of the address space. -/
def goodTarget (a : W64) : Prop := a.toNat % 8 = 0 ∧ a.toNat < 2 ^ 56

/-- BRA, BRX and RET: each lane of CL goes on at its target, PC + 8 × OFF32 or the address that A holds in the lane, and every
other lane of ISSUE at PC + 8. Every target is an aligned address of the address space. -/
def Sys2Proof.Says.BranchesGoToTheirTargets : Prop :=
  ∀ (s : State) (c : Ctx) (g : Group) (t : Team) (f : SForm) (i : Instr) (o : Opnd) (tgt : Nat → W64),
    Issuing s c g t → Undisturbed s g → canRead g [o] .none →
    ((i = .bra f ∧ o = .none ∧ ∀ l, tgt l = c.pc + ((off32 f).signExtend 64) * 8#64) ∨
      ((i = .brx f ∨ i = .ret f) ∧ o = opnd f f.a (fnBit f 9) (lqA f) true ∧ ∀ l, tgt l = BitVec.ofNat 64 (o.read g l))) →
    (∀ l, has (clOf g c f.pg f.pn) l = true → goodTarget (tgt l)) →
    ∃ g', exec i s = .next (afterWord s c g') ∧
      (∀ l, l < g.lanes.length → g'.lane l =
        if has (clOf g c f.pg f.pn) l then { g.lane l with pc := tgt l }
        else if has c.mask l then { g.lane l with pc := (g.lane l).pc + 8#64 } else g.lane l) ∧
      g' = { g with lanes := g'.lanes, latches := (⟨g.latchId, false, []⟩ :: g.latches).take 4, latchId := g.latchId + 1,
                    susp := [], resume := none }

/-- CALL and CALL.IND: each lane of CL has PC + 8 in the pair D, unless NW, and as its meeting register under `.meet`, and goes on
at its target, PC + 8 × OFF24 or the address that A holds; every other lane of ISSUE goes on at PC + 8. -/
def Sys2Proof.Says.CallsLinkAndJump : Prop :=
  ∀ (s : State) (c : Ctx) (g : Group) (t : Team) (f : SForm) (i : Instr) (o : Opnd) (tgt : Nat → W64),
    Issuing s c g t → Undisturbed s g → canRead g [o] (.v f.d.toNat true) → i.wellFormed = true →
    ((i = .call f ∧ o = .none ∧ ∀ l, tgt l = c.pc + ((off24 f).signExtend 64) * 8#64) ∨
      (i = .callInd f ∧ o = opnd f f.a (fnBit f 9) (lqA f) true ∧ ∀ l, tgt l = BitVec.ofNat 64 (o.read g l))) →
    (∀ l, has (clOf g c f.pg f.pn) l = true → goodTarget (tgt l)) →
    ∃ g', exec i s = .next (afterWord s c g') ∧
      (∀ l, l < g.lanes.length → g'.lane l =
        if has (clOf g c f.pg f.pn) l then
          { g.lane l with pc := tgt l, mr := if fnBit f 1 then c.pc + 8#64 else (g.lane l).mr }
        else if has c.mask l then { g.lane l with pc := (g.lane l).pc + 8#64 } else g.lane l) ∧
      (∀ n l, l < 32 → vRaw g' n l =
        if has (clOf g c f.pg f.pn) l && !f.nw then (vpart (.v f.d.toNat true) n (c.pc + 8#64).toNat).getD (vRaw g n l) else vRaw g n l) ∧
      g'.u = g.u ∧ g'.p = g.p

/-- BRA, BRX, RET, CALL and CALL.IND go on at their targets, a call with its link. -/
def Obligations.BranchesAndCalls : Prop := Says.BranchesGoToTheirTargets ∧ Says.CallsLinkAndJump

/-- A branch or call to a target that is no aligned address of the address space is taken by no lane: ADDRESS is raised in the
lanes of CL that have such a target, with TPC at the word and TADDR the target of the lowest of them. -/
def Sys2Proof.Says.BadTargetRaisesAddress : Prop :=
  ∀ (s : State) (c : Ctx) (g : Group) (t : Team) (f : SForm), Issuing s c g t → Undisturbed s g →
    let tgt := c.pc + ((off32 f).signExtend 64) * 8#64
    clOf g c f.pg f.pn ≠ 0#32 → ¬ goodTarget tgt →
    exec (.bra f) s = .next (takeTrap { s with cur := .idle } c.gid .address (clOf g c f.pg f.pn) c.pc tgt 0#64)

/-- An undefined word takes ILLEGAL, and a branch to no aligned address takes ADDRESS. -/
def Obligations.UndefinedWordsAndBadTargetsTrap : Prop := Says.UndefinedWordIsIllegal ∧ Says.BadTargetRaisesAddress

/-- MEET, MEET.CLR and MEET.REG: the meeting register of each lane of CL becomes PC + 8 × OFF32, zero, or the address that A holds
in the lane; nothing else of a lane changes but the advance. -/
def Sys2Proof.Says.MeetSetsMeetingRegister : Prop :=
  ∀ (s : State) (c : Ctx) (g : Group) (t : Team) (f : SForm) (i : Instr) (o : Opnd) (mr : Nat → W64),
    Issuing s c g t → Undisturbed s g → canRead g [o] .none →
    ((i = .meet f ∧ o = .none ∧ ∀ l, mr l = c.pc + ((off32 f).signExtend 64) * 8#64) ∨
      (i = .meetClr f ∧ o = .none ∧ ∀ l, mr l = 0#64) ∨
      (i = .meetReg f ∧ o = opnd f f.a (fnBit f 9) (lqA f) true ∧ ∀ l, mr l = BitVec.ofNat 64 (o.read g l))) →
    ∃ g', exec i s = .next (afterWord s c g') ∧
      (∀ l, l < g.lanes.length → g'.lane l =
        if has (clOf g c f.pg f.pn) l then { g.lane l with pc := if has c.mask l then (g.lane l).pc + 8#64 else (g.lane l).pc, mr := mr l }
        else if has c.mask l then { g.lane l with pc := (g.lane l).pc + 8#64 } else g.lane l) ∧
      g' = { g with lanes := g'.lanes, latches := (⟨g.latchId, false, []⟩ :: g.latches).take 4, latchId := g.latchId + 1,
                    susp := [], resume := none }

/-- EXIT with no convergence register of the team in use: each lane of CL exits, and every other lane of ISSUE goes on at
PC + 8; when lanes of the group remain, each exited lane takes one expected arrival from the team's barrier object 0. -/
def Obligations.ExitEndsLanes : Prop :=
  ∀ (s : State) (c : Ctx) (g : Group) (t : Team) (f : SForm), Issuing s c g t → Undisturbed s g → s.convs = [] →
    clOf g c f.pg f.pn ≠ 0#32 →
    exec (.exit f) s = .next (exitLanes (PlainWord s c g id) c.gid (clOf g c f.pg f.pn)) ∧
    (g.live &&& ~~~clOf g c f.pg f.pn ≠ 0#32 → g.inHandler = 0#32 →
      ∃ g', mget (exitLanes (PlainWord s c g id) c.gid (clOf g c f.pg f.pn)).groups c.gid = some g' ∧
        ∀ l, l < g.lanes.length → has (clOf g c f.pg f.pn) l = true → (g'.lane l).st = .exited)

/-- YIELD: the group is passed over for one choice while another is ready (n = 0), or not ready for n core clocks; nothing else
changes but the advance. -/
def Sys2Proof.Says.YieldGivesWay : Prop :=
  ∀ (s : State) (c : Ctx) (g : Group) (t : Team) (f : SForm), Issuing s c g t → Undisturbed s g → clOf g c f.pg f.pn ≠ 0#32 →
    exec (.yield f) s = .next (PlainWord s c g (fun g =>
      { g with holds := (if fnField f 0 8 = 0 then .yielded else .until (s.clock + fnField f 0 8 + 1)) :: g.holds }))

/-- NOP, MEET in its three forms, and YIELD do what R104 and R106 say and advance. -/
def Obligations.NopMeetAndYield : Prop := Says.NopOnlyAdvances ∧ Says.MeetSetsMeetingRegister ∧ Says.YieldGivesWay


/-! ### Traps and system registers -/

/-- A cause of a group that has a handler and no lane in it is taken by the handler: TCAUSE, TLANES, TPC, TADDR and TINFO are
saved, each lane of T that has not exited stands at THANDLER in the handler, every other active lane is parked, and the latch
queue is empty; a blocked lane that is released while the handler runs is parked. With no handler, or with a lane in it, the cause stops the context: the group keeps its lanes and registers. -/
def Obligations.CausesEnterTheHandler : Prop :=
  ∀ (s : State) (gid : Nat) (g : Group) (x : Cause) (T : Mask) (tpc taddr tinfo : W64), mget s.groups gid = some g →
    (canTrap g → ∃ g', takeTrap s gid x T tpc taddr tinfo = { s with groups := mput s.groups gid g' } ∧
      EntersHandler g g' x T tpc taddr tinfo ∧
      ∀ l w (p : Wait → Bool), l < g.lanes.length → (g'.lane l).st = .blocked → (g'.lane l).wait = some w → (g'.lane l).h = false →
        p w = true → g'.inHandler ≠ 0#32 → ((releaseWhere g' p).lane l).st = .parked) ∧
    (¬ canTrap g → takeTrap s gid x T tpc taddr tinfo = stopContext s gid x ∧
      ∃ b, mget (stopContext s gid x).groups gid = some { g with stopped := b })

/-- A cause with no handler to take it stops the queue of its group with STATUS CODE 4 at the group's packet, unless a code stands
for that packet or an earlier one; from then on the queue is to be reset, its groups of that packet and of later ones issue nothing,
and the stop is reported with class 0x75, the core, the cause and the group.
That one stop is reported once is the model's reading (DEDUCED, log 63). -/
def Obligations.CauseWithoutHandlerStopsContext : Prop :=
  ∀ (s : State) (gid : Nat) (g : Group) (t : Team) (q : Queue) (x : Cause), mget s.groups gid = some g → mget s.teams g.team = some t →
    queueAt s t.fe t.slot = some q → q.code = 0 →
    queueAt (stopContext s gid x) t.fe t.slot = some { q with code := 4, sub := t.sub, failAt := t.packet, stopping := .reset } ∧
    (∀ k h u, mget s.groups k = some h → mget s.teams h.team = some u → u.fe = t.fe → u.slot = t.slot → t.packet ≤ u.packet →
      mget (stopContext s gid x).groups k = some { h with stopped := true }) ∧
    (stopContext s gid x).ctl.events =
      ⟨s.clock, 0x75, false, t.world, 4, g.core, x.code + 256 * (g.num % 128)⟩ :: s.ctl.events

/-- TRAP and BKPT with a lane in CL raise SOFTWARE, with the code of word bits 34:19 in TINFO bits 31:16, and BREAKPOINT, in the
lanes of CL; the handler takes it and no register is written. -/
def Sys2Proof.Says.TrapAndBreakpoint : Prop :=
  ∀ (s : State) (c : Ctx) (g : Group) (t : Team) (f : SForm), Issuing s c g t → Undisturbed s g → canTrap g →
    clOf g c f.pg f.pn ≠ 0#32 →
    traps (.trap f) s c g .software (clOf g c f.pg f.pn) 0#64 (BitVec.ofNat 64 (65536 * (256 * f.b.toNat + f.c.toNat))) ∧
    traps (.bkpt f) s c g .breakpoint (clOf g c f.pg f.pn) 0#64 0#64

/-- RTT and RTT.SKIP issued by lanes of the handler: each lane of CL stands parked at TPC, or at TPC + 8, outside the handler; when
no lane of the group is left in it every parked lane becomes active and the latch queue is empty; a lane of ISSUE outside CL stays
in the handler and goes on. -/
def Sys2Proof.Says.ReturnsFromHandler : Prop :=
  ∀ (s : State) (c : Ctx) (g : Group) (t : Team) (f : SForm) (i : Instr) (dest : W64), Issuing s c g t → Undisturbed s g →
    c.mask &&& ~~~g.inHandler = 0#32 → g.lanes.length ≤ 32 →
    ((i = .rtt f ∧ dest = g.trap.pc) ∨ (i = .rttSkip f ∧ dest = g.trap.pc + 8#64)) →
    let cl := clOf g c f.pg f.pn
    let ended := g.inHandler &&& ~~~cl = 0#32
    ∃ g', exec i s = .next (afterWord s c g') ∧
      (∀ l, l < g.lanes.length → g'.lane l =
        if has cl l then { g.lane l with pc := dest, h := false, st := if ended then .active else .parked }
        else if has c.mask l then { g.lane l with pc := (g.lane l).pc + 8#64 }
        else if ended ∧ (g.lane l).st = .parked then { g.lane l with st := .active } else g.lane l) ∧
      (ended → g'.latches = []) ∧ (¬ ended → plainLatches g g') ∧
      g' = { g with lanes := g'.lanes, latches := g'.latches, latchId := g.latchId + 1, susp := [], resume := none }

/-- TRAP and BKPT enter the handler, and RTT and RTT.SKIP leave it. -/
def Obligations.TrapsAndReturns : Prop := Says.TrapAndBreakpoint ∧ Says.ReturnsFromHandler

/-- SRR: D, or the pair D, in the lanes of CL, or the uniform register once, becomes the system register's value: the trap
registers of the group inside its handler, THANDLER, the space and world of its team, the device's clock, and FIJ in a test
context. -/
def Sys2Proof.Says.SrrReadsSystemRegisters : Prop :=
  ∀ (s : State) (c : Ctx) (g : Group) (t : Team) (f : SForm) (x : LaneOp), sysregPriv s f.a.toNat = false →
    Reading.groupOp s t (clOf g c f.pg f.pn) (.srr f) = some x → Executes s c g t (.srr f) x → x.completes (.srr f) s c g

/-- The group operations, SREAD and SRR complete with what R107 to R112 and R47 give. -/
def Obligations.GroupInstructions : Prop := Says.GroupOperations ∧ Says.SrrReadsSystemRegisters

/-- The values of R47's table, and which of them a write changes: TCAUSE keeps bits 7:0, TPC and THANDLER clear bits 2:0, FIJ its
fields; a read-only register keeps its value. -/
def Sys2Proof.Says.SystemRegisterValues : Prop :=
  ∀ (s : State) (g : Group) (t : Team) (v : W64),
    ([0x00, 0x01, 0x02, 0x03, 0x04, 0x08, 0x10, 0x11, 0x12, 0x20].map (sysreg s g t) =
      [g.trap.cause.toNat, g.trap.pc.toNat, g.trap.addr.toNat, g.trap.lanes.toNat, g.trap.info.toNat, g.trap.handler.toNat, t.space, t.world,
       s.clock % 2 ^ 64, g.fij.toNat]) ∧
    (sysregWrite g 0x00 v).trap = { g.trap with cause := v.extractLsb' 0 8 } ∧
    (sysregWrite g 0x01 v).trap.pc.toNat = v.toNat / 8 * 8 ∧ (sysregWrite g 0x08 v).trap.handler.toNat = v.toNat / 8 * 8 ∧
    (sysregWrite g 0x20 v).fij = v &&& 0x0000FFFF003F000F#64 ∧ (sysregWrite g 0x20 v).fijCount = 0 ∧
    (∀ x ∈ [0x02, 0x03, 0x04, 0x10, 0x11, 0x12], sysregWrite g x v = g) ∧
    (∀ x, sysregWrite g x v = { g with trap := (sysregWrite g x v).trap, fij := (sysregWrite g x v).fij, fijCount := (sysregWrite g x v).fijCount })

/-- SRW writes the system register once, if CL is not empty, with the uniform value or B of the lowest lane of CL; the lanes of
ISSUE go on, and nothing else changes. -/
def Sys2Proof.Says.SrwWritesSystemRegisters : Prop :=
  ∀ (s : State) (c : Ctx) (g : Group) (t : Team) (f : SForm), Issuing s c g t → Undisturbed s g → sysregPriv s f.a.toNat = false →
    let b := opnd f f.b (fnBit f 8) (lqB f) (sysregPair f.a.toNat)
    canRead g [b] .none → clOf g c f.pg f.pn ≠ 0#32 →
    exec (.srw f) s = .next (PlainWord s c g (fun g =>
      sysregWrite g f.a.toNat (BitVec.ofNat 64 (b.read g ((lanesOf (clOf g c f.pg f.pn)).headD 0)))))

/-- An index that R47 does not list is no operand of SRR or SRW: their words take ILLEGAL in every lane of ISSUE. -/
def Sys2Proof.Says.UnlistedSystemRegisters : Prop :=
  (∀ f : SForm, f.a.toNat ∉ [0x00, 0x01, 0x02, 0x03, 0x04, 0x08, 0x10, 0x11, 0x12, 0x20] →
    (Instr.srr f).wellFormed = false ∧ (Instr.srw f).wellFormed = false) ∧
  ∀ (s : State) (c : Ctx) (g : Group) (t : Team), Issuing s c g t → noLineHeld s → canTrap g →
    (c.word.extractLsb' 56 8 = 0x7A#8 ∨ c.word.extractLsb' 56 8 = 0x7B#8) →
    (c.word.extractLsb' 35 8).toNat ∉ [0x00, 0x01, 0x02, 0x03, 0x04, 0x08, 0x10, 0x11, 0x12, 0x20] →
    ∃ g', step s = .next (afterWord s c g') ∧ EntersHandler g g' .illegal c.mask c.pc 0#64 0#64

/-- The trap registers are reached from a handler alone, FIJ from a test context alone, and RTT from a handler alone: elsewhere the
lanes of ISSUE take PRIVILEGE, and nothing is read or written. -/
def Sys2Proof.Says.PrivilegeOfSystemRegisters : Prop :=
  ∀ (s : State) (c : Ctx) (g : Group) (t : Team) (f : SForm), Issuing s c g t → canTrap g →
    (f.a.toNat ≤ 4 → c.mask ≠ 0#32 → ∀ i ∈ [Instr.srr f, .srw f], traps i s c g .privilege c.mask 0#64 0#64) ∧
    (c.mask ≠ 0#32 → ∀ i ∈ [Instr.rtt f, .rttSkip f], traps i s c g .privilege c.mask 0#64 0#64) ∧
    (f.a.toNat = 0x20 → (∀ w, mget s.worlds t.world = some w → w.test = false) → ∀ i ∈ [Instr.srr f, .srw f],
      traps i s c g .privilege c.mask 0#64 0#64)

/-- The system registers of R47: their values, what SRW changes of each and what it ignores, the indices that exist, and from where
each is reached. -/
def Obligations.SystemRegisters : Prop := Says.SystemRegisterValues ∧ Says.SrwWritesSystemRegisters ∧ Says.UnlistedSystemRegisters ∧ Says.PrivilegeOfSystemRegisters


/-! ### Memory -/

/-- LD and LDA of global, local and constant memory, with every page of CL mapped, every byte readable, and no store of its own twin team
to the bytes still to be performed: the load goes out with the bytes of each lane at their physical addresses, or of the lowest lane for
a uniform destination; its latch entry is pushed and ISSUE goes on at the next word. Registers and memory do not change before the load
returns. -/
def Sys2Proof.Says.LoadsGoOut : Prop :=
  ∀ (s : State) (c : Ctx) (g : Group) (t : Team) (f : SForm) (i : Instr) (acq : Option Nat), Issuing s c g t → Undisturbed s g →
    ((i = .ld f ∧ acq = none) ∨ (i = .lda f ∧ acq = some (memScope f))) → memSpc f ≠ 1 →
    let n := szBytes f
    let d := if ud f then uni f f.d else f.d.toNat
    let cl := clOf g c f.pg f.pn
    let as := Reading.accesses f g t (ud f) (memSpc f) n cl
    let vas := (whoNeeds (ud f) cl as).flatMap (·.2)
    let tr := Reading.physOf s g t 1 vas
    canRead g [Reading.addrOp f (memSpc f)] .none → (ud f = false → d + max 1 (n / 4) ≤ g.vcount) → cl ≠ 0#32 →
    Reading.allOk as → Reading.allMapped s g t 1 vas → Reading.allClean s t.world (Reading.partsOf tr as) →
    (t.twin ≠ 0 → unwritten s (pairId g t) (decide (t.twin = 2)) (entryBytes (Reading.partsOf tr as)) = false) →
    ∃ g', exec i s = .next { (Reading.looked s g t 1 vas).1 with fresh := s.fresh + 1, groups := mput s.groups c.gid g' } ∧
      g'.flights = { Flight.blank with
        id := s.fresh, op := .load, dest := some d, uniform := ud f, noWrite := f.nw, size := n, sx := memSx f, latch := g.latchId, acq := acq
        world := t.world, parts := Reading.partsOf tr as, lines := fillLines tr as, pc := c.pc
        twin := if acq.isSome then acqKey g t else none, interval := t.interval } :: g.flights ∧
      advanced c g g' ∧ g'.latches = (⟨g.latchId, true, []⟩ :: g.latches).take 4 ∧
      g' = { g with flights := g'.flights, lanes := g'.lanes, latches := g'.latches, latchId := g.latchId + 1, susp := [], resume := none
                    acqCount := if acq.isSome then g.acqCount + 1 else g.acqCount }

/-- LD, LDA and SLD of the scratchpad slot, with every sector present: the registers of each lane of CL, or the uniform registers once,
become the slot's bytes at the lane's offset, the least significant first, extended to a register; nothing else changes but what
every word changes, for a plain load where no release has marked the slot and no single-bit error stands in it. -/
def Sys2Proof.Says.ScratchLoadsReadTheSlot : Prop :=
  ∀ (s : State) (c : Ctx) (g : Group) (t : Team) (f : SForm) (i : Instr) (n : Nat), Issuing s c g t → Undisturbed s g → t.twin = 0 →
    (((i = .ld f ∨ i = .lda f) ∧ memSpc f = 1 ∧ n = szBytes f) ∨ (i = .sld f ∧ n = 4 * 2 ^ memSz f)) → i.wellFormed = true →
    let d := if ud f then uni f f.d else f.d.toNat
    let cl := clOf g c f.pg f.pn
    let as := Reading.accesses f g t (ud f) 1 n cl
    let o (l : Nat) : Nat := (((Reading.addrOp f 1).read g l % 2 ^ 32 : Nat) + offOf f : Int).toNat
    let low := (lanesOf cl).headD 0
    canRead g [Reading.addrOp f 1] .none → (ud f = false → d + max 1 (n / 4) ≤ g.vcount) → cl ≠ 0#32 → Reading.lanesLive g c →
    Reading.allOk as → (∀ p ∈ as, ∀ q ∈ p.2.pieces, absentSector t q.1 n = none ∧ spBad t q.1 n = false) →
    ∃ u g', exec i s = .next u ∧ mget u.groups c.gid = some g' ∧ advanced c g g' ∧
      (t.rels = [] → t.spSingle = [] → i ≠ .lda f → u = afterWord s c g') ∧
      (∀ r l, l < 32 → vRaw g' r l =
        if has cl l && !f.nw && !ud f then (Reading.loadedReg n (memSx f) d (spNum t (o l) n) r).getD (vRaw g r l) else vRaw g r l) ∧
      (∀ r, uRead g' r = if ud f && !f.nw then (Reading.loadedReg n (memSx f) d (spNum t (o low) n) r).getD (uRead g r) else uRead g r) ∧
      g' = { g with v := g'.v, u := g'.u, lanes := g'.lanes, latches := g'.latches, latchId := g.latchId + 1, susp := [], resume := none
                    acqCount := g'.acqCount }

/-- LD and LDA: a global load goes out with its addresses, and a load of the slot reads it. -/
def Obligations.Loads : Prop := Says.LoadsGoOut ∧ Says.ScratchLoadsReadTheSlot

/-- ST and STREL to global and local memory, with every page of CL mapped for a write and none uncached: one write of each lane's bytes,
in ascending lane order and in pieces of at most 8 bytes, at their physical addresses, is out behind what is out already, visible to the
thread's core alone; a release puts all that its core saw before it for the agents of its scope. Home memory does not change before the
writes take their places, and no other core's caches change. -/
def Sys2Proof.Says.StoresGoOut : Prop :=
  ∀ (s : State) (c : Ctx) (g : Group) (t : Team) (f : SForm) (i : Instr) (rel : Option Nat), Issuing s c g t → Undisturbed s g → t.twin = 0 →
    ((i = .st f ∧ rel = none) ∨ (i = .strel f ∧ rel = some (memScope f))) → memSpc f ≠ 1 → i.wellFormed = true →
    let n := szBytes f
    let cl := clOf g c f.pg f.pn
    let as := Reading.accesses f g t false (memSpc f) n cl
    let vas := Reading.vasOf as
    let tr := Reading.physOf s g t 2 vas
    let parts := Reading.partsOf tr as
    canRead g [Reading.addrOp f (memSpc f)] .none → (ud f = false → f.d.toNat + max 1 (n / 4) ≤ g.vcount) → cl ≠ 0#32 →
    Reading.allOk as → Reading.allMapped s g t 2 vas → Reading.noDoor s parts →
    (∀ p ∈ parts, ∀ q ∈ halfPieces p.pieces, (tr q.1).2.testBit 5 = false) →
    let s1 := (Reading.looked s g t 2 vas).1
    let base := if rel.isSome then beforeRelease s1 c.gid g t cl else performOverlapping s1 c.gid (parts.flatMap (·.pieces))
    let before : Before := match rel with
      | some sc => (visibleTo base g.core).map (fun id => (id, scopeAgents base g t sc))
      | none => []
    ∃ s' g1 g', exec i s = .next s' ∧ mget base.groups c.gid = some g1 ∧
      s'.writes = base.writes ++ (Reading.storeWrites f g n parts).zipIdx.map (fun w =>
        ⟨base.fresh + w.2, w.1.2.1, w.1.2.2, t.world, some g.core, false, 1#193 <<< g.core, before ++ (g.lane w.1.1).fence, []⟩) ∧
      s'.groups = mput base.groups c.gid g' ∧ advanced c g1 g' ∧ plainLatches g1 g' ∧
      s' = { base with writes := s'.writes, fresh := s'.fresh, groups := s'.groups, teams := s'.teams, cores := s'.cores } ∧
      (∀ k, k ≠ g.core → mget s'.cores k = mget base.cores k) ∧
      (∀ k, mget s'.teams k = if k = g.team ∧ (rel.isSome ∨ t.flags % 2 = 0) then some { t with escaped := true } else mget s.teams k)

/-- ST and STREL through uncached pages, with nothing of the group outstanding: the word completes, and every write of it has its place at
the home at once. -/
def Sys2Proof.Says.UncachedStoresArePerformed : Prop :=
  ∀ (s : State) (c : Ctx) (g : Group) (t : Team) (f : SForm) (i : Instr), Issuing s c g t → Undisturbed s g → t.twin = 0 →
    (i = .st f ∨ i = .strel f) → memSpc f ≠ 1 → i.wellFormed = true → g.flights = [] → (∀ w ∈ s.writes, w.id < s.fresh) →
    let n := szBytes f
    let cl := clOf g c f.pg f.pn
    let as := Reading.accesses f g t false (memSpc f) n cl
    let vas := Reading.vasOf as
    let tr := Reading.physOf s g t 2 vas
    canRead g [Reading.addrOp f (memSpc f)] .none → (ud f = false → f.d.toNat + max 1 (n / 4) ≤ g.vcount) → cl ≠ 0#32 →
    Reading.allOk as → Reading.allMapped s g t 2 vas →
    (∀ p ∈ Reading.partsOf tr as, ∀ q ∈ halfPieces p.pieces, (tr q.1).2.testBit 5 = true) →
    ∃ u, exec i s = .next u ∧ wordDone c g u ∧ ∀ w ∈ u.writes, s.fresh ≤ w.id → w.home = true

/-- ST and STREL to the scratchpad slot, with every sector present: each byte of the slot becomes that of the highest lane of CL whose
bytes cover it, and every other byte of the slot, global memory and every register keep their values. -/
def Sys2Proof.Says.ScratchStoresWriteTheSlot : Prop :=
  ∀ (s : State) (c : Ctx) (g : Group) (t : Team) (f : SForm) (i : Instr), Issuing s c g t → Undisturbed s g → t.twin = 0 →
    (i = .st f ∨ i = .strel f) → memSpc f = 1 → i.wellFormed = true →
    let n := szBytes f
    let cl := clOf g c f.pg f.pn
    let as := Reading.accesses f g t false 1 n cl
    let o (l : Nat) : Nat := (((Reading.addrOp f 1).read g l % 2 ^ 32 : Nat) + offOf f : Int).toNat
    canRead g [Reading.addrOp f 1] .none → (ud f = false → f.d.toNat + max 1 (n / 4) ≤ g.vcount) → cl ≠ 0#32 →
    Reading.allOk as → (∀ p ∈ as, ∀ q ∈ p.2.pieces, absentSector t q.1 n = none) →
    ∃ s' t' g1 g', exec i s = .next s' ∧ mget s'.teams g.team = some t' ∧ mget s'.groups c.gid = some g' ∧
      (∀ a, memGet t'.sp a = (lanesOf cl).foldl (fun b l =>
        if o l ≤ a ∧ a < o l + n then (leBytes n (Reading.storeNat f g n l)).getD (a - o l) 0#8 else b) (memGet t.sp a)) ∧
      g' = advance { g1 with latches := (⟨g.latchId, false, []⟩ :: g.latches).take 4, latchId := g.latchId + 1, susp := [], resume := none } c.mask ∧
      g1 = { g with flights := g1.flights, acqVals := g1.acqVals } ∧ (i = .st f → s'.mem = s.mem ∧ s'.writes = s.writes ∧ g1 = g)

/-- ST and STREL: a global store goes out with its bytes at its addresses, and a store to the slot writes it. -/
def Obligations.Stores : Prop := Says.StoresGoOut ∧ Says.UncachedStoresArePerformed ∧ Says.ScratchStoresWriteTheSlot

/-- ATOM, ATOMX and RED complete, in global memory with every page of CL mapped for reading and writing and every operand readable, and in
the slot with every operand's sectors present and free of errors: the word's latch entry is pushed, the lanes of ISSUE stand at the next
word, and the interval of the team is escaped. -/
def Sys2Proof.Says.AtomicsComplete : Prop :=
  ∀ (s : State) (c : Ctx) (g : Group) (t : Team) (f : SForm) (i : Instr) (x red : Bool), Issuing s c g t → Undisturbed s g → t.twin = 0 →
    ((i = .atom f ∧ x = false ∧ red = false) ∨ (i = .atomx f ∧ x = true ∧ red = false) ∨ (i = .red f ∧ x = false ∧ red = true)) →
    i.wellFormed = true →
    let n := if fnBit f 7 then 8 else 4
    let as := Reading.atomAccesses f g t (clOf g c f.pg f.pn)
    let vas := Reading.vasOf as
    canRead g [Reading.atomA f, Reading.atomB f, Reading.atomC f x] (if red then .none else .v f.d.toNat (fnBit f 7)) →
    clOf g c f.pg f.pn ≠ 0#32 → Reading.allOk as →
    (fnBit f 8 = false → Reading.allMapped s g t 0xB vas ∧ Reading.allClean s t.world (Reading.partsOf (Reading.physOf s g t 0xB vas) as)) →
    (fnBit f 8 = true → ∀ p ∈ as, ∀ q ∈ p.2.pieces, absentSector t q.1 n = none ∧ spBad t q.1 n = false) →
    ∃ u, exec i s = .next u ∧ wordDone c g u ∧ (mget u.teams g.team).map (·.escaped) = some true

/-- ATOM, ATOMX and RED of global memory, with every page of CL mapped for reading and writing: the operation goes out with the operand
of each lane at its physical address and its values B and C; the interval of the team is escaped, and the lanes are placed with the
lease of their line or shipped to its home (R174). No register and no memory changes before it is performed. -/
def Sys2Proof.Says.AtomicsGoOut : Prop :=
  ∀ (s : State) (c : Ctx) (g : Group) (t : Team) (f : SForm) (i : Instr) (x red : Bool), Issuing s c g t → Undisturbed s g → t.twin = 0 →
    ((i = .atom f ∧ x = false ∧ red = false) ∨ (i = .atomx f ∧ x = true ∧ red = false) ∨ (i = .red f ∧ x = false ∧ red = true)) →
    fnBit f 8 = false → i.wellFormed = true →
    let cl := clOf g c f.pg f.pn
    let as := Reading.atomAccesses f g t cl
    let vas := Reading.vasOf as
    let tr := Reading.physOf s g t 0xB vas
    let parts := Reading.partsOf tr as
    let d : Dest := if red then .none else .v f.d.toNat (fnBit f 7)
    canRead g [Reading.atomA f, Reading.atomB f, Reading.atomC f x] d → cl ≠ 0#32 → Reading.allOk as → Reading.allMapped s g t 0xB vas →
    Reading.allClean s t.world parts →
    let s1 := (Reading.looked s g t 0xB vas).1
    let release := ordOf f = 2 ∨ ordOf f = 3
    let base := if release then beforeRelease s1 c.gid g t cl else s1
    ∃ g1 g' fl, exec i s = .next (placeAtomic { base with
        fresh := base.fresh + 1, groups := mput base.groups c.gid g', teams := mput base.teams g.team { t with escaped := true } }
        c.gid g1.core base.fresh (fillLines tr as) parts) ∧
      mget base.groups c.gid = some g1 ∧
      g'.flights = fl :: g1.flights ∧ advanced c g1 g' ∧ g'.latches = (⟨g.latchId, !red, []⟩ :: g.latches).take 4 ∧
      g' = { g1 with flights := g'.flights, lanes := g'.lanes, latches := g'.latches, latchId := g.latchId + 1, susp := [], resume := none } ∧
      fl.id = base.fresh ∧ fl.op = (if x then .atomicX (fnBit f 7) else .atomic f.c.toNat (fnBit f 7)) ∧
      fl.dest = (if red then none else some f.d.toNat) ∧ fl.size = (if fnBit f 7 then 8 else 4) ∧ fl.world = t.world ∧ fl.parts = parts ∧
      fl.done = false ∧ fl.vals = [] ∧ fl.latch = g.latchId ∧ fl.acq = (if ordOf f % 2 = 1 then some (atomScope f) else none) ∧
      (∀ l, has cl l = true → mval fl.opsB 0#64 l = BitVec.ofNat 64 ((Reading.atomB f).read g l) ∧
        mval fl.opsC 0#64 l = BitVec.ofNat 64 ((Reading.atomC f x).read g l)) ∧
      (release → ∀ w ∈ base.writes, w.vis.getLsbD g.core = true → (w.id, scopeAgents base g t (atomScope f)) ∈ fl.after)

/-- A lane's atomic is performed on the latest value in coherence order: the value is kept for the register, and the new value of
R183 and R184 is written at the home at once, whole; a compare that fails writes nothing. Where nothing waits for its place, the
bytes at the home are then the new value, and every other byte there is as it was. -/
def Sys2Proof.Says.AtomicsAct : Prop :=
  ∀ (s : State) (gid core : Nat) (g : Group) (x : Flight) (l va pa n : Nat),
    mget s.groups gid = some g → x ∈ g.flights → (∀ y ∈ g.flights, y.id = x.id → y = x) → mget x.vals l = none →
    x.parts.find? (fun p => p.lane == l) = some ⟨l, [(va, pa, n)]⟩ → inDoor s pa = false → (∀ w ∈ s.writes, w.home = true) →
    ((∃ aop, (aop < 9 ∨ n = 4 ∧ aop < 12) ∧ x.op = .atomic aop (n == 8)) ∨ x.op = .atomicX (n == 8)) → (n = 4 ∨ n = 8) →
    (mval x.opsB 0#64 l).toNat < 2 ^ (8 * n) → readError s x.world pa n ≠ .uncorrectable → readError s x.world pa n ≠ .integrity →
    let old := leNat (homeRead s x.world pa n)
    let b := (mval x.opsB 0#64 l).toNat
    let new : Nat := match x.op with
      | .atomic aop _ => Reading.aopResult (8 * n) aop old b
      | .atomicX _ => if old = b then (mval x.opsC 0#64 l).toNat % 2 ^ (8 * n) else old
      | .load => old
    let s' := atomicLane s gid core x l
    (∃ g', mget s'.groups gid = some g' ∧ ∃ y ∈ g'.flights, y.id = x.id ∧ mget y.vals l = some (BitVec.ofNat 128 old)) ∧
    leNat (homeRead s' x.world pa n) = new % 2 ^ (8 * n) ∧
    (∀ a, a < pa ∨ pa + n ≤ a → homeRead s' x.world a 1 = homeRead s x.world a 1) ∧ s'.mem = s.mem

/-- ATOM, ATOMX and RED of the scratchpad slot by one lane, with its sectors present: D is the old value, extended to the register or the pair, and the slot holds the new value of R183 or R184; no
other byte of the slot and no other register changes. -/
def Sys2Proof.Says.ScratchAtomicsAct : Prop :=
  ∀ (s : State) (c : Ctx) (g : Group) (t : Team) (f : SForm) (i : Instr) (x red : Bool) (l : Nat), Issuing s c g t → Undisturbed s g →
    t.twin = 0 → ((i = .atom f ∧ x = false ∧ red = false) ∨ (i = .atomx f ∧ x = true ∧ red = false) ∨ (i = .red f ∧ x = false ∧ red = true)) →
    fnBit f 8 = true → i.wellFormed = true → Reading.lanesLive g c → clOf g c f.pg f.pn = 1#32 <<< l → l < 32 →
    let n := if fnBit f 7 then 8 else 4
    let o : Nat := (Reading.atomA f).read g l % 2 ^ 32
    let d : Dest := if red then .none else .v f.d.toNat (fnBit f 7)
    canRead g [Reading.atomA f, Reading.atomB f, Reading.atomC f x] d → scratchAcc t (o : Int) n n = .ok [(o, n)] →
    absentSector t o n = none → spBad t o n = false →
    let old := spNum t o n
    let b := (Reading.atomB f).read g l % 2 ^ (8 * n)
    let new : Nat := if x then (if old = b then (Reading.atomC f x).read g l % 2 ^ (8 * n) else old) else Reading.aopResult (8 * n) f.c.toNat old b
    ∃ (s' : State) (t' : Team) (g1 g' : Group), exec i s = .next s' ∧ mget s'.teams g.team = some t' ∧ mget s'.groups c.gid = some g' ∧ t'.escaped = true ∧
      spNum t' o n = new % 2 ^ (8 * n) ∧ (∀ a, a < o ∨ o + n ≤ a → memGet t'.sp a = memGet t.sp a) ∧
      g1 = { g with flights := g1.flights, acqVals := g1.acqVals } ∧ advanced c g g' ∧
      (∀ r j, j < 32 → vRaw g' r j = if j = l ∧ red = false ∧ f.nw = false then (vpart d r old).getD (vRaw g r j) else vRaw g r j) ∧
      g' = { g1 with v := g'.v, lanes := g'.lanes, latches := g'.latches, latchId := g.latchId + 1, susp := [], resume := none }

/-- ATOM, ATOMX and RED: an atomic goes out, acts at the home, and one of the slot acts at once. -/
def Obligations.Atomics : Prop := Says.AtomicsComplete ∧ Says.AtomicsGoOut ∧ Says.AtomicsAct ∧ Says.ScratchAtomicsAct

/-- A store out is seen by its own core at once and by no other agent: its core reads the stored bytes at its address, every other
agent and every other address reads as before, and home memory is as it was. A write made visible to everyone is home memory's. -/
def Obligations.StoresAreSeenByTheirCore : Prop :=
  ∀ (s : State) (core w pa : Nat) (bs : List Byte) (after : Before), core < 193 → inDoor s pa = false →
    let s' := storeWrite s core w pa bs after
    viewRead s' core w pa bs.length = bs ∧
    (∀ agent v a n, agent ≠ core → viewRead s' agent v a n = viewRead s agent v a n) ∧
    (∀ v a, a < pa ∨ pa + bs.length ≤ a → viewRead s' core v a 1 = viewRead s core v a 1) ∧ s'.mem = s.mem

/-- LD, LDA, ST and STREL whose lanes name a global address that is not aligned to the access or not of the address space take ADDRESS
in those lanes, with TADDR the lowest such lane's address; a scratchpad offset that is not aligned takes ADDRESS, and with every
offset aligned one out of the slot takes SCRATCH_BOUNDS, with TADDR the lane's offset. Nothing is read or written. -/
def Obligations.BadAddressesTrap : Prop :=
  ∀ (s : State) (c : Ctx) (g : Group) (t : Team) (f : SForm) (i : Instr), Issuing s c g t → Undisturbed s g → canTrap g →
    (i = .ld f ∨ i = .lda f ∨ i = .st f ∨ i = .strel f) → i.wellFormed = true →
    let n := szBytes f
    let cl := clOf g c f.pg f.pn
    let ea (l : Nat) : W64 := BitVec.ofInt 64 ((Reading.addrOp f 0).read g l + offOf f)
    let o (l : Nat) : Int := ((Reading.addrOp f 1).read g l % 2 ^ 32 : Nat) + offOf f
    canRead g [Reading.addrOp f (memSpc f)] .none → (ud f = false → f.d.toNat + max 1 (n / 4) ≤ g.vcount) →
    (memSpc f = 0 → ∀ l, has cl l = true → (∀ j, j < l → has cl j = true → (ea j).toNat % n = 0 ∧ (ea j).toNat < 2 ^ 56) →
      ¬ ((ea l).toNat % n = 0 ∧ (ea l).toNat < 2 ^ 56) →
      traps i s c g .address (maskBy (fun j => has cl j && !decide ((ea j).toNat % n = 0 ∧ (ea j).toNat < 2 ^ 56))) (ea l) 0#64) ∧
    (memSpc f = 1 → ∀ l, has cl l = true → (∀ j, j < l → has cl j = true → o j % n = 0) → ¬ o l % n = 0 →
      traps i s c g .address (maskBy (fun j => has cl j && !decide (o j % n = 0))) (BitVec.ofInt 64 (o l)) 0#64) ∧
    (memSpc f = 1 → ∀ l, has cl l = true → (∀ j, has cl j = true → o j % n = 0) →
      (∀ j, j < l → has cl j = true → 0 ≤ o j ∧ o j + n ≤ t.scratch) → ¬ (0 ≤ o l ∧ o l + n ≤ t.scratch) →
      traps i s c g .scratchBounds (maskBy (fun j => has cl j && !decide (0 ≤ o j ∧ o j + n ≤ t.scratch))) (BitVec.ofInt 64 (o l)) 0#64)

/-- FENCE completes: the group's outstanding operations are performed and its copies read their source; a full fence makes every write
visible to its core visible to the agents of the scope; a full or acquiring one at `.team` or wider empties the world's L1 of its core;
a full or releasing one puts the writes its core sees before later stores of the lanes of CL for that scope, and escapes the interval;
no register changes. Which copies read their source at once, and how the kinds are ordered, are the model's reading (DEDUCED, logs 13
and 45). -/
def Sys2Proof.Says.FencesOrder : Prop :=
  ∀ (s : State) (c : Ctx) (g : Group) (t : Team) (f : SForm), Issuing s c g t → Undisturbed s g → (Instr.fence f).wellFormed = true →
    let cl := clOf g c f.pg f.pn
    let kind := fnField f 3 2
    let scope := scopeAgents { s with cur := .idle } g t (memScope f)
    cl ≠ 0#32 →
    let s1 := beforeRelease { s with cur := .idle } c.gid g t cl
    let s2 := if kind = 0 then fenceFull s1 g.core scope else s1
    let s3 := if kind = 2 then s2 else acquireAt s2 g.core t.world (memScope f)
    ∃ g1, exec (.fence f) s = .next { s3 with
        groups := mput s2.groups c.gid (advance { (if kind = 1 then g1 else g1.onLanes cl (fun x =>
            { x with fence := (visibleTo s2 g.core).map (fun id => (id, scope)) ++ x.fence.filter (fun p => s2.writes.any (fun w => w.id == p.1)) })) with
          latches := (⟨g.latchId, false, []⟩ :: g.latches).take 4, latchId := g.latchId + 1, susp := [], resume := none } c.mask)
        teams := if kind = 1 then s2.teams else mput s2.teams g.team { t with escaped := true } } ∧
      mget s2.groups c.gid = some g1 ∧ g1 = { g with flights := g1.flights, acqVals := g1.acqVals } ∧
      (kind = 0 → (s1.writes.map (·.id)).Nodup → ∀ w ∈ s2.writes, w.id ∈ visibleTo s1 g.core → ∀ k, scope.getLsbD k = true →
        w.vis.getLsbD k = true)

/-- CCTL.IVL1 of lines in mapped pages completes: the core has no L1 copy of the world's lines that CL names, and nothing but the caches
changes. -/
def Sys2Proof.Says.CacheLineInvalidation : Prop :=
  ∀ (s : State) (c : Ctx) (g : Group) (t : Team) (f : SForm), Issuing s c g t → Undisturbed s g →
    let as := (lanesOf (clOf g c f.pg f.pn)).map (fun l => (l, globalAcc (BitVec.ofInt 64 ((cacheAddr f).read g l + offOf f)) 1))
    let vas := Reading.vasOf as
    canRead g [cacheAddr f] .none → Reading.allOk as → Reading.allMapped s g t 1 vas →
    ∃ cores dies, exec (.cctlIvl1 f) s = .next { PlainWord s c g id with cores := cores, dies := dies } ∧
      ∀ y ∈ (mval cores Core.empty g.core).l1, y.world = t.world → ∀ va ∈ vas, y.line ≠ (Reading.physOf s g t 1 vas va).1 / 128

/-- CCTL.DEMOTE of lines in mapped pages completes: it drops no line of an L2, and nothing but the caches changes. -/
def Sys2Proof.Says.CacheLineDemotion : Prop :=
  ∀ (s : State) (c : Ctx) (g : Group) (t : Team) (f : SForm), Issuing s c g t → Undisturbed s g →
    let as := (lanesOf (clOf g c f.pg f.pn)).map (fun l => (l, globalAcc (BitVec.ofInt 64 ((cacheAddr f).read g l + offOf f)) 1))
    let vas := Reading.vasOf as
    canRead g [cacheAddr f] .none → Reading.allOk as → Reading.allMapped s g t 1 vas →
    ∃ cores dies, exec (.cctlDemote f) s = .next { PlainWord s c g id with cores := cores, dies := dies } ∧
      ∀ d x, x ∈ (mval dies Die.empty d).l2 ↔ x ∈ (dieOf (Reading.looked s g t 1 vas).1 d).l2

/-- CCTL.IVL1.ALL completes: the core has no L1 copy of a line of the world, and nothing else changes. -/
def Sys2Proof.Says.CacheControlOfAllLines : Prop :=
  ∀ (s : State) (c : Ctx) (g : Group) (t : Team) (f : SForm), Issuing s c g t → Undisturbed s g → clOf g c f.pg f.pn ≠ 0#32 →
    ∃ cores, exec (.cctlIvl1All f) s = .next { PlainWord s c g id with cores := cores } ∧
      ∀ y ∈ (mval cores Core.empty g.core).l1, y.world ≠ t.world

/-- PRF completes, wherever its addresses lie, and changes the caches alone. -/
def Sys2Proof.Says.PrefetchCompletes : Prop :=
  ∀ (s : State) (c : Ctx) (g : Group) (t : Team) (f : SForm), Issuing s c g t → Undisturbed s g → canRead g [cacheAddr f] .none →
    ∃ cores dies, exec (.prf f) s = .next { PlainWord s c g id with cores := cores, dies := dies }

/-- IFLUSH completes: no core of the team holds an instruction line of the world that meets a range of CL, a range of 0 bytes naming none,
and nothing else changes. -/
def Sys2Proof.Says.InstructionFlushCompletes : Prop :=
  ∀ (s : State) (c : Ctx) (g : Group) (t : Team) (f : SForm), Issuing s c g t → Undisturbed s g →
    let a := cacheAddr f
    let b := opnd f f.b (fnBit f 9) (lqB f) false
    canRead g [a, b] .none →
    ∃ cores, exec (.iflush f) s = .next { PlainWord s c g id with cores := cores } ∧
      ∀ k ∈ teamCores s t, ∀ x ∈ (mval cores Core.empty k).icache, x.world = t.world → ∀ l, has (clOf g c f.pg f.pn) l = true →
        ¬ (0 < b.read g l ∧ a.read g l < 128 * x.vline + 128 ∧ 128 * x.vline < a.read g l + b.read g l)

/-- ISYNC completes: the words that the group has fetched are discarded, and nothing else changes. -/
def Sys2Proof.Says.IsyncCompletes : Prop :=
  ∀ (s : State) (c : Ctx) (g : Group) (t : Team) (f : SForm), Issuing s c g t → Undisturbed s g → clOf g c f.pg f.pn ≠ 0#32 →
    exec (.isync f) s = .next (PlainWord s c g (fun g => { g with fetched := [] }))

/-- FENCE, CCTL.IVL1, CCTL.IVL1.ALL, CCTL.DEMOTE, PRF, IFLUSH and ISYNC complete: FENCE orders, and the others change caches and fetched
words alone. -/
def Obligations.FencesAndCacheControl : Prop :=
  Says.FencesOrder ∧ Says.CacheLineInvalidation ∧ Says.CacheLineDemotion ∧ Says.CacheControlOfAllLines ∧ Says.PrefetchCompletes ∧
  Says.InstructionFlushCompletes ∧ Says.IsyncCompletes

/-- The sectors of the run of a PRES word in a lane: `count` sectors from the offset that A holds (R189). -/
def presRun (f : SForm) (g : Group) (l : Nat) : List Nat :=
  (List.range (f.b.toNat % 32 + 1)).map (· + (opnd f f.a (fnBit f 10) (lqA f) false).read g l / 32)

/-- The runs of a PRES word can be read, are aligned and lie in the slot. -/
def presRunsOk (f : SForm) (c : Ctx) (g : Group) (t : Team) : Prop :=
  let a := opnd f f.a (fnBit f 10) (lqA f) false
  canRead g [a] .none ∧ ∀ l, has (clOf g c f.pg f.pn) l = true → a.read g l % 32 = 0 ∧ a.read g l + 32 * (f.b.toNat % 32 + 1) ≤ t.scratch

/-- PRES.TEST completes on runs that are aligned and in bounds: predicate D of each lane of CL is whether every bit of its run is set, and
nothing else changes, where no release has marked a presence bit. -/
def Sys2Proof.Says.PresenceTest : Prop :=
  ∀ (s : State) (c : Ctx) (g : Group) (t : Team) (f : SForm), Issuing s c g t → Undisturbed s g → presRunsOk f c g t →
    ∃ u g', exec (.presTest f) s = .next u ∧ mget u.groups c.gid = some g' ∧ advanced c g g' ∧ plainLatches g g' ∧
      (∀ n l, l < 32 → pRead g' n l =
        if n = f.d.toNat ∧ has (clOf g c f.pg f.pn) l = true then (presRun f g l).all (fun x => !t.absent.contains x) else pRead g n l) ∧
      g' = { g with p := g'.p, lanes := g'.lanes, latches := g'.latches, latchId := g'.latchId, susp := [], resume := none } ∧
      u.teams = s.teams ∧ (t.rels = [] → u = afterWord s c g')

/-- PRES.CLR completes on runs that are aligned and in bounds, with no copy into the slot in flight: the bits of the runs are clear, and
every other presence bit, the slot and memory keep their values. -/
def Sys2Proof.Says.PresenceClear : Prop :=
  ∀ (s : State) (c : Ctx) (g : Group) (t : Team) (f : SForm), Issuing s c g t → Undisturbed s g → presRunsOk f c g t →
    (∀ x, copyInto s g.team x = false) →
    ∃ u t', exec (.presClr f) s = .next u ∧ wordDone c g u ∧ mget u.teams g.team = some t' ∧
      (∀ x, x ∈ t'.absent ↔ x ∈ t.absent ∨ ∃ l, has (clOf g c f.pg f.pn) l = true ∧ x ∈ presRun f g l) ∧ u.mem = s.mem ∧ t'.sp = t.sp

/-- PRES.SET completes on runs that are aligned and in bounds, with no copy into the slot in flight and nothing of the team waiting on a
sector: the bits of the runs are set, and every other presence bit and the slot keep their values. -/
def Sys2Proof.Says.PresenceSet : Prop :=
  ∀ (s : State) (c : Ctx) (g : Group) (t : Team) (f : SForm), Issuing s c g t → Undisturbed s g → presRunsOk f c g t →
    (∀ x, copyInto s g.team x = false) → (∀ p ∈ s.groups, p.2.team = g.team → p.2.spWaits = []) →
    ∃ u t', exec (.presSet f) s = .next u ∧ wordDone c g u ∧ mget u.teams g.team = some t' ∧
      (∀ x, x ∈ t'.absent ↔ x ∈ t.absent ∧ ¬ ∃ l, has (clOf g c f.pg f.pn) l = true ∧ x ∈ presRun f g l) ∧ t'.sp = t.sp

/-- PRES.TEST, PRES.CLR and PRES.SET complete: TEST reads the presence bits of the runs, CLR clears them and SET sets them. -/
def Obligations.PresenceBits : Prop := Says.PresenceTest ∧ Says.PresenceClear ∧ Says.PresenceSet

/-! ### Copies, barriers and the register pool -/

/-- ACP completes with aligned destinations in the slot, aligned sources in mapped pages, and room among the group's transfers: what is
outstanding of the group on the source bytes is performed, and one transfer of each lane of CL goes out, in ascending order, under the
tag's open batch, with the lane's source bytes; the presence bit of each destination sector is clear. -/
def Sys2Proof.Says.TransfersGoOut : Prop :=
  ∀ (s : State) (c : Ctx) (g : Group) (t : Team) (f : SForm), Issuing s c g t → Undisturbed s g →
    let ls := lanesOf (clOf g c f.pg f.pn)
    let a := opnd f f.a (fnBit f 10) (lqA f) true
    let b := opnd f f.b (fnBit f 9) (lqB f) false
    let cc := if fnBit f 7 then .none else opnd f f.c (fnBit f 8) (lqC f) false
    let n := Reading.transferCount f g
    let vas := (ls.map (fun l => (l, pagesOf (a.read g l) (n l)))).flatMap (·.2)
    let src (l : Nat) : List (Nat × Nat × Nat) := Reading.transferPieces (Reading.physOf s g t 1 vas) (a.read g l) (n l)
    let base := performOverlapping (Reading.looked s g t 1 vas).1 c.gid (ls.flatMap src)
    let tag := tagAt g (tagOf f)
    canRead g [a, b, cc] .none → unlanded g + ls.length ≤ 1024 → Reading.allMapped s g t 1 vas →
    (∀ l ∈ ls, b.read g l % 32 = 0 ∧ b.read g l + 32 ≤ t.scratch ∧ (0 < n l → a.read g l % 4 = 0 ∧ a.read g l + n l ≤ 2 ^ 56)) →
    ∃ u t' g1 g', exec (.acp f) s = .next u ∧
      u = { base with groups := mput base.groups c.gid g', teams := u.teams, copies := u.copies, fresh := base.fresh + ls.length } ∧
      mget base.groups c.gid = some g1 ∧ mget u.teams g.team = some t' ∧
      (∀ j l, ls[j]? = some l → mget u.copies (base.fresh + j) = some
        ⟨g.team, .acp c.gid (tagOf f) tag.batch l (src l), b.read g l / 32, t.interval, base.fresh + j, [], [], [], (g.lane l).fence⟩) ∧
      (∀ k, k < base.fresh → mget u.copies k = mget s.copies k) ∧
      (∀ x, x ∈ t'.absent ↔ x ∈ t.absent ∨ ∃ l ∈ ls, x = b.read g l / 32) ∧ t'.sp = t.sp ∧
      advanced c g g' ∧ plainLatches g g' ∧
      g' = { g1 with tags := g.tags.set (tagOf f) { tag with opened := tag.opened + ls.length }, lanes := g'.lanes, latches := g'.latches
                     latchId := g.latchId + 1, susp := [], resume := none }

/-- ACPC completes: the tag's open batch is closed, its transfers count as those waited for, and nothing else changes. -/
def Sys2Proof.Says.BatchCloses : Prop :=
  ∀ (s : State) (c : Ctx) (g : Group) (t : Team) (f : SForm), Issuing s c g t → Undisturbed s g → clOf g c f.pg f.pn ≠ 0#32 →
    let tag := tagAt g (tagOf f)
    exec (.acpc f) s = .next (PlainWord s c g (fun g =>
      { g with tags := g.tags.set (tagOf f) { tag with pend := tag.pend + tag.opened, opened := 0, batch := tag.batch + 1 } }))

/-- ACPW completes at once where no closed batch of the tag has a transfer to land; otherwise the lanes of CL wait on the tag's phase. -/
def Sys2Proof.Says.BatchIsWaitedFor : Prop :=
  ∀ (s : State) (c : Ctx) (g : Group) (t : Team) (f : SForm), Issuing s c g t → Undisturbed s g →
    let tag := tagAt g (tagOf f)
    ∃ g', exec (.acpw f) s = .next (afterWord s c g') ∧ plainLatches g g' ∧
      (tag.pend = 0 → advanced c g g') ∧
      (tag.pend ≠ 0 → Reading.waitsAt c g g' (clOf g c f.pg f.pn) (.tag (tagOf f) tag.phase)) ∧
      g' = { g with lanes := g'.lanes, latches := g'.latches, latchId := g.latchId + 1, susp := [], resume := none }

/-- BCP.LD and BCP.ST complete with a valid object, an accepted record in mapped pages whose bytes 0x00 to 0x7F can be read, a box that
lies in the slot and in mapped pages, and nothing of the group outstanding: the copy goes out with the bytes of the box, sector by sector
of the slot, each at its physical address or with its fill; a load clears the presence bits of its sectors, a store escapes the
interval. -/
def Sys2Proof.Says.BulkCopiesGoOut : Prop :=
  ∀ (s : State) (c : Ctx) (g : Group) (t : Team) (f : SForm) (i : Instr) (store : Bool), Issuing s c g t → Undisturbed s g →
    t.twin = 0 → g.spWaits = [] → g.flights = [] → ((i = .bcpLd f ∧ store = false) ∨ (i = .bcpSt f ∧ store = true)) →
    let cl := clOf g c f.pg f.pn
    let recVa := (uRead64 g (uni f f.a)).toNat
    let off := (uRead g (uni f f.b)).toNat
    let k := (List.range 5).map (fun i => (uRead g (uni f f.c + i)).toInt)
    let recVas := (lanesOf cl).flatMap (fun _ => pagesOf recVa 192)
    let pieces := Reading.recordPieces (Reading.physOf s g t 1 recVas) recVa
    let got := readRec (Reading.looked s g t 1 recVas).1 g.core t recVa (pieces 192)
    let r := parseRec got.2
    let vas := r.addrs k
    let firsts := ((vas.map (fun va => va / 4096 * 4096)).eraseDups).map (fun p => (vas.find? (fun va => va / 4096 * 4096 == p)).getD p)
    let ns := pageStates got.1 g t (if store then 2 else 1) ((lanesOf cl).flatMap (fun _ => firsts))
    let secs := (r.sectors off k).map (fun q => (q.1, q.2.map (fun x => (x.1, x.2.1.map (fun va => (pagesMap ns.2 va).1), x.2.2))))
    cl ≠ 0#32 → (objAt t (objOf f)).v = true → recVa % 64 = 0 → recVa + 192 ≤ 2 ^ 56 → Reading.allMapped s g t 1 recVas →
    (∀ q ∈ pieces 128, readError s t.world q.2.1 q.2.2 = .clean) → r.ok = true → off % (32 * 2 ^ r.swz) = 0 → off + r.size ≤ t.scratch →
    (∀ va ∈ vas, va < 2 ^ 56) → (∀ n ∈ ns.2, ∃ fr sz at_, n.st = .mapped fr sz at_) →
    ∃ u t', exec i s = .next u ∧ mget u.teams g.team = some t' ∧
      mget u.copies s.fresh = some ⟨g.team, .bulk c.gid (objOf f) store recVa off (k.map (fun x => (x % 2 ^ 32).toNat)) secs, 0, t.interval,
        s.fresh, [], [], secs, (lanesOf cl).flatMap (fun l => (g.lane l).fence)⟩ ∧
      (store = false → ∀ x, x ∈ t'.absent ↔ x ∈ t.absent ∨ x ∈ secs.map (·.1)) ∧ (store = true → t'.escaped = true ∧ t'.absent = t.absent) ∧
      t'.sp = t.sp ∧ u.mem = s.mem ∧ u.writes = s.writes ∧
      u.groups = mput s.groups c.gid (advance { g with latches := (⟨g.latchId, false, []⟩ :: g.latches).take 4, latchId := g.latchId + 1,
                                                        susp := [], resume := none } c.mask)

/-- RFENCE completes: no core of the team holds a record of the space at an address that CL names, and nothing else changes. -/
def Sys2Proof.Says.RecordFence : Prop :=
  ∀ (s : State) (c : Ctx) (g : Group) (t : Team) (f : SForm), Issuing s c g t → Undisturbed s g →
    let a := opnd f f.a (fnBit f 10) (lqA f) true
    canRead g [a] .none →
    ∃ cores, exec (.rfence f) s = .next { PlainWord s c g id with cores := cores } ∧
      ∀ q ∈ teamCores s t, ∀ x ∈ (mval cores Core.empty q).recs, x.space = t.space → ∀ l, has (clOf g c f.pg f.pn) l = true → x.addr ≠ a.read g l

/-- RFENCE.ALL completes: no core of the team holds a record of the space, and nothing else changes. -/
def Sys2Proof.Says.RecordFenceOfAll : Prop :=
  ∀ (s : State) (c : Ctx) (g : Group) (t : Team) (f : SForm), Issuing s c g t → Undisturbed s g → clOf g c f.pg f.pn ≠ 0#32 →
    ∃ cores, exec (.rfenceAll f) s = .next { PlainWord s c g id with cores := cores } ∧
      ∀ q ∈ teamCores s t, ∀ x ∈ (mval cores Core.empty q).recs, x.space ≠ t.space

/-- ACP, ACPC, ACPW, BCP.LD, BCP.ST, RFENCE and RFENCE.ALL complete: copies go out, batches close and are waited for, and records are
dropped. -/
def Obligations.CopiesGoOut : Prop :=
  Says.TransfersGoOut ∧ Says.BatchCloses ∧ Says.BatchIsWaitedFor ∧ Says.BulkCopiesGoOut ∧ Says.RecordFence ∧ Says.RecordFenceOfAll

/-- Every update of a barrier object is checked for completion: with V set, ARRIVED at least EXPECT and LANDED equal to XBYTES the
phase completes in the same step, PHASE counts on modulo 2^32, ARRIVED, LANDED and XBYTES are zero, and EXPECT, AUTO and V are
kept; every lane of the team that waits on the object with the former phase number is released, and no other lane changes. An
arrival that finds ARRIVED at 8,191 leaves it there. -/
def Sys2Proof.Says.UpdatesAreChecked : Prop :=
  (∀ (s : State) (tid o : Nat) (t : Team) (f : Barrier → Barrier), mget s.teams tid = some t → o < t.objs.length →
    let b := f (objAt t o)
    let s' := updateObj s tid o f
    (∃ t', mget s'.teams tid = some t' ∧ ∀ k, objAt t' k = if k = o then Reading.checked b else objAt t k) ∧
    ∀ gid g, mget s.groups gid = some g → ∃ g', mget s'.groups gid = some g' ∧ g' = { g with lanes := g'.lanes } ∧
      ∀ l, l < g.lanes.length → g'.lane l =
        if g.team = tid ∧ Reading.completes b = true ∧ Reading.waitsFor o b.phase (g.lane l) = true
        then Reading.released g (g.lane l) else g.lane l) ∧
  ∀ b : Barrier, b.arrived ≤ 8191 → b.arrive = { b with arrived := if b.arrived = 8191 then 8191 else b.arrived + 1 }

/-- BINIT completes, and is the update that is not checked: it sets EXPECT to the count, ARRIVED, LANDED and XBYTES to zero, V, and clears
AUTO; PHASE and every other object keep their values, and no lane is released. -/
def Sys2Proof.Says.BinitIsNotChecked : Prop :=
  ∀ (s : State) (c : Ctx) (g : Group) (t : Team) (f : SForm), Issuing s c g t → Undisturbed s g → t.rollbacks = false →
    let o := objOf f
    let n := (uRead g (uni f f.b)).toNat
    clOf g c f.pg f.pn ≠ 0#32 → o < t.objs.length → o ≠ 0 → 1 ≤ n → n ≤ 4096 →
    exec (.binit f) s = .next { PlainWord s c g id with
      teams := mput s.teams g.team { t with objs := lupd t.objs o (fun b => ⟨true, false, n, 0, 0, 0, b.phase⟩) } }

/-- Every update of a barrier object but BINIT is checked for completion in the same step, and a completed phase releases its waits; BINIT
completes without the check. -/
def Obligations.PhasesComplete : Prop := Says.UpdatesAreChecked ∧ Says.BinitIsNotChecked

/-- BARV on a valid object completes: it counts each lane of CL in ascending order, D is the phase in which the lane counted, and the
object is as the updates and their checks leave it. -/
def Sys2Proof.Says.BarrierObjectsCount : Prop :=
  ∀ (s : State) (c : Ctx) (g : Group) (t : Team) (f : SForm), Issuing s c g t → Undisturbed s g → t.rollbacks = false →
    let cl := clOf g c f.pg f.pn
    let o := objOf f
    let b := if fnBit f 3 then opnd f f.b (fnBit f 10) (lqB f) false else .none
    let r := Reading.barvLanes (fnBit f 3) (fnBit f 2) (b.read g) (lanesOf cl) (objAt t o)
    cl ≠ 0#32 → o < t.objs.length → canRead g [b] (.v f.d.toNat false) → (objAt t o).v = true → Reading.lanesLive g c →
    ∃ u t' g', exec (.barv f) s = .next u ∧ mget u.teams g.team = some t' ∧ mget u.groups c.gid = some g' ∧
      (∀ k, objAt t' k = if k = o then r.2 else objAt t k) ∧
      (∀ m l, l < 32 → vRaw g' m l = if has cl l && !f.nw && m == f.d.toNat then BitVec.ofNat 32 (mval r.1 0 l) else vRaw g m l) ∧
      g'.u = g.u ∧ g'.p = g.p ∧ (∀ l, has c.mask l = true → l < g.lanes.length → (g'.lane l).pc = (g.lane l).pc + 8#64 ∧ (g'.lane l).st = .active)

/-- BWAIT on a valid object: the lanes of CL wait for the end of the phase at issue. -/
def Sys2Proof.Says.PhaseIsWaitedFor : Prop :=
  ∀ (s : State) (c : Ctx) (g : Group) (t : Team) (f : SForm), Issuing s c g t → Undisturbed s g → clOf g c f.pg f.pn ≠ 0#32 →
    (objAt t (objOf f)).v = true →
    ∃ g', exec (.bwait f) s = .next (afterWord s c g') ∧
      Reading.waitsAt c g g' (clOf g c f.pg f.pn) (.barrier (objOf f) (objAt t (objOf f)).phase false) ∧ plainLatches g g' ∧
      g'.v = g.v ∧ g'.u = g.u ∧ g'.p = g.p

/-- BWAIT.TOKEN on a valid object completes in the lanes of CL whose token is not the phase at issue; the others wait for the phase's end. -/
def Sys2Proof.Says.TokenIsWaitedFor : Prop :=
  ∀ (s : State) (c : Ctx) (g : Group) (t : Team) (f : SForm), Issuing s c g t → Undisturbed s g → clOf g c f.pg f.pn ≠ 0#32 →
    (objAt t (objOf f)).v = true →
    let tok := opnd f f.b (fnBit f 10) (lqB f) false
    let ph := (objAt t (objOf f)).phase
    canRead g [tok] .none →
    ∃ u g', exec (.bwaitToken f) s = .next u ∧ mget u.groups c.gid = some g' ∧ u.teams = s.teams ∧ plainLatches g g' ∧
      Reading.waitsAt c g g' (maskBy (fun l => has (clOf g c f.pg f.pn) l && decide (tok.read g l = ph))) (.barrier (objOf f) ph false) ∧
      g'.v = g.v ∧ g'.u = g.u ∧ g'.p = g.p

/-- BWAIT.TEST on a valid object completes and never waits: the predicate of each lane of CL says whether the phase is another than its
token. -/
def Sys2Proof.Says.PhaseIsTested : Prop :=
  ∀ (s : State) (c : Ctx) (g : Group) (t : Team) (f : SForm), Issuing s c g t → Undisturbed s g → clOf g c f.pg f.pn ≠ 0#32 →
    (objAt t (objOf f)).v = true →
    let tok := opnd f f.b (fnBit f 10) (lqB f) false
    canRead g [tok] .none →
    ∃ u g', exec (.bwaitTest f) s = .next u ∧ mget u.groups c.gid = some g' ∧ u.teams = s.teams ∧ advanced c g g' ∧ plainLatches g g' ∧
      (∀ n l, l < 32 → pRead g' n l = if n = f.d.toNat ∧ has (clOf g c f.pg f.pn) l = true
        then decide (tok.read g l ≠ (objAt t (objOf f)).phase) else pRead g n l) ∧ g'.v = g.v ∧ g'.u = g.u

/-- What TBAR and RCHK find: a valid object 0 whose EXPECT can be reached, and lanes of ISSUE that run and wait for nothing. -/
def barrierReady (c : Ctx) (g : Group) (t : Team) : Prop :=
  0 < t.objs.length ∧ (objAt t 0).v = true ∧ Reading.lanesLive g c ∧ (objAt t 0).expect ≤ 8191 ∧ ∀ l, has c.mask l = true → (g.lane l).wait = none

/-- TBAR and RCHK with the arrivals that reach EXPECT, no bytes outstanding: the phase completes, and every lane of CL goes on. That a
release's writes are seen at its arrival is the model's reading (DEDUCED, log 7). -/
def Sys2Proof.Says.TeamBarrierCompletes : Prop :=
  ∀ (s : State) (c : Ctx) (g : Group) (t : Team) (f : SForm) (i : Instr), Issuing s c g t → Undisturbed s g → t.rollbacks = false →
    (i = .tbar f ∨ i = .rchk f) → clOf g c f.pg f.pn ≠ 0#32 → barrierReady c g t → g.inHandler = 0#32 →
    let b := objAt t 0
    b.arrived + (lanesOf (clOf g c f.pg f.pn)).length = b.expect → b.landed = b.xbytes →
    ∃ u t' g', exec i s = .next u ∧ mget u.teams g.team = some t' ∧ mget u.groups c.gid = some g' ∧
      objAt t' 0 = { b with phase := (b.phase + 1) % 2 ^ 32, arrived := 0, landed := 0, xbytes := 0 } ∧
      ∀ l, has (clOf g c f.pg f.pn) l = true → l < g.lanes.length → g'.lane l = { g.lane l with pc := (g.lane l).pc + 8#64 }

/-- TBAR and RCHK short of EXPECT: each lane of CL arrives once on object 0 and waits on its phase. -/
def Sys2Proof.Says.TeamBarrierWaits : Prop :=
  ∀ (s : State) (c : Ctx) (g : Group) (t : Team) (f : SForm) (i : Instr), Issuing s c g t → Undisturbed s g → t.rollbacks = false →
    (i = .tbar f ∨ i = .rchk f) → clOf g c f.pg f.pn ≠ 0#32 → barrierReady c g t →
    let b := objAt t 0
    let m := (lanesOf (clOf g c f.pg f.pn)).length
    b.arrived + m < b.expect →
    ∃ u t' g', exec i s = .next u ∧ mget u.teams g.team = some t' ∧ mget u.groups c.gid = some g' ∧
      objAt t' 0 = { b with arrived := b.arrived + m } ∧ Reading.waitsAt c g g' (clOf g c f.pg f.pn) (.barrier 0 b.phase true)

/-- BARV, BWAIT, BWAIT.TOKEN, BWAIT.TEST, TBAR and RCHK complete: they count on barrier objects, wait for them, and test them. -/
def Obligations.Barriers : Prop :=
  Says.BarrierObjectsCount ∧ Says.PhaseIsWaitedFor ∧ Says.TokenIsWaitedFor ∧ Says.PhaseIsTested ∧ Says.TeamBarrierCompletes ∧ Says.TeamBarrierWaits

/-- A word that every live lane of the group issues and none of them passes over (R114). -/
def wholeIssue (f : SForm) (c : Ctx) (g : Group) : Prop := clOf g c f.pg f.pn = c.mask ∧ c.mask = g.live ∧ c.mask ≠ 0#32

/-- RGIVE by every live lane of a group completes with nothing outstanding on the registers it gives: the count falls by n, the team's
pool gains n/8 granules, and claims are served. -/
def Sys2Proof.Says.RegistersAreGiven : Prop :=
  ∀ (s : State) (c : Ctx) (g : Group) (t : Team) (f : SForm), Issuing s c g t → Undisturbed s g → t.rollbacks = false → wholeIssue f c g →
    let n := fnField f 0 5
    8 * n + 8 ≤ g.vcount → g.holds = [] → loadTouches g (g.vcount - 8 * n) = false → convTouches s c.gid (g.vcount - 8 * n) = false →
    (∀ p ∈ s.teams, p.2.claims = []) →
    ∃ u t' g', exec (.rgive f) s = .next u ∧ mget u.teams g.team = some t' ∧ mget u.groups c.gid = some g' ∧
      g'.vcount = g.vcount - 8 * n ∧ t'.pool = t.pool + n ∧ advanced c g g' ∧ plainLatches g g' ∧
      (∀ r l, r < g.vcount - 8 * n → l < 32 → vRaw g' r l = vRaw g r l) ∧ g'.u = g.u ∧ g'.p = g.p

/-- RCLAIM by every live lane completes where no older claim waits, and the pool and the free granules suffice: the group gains the
registers in the same step, and its lanes go on. New registers hold free values (DESIGN CHOICE, log 3). -/
def Sys2Proof.Says.ClaimIsGranted : Prop :=
  ∀ (s : State) (c : Ctx) (g : Group) (t : Team) (f : SForm) (bs : List (Nat × Nat)), Issuing s c g t → Undisturbed s g →
    t.rollbacks = false → wholeIssue f c g →
    let n := fnField f 0 5
    g.vcount + 8 * n ≤ 256 → n ≤ t.pool → t.claims = [] → g.inHandler = 0#32 → g.lanes.length ≤ 32 →
    (∀ l, has c.mask l = true → (g.lane l).st = .active ∧ (g.lane l).wait = none) →
    claimBlocks s g.team t ⟨c.gid, n, c.mask⟩ = some bs →
    ∃ u t' g', exec (.rclaim f) s = .next u ∧ mget u.teams g.team = some t' ∧ mget u.groups c.gid = some g' ∧
      t'.claims = [] ∧ t'.pool = t.pool - n ∧ g'.vcount = g.vcount + 8 * n ∧ g'.vmap = g.vmap ++ bs ∧ advanced c g g'

/-- RCLAIM by every live lane behind an older claim that cannot be granted, or with too small a pool: the claim waits behind the team's
older ones, and the lanes of ISSUE wait on the pool's phase. -/
def Sys2Proof.Says.ClaimWaits : Prop :=
  ∀ (s : State) (c : Ctx) (g : Group) (t : Team) (f : SForm), Issuing s c g t → Undisturbed s g → t.rollbacks = false → wholeIssue f c g →
    let n := fnField f 0 5
    g.vcount + 8 * n ≤ 256 →
    ((t.claims = [] ∧ t.pool < n) ∨ (t.claims ≠ [] ∧ claimBlocks s g.team t (t.claims.headD ⟨0, 0, 0#32⟩) = none ∧
      (t.claims.headD ⟨0, 0, 0#32⟩).gid ≠ c.gid)) →
    ∃ u t' g', exec (.rclaim f) s = .next u ∧ mget u.teams g.team = some t' ∧ mget u.groups c.gid = some g' ∧
      t'.claims = t.claims ++ [⟨c.gid, n, c.mask⟩] ∧ t'.pool = t.pool ∧ Reading.waitsAt c g g' c.mask (.pool t.poolPhase) ∧
      g'.vcount = g.vcount

/-- RGIVE and RCLAIM complete: registers move through the team's pool, and a claim that cannot be granted waits in its order. -/
def Obligations.RegistersMoveThroughThePool : Prop := Says.RegistersAreGiven ∧ Says.ClaimIsGranted ∧ Says.ClaimWaits

/-! ### The matrix engine -/

/-- MMA whose checks pass completes: its convergence register is OPEN, with the descriptor of the four uniform registers from A up, the
slots and flags of the word, nothing signed, and its phase kept; no register, tile or accumulator changes. -/
def Sys2Proof.Says.MatrixDeclares : Prop :=
  ∀ (s : State) (c : Ctx) (g : Group) (t : Team) (f : SForm), Issuing s c g t → Undisturbed s g → clOf g c f.pg f.pn ≠ 0#32 →
    let key := cvKey g.core t.world f.d.toNat
    let v := convAt s key
    f.d.toNat < cvCount s g.core t.world → f.c.toNat < g.vcount → f.b.toNat < 4 * g.agran →
    declareCause { s with cur := .idle } g t v (declared f g t v) = none →
    ∃ u g', exec (.mma f) s = .next u ∧ u.groups = mput s.groups c.gid g' ∧
      advanced c g g' ∧ plainLatches g g' ∧ g'.v = g.v ∧ g'.u = g.u ∧ g'.p = g.p ∧ g'.accs = g.accs ∧ g'.tiles = g.tiles ∧
      (∀ k, k ≠ key → convAt u k = convAt s k) ∧
      ∃ bend, convAt u key =
        { v with st := .opened, lead := g.num - (uRead g (uni f f.a)).toNat % 128, owner := t.slotNo, team := g.team, mset := uRead g (uni f f.a)
                 lmask := uRead g (uni f f.a + 1), shape := uRead g (uni f f.a + 2), boff := uRead g (uni f f.a + 3), areg := f.c.toNat
                 acc := f.b.toNat, slotA := fnField f 8 3, slotB := fnField f 5 3, za := fnBit f 4, ru := f.ru, signed := 0#256, bEnd := bend
                 mofn := 0, stale := [], stored := [], interval := t.interval }

/-- MSG by member lanes that have not signed completes: it signs for them, with the newest store that an MOFN of theirs covers; when every
member lane has signed the operation is ARMED, or BUSY at once. -/
def Sys2Proof.Says.MatrixSigns : Prop :=
  ∀ (s : State) (c : Ctx) (g : Group) (t : Team) (f : SForm) (m : Nat), Issuing s c g t → Undisturbed s g →
    let cl := clOf g c f.pg f.pn
    let key := cvKey g.core t.world f.d.toNat
    let v := convAt s key
    cl ≠ 0#32 → f.d.toNat < cvCount s g.core t.world → v.st = .opened → v.team = g.team → overBudget g t v = false →
    v.member g.num = some m → cl &&& ~~~v.lmask = 0#32 → cl &&& v.signedOf m = 0#32 →
    let v' := { v with signed := v.signed ||| (cl.setWidth 256 <<< (32 * m))
                       mofn := (lanesOf cl).foldl (fun n l => max n (g.lane l).mofn) v.mofn }
    let all := v.members.all (fun n => v'.signedOf (n - v.gbase) == v.lmask)
    ∃ u, exec (.msg f) s = .next u ∧ wordDone c g u ∧ (all = false → convAt u key = v') ∧
      (all = true → ((convAt u key).st = .armed ∨ (convAt u key).st = .busy) ∧ (convAt u key).signed = v'.signed) ∧
      (convAt u key).phase = v.phase

/-- MOFN completes: the stores to the slot so far are covered for what the lanes of CL sign later, and nothing else changes. -/
def Sys2Proof.Says.MatrixStoresAreCovered : Prop :=
  ∀ (s : State) (c : Ctx) (g : Group) (t : Team) (f : SForm), Issuing s c g t → Undisturbed s g →
    exec (.mofn f) s = .next (PlainWord s c g (fun g => g.onLanes (clOf g c f.pg f.pn) (fun x => { x with mofn := t.spClock })))

/-- MWT completes at once where the register is idle or another team's. -/
def Sys2Proof.Says.MatrixIsIdle : Prop :=
  ∀ (s : State) (c : Ctx) (g : Group) (t : Team) (f : SForm), Issuing s c g t → Undisturbed s g → clOf g c f.pg f.pn ≠ 0#32 →
    let key := cvKey g.core t.world f.d.toNat
    f.d.toNat < cvCount s g.core t.world → g.diverged key &&& clOf g c f.pg f.pn = 0#32 →
    (convAt s key).st = .idle ∨ (convAt s key).team ≠ g.team → exec (.mwt f) s = .next (PlainWord s c g id)

/-- MWT of an operation of its own team under way: the lanes of CL wait for the end of the register's phase. -/
def Sys2Proof.Says.MatrixIsWaitedFor : Prop :=
  ∀ (s : State) (c : Ctx) (g : Group) (t : Team) (f : SForm), Issuing s c g t → Undisturbed s g → clOf g c f.pg f.pn ≠ 0#32 →
    let key := cvKey g.core t.world f.d.toNat
    let v := convAt s key
    f.d.toNat < cvCount s g.core t.world → g.diverged key &&& clOf g c f.pg f.pn = 0#32 → v.st ≠ .idle → v.team = g.team →
    ∃ g', exec (.mwt f) s = .next (afterWord s c g') ∧ Reading.waitsAt c g g' (clOf g c f.pg f.pn) (.conv key v.phase false) ∧
      plainLatches g g' ∧ g'.v = g.v ∧ g'.accs = g.accs

/-- MMA, MSG, MOFN and MWT complete: an operation is declared, signed and waited for. Convergence registers are keyed by core, world and
number (DESIGN CHOICE, log 41). -/
def Obligations.MatrixDeclareSignWait : Prop :=
  Says.MatrixDeclares ∧ Says.MatrixSigns ∧ Says.MatrixStoresAreCovered ∧ Says.MatrixIsIdle ∧ Says.MatrixIsWaitedFor

/-- MLD.T of sectors that are present completes: tiles D to D + n - 1 become the slot's bytes at the offset, 1,024 each; nothing else
changes where no release has marked the slot and no single-bit error stands in it. -/
def Sys2Proof.Says.TilesAreLoaded : Prop :=
  ∀ (s : State) (c : Ctx) (g : Group) (t : Team) (f : SForm), Issuing s c g t → Undisturbed s g → g.spWaits = [] →
    let n := fnField f 3 5 + 1
    let o := (uRead g (uni f f.a)).toNat
    clOf g c f.pg f.pn ≠ 0#32 → f.d.toNat + n ≤ 4 * g.tgran → o % 128 = 0 → o + 1024 * n ≤ t.scratch → absentSector t o (1024 * n) = none →
    spBad t o (1024 * n) = false →
    ∃ u g', exec (.mldT f) s = .next u ∧ mget u.groups c.gid = some g' ∧ advanced c g g' ∧ plainLatches g g' ∧
      (∀ i b, b < 1024 → tileRaw g' i b =
        if f.d.toNat ≤ i ∧ i < f.d.toNat + n then memGet t.sp (o + 1024 * (i - f.d.toNat) + b) else tileRaw g i b) ∧
      g' = { g with tiles := g'.tiles, lanes := g'.lanes, latches := g'.latches, latchId := g.latchId + 1, susp := [], resume := none } ∧
      (t.rels = [] → t.spSingle = [] → u = afterWord s c g')

/-- MLD.A of sectors that are present completes: registers D to D + n - 1 of each lane of CL become its part of row l mod 16 of A in the
slot; nothing else changes where no release has marked the slot and no single-bit error stands in it. -/
def Sys2Proof.Says.RowsAreLoaded : Prop :=
  ∀ (s : State) (c : Ctx) (g : Group) (t : Team) (f : SForm), Issuing s c g t → Undisturbed s g →
    let cl := clOf g c f.pg f.pn
    let n := fnField f 3 5 + 1
    let o := (uRead g (uni f f.a)).toNat
    let stride := (uRead g (uni f f.b)).toNat
    let at_ (l : Nat) : Nat := o + l % 16 * stride + 4 * (l / 16)
    cl ≠ 0#32 → f.d.toNat + n ≤ g.vcount → o % 8 = 0 → stride % 8 = 0 → Reading.lanesLive g c →
    (∀ l, has cl l = true → at_ l + (8 * (n - 1) + 4) ≤ t.scratch ∧ absentSector t (at_ l) (8 * (n - 1) + 4) = none ∧
      spBad t (at_ l) (8 * (n - 1) + 4) = false) →
    ∃ u g', exec (.mldA f) s = .next u ∧ mget u.groups c.gid = some g' ∧ advanced c g g' ∧
      (∀ r l, l < 32 → vRaw g' r l =
        if has cl l && !f.nw && decide (f.d.toNat ≤ r ∧ r < f.d.toNat + n) then BitVec.ofNat 32 (spNum t (at_ l + 8 * (r - f.d.toNat)) 4)
        else vRaw g r l) ∧ g'.u = g.u ∧ g'.p = g.p ∧ g'.accs = g.accs ∧ g'.tiles = g.tiles ∧
      (t.rels = [] → t.spSingle = [] → u = afterWord s c g')

/-- MZ completes: accumulators D to D + n - 1 and their marks are clear, and nothing else changes. -/
def Sys2Proof.Says.AccumulatorsAreCleared : Prop :=
  ∀ (s : State) (c : Ctx) (g : Group) (t : Team) (f : SForm), Issuing s c g t → Undisturbed s g → clOf g c f.pg f.pn ≠ 0#32 →
    let n := fnField f 0 3 + 1
    f.d.toNat + n ≤ 4 * g.agran →
    ∃ g', exec (.mz f) s = .next (afterWord s c g') ∧ advanced c g g' ∧ plainLatches g g' ∧
      (∀ a e, e < 128 → accRaw g' a e = if f.d.toNat ≤ a ∧ a < f.d.toNat + n then 0#32 else accRaw g a e) ∧
      (∀ a, a < 32 → has g'.marks a = (has g.marks a && !decide (f.d.toNat ≤ a ∧ a < f.d.toNat + n))) ∧
      g' = { g with accs := g'.accs, marks := g'.marks, lanes := g'.lanes, latches := g'.latches, latchId := g.latchId + 1, susp := [], resume := none }

/-- MDR.GET of unmarked accumulators completes: registers D up get accumulator elements in the lanes of CL, register q element 2q + l/16 of
row l mod 16, and nothing else changes. -/
def Sys2Proof.Says.AccumulatorsAreRead : Prop :=
  ∀ (s : State) (c : Ctx) (g : Group) (t : Team) (f : SForm), Issuing s c g t → Undisturbed s g → clOf g c f.pg f.pn ≠ 0#32 →
    let n := fnField f 1 2 + 1
    f.d.toNat + 4 * n ≤ g.vcount → f.a.toNat + n ≤ 4 * g.agran → (∀ a, f.a.toNat ≤ a → a < f.a.toNat + n → has g.marks a = false) →
    ∃ g', exec (.mdrGet f) s = .next (afterWord s c g') ∧ advanced c g g' ∧
      (∀ r l, l < 32 → vRaw g' r l = if has (clOf g c f.pg f.pn) l && !f.nw && decide (f.d.toNat ≤ r ∧ r < f.d.toNat + 4 * n)
        then accRaw g (f.a.toNat + (r - f.d.toNat) / 4) (8 * (l % 16) + 2 * ((r - f.d.toNat) % 4) + l / 16) else vRaw g r l) ∧
      g' = { g with v := g'.v, lanes := g'.lanes, latches := g'.latches, latchId := g.latchId + 1, susp := [], resume := none }

/-- MDR.PUT completes: accumulator elements get registers D up in the lanes of CL, element 2q + l/16 of row l mod 16 register q, and
nothing else changes but the accumulators' marks. -/
def Sys2Proof.Says.AccumulatorsAreWritten : Prop :=
  ∀ (s : State) (c : Ctx) (g : Group) (t : Team) (f : SForm), Issuing s c g t → Undisturbed s g →
    let cl := clOf g c f.pg f.pn
    let n := fnField f 1 2 + 1
    cl ≠ 0#32 → f.d.toNat + 4 * n ≤ g.vcount → f.a.toNat + n ≤ 4 * g.agran →
    ∃ g', exec (.mdrPut f) s = .next (afterWord s c g') ∧ advanced c g g' ∧ plainLatches g g' ∧
      (∀ l q i, l < 32 → q < 4 → i < n → has cl l = true →
        accRaw g' (f.a.toNat + i) (8 * (l % 16) + 2 * q + l / 16) = vRaw g (f.d.toNat + 4 * i + q) l) ∧
      (∀ l q i, l < 32 → q < 4 → i < n → has cl l = false →
        accRaw g' (f.a.toNat + i) (8 * (l % 16) + 2 * q + l / 16) = accRaw g (f.a.toNat + i) (8 * (l % 16) + 2 * q + l / 16)) ∧
      (∀ a e, (a < f.a.toNat ∨ f.a.toNat + n ≤ a) → accRaw g' a e = accRaw g a e) ∧
      g' = { g with accs := g'.accs, marks := g'.marks, lanes := g'.lanes, latches := g'.latches, latchId := g.latchId + 1, susp := [], resume := none }

/-- MLD.T, MLD.A, MZ, MDR.GET and MDR.PUT complete: operands move between the slot, registers, tiles and accumulators. -/
def Obligations.MatrixOperandsMove : Prop :=
  Says.TilesAreLoaded ∧ Says.RowsAreLoaded ∧ Says.AccumulatorsAreCleared ∧ Says.AccumulatorsAreRead ∧ Says.AccumulatorsAreWritten

/-- The address that the registers of an MDRX give (R259). -/
def drainBase (f : SForm) (g : Group) (x : BitVec 8) : Nat := if fnBit f 10 then (uRead g (uni f x)).toNat else (uRead64 g (uni f x)).toNat

/-- The writes of an MDRX in the format of its slot: the rows of accumulators D to D + n - 1 at E, their scales at S (R259). -/
def drained (f : SForm) (g : Group) (t : Team) : List (Nat × List Byte) :=
  let d := t.fs.getD (fnField f 7 3) 0#32
  drainWrites d g f.d.toNat (fnField f 5 2 + 1) (drainBase f g f.a) (uRead g (uni f f.b)).toNat (if fsScl d = 1 then drainBase f g f.c else 0)

/-- What MDRX needs: a legal slot, accumulators of the group that are not marked, and an aligned base and stride (R258, R259). -/
def drainOk (f : SForm) (g : Group) (t : Team) : Prop :=
  let n := fnField f 5 2 + 1
  mdrxIllegal f (t.fs.getD (fnField f 7 3) 0#32) n = false ∧ f.d.toNat + n ≤ 4 * g.agran ∧ drainBase f g f.a % 16 = 0 ∧
    (uRead g (uni f f.b)).toNat % 16 = 0 ∧ ∀ a, f.d.toNat ≤ a → a < f.d.toNat + n → has g.marks a = false

/-- MDRX to the slot completes with its sectors present: the rows, quantised in the format of the slot with the scales first, stand at E
and, for the scales, at S; nothing else of the slot, no register and no global memory changes. -/
def Sys2Proof.Says.AccumulatorsDrainToTheSlot : Prop :=
  ∀ (s : State) (c : Ctx) (g : Group) (t : Team) (f : SForm), Issuing s c g t → Undisturbed s g → t.twin = 0 → g.spWaits = [] →
    clOf g c f.pg f.pn ≠ 0#32 → drainOk f g t → fnBit f 10 = true →
    (∀ w ∈ drained f g t, w.1 + w.2.length ≤ t.scratch ∧ absentSector t w.1 w.2.length = none) →
    ∃ u t' g', exec (.mdrx f) s = .next u ∧ mget u.teams g.team = some t' ∧ mget u.groups c.gid = some g' ∧
      (∀ a, memGet t'.sp a = Reading.written (drained f g t) a (memGet t.sp a)) ∧ u.mem = s.mem ∧ u.writes = s.writes ∧
      advanced c g g' ∧ plainLatches g g' ∧ g'.v = g.v ∧ g'.u = g.u ∧ g'.p = g.p ∧ g'.accs = g.accs

/-- MDRX to global memory completes with its pages mapped for a write and not uncached: the rows and scales go out as writes of one byte
each behind what is out, and no register changes. -/
def Sys2Proof.Says.AccumulatorsDrainToMemory : Prop :=
  ∀ (s : State) (c : Ctx) (g : Group) (t : Team) (f : SForm), Issuing s c g t → Undisturbed s g → t.twin = 0 → g.spWaits = [] →
    let ws := drained f g t
    let bytes := ws.flatMap (fun w => w.2.zipIdx.map (fun p => ((w.1 + p.2) % 2 ^ 64, p.1)))
    let vas := (lanesOf (clOf g c f.pg f.pn)).flatMap (fun _ => ws.flatMap (fun w => pagesOf (w.1 % 2 ^ 64) w.2.length))
    let tr := Reading.physOf s g t 2 vas
    clOf g c f.pg f.pn ≠ 0#32 → drainOk f g t → fnBit f 10 = false → g.flights = [] → Reading.allMapped s g t 2 vas →
    (∀ b ∈ bytes, b.1 < 2 ^ 56 ∧ inDoor s (tr b.1).1 = false ∧ (tr b.1).2.testBit 5 = false) →
    ∃ u g', exec (.mdrx f) s = .next u ∧ u.groups = mput s.groups c.gid g' ∧
      (u.writes.map (fun w => (w.pa, w.bytes, w.home))) = (s.writes.map (fun w => (w.pa, w.bytes, w.home))) ++
        bytes.map (fun b => ((tr b.1).1, [b.2], false)) ∧
      u.mem = s.mem ∧ advanced c g g' ∧ plainLatches g g' ∧ g'.v = g.v ∧ g'.u = g.u ∧ g'.p = g.p ∧ g'.accs = g.accs

/-- MDRX of unmarked accumulators completes: the quantised rows and their scales stand in the slot, or go out to global memory. -/
def Obligations.AccumulatorsDrain : Prop := Says.AccumulatorsDrainToTheSlot ∧ Says.AccumulatorsDrainToMemory

/-- MATRIX_ARMED_START of an ARMED operation whose unit is free and whose operands are present completes: the operation is BUSY. -/
def Sys2Proof.Says.MatrixStarts : Prop :=
  ∀ (s : State) (key : Nat) (t : Team), s.args = [key] → mget s.teams (convAt s key).team = some t → (convAt s key).st = .armed →
    unitFree s key (convAt s key) = true → operandsPresent t (convAt s key) = true →
    exec .matrixArmedStart s = .next { s with convs := mput s.convs key { convAt s key with st := .busy, busyAt := s.clock } }

/-- MATRIX_COMPLETE of a BUSY operation of one member group whose operands hold no error and are not struck completes: every accumulator
tile of the group is the result of R128 and R234 over the operands as they stand, and the register is idle in its next phase. -/
def Sys2Proof.Says.MatrixCompletes : Prop :=
  ∀ (s : State) (key gid leadId : Nat) (t : Team) (g lead : Group), s.args = [key] → (convAt s key).st = .busy →
    let v := convAt s key
    mget s.teams v.team = some t → leadGroup s v = some (leadId, lead) → memberGroups s v = [(gid, g)] → mget s.groups gid = some g →
    v.ru = false → v.stale = [] → v.stored = [] → g.regErrs = [] → lead.regErrs = [] → t.spErrs = [] → t.spSingle = [] → g.accStrikes = [] →
    slice g.fij.toNat 0 4 = 0 →
    (∀ w ∈ g.windows, w.cv = key → w.done = false → w.spoilt = false) → (∀ w ∈ lead.windows, w.cv = key → w.done = false → w.spoiltB = false) →
    (∀ p ∈ s.teams, p.2.imageWait = false) → g.holds = [] → s.convs = [(key, v)] →
    (∀ p ∈ s.groups, ∀ l, (p.2.lane l).st ≠ .blocked) → slotWidth (fsFmt (v.fsA t)) ∈ [4, 8, 16] →
    slotWidth (fsFmt (v.fsB t)) ∈ [4, 8, 16] →
    ∃ u g', exec .matrixComplete s = .next u ∧ mget u.groups gid = some g' ∧
      (∀ a e, e < 128 → accRaw g' a e = if v.acc ≤ a ∧ a < v.acc + v.nt
        then BitVec.ofNat 32 (Reading.matrixResult t v lead g (a - v.acc) (e / 8) (e % 8)) else accRaw g a e) ∧
      (convAt u key).st = .idle ∧ (convAt u key).phase = (v.phase + 1) % 2 ^ 16 ∧ g'.v = g.v ∧ g'.u = g.u ∧ g'.p = g.p

/-- MATRIX_ARMED_START and MATRIX_COMPLETE complete: an armed operation starts, and a busy one gives its result. That operands are read at
the completion is the model's reading (DEDUCED, log 23). -/
def Obligations.MatrixOperation : Prop := Says.MatrixStarts ∧ Says.MatrixCompletes

/-! ### Pair words -/

/-- A pair word completes, for each pair of slot operations: both slots compute from the registers as they were before it; in each lane
in which a slot acts its D becomes the slot's result; the two results go to the latch queue, slot 1's the newer; ISSUE goes on at the
next word; and nothing else changes. -/
def Sys2Proof.Says.PairWordsComplete : Prop :=
  ∀ (s : State) (c : Ctx) (g : Group) (t : Team) (i j : Instr) (x y : Reading.SlotOp), s.cur = .pair c 0 none → mget s.groups c.gid = some g →
    mget s.teams g.team = some t → Undisturbed s g → Reading.slotOp i = some x → Reading.slotOp j = some y →
    (x.writes = true → y.writes = true → x.f.d ≠ y.f.d) →
    ∃ s1 g', exec i s = .next s1 ∧ exec j s1 = .next (afterWord s c g') ∧ s1 = { s with cur := s1.cur } ∧ advanced c g g' ∧
      (∀ n l, l < 32 → vRaw g' n l =
        if Reading.slotCl x g c l && n == x.f.d.toNat then x.fn (vRaw g x.f.d.toNat l) (vRaw g x.f.a.toNat l)
        else if Reading.slotCl y g c l && n == y.f.d.toNat then y.fn (vRaw g y.f.d.toNat l) (vRaw g y.f.a.toNat l) else vRaw g n l) ∧
      (∃ p q, g'.latches = (⟨g.latchId + 1, y.writes, q⟩ :: ⟨g.latchId, x.writes, p⟩ :: g.latches).take 4 ∧ ∀ l, l < 32 →
        mval p 0#64 l = (if Reading.slotCl x g c l then (x.fn (vRaw g x.f.d.toNat l) (vRaw g x.f.a.toNat l)).setWidth 64 else 0#64) ∧
        mval q 0#64 l = (if Reading.slotCl y g c l then (y.fn (vRaw g y.f.d.toNat l) (vRaw g y.f.a.toNat l)).setWidth 64 else 0#64)) ∧
      g' = { g with v := g'.v, lanes := g'.lanes, latches := g'.latches, latchId := g.latchId + 2, susp := [], resume := none }

/-- A pair word whose slots write one register, or that reads two registers of one bank, takes BANKPAIR. -/
def Sys2Proof.Says.BankPairTraps : Prop :=
  ∀ (s : State) (c : Ctx) (g : Group) (t : Team) (i j : Instr) (x y : Reading.SlotOp), Issuing s c g t → canTrap g →
    Reading.slotOp i = some x → Reading.slotOp j = some y →
    (x.writes = true ∧ y.writes = true ∧ x.f.d = y.f.d) ∨ (∃ m n, m ∈ pairReads i j ∧ n ∈ pairReads i j ∧ m ≠ n ∧ m % 4 = n % 4) →
    ∃ g', beginPair i j s = afterWord s c g' ∧ EntersHandler g g' .bankpair c.mask c.pc 0#64 0#64

/-- Pair words complete with both results, or take BANKPAIR. -/
def Obligations.PairWordsCompute : Prop := Says.PairWordsComplete ∧ Says.BankPairTraps

/-! ### Crumb words -/

/-- The operations of a Crumb engine complete: c(RD) becomes the result of R264 to R266, the engine goes on at the next word of its image, and
nothing else changes. A floating-point operation does so where its two evaluations agree. -/
def Sys2Proof.Says.CrumbComputes : Prop :=
  ∀ (s : State) (e : Engine) (w : BitVec 32) (i : Instr) (f : CForm) (op : W64 → W64 → W64 → W64), s.cur = .crumb e w →
    Reading.crumbOp i = some (f, op) → Reading.hasNext s e →
    (i = .crumbFadd f ∨ i = .crumbFmin f ∨ i = .crumbFmax f → lo32 (crumbStrike s e) = 0#32) →
    exec i s = .next (Reading.crumbAfter s e f.rd.toNat (op (cReg s e f.ra.toNat) (cReg s e f.rb.toNat) (cReg s e f.rd.toNat)) (cIdx s e + 1))

/-- A floating-point operation whose two evaluations differ faults its engine: reason 0x09 of a line routine, and reason 0x07 of a walk. -/
def Sys2Proof.Says.CrumbResultsAreChecked : Prop :=
  ∀ (s : State) (e : Engine) (w : BitVec 32) (i : Instr) (f : CForm), s.cur = .crumb e w →
    (i = .crumbFadd f ∨ i = .crumbFmin f ∨ i = .crumbFmax f) → lo32 (crumbStrike s e) ≠ 0#32 →
    exec i s = .next (crumbFault { s with cur := .idle } e 9 7)

/-- `c0` reads zero. -/
def Sys2Proof.Says.CrumbZeroReadsZero : Prop := ∀ s e, cReg s e 0 = 0#64

/-- HASH of a walker completes. -/
def Sys2Proof.Says.CrumbHashes : Prop :=
  ∀ (s : State) (w : Nat) (word : BitVec 32) (f : CForm), s.cur = .crumb (.walker w) word → Reading.hasNext s (.walker w) →
    let t := (cReg s (.walker w) f.ra.toNat ^^^ (cReg s (.walker w) f.rb.toNat).rotateRight 29) * 0xD6E8FEB86659FD93#64
    exec (.crumbHash f) s = .next (Reading.crumbAfter s (.walker w) f.rd.toNat (t ^^^ t >>> 32) (cIdx s (.walker w) + 1))

/-- BF completes: forward to its target where c(RA) is not zero, to the next word otherwise. -/
def Sys2Proof.Says.CrumbBranchesForward : Prop :=
  ∀ (s : State) (e : Engine) (w : BitVec 32) (f : CForm), s.cur = .crumb e w → 1 ≤ f.imm.toInt →
    (cIdx s e : Int) + f.imm.toInt < (cWords s e).length →
    exec (.crumbBf f) s = .next (Reading.crumbAfter s e 0 0#64
      (if cReg s e f.ra.toNat ≠ 0#64 then cIdx s e + f.imm.toInt.toNat else cIdx s e + 1))

/-- BR of a walker completes: to its target where RA is 0 or c(RA) is not zero, to the next word otherwise. -/
def Sys2Proof.Says.CrumbBranches : Prop :=
  ∀ (s : State) (k : Nat) (w : BitVec 32) (f : CForm), s.cur = .crumb (.walker k) w → Reading.hasNext s (.walker k) →
    (0 ≤ (cIdx s (.walker k) : Int) + f.imm.toInt ∧ (cIdx s (.walker k) : Int) + f.imm.toInt < (cWords s (.walker k)).length) →
    exec (.crumbBr f) s = .next (Reading.crumbAfter s (.walker k) 0 0#64
      (if f.ra = 0#4 ∨ cReg s (.walker k) f.ra.toNat ≠ 0#64 then ((cIdx s (.walker k) : Int) + f.imm.toInt).toNat else cIdx s (.walker k) + 1))

/-- LDL completes: c(RD) becomes the bytes of the clear buffer, the least significant first, extended as the word says. -/
def Sys2Proof.Says.BufferLoads : Prop :=
  ∀ (s : State) (k : Nat) (w : BitVec 32) (f : CForm), s.cur = .crumb (.slice k) w → Reading.hasNext s (.slice k) →
    let o := (cReg s (.slice k) f.rb.toNat + (f.imm.extractLsb' 0 7).setWidth 64).toNat
    let n := 2 ^ (f.imm.extractLsb' 12 2).toNat
    let bytes := ((sliceAt s k).buf.drop o).take n
    o < 128 → o % n = 0 →
    exec (.crumbLdl f) s = .next (Reading.crumbAfter s (.slice k) f.rd.toNat
      (if f.imm.getLsbD 11 then (BitVec.ofNat (8 * n) (leNat bytes)).signExtend 64 else (BitVec.ofNat (8 * n) (leNat bytes)).setWidth 64)
      (cIdx s (.slice k) + 1))

/-- STL of an image that may store completes: the bytes stand in the clear buffer, the least significant first, and its other bytes are as
they were. -/
def Sys2Proof.Says.BufferStores : Prop :=
  ∀ (s : State) (k : Nat) (w : BitVec 32) (f : CForm), s.cur = .crumb (.slice k) w → Reading.hasNext s (.slice k) →
    let o := (cReg s (.slice k) f.rb.toNat + (f.imm.extractLsb' 0 7).setWidth 64).toNat
    let n := 2 ^ (f.imm.extractLsb' 12 2).toNat
    o < 128 → o % n = 0 → (sliceAt s k).image.ro = false → (sliceAt s k).buf.length = 128 →
    ∃ buf, exec (.crumbStl f) s =
        .next { s with cur := .idle, slices := mput s.slices k { sliceAt s k with buf := buf, idx := cIdx s (.slice k) + 1 } } ∧
      buf.length = 128 ∧ (buf.drop o).take n = leBytes n (cReg s (.slice k) f.ra.toNat).toNat ∧
      ∀ a, a < 128 → (a < o ∨ o + n ≤ a) → buf.getD a 0#8 = (sliceAt s k).buf.getD a 0#8

/-- RETV completes: the routine's result is c3, the engine is free, the moves that waited at the engine are next, and a routine that may
store has written its line whole, with its place in coherence order. -/
def Sys2Proof.Says.RoutinesReturn : Prop :=
  ∀ (s : State) (k x : Nat) (w : BitVec 32) (f : CForm) (i : Inv), s.cur = .crumb (.slice k) w → (sliceAt s k).inv = some x →
    mget s.invs x = some i → inDoor s (128 * i.line) = false →
    ∃ s', exec (.crumbRetv f) s = .next s' ∧ mget s'.invs x = some { i with st := .ended (cReg s (.slice k) 3) } ∧
      (sliceAt s' k).inv = none ∧ (sliceAt s' k).idx = 0 ∧ (sliceAt s' k).waits = [] ∧ s'.agenda = (sliceAt s k).waits ++ s.agenda ∧
      (if (sliceAt s k).image.ro then s'.writes = s.writes ∧ s'.mem = s.mem
        else ∃ y ∈ s'.writes, y.pa = 128 * i.line ∧ y.bytes = (sliceAt s k).buf ∧ y.skip = [] ∧ y.home = true)

/-- The Crumb words of the engines complete: they compute, branch, use the line buffer, and return. -/
def Obligations.CrumbWords : Prop :=
  Says.CrumbComputes ∧ Says.CrumbHashes ∧ Says.CrumbBranchesForward ∧ Says.CrumbBranches ∧ Says.BufferLoads ∧ Says.BufferStores ∧
  Says.RoutinesReturn ∧ Says.CrumbResultsAreChecked ∧ Says.CrumbZeroReadsZero

/-- LDP completes: c(RD) becomes eight bytes of the walker arena as the threads that the walk serves would read them, the read is counted, and
the walker goes on. -/
def Sys2Proof.Says.WalksReadTheArena : Prop :=
  ∀ (s : State) (k : Nat) (w : BitVec 32) (f : CForm) (r : WalkReq), s.cur = .crumb (.walker k) w → (walkerAt s k).req = some r →
    let e : Engine := .walker k
    let a := (cReg s e f.ra.toNat + f.imm.signExtend 64).toNat
    Reading.hasNext s e → (walkerAt s k).ldps < 32 → (spaceOf s r.space).exts.any (fun q => q.2.arena && extHolds q.2 a 8) = true → a % 8 = 0 →
    readError s r.world a 8 ≠ .uncorrectable → readError s r.world a 8 ≠ .integrity →
    ∃ s', exec (.crumbLdp f) s = .next s' ∧ cIdx s' e = cIdx s e + 1 ∧ (walkerAt s' k).ldps = (walkerAt s k).ldps + 1 ∧
      (f.rd ≠ 0#4 → cReg s' e f.rd.toNat = (walkRead { s with cur := .idle } r a).2) ∧ ∀ n, n ≠ f.rd.toNat → cReg s' e n = cReg s e n

/-- MAPOK completes: the walker is free, and the proposal of c5, c6 and c7 has its verdict. -/
def Sys2Proof.Says.WalksProposeAMapping : Prop :=
  ∀ (s : State) (k : Nat) (w : BitVec 32) (f : CForm) (r : WalkReq), s.cur = .crumb (.walker k) w → (walkerAt s k).req = some r →
    let free := freeWalker { s with cur := .idle } k
    let c (n : Nat) : W64 := cReg s (.walker k) n
    exec (.crumbMapok f) s = .next (settleVerdict free r (c 5) (c 6) (c 7) (cIdx s (.walker k)) (checkProposal free r.space r.kind (c 5) (c 6) (c 7)))

/-- MAPNO completes: without bit 6 of c7 the accesses that the walk served fail with UNMAPPED, and with it a page is asked for. -/
def Sys2Proof.Says.WalksFindNoPage : Prop :=
  ∀ (s : State) (k : Nat) (w : BitVec 32) (f : CForm) (r : WalkReq), s.cur = .crumb (.walker k) w → (walkerAt s k).req = some r → r.drop = [] →
    exec (.crumbMapno f) s = .next (if (cReg s (.walker k) 7).getLsbD 6 then askPage (freeWalker { s with cur := .idle } k) r (cReg s (.walker k) 5) false
      else answerWalk (freeWalker { s with cur := .idle } k) r (.failed .unmapped (walkInfo 1 (cIdx s (.walker k)) 0)))

/-- MAPFLT completes: the accesses that the walk served fail with WALK_ERROR, reason 0x10, and the code of c5. -/
def Sys2Proof.Says.WalksFail : Prop :=
  ∀ (s : State) (k : Nat) (w : BitVec 32) (f : CForm) (r : WalkReq), s.cur = .crumb (.walker k) w → (walkerAt s k).req = some r → r.drop = [] →
    exec (.crumbMapflt f) s = .next (answerWalk (freeWalker { s with cur := .idle } k) r (.failed .walkError
      (BitVec.ofNat 64 (0x10 + 256 * (cIdx s (.walker k) % 256) + 2 ^ 32 * ((cReg s (.walker k) 5).toNat % 2 ^ 32)))))

/-- The words of a walk complete: LDP, MAPOK, MAPNO and MAPFLT. -/
def Obligations.WalksRead : Prop := Says.WalksReadTheArena ∧ Says.WalksProposeAMapping ∧ Says.WalksFindNoPage ∧ Says.WalksFail

/-! ### System words -/

/-- LRINV of aligned lines in mapped pages completes its issue: one invocation of each lane of CL is sent, in ascending order, with its
routine, line and arguments; the group waits for their answers, its team's interval is escaped, and its world's L1 copies of the lines
are gone. -/
def Sys2Proof.Says.InvocationsAreSent : Prop :=
  ∀ (s : State) (c : Ctx) (g : Group) (t : Team) (f : SForm), Issuing s c g t → Undisturbed s g → t.twin = 0 → g.flights = [] →
    let cl := clOf g c f.pg f.pn
    let a := opnd f f.a (fnBit f 10) (lqA f) true
    let vas := (lanesOf cl).map (fun l => a.read g l)
    let tr := Reading.physOf s g t 0xB vas
    let arg (i l : Nat) : W64 := if fnBit f 9 then uRead64 g (uni f f.b + i) else vRead64 g (f.b.toNat + i) l
    canRead g [a] (.v f.d.toNat true) → (fnBit f 9 = false → f.b.toNat + 4 ≤ g.vcount) → cl ≠ 0#32 →
    (∀ l, has cl l = true → a.read g l % 128 = 0 ∧ a.read g l < 2 ^ 56) → Reading.allMapped s g t 0xB vas →
    ∃ s' t' g', exec (.lrinv f) s = .next s' ∧ mget s'.teams g.team = some t' ∧ mget s'.groups c.gid = some g' ∧ t'.escaped = true ∧
      s'.cur = .idle ∧
      g' = { g with lr := some ⟨c, cl, f.d.toNat, f.nw, if ordOf f % 2 = 1 then some (atomScope f) else none, none, [], []⟩ } ∧
      (∀ j l, (lanesOf cl)[j]? = some l → ∃ i, mget s'.invs (s.fresh + j) = some i ∧ i.gid = c.gid ∧ i.lane = l ∧ i.n = f.c.toNat % 64 ∧
        i.va = a.read g l ∧ i.line = (tr (a.read g l)).1 / 128 ∧ i.attrs = (tr (a.read g l)).2 ∧ i.a1 = arg 0 l ∧ i.a2 = arg 2 l ∧
        i.space = t.space ∧ i.world = t.world ∧ i.st = .sent ∧
        (ordOf f / 2 = 1 → ∀ w ∈ s.writes, w.vis.getLsbD g.core = true →
          (w.id, scopeAgents { s with cur := .idle } g t (atomScope f)) ∈ i.after)) ∧
      (∀ y ∈ (coreOf s' g.core).l1, y.world = t.world → ∀ l, has cl l = true → y.line ≠ (tr (a.read g l)).1 / 128) ∧ s'.mem = s.mem

/-- INVOCATION_RETURN of the last answer of an LRINV completes: each lane's pair D is its result, the word is over, and the lanes of ISSUE go
on. -/
def Sys2Proof.Says.InvocationsReturn : Prop :=
  ∀ (s : State) (x : Nat) (i : Inv) (v : W64) (g : Group) (t : Team) (job : LrJob), s.args = [x] → mget s.invs x = some i → i.st = .ended v →
    mget s.groups i.gid = some g → mget s.teams g.team = some t → t.twin = 0 → g.lr = some job → job.faults = [] → job.acq = none → job.key = none →
    job.noWrite = false → job.ctx.gid = i.gid → Undisturbed s g → has job.cl i.lane = true → t.imageGroups = [] →
    (∀ l, has job.cl l = true → l ≠ i.lane → (mget job.results l).isSome = true) → (∀ p ∈ job.results, p.1 < 32 ∧ has job.cl p.1 = true) →
    mrising job.results = true →
    ∃ s' g', exec .invocationReturn s = .next s' ∧ mget s'.invs x = none ∧ mget s'.groups i.gid = some g' ∧ g'.lr = none ∧
      advanced job.ctx g g' ∧ (∀ n l, l < 32 → vRaw g' n l = if has job.cl l then
        (vpart (.v job.dest true) n (if l = i.lane then v else mval job.results 0#64 l).toNat).getD (vRaw g n l) else vRaw g n l) ∧
      g'.u = g.u ∧ g'.p = g.p

/-- LRINV sends its invocations, and the return of the last one ends it. -/
def Obligations.LineRoutineInvocations : Prop := Says.InvocationsAreSent ∧ Says.InvocationsReturn

/-- LRLOAD of an image whose header is accepted completes: the image is written whole where the space keeps it, its entry counts on and says
whether it is there, and the 512 slice engines are told to drop the old image. -/
def Sys2Proof.Says.RoutineImagesAreLoaded : Prop :=
  ∀ (s : State) (c : Ctx) (g : Group) (t : Team) (f : SForm), Issuing s c g t → Undisturbed s g →
    let h := Reading.imageHead s c g t f
    let len := h % 64
    Reading.ImageAtHand s c g t f false len → h < 512 ∧ h / 64 % 4 = 0 ∧ len ≤ 32 ∧ ¬ (h / 256 % 2 = 1 ∧ len = 0) →
    let s2 := Reading.imageState s c g t f len
    let arena := (spaceOf s2 t.space).arena
    let n := fnField f 0 6
    let e := leNat (homeRead s2 t.world (arena + 8 * n) 8)
    let s3 := deviceWrite s2 t.world (arena + 0x1000 + 0xC0 * n) (leBytes 8 h ++ Reading.imageBytes s c g t f len)
    exec (.lrload f) s = .next (sendDrop
      (deviceWrite s3 t.world (arena + 8 * n) (leBytes 8 ((e / 2 ^ 32 + 1) % 2 ^ 32 * 2 ^ 32 + (if len = 0 then 0 else 1)))) c
      ((mget s2.groups c.gid).getD g) t.space (some n) (List.range 512))

/-- WRLOAD of an image whose header is accepted completes: the image is written whole where the space keeps it, with zeros behind, it is
measured, and the walkers of the partition are told to drop the old image. -/
def Sys2Proof.Says.WalkerImagesAreLoaded : Prop :=
  ∀ (s : State) (c : Ctx) (g : Group) (t : Team) (f : SForm), Issuing s c g t → Undisturbed s g →
    let h := Reading.imageHead s c g t f
    Reading.ImageAtHand s c g t f true h → h ≤ 1022 →
    let s2 := Reading.imageState s c g t f h
    let img := leBytes 8 h ++ Reading.imageBytes s c g t f h
    let s3 := deviceWrite s2 t.world (spaceOf s2 t.space).walkerArea (img ++ List.replicate (4096 - img.length) 0#8)
    exec (.wrload f) s = .next (sendDrop { s3 with spaces := mupd s3.spaces t.space (fun sp => { sp with digest := some (sha384 img) }) } c
      ((mget s2.groups c.gid).getD g) t.space none (partClusters s3 t.part))

/-- TLBINV and TLBINV.ALL complete: no core and no die keeps a translation of the space that meets the range, or any at all; the walks of
the space that have begun will not map it; every other translation stays; and the lanes of ISSUE go on, once those walks have ended. -/
def Sys2Proof.Says.TranslationsAreInvalidated : Prop :=
  ∀ (s : State) (c : Ctx) (g : Group) (t : Team) (f : SForm) (i : Instr) (lo hi : Nat), Issuing s c g t → Undisturbed s g →
    ((i = .tlbinv f ∧ lo = (uRead64 g (uni f f.a)).toNat / 4096 * 4096 ∧ hi = min (lo + 4096 * (uRead g (uni f f.b)).toNat) (2 ^ 56)) ∨
      (i = .tlbinvAll f ∧ lo = 0 ∧ hi = 2 ^ 64)) →
    clOf g c f.pg f.pn ≠ 0#32 → lo < hi →
    let hit (x : Trans) : Prop := x.space = t.space ∧ x.vbase < hi ∧ lo < x.vbase + 2 ^ x.lsize
    ∃ s' t' g', exec i s = .next s' ∧ mget s'.teams g.team = some t' ∧ t'.escaped = true ∧ mget s'.groups c.gid = some g' ∧
      Reading.advancedFenced c g g' ∧
      (∀ k x, x ∈ (coreOf s' k).tlb ↔ x ∈ (coreOf s k).tlb ∧ ¬ hit x) ∧
      (∀ d x q, mget (dieOf s d).tc x = some q → ∃ q', mget (dieOf s' d).tc x = some q' ∧ ∀ y, y ∈ q' ↔ y ∈ q ∧ ¬ hit y) ∧
      (∀ w x r, mget s.walkers w = some x → x.req = some r → r.space = t.space → ∃ x', mget s'.walkers w = some x' ∧
        x'.req = some { r with drop := r.drop ++ [(lo, hi)] }) ∧
      (begunWalks s t.space ≠ [] → .walks (begunWalks s t.space) ∈ g'.holds)

/-- LRLOAD, WRLOAD, TLBINV and TLBINV.ALL complete: images are loaded, and translations invalidated. -/
def Obligations.ImagesAndTranslations : Prop :=
  Says.RoutineImagesAreLoaded ∧ Says.WalkerImagesAreLoaded ∧ Says.TranslationsAreInvalidated

/-- XOPEN completes without its cryptographic step: with no valid handle the status is 4, with the interface not locked 3, for a counter not
above the last 2; its run of the slot is zeros. The order of the parts within the word is the model's reading (DEDUCED, logs 61 and 51). -/
def Sys2Proof.Says.OpenIsRefused : Prop :=
  ∀ (s : State) (c : Ctx) (g : Group) (t : Team) (f : SForm) (st : Nat), Reading.SessionWord s c g t f → g.holds = [] →
    Reading.allMapped s g t 1 (Reading.cryptVas g c f (Reading.cryptLen g f + 16)) →
    let h := Reading.cryptHandle g f
    let slot := Reading.cryptSlot g f
    let x := sessionOf s t.world slot
    (st = 4 ∧ handleSlot s t.world h = none ∨ st = 3 ∧ handleSlot s t.world h = some slot ∧ interfaceLocked s t.world = false ∨
      st = 2 ∧ handleSlot s t.world h = some slot ∧ interfaceLocked s t.world = true ∧ x.used = true ∧
        (Reading.cryptCtr g f).toNat ≤ x.last.toNat) →
    ∃ s' t', exec (.xopen f) s = .next s' ∧ Reading.sessionEnds s' c g f st ∧ mget s'.teams g.team = some t' ∧
      (∀ a, memGet t'.sp a = if Reading.cryptOff g f ≤ a ∧ a < Reading.cryptOff g f + Reading.cryptRun g f then 0#8 else memGet t.sp a) ∧
      s'.worlds = s.worlds

/-- XOPEN whose checks pass begins its cryptographic step: the buffer has been read, its run of the slot is absent, the interval is
escaped, and the word stays at hand. -/
def Sys2Proof.Says.OpenBegins : Prop :=
  ∀ (s : State) (c : Ctx) (g : Group) (t : Team) (f : SForm), Reading.SessionWord s c g t f → g.holds = [] →
    let vas := Reading.cryptVas g c f (Reading.cryptLen g f + 16)
    let slot := Reading.cryptSlot g f
    let x := sessionOf s t.world slot
    let secs := sectorsOf (Reading.cryptOff g f) (Reading.cryptRun g f)
    Reading.allMapped s g t 1 vas → handleSlot s t.world (Reading.cryptHandle g f) = some slot → interfaceLocked s t.world = true →
    (x.used = false ∨ x.last.toNat < (Reading.cryptCtr g f).toNat) →
    Reading.allClean s t.world [⟨0, runPieces (Reading.physOf s g t 1 vas) (Reading.cryptVa g f) (Reading.cryptLen g f + 16)⟩] →
    ∃ s' t' g' data, exec (.xopen f) s = .next s' ∧ mget s'.teams g.team = some t' ∧ t'.escaped = true ∧ mget s'.groups c.gid = some g' ∧
      cryptOf g' = some (slot, Reading.cryptCtr g f, data, [], secs) ∧ g'.resume = some c ∧ g'.lanes = g.lanes ∧ ∀ sec ∈ secs, sec ∈ t'.absent

/-- XOPEN completes its cryptographic step: status 0 and the plaintext in the slot, which is present, with the counter kept as the last;
or status 1, or 3 where the interface is locked no more, and zeros. -/
def Sys2Proof.Says.OpenCompletes : Prop :=
  ∀ (s : State) (c : Ctx) (g : Group) (t : Team) (f : SForm) (data : List Byte) (ps : List (Nat × Nat × Nat)) (secs : List Nat) (st : Nat) (p : List Byte),
    Reading.SessionWord s c g t f →
    let slot := Reading.cryptSlot g f
    let ctr := Reading.cryptCtr g f
    let off := Reading.cryptOff g f
    let run := Reading.cryptRun g f
    let x := sessionOf s t.world slot
    let dec := gcmDec x.key (sessionIv x.pfx ctr) [] (data.take (data.length - 16)) (data.drop (data.length - 16))
    g.holds = [.crypt slot ctr data ps secs] → (mget s.worlds t.world).isSome = true →
    slot < ((mget s.worlds t.world).map (·.sessions.length)).getD 0 →
    (st = 0 ∧ dec = some p ∧ interfaceLocked s t.world = true ∨ p = [] ∧ (st = 1 ∧ dec = none ∨ st = 3 ∧ dec.isSome = true ∧ interfaceLocked s t.world = false)) →
    ∃ s' t', exec (.xopen f) s = .next s' ∧ Reading.sessionEnds s' c g f st ∧ mget s'.teams g.team = some t' ∧
      spBytes t' off run = p.take run ++ List.replicate (run - p.length) 0#8 ∧ (∀ sec ∈ sectorsOf off run, sec ∉ t'.absent) ∧
      sessionOf s' t.world slot = (if st = 0 then { x with last := ctr, used := true } else x)

/-- XSEAL completes without its cryptographic step: with no valid handle the status is 4, with the interface not locked 3, at the end of the
seal counter 5; nothing is stored. -/
def Sys2Proof.Says.SealIsRefused : Prop :=
  ∀ (s : State) (c : Ctx) (g : Group) (t : Team) (f : SForm) (st : Nat), Reading.SessionWord s c g t f → g.holds = [] →
    Reading.allMapped s g t 2 (Reading.cryptVas g c f (Reading.cryptLen g f + 32)) →
    absentSector t (Reading.cryptOff g f) (Reading.cryptLen g f) = none → spBad t (Reading.cryptOff g f) (Reading.cryptLen g f) = false →
    let h := Reading.cryptHandle g f
    let slot := Reading.cryptSlot g f
    (st = 4 ∧ handleSlot s t.world h = none ∨ st = 3 ∧ handleSlot s t.world h = some slot ∧ interfaceLocked s t.world = false ∨
      st = 5 ∧ handleSlot s t.world h = some slot ∧ interfaceLocked s t.world = true ∧ (sessionOf s t.world slot).sealNext = BitVec.allOnes 64) →
    ∃ s', exec (.xseal f) s = .next s' ∧ Reading.sessionEnds s' c g f st ∧ s'.writes = s.writes ∧ s'.mem = s.mem ∧ s'.worlds = s.worlds

/-- XSEAL whose checks pass begins its cryptographic step: the bytes of the slot have been read, the seal counter has counted, and the word
stays at hand. -/
def Sys2Proof.Says.SealBegins : Prop :=
  ∀ (s : State) (c : Ctx) (g : Group) (t : Team) (f : SForm), Reading.SessionWord s c g t f → g.holds = [] →
    let off := Reading.cryptOff g f
    let len := Reading.cryptLen g f
    let slot := Reading.cryptSlot g f
    let x := sessionOf s t.world slot
    Reading.allMapped s g t 2 (Reading.cryptVas g c f (len + 32)) → absentSector t off len = none → spBad t off len = false →
    handleSlot s t.world (Reading.cryptHandle g f) = some slot → interfaceLocked s t.world = true → x.sealNext ≠ BitVec.allOnes 64 →
    (mget s.worlds t.world).isSome = true → slot < ((mget s.worlds t.world).map (·.sessions.length)).getD 0 →
    ∃ s' g' ps, exec (.xseal f) s = .next s' ∧ mget s'.groups c.gid = some g' ∧ cryptOf g' = some (slot, x.sealNext, spBytes t off len, ps, []) ∧
      sessionOf s' t.world slot = { x with sealNext := x.sealNext + 1 } ∧ g'.lanes = g.lanes

/-- XSEAL completes its cryptographic step: status 0, and the sealed bytes, the tag and the counter go out to the buffer. -/
def Sys2Proof.Says.SealCompletes : Prop :=
  ∀ (s : State) (c : Ctx) (g : Group) (t : Team) (f : SForm) (n : W64) (data : List Byte) (ps : List (Nat × Nat × Nat)),
    Reading.SessionWord s c g t f →
    let slot := Reading.cryptSlot g f
    let x := sessionOf s t.world slot
    let e := gcmEnc x.key (sessionIv (x.pfx ^^^ 0x80000000#32) n) [] data
    g.holds = [.crypt slot n data ps []] → interfaceLocked s t.world = true →
    ∃ s', exec (.xseal f) s = .next s' ∧ Reading.sessionEnds s' c g f 0 ∧
      s'.writes = (storeRaw s g.core t.world ps (e.1 ++ e.2 ++ leBytes 8 n.toNat ++ List.replicate 8 0#8)
        ((lanesOf (clOf g c f.pg f.pn)).flatMap (fun l => (g.lane l).fence))).writes

/-- XOPEN and XSEAL complete: with a status at once, or with their cryptographic step, which begins and ends. -/
def Obligations.SessionsOpenAndSeal : Prop :=
  Says.OpenIsRefused ∧ Says.OpenBegins ∧ Says.OpenCompletes ∧ Says.SealIsRefused ∧ Says.SealBegins ∧ Says.SealCompletes

/-! ### Events of a core -/

/-- ISSUE is never empty while a lane is active; its lanes are active and stand at one PC. When an active lane has missed 256 issues,
that PC is the one of the lane that has missed most, of the lowest PC among several. Otherwise it is the lowest of the active lanes that
do not wait at their meeting register, or, when all do, of all active lanes. The issue clears the meeting register of a lane of ISSUE
that has reached it, and its W; every other active lane has missed one issue more, at most 256. -/
def Sys2Proof.Says.IssueChoosesLanes : Prop :=
  ∀ (g : Group), let e := g.inState .active
    (e ≠ 0#32 → issueSet g ≠ 0#32) ∧
    (∀ l, has (issueSet g) l = true → has e l = true ∧ (g.lane l).pc = issuePc g) ∧
    ((∃ l, has e l = true ∧ (g.lane l).w = 256) → ∃ m, has e m = true ∧
      (∀ l, has e l = true → (g.lane l).w < (g.lane m).w ∨ (g.lane l).w = (g.lane m).w ∧ (g.lane m).pc.toNat ≤ (g.lane l).pc.toNat) ∧
      ∀ l, has (issueSet g) l = true ↔ has e l = true ∧ (g.lane l).pc = (g.lane m).pc) ∧
    ((∀ l, has e l = true → (g.lane l).w ≠ 256) →
      let free (l : Nat) : Prop := (g.lane l).mr = 0#64 ∨ (g.lane l).pc ≠ (g.lane l).mr
      ((∃ l, has e l = true ∧ free l) → ∀ l, has e l = true →
        ((free l → (issuePc g).toNat ≤ (g.lane l).pc.toNat) ∧ (has (issueSet g) l = true ↔ free l ∧ (g.lane l).pc = issuePc g))) ∧
      ((∀ l, has e l = true → ¬ free l) → ∀ l, has e l = true →
        (issuePc g).toNat ≤ (g.lane l).pc.toNat ∧ (has (issueSet g) l = true ↔ (g.lane l).pc = issuePc g))) ∧
    ∀ l, l < g.lanes.length → l < 32 → (afterIssue g (issueSet g)).lane l =
      if has (issueSet g) l then { g.lane l with mr := if (g.lane l).pc = (g.lane l).mr then 0#64 else (g.lane l).mr, w := 0 }
      else if (g.lane l).st = .active then { g.lane l with w := min ((g.lane l).w + 1) 256 } else g.lane l

/-- ISSUE_CYCLE of a sub-partition with one group, whose next word is at hand, translated and current, completes: the word of ISSUE is at hand
for the next step, the lanes of ISSUE have W = 0 and leave their meeting register at it, and every other active lane has missed one
issue more. -/
def Sys2Proof.Says.IssueCycleIssues : Prop :=
  ∀ (s : State) (core subp gid : Nat) (g : Group) (t : Team) (w : BitVec 64) (fr sz at_ : Nat), s.args = [core, subp] →
    s.groups.filter (fun p => p.2.core == core && p.2.subp == subp) = [(gid, g)] → mget s.groups gid = some g → mget s.teams g.team = some t →
    resumable s core subp = none → (subpAt s core subp).cycleAt ≠ some s.clock → 1 ≤ s.ctl.n →
    ((subpAt s core subp).cycleAt.map (· / 64) ≠ some (s.clock / 64) ∨ (subpAt s core subp).used < s.ctl.n) →
    canIssue s g = true → g.errs = [] → g.starvePend = [] → g.divPend = [] → g.flights = [] → g.holds = [] → t.twin = 0 →
    copyRoom s gid g w = true → goodTarget (issuePc g) →
    mget g.fetched (issuePc g).toNat = some w → g.susp = [] →
    (pageStates s g t 4 [(issuePc g).toNat]).2 = [⟨(issuePc g).toNat, 4, .mapped fr sz at_⟩] →
    readWord s g.core t.world (fr + (issuePc g).toNat % 2 ^ sz) = w →
    ∃ s' g', exec .issueCycle s = .next s' ∧ s'.cur = .word ⟨gid, issueSet g, issuePc g, w⟩ ∧ mget s'.groups gid = some g' ∧
      (∀ l, l < g.lanes.length → l < 32 → g'.lane l =
        if has (issueSet g) l then { g.lane l with mr := if (g.lane l).pc = (g.lane l).mr then 0#64 else (g.lane l).mr, w := 0 }
        else if (g.lane l).st = .active then { g.lane l with w := min ((g.lane l).w + 1) 256 } else g.lane l) ∧
      g'.v = g.v ∧ g'.u = g.u ∧ g'.p = g.p ∧ s'.mem = s.mem ∧ s'.writes = s.writes

/-- An issue takes the lanes of its group that R24 chooses, and ISSUE_CYCLE issues the word of a ready group. -/
def Obligations.Issue : Prop := Says.IssueChoosesLanes ∧ Says.IssueCycleIssues

/-- LOAD_RETURN of a load in flight alone, its bytes backed and readable and no older copy of them in the L1, completes: the registers of each
of its lanes become the bytes that the core sees, the least significant first, and the load is over. That a lane's bytes are read at one
instant is the model's choice (DEDUCED, log 46). -/
def Sys2Proof.Says.LoadsReturn : Prop :=
  ∀ (s : State) (gid id : Nat) (g : Group) (t : Team) (x : Flight) (d : Nat), s.args = [gid, id] → mget s.groups gid = some g →
    mget s.teams g.team = some t → t.twin = 0 → g.flights = [x] → x.id = id → x.op = .load → x.done = false → x.vals = [] → x.bad = [] →
    x.inject = false → x.twin = none → x.dest = some d → x.uniform = false → x.noWrite = false → Undisturbed s g → g.holds = [] →
    stillShipped s gid id = false → t.imageGroups = [] → x.size ∈ [1, 2, 4, 8, 16] →
    (∀ p ∈ x.parts, p.lane < 32 ∧ (g.lane p.lane).st ≠ .exited) → (x.parts.map (·.lane)).Nodup →
    (∀ p ∈ x.parts, (p.pieces.map (·.2.2)).sum = x.size ∧ ∀ q ∈ p.pieces, backed s q.2.1 = true ∧ readError s x.world q.2.1 q.2.2 = .clean ∧
      coreRead s g.core x.world q.2.1 q.2.2 = viewRead s g.core x.world q.2.1 q.2.2) →
    ∃ s' g', exec .loadReturn s = .next s' ∧ mget s'.groups gid = some g' ∧ g'.flights = [] ∧ s'.mem = s.mem ∧ s'.writes = s.writes ∧
      (∀ r l, l < 32 → vRaw g' r l = match x.parts.find? (fun p => p.lane == l) with
        | some p => (Reading.loadedReg x.size x.sx d (leNat (readPieces s g.core x.world p.pieces)) r).getD (vRaw g r l)
        | none => vRaw g r l) ∧
      g' = { g with v := g'.v, latches := g'.latches, flights := [] }

/-- SHIPPED_ATOMIC of an atomic of one lane, with no lease on its line and nothing out, completes: the old value is kept, the new value is at
the home, and the message is gone. -/
def Sys2Proof.Says.ShippedAtomicsRun : Prop :=
  ∀ (s : State) (m gid id l va pa n : Nat) (g : Group) (x : Flight), s.args = [m] → s.shipped = [(m, ⟨gid, id, l, pa / 128⟩)] →
    mget s.groups gid = some g → g.flights = [x] → x.id = id → x.done = false → x.vals = [] → x.twin = none → x.parts = [⟨l, [(va, pa, n)]⟩] →
    x.op = .atomicX (n == 8) → (n = 4 ∨ n = 8) → pa % n = 0 → backed s (pa / 128 * 128) = true → (∀ p ∈ s.cores, p.2.leases = []) →
    inDoor s pa = false → s.writes = [] → readError s x.world pa n = .clean →
    let old := leNat (homeRead s x.world pa n)
    ∃ s' g' y, exec .shippedAtomic s = .next s' ∧ mget s'.groups gid = some g' ∧ g'.flights = [y] ∧ y.done = true ∧
      mget y.vals l = some (BitVec.ofNat 128 old) ∧ s'.shipped = [] ∧
      leNat (homeRead s' x.world pa n) = (if old = (mval x.opsB 0#64 l).toNat % 2 ^ (8 * n) then (mval x.opsC 0#64 l).toNat % 2 ^ (8 * n) else old)

/-- LOAD_RETURN and SHIPPED_ATOMIC complete. -/
def Obligations.LoadsAndAtomicsReturn : Prop := Says.LoadsReturn ∧ Says.ShippedAtomicsRun

/-- LEASE_END completes: the lease of a line ends wherever it is held, by another agent's request with the holder's counter raised to at
most three; nothing else changes. -/
def Sys2Proof.Says.LeasesEnd : Prop :=
  ∀ (s : State) (line : Nat) (byRequest : Bool),
    (∃ p ∈ s.cores, ∃ x ∈ p.2.leases, x.line = line ∧ (byRequest = true ∨ x.last + 512 ≤ 2 * s.clock)) →
    ∃ cores, exec (.leaseEnd line byRequest) s = .next { s with cores := cores } ∧
      (∀ k c, mget s.cores k = some c → ∃ c', mget cores k = some c' ∧ c'.leases = c.leases.filter (fun x => x.line != line) ∧
        predCount c' line = if byRequest && c.leases.any (fun x => x.line == line) then min 3 (predCount c line + 1) else predCount c line)

/-- PREDICTOR_DECAY completes: once in 4,096 core clocks every counter loses one; nothing else changes. -/
def Sys2Proof.Says.PredictorsDecay : Prop :=
  ∀ s : State, s.decayAt + 4096 ≤ s.clock → ∃ cores, exec .predictorDecay s = .next { s with cores := cores, decayAt := s.clock } ∧
    ∀ k c, mget s.cores k = some c → ∃ c', mget cores k = some c' ∧ ∀ line, predCount c' line = predCount c line - 1

/-- L1_LINE_EXPIRY completes: a core drops its copies of a line that it has held for 16,384 core clocks; nothing else changes. -/
def Sys2Proof.Says.CacheLinesExpire : Prop :=
  ∀ (s : State) (core line : Nat), s.args = [core, line] → ∃ cores, exec .l1LineExpiry s = .next { s with cores := cores } ∧
    ∀ y, y ∈ (mval cores Core.empty core).l1 ↔ y ∈ (coreOf s core).l1 ∧ ¬ (y.line = line ∧ y.filled + 16384 ≤ s.clock)

/-- CLAIM_DEADLOCK completes, with the one live group of a team blocked in RCLAIM and its claim more than the pool or its sub-partition has:
the claims are withdrawn, the pool is as it was, and the claiming lanes take CLAIM_DEADLOCK at their word. -/
def Sys2Proof.Says.ClaimsDeadlock : Prop :=
  ∀ (s : State) (tid gid n : Nat) (g : Group) (t : Team), s.args = [tid] → mget s.teams tid = some t → g.team = tid → mget s.groups gid = some g →
    canTrap g → g.lanes.length = 32 → g.live ≠ 0#32 → t.rollbacks = false → t.claims = [⟨gid, n, g.live⟩] →
    (∀ p ∈ s.groups, p.2.team = tid → p.2.live ≠ 0#32 → p = (gid, g)) → inClaim g = true →
    (t.pool < n ∨ alloc 64 (vectorUsed s g.core g.subp (some tid)) n = none) →
    ∃ g', exec .claimDeadlock s = .next { s with teams := mput s.teams tid { t with claims := [] }, groups := mput s.groups gid g' } ∧
      EntersHandler g g' .claimDeadlock g.live (g.lane ((lanesOf g.live).headD 0)).pc 0#64 0#64

/-- BARRIER_STARVED completes, after 65,536 starved core clocks of a team of one group whose lanes wait at one word on object 0: their arrivals
are taken back, and they take BARRIER_STARVED there. A group whose lanes wait at several words traps word by word (DEDUCED, log 12),
which is not stated here. -/
def Sys2Proof.Says.BarriersStarve : Prop :=
  ∀ (s : State) (tid gid ph : Nat) (pc : W64) (g : Group) (t : Team), s.args = [tid] → mget s.teams tid = some t → g.team = tid →
    mget s.groups gid = some g → canTrap g → g.lanes.length = 32 → g.live ≠ 0#32 → t.rollbacks = false → 65536 ≤ t.starved →
    s.groups.filter (fun p => p.2.team == tid) = [(gid, g)] → 0 < t.objs.length → g.starvePend = [] →
    (objAt t 0).v = true → (objAt t 0).arrived ≤ (objAt t 0).expect → 0 < (objAt t 0).expect →
    (∀ l, l < 32 → (g.lane l).st = .exited ∨ (g.lane l).st = .blocked ∧ (g.lane l).pc = pc ∧ (g.lane l).wait = some (.barrier 0 ph true)) →
    ∃ s' t' g', exec .barrierStarved s = .next s' ∧ mget s'.teams tid = some t' ∧ mget s'.groups gid = some g' ∧ t'.starved = 0 ∧ t'.claims = [] ∧
      objAt t' 0 = { objAt t 0 with arrived := (objAt t 0).arrived - (lanesOf (g.inState .blocked)).length } ∧
      g'.trap = { g.trap with cause := 0x21#8, lanes := g.inState .blocked, pc := pc, addr := 0#64, info := 0#64 } ∧
      ∀ l, l < 32 → (g.lane l).st = .blocked → (g'.lane l).pc = g.trap.handler ∧ (g'.lane l).h = true ∧ (g'.lane l).st = .active

/-- LEASE_END, PREDICTOR_DECAY, L1_LINE_EXPIRY, CLAIM_DEADLOCK and BARRIER_STARVED complete: caches and predictors age, and a team that can go on
no more traps. -/
def Obligations.TimePasses : Prop :=
  Says.LeasesEnd ∧ Says.PredictorsDecay ∧ Says.CacheLinesExpire ∧ Says.ClaimsDeadlock ∧ Says.BarriersStarve

/-! ### Coherence across dies -/

/-- What a coherence event may change: directories, caches' tags, and messages; no value of memory and no register. -/
def tagsOnly (s t : State) : Prop := t = { s with dies := t.dies, nougats := t.nougats, msgs := t.msgs, fresh := t.fresh }

/-- A message of a kind and line with its receiver stands at a number. -/
def sent (t : State) (n : Nat) (kind : MsgKind) (line dst : Nat) (P : Msg → Prop) : Prop :=
  ∃ m, mget t.msgs n = some m ∧ m.kind = kind ∧ m.line = line ∧ m.dst = dst ∧ P m

/-- The Nougat die of a line answers, nothing waits at it, and no transaction or recall is under way on the line. -/
def quietLine (s : State) (line : Nat) : Prop :=
  (nougatAt s (halfOf line)).lost = false ∧ (nougatAt s (halfOf line)).waiting = [] ∧
  ∀ a ∈ (nougatAt s (halfOf line)).alm, a.line = line → a.pend = false ∧ a.req = none ∧ a.st ≠ .rc

/-- RDS, RDX and UPG complete, of a die whose copy makes it send them and whose RDC has room, on a line with no transaction and with a way
free if it needs one: the entry and the messages are those of R296's row, PEND is set, and nothing but directories and messages
changes. -/
def Sys2Proof.Says.RequestsAreResolved : Prop :=
  ∀ (s : State) (die line : Nat) (i : Instr) (k : ReqKind) (q : AlmSt × BitVec 8 × Nat) (ms : List (MsgKind × Nat)),
    s.args = [die, line] → die < 8 → backed s (128 * line) = true → quietLine s line → roomFor s die line = true →
    ((i = .rds ∧ k = .rds ∨ i = .rdx ∧ k = .rdx) ∧ lacks s die line = true ∨
      i = .upg ∧ k = .upg ∧ (die = homeOf line → xpOf s line = 1 ∨ xpOf s line = 2) ∧
        (die ≠ homeOf line → ∀ x, rdcOf s die line = some x → x.st = .s ∨ x.st = .o)) →
    (almOf s line = none → (setEntries s line).length < almWays s (partOfLine s line)) →
    Reading.resolution (homeOf line) die k ((almOf s line).map (fun a => (a.st, a.shr, a.own))) = some (q, ms) → ms ≠ [] →
    ∃ t a, exec i s = .next t ∧ tagsOnly s t ∧ almOf t line = some a ∧ (a.st, a.shr, a.own) = q ∧ a.pend = true ∧
      t.fresh = s.fresh + ms.length ∧
      ∀ j p, ms[j]? = some p → sent t (s.fresh + j) p.1 line p.2 (fun m => m.src = 8 + halfOf line ∧ (p.1 ≠ .inv → m.req = die))

/-- UPG of the only die that holds a line completes with nothing to await: its copy is M, and the transaction is over. -/
def Sys2Proof.Says.LoneUpgradesEnd : Prop :=
  ∀ (s : State) (die line : Nat) (a : Alm) (x : RdcLine), s.args = [die, line] → die < 8 → die ≠ homeOf line → backed s (128 * line) = true →
    quietLine s line → almOf s line = some a → a.shr = 1#8 <<< die → a.st = .sh ∨ a.st = .ow → rdcOf s die line = some x → x.st = .s ∨ x.st = .o →
    ∃ t b, exec .upg s = .next t ∧ tagsOnly s t ∧ almOf t line = some b ∧ b.st = .ex ∧ b.shr = 1#8 <<< die ∧ b.own = die ∧ b.pend = false ∧
      rdcOf t die line = some { x with st := .m, dirty := true } ∧ t.msgs = s.msgs

/-- WBD and EVC complete, of a line that its die's RDC is to evict: its copy stands in H until it is acknowledged. An owner's write-back
goes to the home as HWB; one from a die that owns the line no more, and every clean drop, is answered WAK; a drop takes the die out of
SHR, and an entry that then leaves nothing beyond the home is freed with REL. -/
def Sys2Proof.Says.EvictionsAreAcknowledged : Prop :=
  ∀ (s : State) (die line : Nat) (x : RdcLine) (i : Instr), s.args = [die, line] → rdcOf s die line = some x → evictable s die line = true →
    quietLine s line → die < 8 → (i = .wbd ∧ (x.st = .m ∨ x.st = .o) ∨ i = .evc ∧ (x.st = .e ∨ x.st = .s)) →
    ∃ t, exec i s = .next t ∧ tagsOnly s t ∧ rdcOf t die line = some { x with st := .h } ∧
      (almOf s line = none → sent t s.fresh .wak line die (fun _ => True)) ∧
      ∀ a, almOf s line = some a →
        (i = .wbd → a.own = die → a.st = .ex ∨ a.st = .ow → sent t s.fresh .hwb line (homeOf line) (fun m => m.req = die ∧ m.dirty = true) ∧
          ∃ b, almOf t line = some b ∧ b.st = .sh ∧ b.pend = true ∧
            b.shr = if a.st = .ow then (a.shr &&& ~~~(1#8 <<< die)) ||| 1#8 <<< homeOf line else 1#8 <<< homeOf line) ∧
        (i = .wbd → a.own ≠ die ∨ a.st = .sh → sent t s.fresh .wak line die (fun _ => True) ∧ almOf t line = some a) ∧
        (i = .evc → sent t s.fresh .wak line die (fun _ => True)) ∧
        (i = .evc → a.shr.getLsbD die = true → (a.st = .ow → a.own ≠ die) →
          let shr := a.shr &&& ~~~(1#8 <<< die)
          if a.st ≠ .ow ∧ shr &&& ~~~(1#8 <<< homeOf line) = 0#8
          then almOf t line = none ∧ sent t (s.fresh + 1) .rel line (homeOf line) (fun m => m.mark = false)
          else almOf t line = some { a with shr := shr })

/-- RDS, RDX, UPG, WBD and EVC at a Nougat die complete as R296 says, and move tags and messages only. -/
def Obligations.CoherenceRequests : Prop := Says.RequestsAreResolved ∧ Says.LoneUpgradesEnd ∧ Says.EvictionsAreAcknowledged

/-- A message of a kind arrives and can be taken: no older one of its line stands on its way, and at a home there is room for the line. -/
def arrives (s : State) (id : Nat) (m : Msg) (kind : MsgKind) : Prop :=
  s.args = [id] ∧ mget s.msgs id = some m ∧ m.kind = kind ∧ inOrder s id m = true ∧
    (needsTag m = true → l2Ready s (homeOf m.line) m.line = true) ∧ id < s.fresh

/-- FWS and FWX complete at a holder: it supplies DAT with its D flag, and keeps O or S, or H until DAK. -/
def Sys2Proof.Says.HoldersSupply : Prop :=
  ∀ (s : State) (id : Nat) (m : Msg) (i : Instr) (x : RdcLine), (i = .fws ∧ arrives s id m .fws ∨ i = .fwx ∧ arrives s id m .fwx) →
    m.dst ≠ homeOf m.line → rdcOf s m.dst m.line = some x →
    ∃ t, exec i s = .next t ∧ tagsOnly s t ∧ mget t.msgs id = none ∧
      (i = .fws → rdcOf t m.dst m.line = some { x with st := if x.st = .m then .o else if x.st = .e then .s else x.st } ∧
        sent t s.fresh .dat m.line m.req (fun d => d.src = m.dst ∧ d.dirty = x.dirty ∧ d.grant = .s)) ∧
      (i = .fwx → rdcOf t m.dst m.line = some { x with st := .h } ∧
        sent t s.fresh .dat m.line m.req (fun d => d.src = m.dst ∧ d.dirty = x.dirty ∧ d.grant = if x.dirty then .m else .e))

/-- INV, RCL and PRB complete at a holder: an invalidated copy is dropped and acknowledged; a recalled or probed dirty copy goes with its
acknowledgement and stays in H, and a clean one is dropped. -/
def Sys2Proof.Says.HoldersGiveUp : Prop :=
  ∀ (s : State) (id : Nat) (m : Msg) (i : Instr) (x : RdcLine),
    (i = .inv ∧ arrives s id m .inv ∨ i = .rcl ∧ arrives s id m .rcl ∨ i = .prb ∧ arrives s id m .prb) →
    m.dst ≠ homeOf m.line → rdcOf s m.dst m.line = some x →
    ∃ t, exec i s = .next t ∧ tagsOnly s t ∧ mget t.msgs id = none ∧
      (i = .inv → rdcOf t m.dst m.line = none ∧ sent t s.fresh .iak m.line m.src (fun d => d.src = m.dst)) ∧
      (i = .rcl ∨ i = .prb → rdcOf t m.dst m.line = (if x.dirty then some { x with st := .h } else none) ∧
        sent t s.fresh .iak m.line m.src (fun d => d.src = m.dst ∧ d.dirty = x.dirty ∧ d.mark = m.mark))

/-- FWX, INV and RCL complete at the home of a line that its L2 keeps: FWX and INV leave the tag only, XP = 2, and are answered DAT and IAK;
RCL leaves the line. -/
def Sys2Proof.Says.HomesGiveUp : Prop :=
  ∀ (s : State) (id : Nat) (m : Msg) (i : Instr) (y : L2Line),
    (i = .fwx ∧ arrives s id m .fwx ∨ i = .inv ∧ arrives s id m .inv ∨ i = .rcl ∧ arrives s id m .rcl) →
    m.dst = homeOf m.line → l2Of s m.line = some y →
    ∃ t, exec i s = .next t ∧ tagsOnly s t ∧ mget t.msgs id = none ∧
      (i = .fwx ∨ i = .inv → l2Of t m.line = some { y with xp := 2, valid := false, dirty := false }) ∧
      (i = .fwx → sent t s.fresh .dat m.line m.req (fun d => d.src = m.dst ∧ d.grant = .e)) ∧
      (i = .inv → sent t s.fresh .iak m.line m.src (fun _ => True)) ∧
      (i = .rcl → l2Of t m.line = some y ∧ sent t s.fresh .iak m.line m.src (fun d => d.dirty = false))

/-- HRS and HRX complete at the home of a line that its L2 keeps, not spilled: it supplies DAT and sets XP to 1 or 2. -/
def Sys2Proof.Says.HomesSupply : Prop :=
  ∀ (s : State) (id : Nat) (m : Msg) (y : L2Line) (i : Instr), l2Of s m.line = some y → y.xp ≠ 3 →
    (i = .hrs ∧ arrives s id m .hrs ∨ i = .hrx ∧ arrives s id m .hrx) →
    ∃ t, exec i s = .next t ∧ tagsOnly s t ∧ mget t.msgs id = none ∧
      (i = .hrs → l2Of t m.line = some { y with xp := 1, valid := true } ∧
        sent t s.fresh .dat m.line m.req (fun d => d.src = m.dst ∧ d.dirty = false ∧ d.grant = .s)) ∧
      (i = .hrx → l2Of t m.line = some { y with xp := 2, valid := false, dirty := false } ∧
        sent t s.fresh .dat m.line m.req (fun d => d.src = m.dst ∧ d.dirty = y.dirty ∧ d.grant = if y.dirty then .m else .e))

/-- HRS and HRX of a spilled line probe every die of its MASK first; the request stays. -/
def Sys2Proof.Says.SpilledLinesAreProbed : Prop :=
  ∀ (s : State) (id d : Nat) (ds : List Nat) (m : Msg) (y : L2Line) (b : Backstop) (i : Instr), l2Of s m.line = some y → y.xp = 3 →
    (i = .hrs ∧ arrives s id m .hrs ∨ i = .hrx ∧ arrives s id m .hrx) → onTheWay s m.line = false → backstopOf s m.line = some b →
    diesOf b.mask = d :: ds →
    ∃ t, exec i s = .next t ∧ tagsOnly s t ∧ mget t.msgs id = some m ∧
      ∀ j e, (d :: ds)[j]? = some e → sent t (s.fresh + j) .prb m.line e (fun p => p.src = homeOf m.line ∧ p.mark = true)

/-- HWB, REL and SPL complete at the home of a line that its L2 keeps: written-back data is installed and acknowledged; a released line has
XP = 0, or its tag goes if the home evicts it; a spilled line is counted in the backstop entry of its region, with XP = 3. -/
def Sys2Proof.Says.HomesTakeBack : Prop :=
  ∀ (s : State) (id : Nat) (m : Msg) (y : L2Line) (i : Instr), l2Of s m.line = some y →
    (i = .hwb ∧ arrives s id m .hwb ∨ i = .rel ∧ arrives s id m .rel ∨
      i = .spl ∧ arrives s id m .spl ∧ (backstopOf s m.line ≠ none ∨ (dieOf s (homeOf m.line)).backstop.length < 8)) →
    ∃ t, exec i s = .next t ∧ tagsOnly s t ∧ mget t.msgs id = none ∧
      (i = .hwb → l2Of t m.line = some { y with valid := true, dirty := true, xp := if m.grant = .s then 1 else y.xp } ∧
        sent t s.fresh .wak m.line m.req (fun _ => True)) ∧
      (i = .rel → l2Of t m.line = if m.mark || !y.valid then none else some { y with xp := 0 }) ∧
      (i = .spl → l2Of t m.line = some { y with xp := 3 } ∧
        backstopOf t m.line = match backstopOf s m.line with
          | some b => some { b with mask := b.mask ||| m.mask, lines := b.lines + 1 }
          | none => some ⟨m.line / 32, m.mask, 1⟩)

/-- FWS, FWX, INV, RCL, PRB, HRS, HRX, HWB, REL and SPL at holders and homes complete: tags, messages and directories as R291 to R301 say. -/
def Obligations.CoherenceAnswers : Prop :=
  Says.HoldersSupply ∧ Says.HoldersGiveUp ∧ Says.HomesGiveUp ∧ Says.HomesSupply ∧ Says.SpilledLinesAreProbed ∧ Says.HomesTakeBack

/-- DAT completes at a requester that is not the home: it takes the line in the granted state, and acknowledges to the supplier and to the
Nougat die. -/
def Sys2Proof.Says.RequestersTakeData : Prop :=
  ∀ (s : State) (id : Nat) (m : Msg), arrives s id m .dat → m.dst ≠ homeOf m.line → ((almOf s m.line).bind (·.req)).map (·.kind) ≠ some .upg →
    ∃ t, exec .dat s = .next t ∧ tagsOnly s t ∧ mget t.msgs id = none ∧
      (∃ x, rdcOf t m.dst m.line = some x ∧ x.st = m.grant ∧ x.dirty = (m.grant == .m)) ∧
      sent t s.fresh .dak m.line m.src (fun d => d.src = m.dst ∧ d.mark = m.mark) ∧
      sent t (s.fresh + 1) .dak m.line (8 + halfOf m.line) (fun d => d.src = m.dst ∧ d.dirty = m.dirty)

/-- DAK of an FWX, and WAK, complete at a die that keeps the line in H: it leaves H. -/
def Sys2Proof.Says.HoldersLetGo : Prop :=
  ∀ (s : State) (id : Nat) (m : Msg) (x : RdcLine) (i : Instr),
    (i = .dak ∧ arrives s id m .dak ∧ m.dst < 8 ∧ m.mark = true ∨ i = .wak ∧ arrives s id m .wak ∧ almOf s m.line = none) →
    (nougatAt s (halfOf m.line)).waiting = [] → rdcOf s m.dst m.line = some x → x.st = .h →
    ∃ t, exec i s = .next t ∧ tagsOnly s t ∧ mget t.msgs id = none ∧ rdcOf t m.dst m.line = none

/-- DAK of an RDS completes at the Nougat die: the entry knows whether the copy was dirty, and its transaction ends when nothing more is
awaited. -/
def Sys2Proof.Says.TransactionsEnd : Prop :=
  ∀ (s : State) (id : Nat) (m : Msg) (a : Alm) (r : CohReq), arrives s id m .dak → 8 ≤ m.dst → (nougatAt s (halfOf m.line)).waiting = [] →
    almOf s m.line = some a → a.req = some r → r.kind = .rds → a.waitAck = 0#8 → a.waitWak = false → a.pend = true →
    a.shr &&& ~~~(1#8 <<< homeOf m.line) ≠ 0#8 →
    ∃ t b, exec .dak s = .next t ∧ tagsOnly s t ∧ mget t.msgs id = none ∧ almOf t m.line = some b ∧ b.pend = false ∧ b.shr = a.shr ∧
      b.st = (if a.st = .ex then (if m.dirty then .ow else .sh) else a.st)

/-- IAK completes at the Nougat die: of a transaction one acknowledgement less is awaited. -/
def Sys2Proof.Says.AcknowledgementsCount : Prop :=
  ∀ (s : State) (id : Nat) (m : Msg) (a : Alm), arrives s id m .iak → 8 ≤ m.dst → (nougatAt s (halfOf m.line)).waiting = [] →
    almOf s m.line = some a → a.st ≠ .rc → m.mask = 0#8 → a.waitDak = true →
    ∃ t, exec .iak s = .next t ∧ tagsOnly s t ∧ mget t.msgs id = none ∧
      almOf t m.line = some { a with waitAck := a.waitAck &&& ~~~(1#8 <<< m.src) }

/-- IAK completes at the Nougat die: the last acknowledgement of a recall frees the entry with REL. -/
def Sys2Proof.Says.RecallsEnd : Prop :=
  ∀ (s : State) (id : Nat) (m : Msg) (a : Alm), arrives s id m .iak → 8 ≤ m.dst → (nougatAt s (halfOf m.line)).waiting = [] →
    almOf s m.line = some a → a.st = .rc → a.waitAck &&& ~~~(1#8 <<< m.src) = 0#8 →
    ∃ t, exec .iak s = .next t ∧ tagsOnly s t ∧ mget t.msgs id = none ∧ almOf t m.line = none ∧
      sent t (s.fresh + if m.dirty then 1 else 0) .rel m.line (homeOf m.line) (fun r => r.mark = a.req.isSome)

/-- IAK of a probe completes at the home: with the last one its data is installed, and acknowledged, and the line is exported no more. -/
def Sys2Proof.Says.ProbesEnd : Prop :=
  ∀ (s : State) (id : Nat) (m : Msg) (y : L2Line), arrives s id m .iak → m.dst = homeOf m.line → m.dst < 8 → m.mark = true →
    onTheWay { s with msgs := mdel s.msgs id } m.line = false → l2Of s m.line = some y → (dieOf s (homeOf m.line)).spills = [] →
    ∃ t, exec .iak s = .next t ∧ tagsOnly s t ∧ mget t.msgs id = none ∧
      l2Of t m.line = some { y with xp := 0, valid := y.valid || m.dirty, dirty := y.dirty || m.dirty } ∧
      (m.dirty = true → sent t s.fresh .wak m.line m.src (fun _ => True))

/-- HRC of a line that its home must evict, and whose entry has no transaction, completes: STATE RC, and RCL to every die of SHR; with no
entry the home has REL at once. -/
def Sys2Proof.Says.RecallsBegin : Prop :=
  ∀ (s : State) (line : Nat), s.args = [line] → mustEvict s line = true → xpOf s line ≠ 3 → quietLine s line →
    (∀ a ∈ (nougatAt s (halfOf line)).alm, a.req ≠ some ⟨.hrc, homeOf line, line⟩) →
    ∃ t, exec .hrc s = .next t ∧ tagsOnly s t ∧
      (almOf s line = none → sent t s.fresh .rel line (homeOf line) (fun m => m.mark = true)) ∧
      ∀ a, almOf s line = some a → (∃ b, almOf t line = some b ∧ b.st = .rc ∧ b.waitAck = a.shr ∧ b.recallAt = 2 * s.clock) ∧
        ∀ j d, (diesOf a.shr)[j]? = some d → sent t (s.fresh + j) .rcl line d (fun _ => True)

/-- RECALL_TIMEOUT of a recall that has lasted 4,096 fabric clocks completes: the entry is freed, and the home has SPL with the mask and the
dirty flag. -/
def Sys2Proof.Says.RecallsSpill : Prop :=
  ∀ (s : State) (line : Nat) (a : Alm), s.args = [line] → almOf s line = some a → a.st = .rc → a.recallAt + 4096 ≤ 2 * s.clock →
    (nougatAt s (halfOf line)).waiting = [] →
    ∃ t, exec .recallTimeout s = .next t ∧ almOf t line = none ∧
      ∃ n, sent t n .spl line (homeOf line) (fun m => m.mask = a.shr ∧ m.dirty = a.dirtyOwn)

/-- NOUGAT_LOST completes while the other die stands: no RDC keeps a line of the half, every home holds the lines of the half with XP = 0,
the almanac is empty and its messages are discarded; memory keeps every value. The records' fields are the model's choice (DEDUCED,
logs 58 and 60). -/
def Sys2Proof.Says.NougatLossIsRecovered : Prop :=
  ∀ (s : State) (h : Nat) (link : List Nat), s.args = h :: link → h < 2 → (nougatAt s h).lost = false → (nougatAt s (1 - h)).lost = false →
    ∃ t, exec .nougatLost s = .next t ∧ (nougatAt t h).lost = true ∧ (nougatAt t h).alm = [] ∧ (nougatAt t h).waiting = [] ∧
      (∀ d line, halfOf line = h → rdcOf t d line = none) ∧ (∀ line y, halfOf line = h → l2Of t line = some y → y.xp = 0) ∧
      (∀ p ∈ t.msgs, halfOf p.2.line ≠ h) ∧ t.mem = s.mem ∧ t.writes = s.writes ∧ t.ctl.halted = s.ctl.halted

/-- NOUGAT_LOST completes with the other die lost before: the device stops. -/
def Sys2Proof.Says.NougatLossIsFatal : Prop :=
  ∀ (s : State) (h : Nat) (link : List Nat), s.args = h :: link → h < 2 → (nougatAt s h).lost = false → (nougatAt s (1 - h)).lost = true →
    ∃ t, exec .nougatLost s = .next t ∧ (nougatAt t h).lost = true ∧ t.ctl.halted = true

/-- DAT, DAK, IAK, WAK, HRC, RECALL_TIMEOUT and NOUGAT_LOST complete: transactions end; recalls begin, end and spill; and a Nougat die is lost
without a value's loss. -/
def Obligations.CoherenceEnds : Prop :=
  Says.RequestersTakeData ∧ Says.HoldersLetGo ∧ Says.TransactionsEnd ∧ Says.AcknowledgementsCount ∧ Says.RecallsEnd ∧ Says.ProbesEnd ∧
  Says.RecallsBegin ∧ Says.RecallsSpill ∧ Says.NougatLossIsRecovered ∧ Says.NougatLossIsFatal

/-! ### Landings, walks and routines -/

/-- Nothing of a team stands between a landing and its effect: no rollback, no access that waits on a sector, no image to be taken. -/
def plainTeam (s : State) (tid : Nat) (t : Team) : Prop :=
  mget s.teams tid = some t ∧ t.rollbacks = false ∧ (∀ p ∈ s.groups, p.2.team = tid → p.2.spWaits = []) ∧ (∀ p ∈ s.teams, p.2.imageWait = false)

/-- The slot of a team after 32 bytes have landed in a sector, its presence bit set (R163, R223, R228). -/
def landed (t t' : Team) (sec : Nat) (b : Nat → Byte) : Prop :=
  (∀ a, memGet t'.sp a = if 32 * sec ≤ a ∧ a < 32 * sec + 32 then b (a - 32 * sec) else memGet t.sp a) ∧
  ∀ x, x ∈ t'.absent ↔ x ∈ t.absent ∧ x ≠ sec

/-- TRANSFER_LANDS of a transfer that no earlier one of its group into the same sector precedes completes: its bytes from memory, followed by
zeros, stand in the slot whole, its presence bit is set, and it counts in its tag, whose last one completes the batches and releases
the lanes that wait. -/
def Sys2Proof.Says.TransfersLand : Prop :=
  ∀ (s : State) (id : Nat) (c : Copy) (t : Team) (g : Group) (gid tag batch l : Nat) (src : List (Nat × Nat × Nat)),
    s.args = [id] → mget s.copies id = some c → c.kind = .acp gid tag batch l src → c.got = [] → c.failed = [] → plainTeam s c.team t →
    (∀ p ∈ s.copies, p.1 ≠ id → p.2.issued < c.issued → p.2.team = c.team → p.2.sec ≠ c.sec) →
    mget s.groups gid = some g → tag < g.tags.length → (src.map (·.2.2)).sum ≤ 32 →
    (∀ p ∈ src, readError s t.world p.2.1 p.2.2 = .clean) → copyInto { s with copies := mdel s.copies id } c.team c.sec = false →
    let w := tagAt g tag
    let last : Bool := decide (w.batch ≠ batch) && w.pend == 1
    ∃ s' t' g', exec .transferLands s = .next s' ∧ mget s'.copies id = none ∧ mget s'.teams c.team = some t' ∧ mget s'.groups gid = some g' ∧
      landed t t' c.sec (fun i => (readPieces s g.core t.world src).getD i 0#8) ∧
      tagAt g' tag = (if w.batch = batch then { w with opened := w.opened - 1 }
        else if last then { w with pend := 0, phase := (w.phase + 1) % 2 ^ 16 } else { w with pend := w.pend - 1 }) ∧
      (∀ n, n < g.lanes.length → g'.lane n =
        if last && (g.lane n).st == .blocked && (g.lane n).wait == some (.tag tag w.phase) then Reading.released g (g.lane n) else g.lane n) ∧
      s'.mem = s.mem ∧ s'.writes = s.writes

/-- BULK_SECTOR_LANDS completes: the sector's bytes from memory, or of the fill, stand in the slot whole, its presence bit is set, and 32
bytes are credited to the copy's object. -/
def Sys2Proof.Says.BulkSectorsLand : Prop :=
  ∀ (s : State) (id sec : Nat) (c : Copy) (t : Team) (g : Group) (gid obj r off : Nat) (k : List Nat)
      (sectors : List (Nat × List (Nat × Option Nat × Byte))) (q : Nat × List (Nat × Option Nat × Byte)),
    s.args = [id, sec] → mget s.copies id = some c → c.kind = .bulk gid obj false r off k sectors → c.got = [] → c.failed = [] → c.after = [] →
    plainTeam s c.team t → t.rels = [] →
    mget s.groups gid = some g → sectors.find? (fun q => q.1 == sec) = some q → q.2.length = 32 → obj < t.objs.length →
    (∀ x ∈ q.2, ∀ pa, x.2.1 = some pa → readError s t.world pa 1 = .clean) → copyInto (dropSector s id sec) c.team sec = false →
    ∃ s' t', exec .bulkSectorLands s = .next s' ∧ mget s'.teams c.team = some t' ∧
      landed t t' sec (fun i => match q.2[i]? with
        | some (_, some pa, _) => (coreRead s g.core t.world pa 1).getD 0 0#8
        | some (_, none, fill) => fill
        | none => 0#8) ∧
      objAt t' obj = Reading.checked { objAt t obj with landed := ((objAt t obj).landed + 32) % 2 ^ 32 } ∧
      s'.copies = (dropSector s id sec).copies ∧ s'.mem = s.mem ∧ s'.writes = s.writes

/-- BULK_STORE_SECTOR_CREDIT of a source sector that is present and holds no error, and is not the last that reaches memory but for the
copy's only one, completes: its bytes are seen by the cores of its team, and 32 bytes are credited to the copy's object. When a
stored sector's bytes are seen is the model's reading (DEDUCED, log 49). -/
def Sys2Proof.Says.BulkStoresAreCredited : Prop :=
  ∀ (s : State) (id sec : Nat) (c : Copy) (t : Team) (g : Group) (gid obj r off : Nat) (k : List Nat)
      (sectors : List (Nat × List (Nat × Option Nat × Byte))) (q : Nat × List (Nat × Option Nat × Byte)),
    s.args = [id, sec] → mget s.copies id = some c → c.kind = .bulk gid obj true r off k sectors → c.got = [] → c.failed = [] →
    plainTeam s c.team t → t.rels = [] → mget s.groups gid = some g → sectors.find? (fun q => q.1 == sec) = some q → obj < t.objs.length →
    t.absent = [] → t.spErrs = [] → t.spSingle = [] →
    (∀ p ∈ sectors, ∀ x ∈ p.2, ∀ pa, x.2.1 = some pa → backed s pa = true ∧ inDoor s pa = false) → s.writes = [] → g.core < 192 →
    (∀ k ∈ teamCores s t, k < 192) → ((sectors.flatMap (·.2)).filterMap (·.2.1)).Nodup →
    (sectors = [q] ∨ ∃ p ∈ sectors, p.1 ≠ sec ∧ ∃ x ∈ p.2, ∃ pa, x.2.1 = some pa ∧ ∀ y ∈ q.2, y.2.1.map (· / 32) ≠ some (pa / 32)) →
    ∃ s' t', exec .bulkStoreSectorCredit s = .next s' ∧ mget s'.teams c.team = some t' ∧ t'.sp = t.sp ∧
      objAt t' obj = Reading.checked { objAt t obj with landed := ((objAt t obj).landed + 32) % 2 ^ 32 } ∧
      (sectors = [q] → mget s'.copies id = none) ∧
      (∀ x ∈ q.2, ∀ pa, x.2.1 = some pa → x.1 < 32 → ∀ core, (core = g.core ∨ core ∈ teamCores s t) →
        viewRead s' core t.world pa 1 = [memGet t.sp (32 * sec + x.1)])

/-- TRANSFER_LANDS, BULK_SECTOR_LANDS and BULK_STORE_SECTOR_CREDIT complete: a transfer, a sector of a bulk load and a source sector of a bulk
store end. -/
def Obligations.CopiesLand : Prop := Says.TransfersLand ∧ Says.BulkSectorsLand ∧ Says.BulkStoresAreCredited

/-- WALK_REQUEST of a group's first page that is neither at hand nor asked for completes: one request stands for it, or it joins one that has
not begun. -/
def Sys2Proof.Says.WalksAreAsked : Prop :=
  ∀ (s : State) (gid : Nat) (g : Group) (t : Team) (n : PageNeed), mget s.groups gid = some g → mget s.teams g.team = some t →
    unasked s (.group gid) t.part t.space g.susp = some n →
    ∃ q, exec (.walkRequest (.group gid)) s = .next { s with walkq := q, fresh := if q.length = s.walkq.length then s.fresh else s.fresh + 1 } ∧
      (s.walkq.any (fun r => r.wants t.part t.space n.va n.kind) = false →
        q = s.walkq ++ [⟨s.fresh, t.part, t.space, t.world, n.va, n.kind, [.group gid], []⟩]) ∧
      (s.walkq.any (fun r => r.wants t.part t.space n.va n.kind) = true → q.length = s.walkq.length ∧
        ∀ (j : Nat) (r : WalkReq), s.walkq[j]? = some r →
          q[j]? = some (if r.wants t.part t.space n.va n.kind then { r with who := r.who ++ [.group gid] } else r))

/-- WALK_START of a walker of a partition with a request next in turn completes: the request leaves the queue, and c1 to c4 are the address,
the access kind, the space and the arena's base, with the image of the cluster's store, or the one that the space keeps. -/
def Sys2Proof.Says.WalksStart : Prop :=
  ∀ (s : State) (w p : Nat) (r : WalkReq), s.args = [w] → (walkerAt s w).req = none → partOfCluster s (w / 4) = some p →
    nextWalk s p = some r → (∀ x ∈ s.walkq, x.id = r.id → x = r) →
    let stored := (mval s.stores [] (w / 4)).find? (fun x => x.space == r.space)
    let pa := (spaceOf s r.space).walkerArea
    let len := leNat (homeRead s r.world pa 8) % 2 ^ 11
    let img : Image := match stored with
      | some x => x.image
      | none => ⟨false, imageWords len (homeRead s r.world (pa + 8) (4 * len))⟩
    (stored = none → readError s r.world pa 8 = .clean ∧ readError s r.world pa (8 + 4 * len) = .clean) → img.words ≠ [] →
    ∃ s', exec .walkStart s = .next s' ∧ (∀ x, x ∈ s'.walkq ↔ x ∈ s.walkq ∧ x ≠ r) ∧ (walkerAt s' w).req = some r ∧
      (walkerAt s' w).image = img ∧ (walkerAt s' w).idx = 0 ∧ (walkerAt s' w).ldps = 0 ∧
      (∀ n, cReg s' (.walker w) n = if n = 1 then BitVec.ofNat 64 r.va else if n = 2 then BitVec.ofNat 64 r.kind
        else if n = 3 then BitVec.ofNat 64 r.space else if n = 4 then BitVec.ofNat 64 (arenaBase (spaceOf s r.space)) else 0#64) ∧
      (∀ v, v ≠ w → walkerAt s' v = walkerAt s v) ∧ s'.mem = s.mem

/-- HELD_WALK_RECHECK completes: a walk held on an extent that is being filled stays held until it is ready, and then settles as its proposal
would. -/
def Sys2Proof.Says.HeldWalksAreRechecked : Prop :=
  ∀ (s : State) (id : Nat) (h : HeldWalk), s.args = [id] → mget s.held id = some h →
    let v := checkFrame s h.req.space h.req.kind h.c5.toNat h.c6.toNat h.c7.toNat
    exec .heldWalkRecheck s = .next (if v = .hold then s else settleVerdict { s with held := mdel s.held id } h.req h.c5 h.c6 h.c7 h.word v)

/-- The control pair carries out a write request: its mailboxes are open, and the asker is the owner or the pair itself. -/
def mayAsk (s : State) (by_ : Asker) : Prop :=
  mailboxOpen s = true ∧ s.ctl.halted = false ∧ s.ctl.recovery = false ∧ (by_ = .pair ∨ s.ctl.owner = some by_)

/-- PAGE_REQUEST_RESPONSE that grants a standing request completes: the request leaves the queue, and its access walks again. -/
def Sys2Proof.Says.PageRequestsAreGranted : Prop :=
  ∀ (s : State) (by_ : Asker) (part seq : Nat) (q : PageReq), mayAsk s by_ → q.dead = false → q.where_ ≠ 0 →
    s.pageq.find? (fun x => x.part == part && x.seq == seq && x.where_ != 0) = some q →
    s.walkq.any (fun r => r.wants q.req.part q.req.space q.req.va q.req.kind) = false →
    ∃ s', exec (.pageRequestResponse by_ part seq true []) s = .next s' ∧ (∀ x ∈ s'.pageq, ¬ (x.part = part ∧ x.seq = seq)) ∧
      s'.ctl.replies = (by_, .done) :: s.ctl.replies ∧ s'.walkq = s.walkq ++ [{ q.req with id := s.fresh, drop := [] }]

/-- PAGE_REQUEST_RESPONSE that refuses a standing request completes: the request leaves the queue, and its access fails with UNMAPPED, reason
0x02. -/
def Sys2Proof.Says.PageRequestsAreRefused : Prop :=
  ∀ (s : State) (by_ : Asker) (part seq : Nat) (q : PageReq), mayAsk s by_ → q.dead = false → q.where_ ≠ 0 → q.req.drop = [] →
    s.pageq.find? (fun x => x.part == part && x.seq == seq && x.where_ != 0) = some q →
    ∃ s1, exec (.pageRequestResponse by_ part seq false []) s = .next (answerWalk s1 q.req (.failed .unmapped (walkInfo 2 0 0))) ∧
      (∀ x ∈ s1.pageq, ¬ (x.part = part ∧ x.seq = seq)) ∧
      s1 = { s with pageq := s1.pageq, ctl := { s.ctl with replies := (by_, .done) :: s.ctl.replies } }

/-- WALKER_STORE_DROP completes: a cluster's store forgets the image of a space whose walker image was replaced, and acknowledges. -/
def Sys2Proof.Says.WalkerStoresDrop : Prop :=
  ∀ (s : State) (cl space : Nat) (d : DropJob), s.args = [cl, space] → d ∈ s.drops → d.space = space → d.routine = none → cl ∈ d.left →
    ∃ s', exec .walkerStoreDrop s = .next s' ∧ (∀ x ∈ mval s'.stores [] cl, x.space ≠ space) ∧
      (∀ k, k ≠ cl → mval s'.stores [] k = mval s.stores [] k) ∧
      ∀ e ∈ s'.drops, e.space = space → e.routine = none → cl ∉ e.left

/-- ROUTINE_IMAGE_DROP completes: a slice engine forgets a routine that was replaced, and acknowledges. -/
def Sys2Proof.Says.RoutineImagesDrop : Prop :=
  ∀ (s : State) (k space n : Nat) (d : DropJob), s.args = [k, space, n] → d ∈ s.drops → d.space = space → d.routine = some n → k ∈ d.left →
    ∃ s', exec .routineImageDrop s = .next s' ∧ (∀ x ∈ (sliceAt s' k).cache, ¬ (x.space = space ∧ x.n = n)) ∧
      (∀ j, j ≠ k → sliceAt s' j = sliceAt s j) ∧ ∀ e ∈ s'.drops, e.space = space → e.routine = some n → k ∉ e.left

/-- INVOCATION_ARRIVAL of an invocation that none of its group sent before it to the same slice precedes completes: it joins the queue of
its line's slice. -/
def Sys2Proof.Says.InvocationsArrive : Prop :=
  ∀ (s : State) (x : Nat) (i : Inv), s.args = [x] → mget s.invs x = some i → i.st = .sent →
    (∀ p ∈ s.invs, p.1 < x → p.2.gid = i.gid → p.2.st = .sent → homeSlice (128 * p.2.line) ≠ homeSlice (128 * i.line)) →
    ∃ s', exec .invocationArrival s = .next s' ∧ mget s'.invs x = some { i with st := .queued } ∧
      (sliceAt s' (homeSlice (128 * i.line))).queue = (sliceAt s (homeSlice (128 * i.line))).queue ++ [x] ∧
      s' = { s with invs := s'.invs, slices := s'.slices }

/-- INVOCATION_RUN of a free engine completes with the next invocation of its queue, on a line with no transaction: every lease and every
other die's copy of the line ends, the buffer is the line, c1 and c2 are the arguments, and the routine runs from word 0. -/
def Sys2Proof.Says.InvocationsRun : Prop :=
  ∀ (s : State) (k x : Nat) (i : Inv) (im : SliceImage), s.args = [k] → (sliceAt s k).inv = none → nextInv s k = some (x, i) →
    mget s.invs x = some i → backed s (128 * i.line) = true → inDoor s (128 * i.line) = false →
    (∀ p ∈ s.nougats, ∀ a ∈ p.2.alm, a.line = i.line → a.pend = false ∧ a.st ≠ .rc) → (∀ p ∈ s.msgs, p.2.line ≠ i.line) →
    (sliceAt s k).cache.find? (fun x => x.space == i.space && x.n == i.n) = some im → im.image.words ≠ [] →
    readError s i.world (128 * i.line) 128 = .clean → s.writes = [] →
    ∃ s', exec .invocationRun s = .next s' ∧ mget s'.invs x = some { i with st := .running } ∧ (sliceAt s' k).inv = some x ∧
      (sliceAt s' k).idx = 0 ∧ (sliceAt s' k).image = im.image ∧ x ∉ (sliceAt s' k).queue ∧
      (∀ n, cReg s' (.slice k) n = if n = 1 then i.a1 else if n = 2 then i.a2 else 0#64) ∧
      (sliceAt s' k).buf = homePlain s i.world (128 * i.line) 128 ∧
      (∀ d, rdcOf s' d i.line = none) ∧ almOf s' i.line = none ∧ (∀ y, l2Of s' i.line = some y → y.xp = 0) ∧
      ∀ n, ∀ y ∈ (coreOf s' n).leases, y.line ≠ i.line

/-- WALK_REQUEST, WALK_START, HELD_WALK_RECHECK, PAGE_REQUEST_RESPONSE, WALKER_STORE_DROP, ROUTINE_IMAGE_DROP, INVOCATION_ARRIVAL and
INVOCATION_RUN complete. -/
def Obligations.WalksAndInvocationsBegin : Prop :=
  Says.WalksAreAsked ∧ Says.WalksStart ∧ Says.HeldWalksAreRechecked ∧ Says.PageRequestsAreGranted ∧ Says.PageRequestsAreRefused ∧
  Says.WalkerStoresDrop ∧ Says.RoutineImagesDrop ∧ Says.InvocationsArrive ∧ Says.InvocationsRun

/-! ### Queues -/

/-- A write request of an asker who is not the owner changes nothing, and is answered so (R433). -/
def answeredOnly (s : State) (by_ : Asker) (r : Reply) (o : Outcome) : Prop :=
  o = .next { s with ctl := { s.ctl with replies := (by_, r) :: s.ctl.replies } }

/-- QUEUE_MAP of a queue that the layout allows completes: it answers with the lowest doorbell index that no queue of its function holds, and
the queue stands in the slot. -/
def Sys2Proof.Says.QueuesAreMapped : Prop :=
  ∀ (s : State) (by_ : Asker) (fe slot q n world space fn : Nat) (x : FrontEnd), mayAsk s by_ → mget s.frontEnds fe = some x → x.kept = [] →
    mapOk s x fe slot q n world space fn = true →
    ∃ s' y bell, exec (.queueMap by_ fe slot q n world space fn) s = .next s' ∧ queueAt s' fe slot = some y ∧ y.q = q ∧ y.n = n ∧
      y.world = world ∧ y.space = space ∧ y.fn = fn ∧ y.bell = bell ∧ s'.ctl.replies = (by_, .doorbell bell) :: s.ctl.replies ∧
      bell < 16 ∧ ∀ k, k < bell → k ∈ bellsOf s fn

/-- QUEUE_UNMAP completes: a queue with nothing resident leaves its slot; with a team resident the context is saved first. -/
def Sys2Proof.Says.QueuesAreUnmapped : Prop :=
  ∀ (s : State) (by_ : Asker) (fe slot : Nat) (q : Queue), mayAsk s by_ → queueAt s fe slot = some q → q.stopping = .run →
    ∃ s', exec (.queueUnmap by_ fe slot) s = .next s' ∧ s'.ctl.replies = (by_, .done) :: s.ctl.replies ∧
      (contextTeams s fe slot = [] → queueAt s' fe slot = none) ∧
      (contextTeams s fe slot ≠ [] → ∃ q', queueAt s' fe slot = some q' ∧ q'.stopping = .save true)

/-- QUEUE_MAP and QUEUE_UNMAP of another asker than the owner are refused, with no effect. -/
def Sys2Proof.Says.OthersMapNothing : Prop :=
  ∀ (s : State) (by_ : Asker) (fe slot q n world space fn : Nat), mailboxOpen s = true → s.ctl.halted = false → s.ctl.recovery = false →
    by_ ≠ .pair → s.ctl.owner ≠ some by_ →
    answeredOnly s by_ .notOwner (exec (.queueMap by_ fe slot q n world space fn) s) ∧
    answeredOnly s by_ .notOwner (exec (.queueUnmap by_ fe slot) s)

/-- HOST_DOORBELL_WRITE completes: it rings the queue of the function that holds the index. -/
def Sys2Proof.Says.HostDoorbellsRing : Prop :=
  ∀ (s : State) (fn i fe slot : Nat) (q : Queue), s.args = [fn, i] → mailboxOpen s = true → s.ctl.halted = false →
    (fnOf s fn).commit = none → fnAccepted s fn = true → bellQueue s fn i = some (fe, slot) → queueAt s fe slot = some q →
    exec .hostDoorbellWrite s = .next (onQueue s fe slot (fun q => { q with rung := q.rung + 1 }))

/-- DOORBELL_FRAME_STORE of an 8-byte aligned plain store into a world's doorbell frame completes: it rings the queue of its front end and
slot. What a ring of a frame comes after is the model's reading (DEDUCED, log 16). -/
def Sys2Proof.Says.FrameDoorbellsRing : Prop :=
  ∀ (s : State) (d : DoorAccess) (rest : List DoorAccess) (x : FrontEnd) (q : Queue) (w : Nat) (wd : World), s.doors = d :: rest →
    d.plain = true → d.size = 8 → d.after = [] → d.pa % 4096 < 0x800 → d.pa % 8 = 0 → Reading.mapped s (d.pa % 4096 / 128) (d.pa / 8 % 16) x q →
    s.worlds.find? (fun p => p.2.doorFrame / 4096 == d.pa / 4096) = some (w, wd) → x.valid = true → x.part = wd.part → q.world = w →
    exec .doorbellFrameStore s = .next (onQueue { s with doors := rest } (d.pa % 4096 / 128) (d.pa / 8 % 16) (fun q => { q with rung := q.rung + 1 }))

/-- DOORBELL of a rung queue completes: it takes WPTR from its control block; one beyond the ring or below the last stops the queue with
code 6. -/
def Sys2Proof.Says.RungQueuesReadWptr : Prop :=
  ∀ (s : State) (fe slot : Nat) (x : FrontEnd) (q : Queue), s.args = [fe, slot] → Reading.mapped s fe slot x q → q.started = true → q.code = 0 →
    q.rung ≠ 0 → Reading.atHand q q.q 1 → readError s q.world (Reading.fePa q q.q 1) 8 = .clean →
    let w := leNat (Reading.feBytes s x q q.q 8)
    let ok := q.rptr ≤ w ∧ w ≤ q.rptr + 2 ^ q.n ∧ q.wptr ≤ w
    ∃ s' q', exec .doorbell s = .next s' ∧ queueAt s' fe slot = some q' ∧ q'.rung = q.rung - 1 ∧ q'.rptr = q.rptr ∧
      (ok → q'.wptr = w ∧ q'.code = 0) ∧ (¬ ok → q'.wptr = q.wptr ∧ q'.code = 6) ∧ s'.mem = s.mem

/-- QUEUE_MAP, QUEUE_UNMAP, HOST_DOORBELL_WRITE, DOORBELL_FRAME_STORE and DOORBELL complete. -/
def Obligations.QueuesAndDoorbells : Prop :=
  Says.QueuesAreMapped ∧ Says.QueuesAreUnmapped ∧ Says.OthersMapNothing ∧ Says.HostDoorbellsRing ∧ Says.FrameDoorbellsRing ∧
  Says.RungQueuesReadWptr

/-- NOP_PACKET that is the next packet of a queue completes: the NOP is noted, and the queue goes on with the next index. -/
def Sys2Proof.Says.NopsAreTaken : Prop :=
  ∀ (s : State) (fe slot : Nat) (x : FrontEnd) (q : Queue) (p : Packet), s.args = [fe, slot] → Reading.mapped s fe slot x q →
    (∀ n ∈ q.nops, retires q n.1 = false) → Reading.nextPacket s x q 0 p → q.q < 2 ^ 56 → p.sigAddr < 2 ^ 56 →
    ∃ s' q', exec .nopPacket s = .next s' ∧ queueAt s' fe slot = some q' ∧ q'.next = q.next + 1 ∧ q'.rptr = q.rptr ∧ q'.code = 0 ∧
      q'.nops = q.nops ++ [(q.next, p.sigk, p.sigAddr, p.sigVal)]

/-- WAIT that is the next packet of a queue completes: it holds the later ones. -/
def Sys2Proof.Says.WaitsAreTaken : Prop :=
  ∀ (s : State) (fe slot : Nat) (x : FrontEnd) (q : Queue) (p : Packet), s.args = [fe, slot] → Reading.mapped s fe slot x q →
    Reading.nextPacket s x q 2 p →
    ∃ s' q', exec .wait s = .next s' ∧ queueAt s' fe slot = some q' ∧ q'.next = q.next ∧ q'.waiting = some (p.sigAddr, p.sigVal.toNat) ∧
      starts s' q' = false

/-- WAIT_SATISFIED completes: once the awaited value has been reached the queue goes on with the next index, and until then it waits. -/
def Sys2Proof.Says.WaitsEnd : Prop :=
  ∀ (s : State) (fe slot : Nat) (x : FrontEnd) (q : Queue) (addr val : Nat), s.args = [fe, slot] → Reading.mapped s fe slot x q →
    q.waiting = some (addr, val) → q.code = 0 → q.stopping = .run → Reading.atHand q addr 1 →
    readError s q.world (Reading.fePa q addr 1) 8 = .clean →
    ∃ s' q', exec .waitSatisfied s = .next s' ∧ queueAt s' fe slot = some q' ∧
      (val ≤ leNat (Reading.feBytes s x q addr 8) → q'.waiting = none ∧ q'.next = q.next + 1) ∧
      (leNat (Reading.feBytes s x q addr 8) < val → q'.waiting = q.waiting ∧ q'.next = q.next)

/-- BUNDLE that is the next packet of a queue, its records accepted, completes: it is in flight with its sub-launches, and the queue goes on
with the next index. A core of the grid reads a launch record, the front end the others (DESIGN CHOICE, logs 14 and 111). -/
def Sys2Proof.Says.BundlesStart : Prop :=
  ∀ (s : State) (fe slot : Nat) (x : FrontEnd) (q : Queue) (p : Packet) (ys : List Sub), s.args = [fe, slot] → Reading.mapped s fe slot x q →
    Reading.nextPacket s x q 1 p → q.bundles.length < 4 → (p.ord = true → q.rptr = q.next) →
    let recs := (p.kinds.take p.n).zip p.subs
    (∀ r ∈ recs, r.2 % recSize r.1 = 0 ∧ Reading.atHand q r.2 1 ∧ readError s q.world (Reading.fePa q r.2 1) (recSize r.1) = .clean) →
    recs.map (fun r => readSub s x q r.1 r.2 (Reading.fePa q r.2 1) (subBytes s x q r.1 (Reading.fePa q r.2 1))) = ys.map some →
    ∃ s' q', exec .bundle s = .next s' ∧ queueAt s' fe slot = some q' ∧ q'.next = q.next + 1 ∧
      q'.bundles = q.bundles ++ [⟨q.next, p.sigk, p.sigAddr, p.sigVal, ys⟩] ∧ q'.code = 0 ∧ s'.mem = s.mem

/-- An illegal packet stops its queue with code 1. -/
def Sys2Proof.Says.IllegalPacketsStop : Prop :=
  ∀ (s : State) (fe slot : Nat) (x : FrontEnd) (q : Queue) (i : Instr), s.args = [fe, slot] → Reading.mapped s fe slot x q →
    (i = .nopPacket ∨ i = .wait ∨ i = .bundle) → (∀ n ∈ q.nops, retires q n.1 = false) → starts s q = true →
    let va := q.q + 64 + 64 * (q.next % 2 ^ q.n)
    Reading.atHand q va 1 → readError s q.world (Reading.fePa q va 1) 64 = .clean → (parsePacket (Reading.feBytes s x q va 64)).legal = false →
    ∃ s' q', exec i s = .next s' ∧ queueAt s' fe slot = some q' ∧ q'.code = 1 ∧ q'.sub = 0 ∧ q'.next = q.next ∧ q'.rptr = q.rptr

/-- NOP_PACKET and BUNDLE_RETIRE of the oldest packet of a queue, a NOP or a bundle all of whose sub-launches have ended, complete: it
retires; its signal is written, or added, in the queue's space, and then RPTR counts on, in the control block and in the front end, and the packet is done. -/
def Sys2Proof.Says.PacketsRetire : Prop :=
  ∀ (s : State) (fe slot : Nat) (x : FrontEnd) (q : Queue) (i : Instr) (sigk sigAddr : Nat) (sigVal : W64), s.args = [fe, slot] →
    Reading.mapped s fe slot x q → s.writes = [] → q.stopping = .run →
    (i = .nopPacket ∧ q.nops = [(q.rptr, sigk, sigAddr, sigVal)] ∨
      i = .bundleRetire ∧ ∃ b, q.bundles.find? (fun b => b.index == q.rptr) = some b ∧ (∀ y ∈ b.subs, y.ended = true) ∧
        sigk = b.sigk ∧ sigAddr = b.sigAddr ∧ sigVal = b.sigVal) →
    sigk ≤ 2 → let kind := if sigk = 2 then 0xB else 2
    Reading.atHand q q.q 2 → (sigk ≠ 0 → Reading.atHand q sigAddr kind) →
    let rp := Reading.fePa q q.q 2 + 8
    let sp := Reading.fePa q sigAddr kind
    Reading.plainAt s rp → (sigk ≠ 0 → Reading.plainAt s sp ∧ (sp + 8 ≤ rp ∨ rp + 8 ≤ sp)) →
    ∃ s' q', exec i s = .next s' ∧ queueAt s' fe slot = some q' ∧ q'.rptr = q.rptr + 1 ∧ (∀ b ∈ q'.bundles, b.index ≠ q.rptr) ∧
      (∀ n ∈ q'.nops, n.1 ≠ q.rptr) ∧ homePlain s' q.world rp 8 = leBytes 8 (q.rptr + 1) ∧
      (sigk = 1 → homePlain s' q.world sp 8 = leBytes 8 sigVal.toNat) ∧
      (sigk = 2 → homePlain s' q.world sp 8 = leBytes 8 ((leNat (homePlain s q.world sp 8) + sigVal.toNat) % 2 ^ 64))

/-- NOP_PACKET, WAIT, WAIT_SATISFIED, BUNDLE and BUNDLE_RETIRE complete: packets of a queue start and retire. -/
def Obligations.Packets : Prop :=
  Says.NopsAreTaken ∧ Says.WaitsAreTaken ∧ Says.WaitsEnd ∧ Says.BundlesStart ∧ Says.PacketsRetire ∧ Says.IllegalPacketsStop

/-- COPY_SUBLAUNCH completes: it moves on up to the end of its pages; the bytes are those of the source, in the queue's space, and the
sub-launch counts them. The size of one move is the model's choice (DEDUCED, log 66). -/
def Sys2Proof.Says.CopySublaunchesMove : Prop :=
  ∀ (s : State) (fe slot packet j src dst bytes at_ : Nat) (x : FrontEnd) (q : Queue), s.args = [fe, slot, packet, j] →
    Reading.mapped s fe slot x q → q.works packet = true → subAt q packet j = some (.copy src dst bytes at_) → s.writes = [] →
    src % 32 = 0 → dst % 32 = 0 → bytes % 32 = 0 → at_ % 32 = 0 → at_ < bytes → Reading.atHand q (src + at_) 1 → Reading.atHand q (dst + at_) 2 →
    let n := min (min (bytes - at_) (4096 - (src + at_) % 4096)) (4096 - (dst + at_) % 4096)
    let ps := Reading.fePa q (src + at_) 1
    let pd := Reading.fePa q (dst + at_) 2
    readError s q.world ps n = .clean → (∀ i, i < n → Reading.plainAt s (pd + i)) →
    ∃ s' q', exec .copySublaunch s = .next s' ∧ queueAt s' fe slot = some q' ∧ subAt q' packet j = some (.copy src dst bytes (at_ + n)) ∧
      homePlain s' q.world pd n = homePlain s q.world ps n

/-- FILL_SUBLAUNCH completes: it moves on up to the end of its page; the bytes are the pattern, in the queue's space, and the sub-launch
counts them. The size of one move is the model's choice (DEDUCED, log 66). -/
def Sys2Proof.Says.FillSublaunchesMove : Prop :=
  ∀ (s : State) (fe slot packet j dst bytes at_ : Nat) (pattern : W64) (x : FrontEnd) (q : Queue), s.args = [fe, slot, packet, j] →
    Reading.mapped s fe slot x q → q.works packet = true → subAt q packet j = some (.fill dst bytes pattern at_) → s.writes = [] →
    dst % 32 = 0 → bytes % 32 = 0 → at_ % 32 = 0 → at_ < bytes → Reading.atHand q (dst + at_) 2 →
    let n := min (bytes - at_) (4096 - (dst + at_) % 4096)
    let pd := Reading.fePa q (dst + at_) 2
    (∀ i, i < n → Reading.plainAt s (pd + i)) →
    ∃ s' q', exec .fillSublaunch s = .next s' ∧ queueAt s' fe slot = some q' ∧ subAt q' packet j = some (.fill dst bytes pattern (at_ + n)) ∧
      homePlain s' q.world pd n = (List.range n).map (fun i => (leBytes 8 pattern.toNat).getD (i % 8) 0#8)

/-! ### Placement and contexts -/

/-- The team of a grid's `n`-th place (R17, R18, R347): coordinates x fastest, barrier object 0 ready for its threads, and its groups
at the entry with the preloads and the handler, the threads of each active. -/
def placed (s : State) (tid : Nat) (l : Launch) (n : Nat) (p : Plan) : Prop :=
  ∃ t, mget s.teams tid = some t ∧ t.core = p.core ∧ t.x = n % l.gx ∧ t.y = n / l.gx % l.gy ∧ t.z = n / l.gx / l.gy ∧ t.scratch = l.scratch ∧
    t.fs = l.fs ∧ t.argPtr = l.argPtr ∧ t.space = l.space ∧ t.sp = [] ∧ t.absent = [] ∧ t.pool = 0 ∧
    objAt t 0 = ⟨true, true, l.threads, 0, 0, 0, 0⟩ ∧ t.groups.length = p.groups.length ∧
    ∀ k gid need core subp, t.groups[k]? = some gid → p.groups[k]? = some (core, subp, need) → ∃ g, mget s.groups gid = some g ∧
      g.team = tid ∧ g.num = k ∧ g.core = core ∧ g.subp = subp ∧ g.role = need.role ∧ g.vcount = 8 * need.v ∧ granules g.vmap = need.v ∧
      g.trap.handler = l.handler ∧ (∀ i, i < 32 → i < l.preload.length → uRead g i = l.preload.getD i 0#32) ∧
      ∀ i, i < 32 → (g.lane i).pc = l.entry ∧ (g.lane i).st = (if 32 * k + i < l.threads then .active else .exited)

/-- A sub-launch that is a grid of a queue that works, some of its teams placed and some not. -/
structure GridWaits (s : State) (fe slot packet j : Nat) (x : FrontEnd) (q : Queue) (l : Launch) (n ended : Nat) (done : Bool) : Prop where
  args : s.args = [fe, slot, packet, j]
  mapped : Reading.mapped s fe slot x q
  works : q.works packet = true
  noHalt : s.ctl.halted = false
  grid : subAt q packet j = some (.grid l n ended done)
  more : n < l.teams

/-- `k` more teams of a grid are placed. -/
def counted (s' : State) (fe slot packet j : Nat) (l : Launch) (n ended : Nat) (done : Bool) : Prop :=
  ∃ q', queueAt s' fe slot = some q' ∧ subAt q' packet j = some (.grid l n ended done)

/-- TEAM_PLACEMENT of a grid's next team, with a plan in the room that its world has and blocks for it, completes: the team is resident. -/
def Sys2Proof.Says.TeamsBecomeResident : Prop :=
  ∀ (s : State) (fe slot packet j : Nat) (x : FrontEnd) (q : Queue) (l : Launch) (n ended : Nat) (done : Bool) (p : Plan) (r : Room) (u : Nat × State),
    GridWaits s fe slot packet j x q l n ended done → l.twin = false → l.coresident = false →
    planLaunch l (roomOf s x.part q.world false) = some ([p], r) → seatTeam fe slot packet j x.part q.world l n 0 s p = .ok u →
    ∃ s', exec .teamPlacement s = .next s' ∧ placed s' s.fresh l n p ∧ counted s' fe slot packet j l (n + 1) ended done ∧ s'.mem = s.mem

/-- TWIN_PLACEMENT of a grid's next pair, with a plan and blocks for both teams, completes: the teams are resident, and name each other. -/
def Sys2Proof.Says.TwinsBecomeResident : Prop :=
  ∀ (s : State) (fe slot packet j : Nat) (x : FrontEnd) (q : Queue) (l : Launch) (n ended : Nat) (done : Bool) (p p2 : Plan) (r : Room) (u : State),
    GridWaits s fe slot packet j x q l n ended done → l.twin = true → l.coresident = false →
    planLaunch l (roomOf s x.part q.world false) = some ([p, p2], r) → seatPlans fe slot packet j x.part q.world l n s [p, p2] = .ok u →
    ∃ s' t2 v, exec .twinPlacement s = .next s' ∧ placed s' s.fresh l n p ∧ placed s' t2 l n p2 ∧ t2 ≠ s.fresh ∧
      mget s'.teams t2 = some v ∧ v.mate = some s.fresh ∧ v.twin = 2 ∧ counted s' fe slot packet j l (n + 1) ended done

/-- CORESIDENT_PLACEMENT of a grid of which all teams have a plan and blocks together completes: all are resident. -/
def Sys2Proof.Says.GridsBecomeResident : Prop :=
  ∀ (s : State) (fe slot packet j : Nat) (x : FrontEnd) (q : Queue) (l : Launch) (n ended : Nat) (done : Bool) (ps : List (List Plan)) (u : State),
    GridWaits s fe slot packet j x q l n ended done → l.coresident = true →
    nextPlan s x q l n = some ps → seatMany fe slot packet j x.part q.world l ps n s = .ok u →
    ∃ s', exec .coresidentPlacement s = .next s' ∧ counted s' fe slot packet j l (n + ps.length) ended done ∧
      ∀ i p, ps[i]? = some [p] → ∃ tid, placed s' tid l (n + i) p

/-- TEAM_PLACEMENT, TWIN_PLACEMENT and CORESIDENT_PLACEMENT complete. -/
def Obligations.TeamsArePlaced : Prop := Says.TeamsBecomeResident ∧ Says.TwinsBecomeResident ∧ Says.GridsBecomeResident

/-- GRID_END completes: the last team of a grid has ended, and the sub-launch is done. -/
def Sys2Proof.Says.GridsEnd : Prop :=
  ∀ (s : State) (fe slot packet j : Nat) (x : FrontEnd) (q : Queue) (l : Launch), s.args = [fe, slot, packet, j] →
    Reading.mapped s fe slot x q → subAt q packet j = some (.grid l l.teams l.teams false) → (∀ w ∈ s.writes, w.world ≠ q.world) →
    (∀ p ∈ s.teams, ¬ (p.2.fe = fe ∧ p.2.slot = slot ∧ p.2.packet = packet ∧ p.2.sub = j)) →
    exec .gridEnd s = .next (onSub s fe slot packet j (fun _ => .grid l l.teams l.teams true))

/-- COMPACTOR_MOVE in a pool of a sub-partition in which a placement waits completes: the first block of the group's map that is no target
of an operation, and has a free place below it, moves there; the map alone changes, and the group waits two clocks a granule. -/
def Sys2Proof.Says.GroupBlocksMove : Prop :=
  ∀ (s : State) (kind : PoolKind) (gid size unit n : Nat) (g g1 : Group) (t : Team) (used map m : List (Nat × Nat)), mget s.groups gid = some g →
    mget s.teams g.team = some t → (∀ p ∈ s.teams, p.2.claims = []) →
    (kind = .vector ∧ size = 64 ∧ unit = 8 ∧ used = vectorUsed s g.core g.subp (some g.team) ∧ map = g.vmap ∧ g1 = { g with vmap := m } ∨
      kind = .tile ∧ size = 8 ∧ unit = 4 ∧ used = tileUsed s g.core g.subp ∧ map = g.tmap ∧ g1 = { g with tmap := m } ∨
      kind = .accumulator ∧ size = 8 ∧ unit = 4 ∧ used = accUsed s g.core g.subp ∧ map = g.amap ∧ g1 = { g with amap := m }) →
    (placePools s).contains (kind, g.core, g.subp) = true → ready s gid g = false → g.resume = none →
    moveDown size used map (fun lo k => !targeted g kind (unit * lo) (unit * k)) = some (m, n) →
    exec (.compactorMove kind gid) s =
      .next { s with groups := mput s.groups gid { g1 with holds := .until (s.clock + 2 * n) :: g.holds } }

/-- COMPACTOR_MOVE of a slot, in a world's pool in which a placement waits, completes: a block of its map moves to a lower place; the map
alone changes, and its group waits two clocks a granule. -/
def Sys2Proof.Says.SlotBlocksMove : Prop :=
  ∀ (s : State) (gid n : Nat) (g : Group) (t : Team) (m : List (Nat × Nat)), mget s.groups gid = some g → mget s.teams g.team = some t →
    t.groups = [gid] → (placePools s).contains (.scratchpad, t.core, t.world) = true → copiesInto s g.team = false → ready s gid g = false →
    g.resume = none → moveDown (slotPool s t.core t.world) (slotUsed s t.core t.world) t.smap (fun _ _ => true) = some (m, n) →
    exec (.compactorMove .scratchpad gid) s = .next { s with
      teams := mput s.teams g.team { t with smap := m }
      groups := mput s.groups gid { g with holds := .until (s.clock + 2 * n) :: g.holds } }

/-- COPY_SUBLAUNCH, FILL_SUBLAUNCH, GRID_END and COMPACTOR_MOVE complete. -/
def Obligations.SublaunchesAndCompaction : Prop :=
  Says.CopySublaunchesMove ∧ Says.FillSublaunchesMove ∧ Says.GridsEnd ∧ Says.GroupBlocksMove ∧ Says.SlotBlocksMove

/-- The state in which a request of an asker is carried out: the owner has been heard (R434). -/
def heard (s : State) (by_ : Asker) : State := if by_ = .pair then s else { s with ctl := { s.ctl with heard := s.clock } }

/-- PREEMPT, by the owner or the control pair, of a queue that runs completes: its context is to be saved, and issue stops in every group
of its teams. -/
def Sys2Proof.Says.PreemptionsStopIssue : Prop :=
  ∀ (s : State) (by_ : Asker) (fe slot : Nat) (q : Queue), mayAsk s by_ → queueAt s fe slot = some q → q.stopping = .run →
    ∃ u, exec (.preempt by_ fe slot) s = .next u ∧ queueAt u fe slot = some { q with stopping := .save false } ∧
      u.ctl.replies = (by_, .done) :: s.ctl.replies ∧
      ∀ gid g, mget s.groups gid = some g → mget u.groups gid = some
        (if (contextTeams s fe slot).any (fun p => p.1 == g.team) then { g with stopped := true } else g)

/-- ENGINE_QUIESCED of a queue that is being saved, with its engines quiet, completes: the context stands among the queue's saved ones, its
area is in memory under the world's key, and none of its teams and groups is resident. Where the area lies is the model's choice (DESIGN
CHOICE, log 112). -/
def Sys2Proof.Says.ContextsAreSaved : Prop :=
  ∀ (s : State) (fe slot base : Nat) (x : FrontEnd) (q : Queue), s.args = [fe, slot] → Reading.mapped s fe slot x q → q.stopping = .save false →
    contextTeams s fe slot ≠ [] → saveReady s (contextTeams s fe slot) false = true → (∀ p ∈ s.teams, p.2.claims = []) → s.writes = [] →
    let sv := savedOf s x fe slot q
    let area := saveArea sv
    saveBase s area.length = some base → Reading.plainAt s base →
    ∃ u, exec .engineQuiesced s = .next u ∧
      queueAt u fe slot = some { q with saved := q.saved ++ [{ sv with base := base, len := area.length }], stopping := .run } ∧
      homePlain u q.world base area.length = area ∧ contextTeams u fe slot = [] ∧
      ∀ g ∈ u.groups, ∀ p ∈ contextTeams s fe slot, g.2.team ≠ p.1

/-- RESTORE, by the owner or the control pair, of a context that the layout does not refuse and that has a place completes: its teams are
resident, on the cores of their places, with their slots, barrier objects and pools. -/
def Sys2Proof.Says.ContextsAreRestored : Prop :=
  ∀ (s s1 : State) (by_ : Asker) (fe slot : Nat) (x : FrontEnd) (q : Queue) (sv : Saved) (rest : List Saved) (ps : List (Nat × Plan)),
    mayAsk s by_ → Reading.mapped s fe slot x q → q.saved = sv :: rest → q.stopping = .run → q.code = 0 → q.dried = false →
    refuses (heard s by_) x q.world sv = false →
    planSaved sv sv.teams (cvFree (heard s by_) sv.world true) (roomOf (heard s by_) x.part sv.world false) = some ps → (ps.map (·.1)).Nodup →
    reseatAll sv fe slot ps (heard s by_) = .ok s1 → sv.convs = [] → sv.copies = [] → sv.seen = [] → (∀ g ∈ s1.groups, g.2.flights = []) →
    (∀ p ∈ s1.teams, p.2.claims = []) →
    ∃ u, exec (.restore by_ fe slot) s = .next u ∧ queueAt u fe slot = some { q with saved := rest } ∧ u.ctl.replies = (by_, .done) :: s.ctl.replies ∧
      ∀ tid p t, (tid, p) ∈ ps → sv.teams.find? (fun y => y.1 == tid) = some (tid, t) →
        ∃ w, mget u.teams tid = some w ∧ w.core = p.core ∧ w.sp = t.sp ∧ w.absent = t.absent ∧ w.objs = t.objs ∧ w.pool = t.pool ∧
          w.fe = fe ∧ w.slot = slot

/-- QUEUE_RESET completes: of a running queue, which gets code 7, or of one that a failure has stopped, which has its code already. With nothing of the queue
resident and no earlier packet in flight, STATUS is written in the control block with the code and the sub-launch, and the queue has
forgotten its bundles, its saved contexts and its wait; RPTR stays.
That earlier bundles in flight finish first is the model's reading (DEDUCED, log 62). -/
def Sys2Proof.Says.QueuesAreReset : Prop :=
  ∀ (s : State) (by_ : Asker) (fe slot : Nat) (x : FrontEnd) (q : Queue) (code sub : Nat), Reading.mapped s fe slot x q → s.writes = [] →
    (mayAsk s by_ ∧ q.stopping = .run ∧ q.code = 0 ∧ code = 7 ∧ sub = 0 ∨
      by_ = .pair ∧ q.stopping = .reset ∧ code = q.code ∧ sub = q.sub ∧ code ≠ 0 ∧ code ≠ 5 ∧
        (∀ b ∈ q.bundles, q.failAt ≤ b.index) ∧ ∀ n ∈ q.nops, q.failAt ≤ n.1) →
    contextTeams s fe slot = [] → q.dried = false → bothLost s = false → Reading.atHand q q.q 2 → Reading.plainAt s (Reading.fePa q q.q 2 + 0x10) →
    (∀ wd, mget s.worlds q.world = some wd → frameOwned s q.world wd.evFrame = false) →
    ∃ s' q', exec (.queueReset by_ fe slot) s = .next s' ∧ queueAt s' fe slot = some q' ∧ q'.code = code ∧ q'.stopping = .run ∧ q'.bundles = [] ∧
      q'.nops = [] ∧ q'.saved = [] ∧ q'.waiting = none ∧ q'.rptr = q.rptr ∧
      homePlain s' q.world (Reading.fePa q q.q 2 + 0x10) 4 = leBytes 4 (code + 2 ^ 8 * (sub % 2 ^ 8))

/-- TOKEN_BUCKET_WRITE by the owner or the control pair completes: a write of CAP or RATE is kept for the next boundary, and one of LEVEL is
made at once (DEDUCED, log 68). -/
def Sys2Proof.Says.BucketsAreWritten : Prop :=
  ∀ (s : State) (by_ : Asker) (fn : Nat) (fld : BucketField) (v : Int), mayAsk s by_ → fn < 64 →
    ∃ s' f, exec (.tokenBucketWrite by_ fn fld v) s = .next s' ∧ s'.ctl.replies = (by_, .done) :: s.ctl.replies ∧ fnOf s' fn = f ∧
      (fld = .cap → f = { fnOf s fn with newCap := some (v % 2 ^ 32).toNat }) ∧
      (fld = .rate → f = { fnOf s fn with newRate := some (v % 2 ^ 32).toNat }) ∧
      (fld = .level → ∃ n, f = { fnOf s fn with level := n } ∧ n % 2 ^ 56 = v % 2 ^ 56 ∧ -2 ^ 55 ≤ n ∧ n < 2 ^ 55)

/-- PREEMPT, ENGINE_QUIESCED, RESTORE, QUEUE_RESET and TOKEN_BUCKET_WRITE complete. -/
def Obligations.SavesRestoresAndResets : Prop :=
  Says.PreemptionsStopIssue ∧ Says.ContextsAreSaved ∧ Says.ContextsAreRestored ∧ Says.QueuesAreReset ∧ Says.BucketsAreWritten

/-- BUCKET_UPDATE completes at a boundary: 600 core clocks after the last, every bucket takes the values written, and LEVEL is then at most 256 × CAP; one
with CAP ≠ 0 is charged 256 for each sub-partition with a resident group of the function's queues, refilled by RATE, and bounded by
256 × CAP; one that is then at 0 or below is DRY; and one with CAP = 0 is not updated and does not run dry. -/
def Obligations.EngineTimeIsCharged : Prop :=
  ∀ s : State, s.ctl.bucketAt + 600 ≤ s.clock → s.ctl.halted = false → mrising s.fns = true → ∃ s', exec .bucketUpdate s = .next s' ∧ s'.ctl.bucketAt = s.clock ∧
    ∀ fn f, mget s.fns fn = some f → ∃ f', mget s'.fns fn = some f' ∧
      let cap := f.newCap.getD f.cap
      let before := if f.newCap.isSome || f.newRate.isSome then min f.level (256 * cap) else f.level
      f'.cap = cap ∧ f'.rate = f.newRate.getD f.rate ∧
        f'.level = (if cap = 0 then before else min (before - 256 * busySubps s fn + f'.rate) (256 * cap)) ∧
        (cap ≠ 0 → f'.level ≤ 0 → f'.dry = true) ∧ (cap = 0 → f'.dry = f.dry)

/-! ### Worlds -/

/-- LAYOUT_CHANGE, by the owner or the control pair, that keeps its conditions completes: the change is made and counted: the generation
rises, with which every ephemeral key is erased, but for quotas of ways and backstop ranges. A front end's partition, a sub-partition's or
bank's world, and a transfer extent are as the change says.
What the generation does not count, and that a unit in use is not taken, are the model's reading (DEDUCED, logs 18 and 76). -/
def Sys2Proof.Says.LayoutChangesAreMade : Prop :=
  ∀ (s s1 : State) (by_ : Asker) (c : LayoutChange), mayAsk s by_ → relayout (heard s by_) c = some s1 →
    ∃ u, exec (.layoutChange by_ c) s = .next u ∧ u.ctl.replies = (by_, .done) :: s.ctl.replies ∧
      (countedChange c = true → u.ctl.gen = s.ctl.gen + 1 ∧ ∀ p ∈ u.worlds, p.2.ephem = none) ∧ (countedChange c = false → u.ctl.gen = s.ctl.gen) ∧
      u.mem = s.mem ∧ u.groups = s.groups ∧
      (∀ fe v p b l, c = .partition fe v p b l → ∃ x, mget u.frontEnds fe = some x ∧ x.valid = v ∧ x.part = p ∧ x.base = b ∧ x.limit = l) ∧
      (∀ k n w, c = .subp k n w → mget (coreOf u k).subpWorld n = w) ∧ (∀ k n w, c = .bank k n w → mget (coreOf u k).bankWorld n = w) ∧
      (∀ w i sp idx, c = .transfer w i sp idx → ∃ x, mget u.worlds w = some x ∧ mget x.transfer i = if idx < 64 then some (sp, idx) else none)

/-- A LAYOUT_CHANGE that breaks a condition is refused, with no other effect. -/
def Sys2Proof.Says.LayoutChangesAreRefused : Prop :=
  ∀ (s : State) (by_ : Asker) (c : LayoutChange), mayAsk s by_ → relayout (heard s by_) c = none →
    answeredOnly (heard s by_) by_ .refused (exec (.layoutChange by_ c) s)

/-- WORLD_CREATE, by the owner or the control pair, of a number that no world has completes: the world lies in its partition with a fresh key,
empty sessions and no measurement, every die's key table has the key, and the layout generation counts it. -/
def Sys2Proof.Says.WorldsAreCreated : Prop :=
  ∀ (s : State) (by_ : Asker) (world part ev door : Nat) (test : Bool), mayAsk s by_ → world < 1024 → mget s.worlds world = none →
    (∃ x ∈ s.frontEnds, x.2.valid = true ∧ x.2.part = part) → ev % 4096 = 0 → door % 4096 = 0 → ev ≠ door → ev < 2 ^ 52 → door < 2 ^ 52 →
    ∃ u, exec (.worldCreate by_ world part test ev door) s = .next u ∧ u.ctl.replies = (by_, .done) :: s.ctl.replies ∧
      (∃ x, mget u.worlds world = some x ∧ x.part = part ∧ x.test = test ∧ x.key = s.ctl.drawn ∧ x.meas = [] ∧
        x.sessions = List.replicate 8 Session.none ∧ x.evFrame = ev ∧ x.doorFrame = door ∧ x.fn = none) ∧
      u.ctl.drawn = s.ctl.drawn + 1 ∧ (∀ d, d < 8 → mget (dieOf u d).keys world = some s.ctl.drawn) ∧ u.ctl.gen = s.ctl.gen + 1

/-- SPACE_CREATE, by the owner or the control pair, in a world and at frames that are free completes: the space has a zeroed routine arena and
walker image area in extents of their own, which no page may map.
The indices of the two extents are the model's choice (DEDUCED, log 17). -/
def Sys2Proof.Says.SpacesAreCreated : Prop :=
  ∀ (s : State) (by_ : Asker) (space world arena walker : Nat), mayAsk s by_ → mget s.spaces space = none → space < 2 ^ 16 →
    (mget s.worlds world).isSome = true → arena % 16384 = 0 → walker % 4096 = 0 → s.writes = [] →
    let a : Extent := ⟨arena / 4096, 4, true, true, false, false, 0#3⟩
    let b : Extent := ⟨walker / 4096, 1, true, true, false, false, 0#3⟩
    extMeets a b = false → (∀ p ∈ s.spaces, ∀ q ∈ p.2.exts, q.2.v = true → extMeets a q.2 = false ∧ extMeets b q.2 = false) →
    extentOk s space 62 world a = true → extentOk s space 63 world b = true →
    ∃ u, exec (.spaceCreate by_ space world arena walker) s = .next u ∧ u.ctl.replies = (by_, .done) :: s.ctl.replies ∧
      mget u.spaces space = some ⟨world, [(62, a), (63, b)], arena, walker, none⟩ ∧
      ∀ pa, (arena ≤ pa ∧ pa < arena + 16384 ∨ walker ≤ pa ∧ pa < walker + 4096) → homePlain u world pa 1 = [0#8]

/-- EXTENT_GRANT, by the owner or the control pair, of an extent that may stand in a space's allowance completes: it is valid, and filled only
where it coincides with one that is. -/
def Sys2Proof.Says.ExtentsAreGranted : Prop :=
  ∀ (s : State) (by_ : Asker) (space idx w : Nat) (e : Extent), mayAsk s by_ → spaceWorld s space = some w →
    (∀ x, mget (spaceOf s space).exts idx = some x → x.v = false) → extentOk s space idx w e = true →
    ∃ u, exec (.extentGrant by_ space idx e) s = .next u ∧ u.ctl.replies = (by_, .done) :: s.ctl.replies ∧
      mget (spaceOf u space).exts idx = some { e with v := true, f := (coincident s space w e).getD false } ∧
      (∀ i, i ≠ idx → mget (spaceOf u space).exts i = mget (spaceOf s space).exts i) ∧ u.mem = s.mem

/-- EXTENT_FILL_DONE of an extent that is not filled yet completes: its bytes are zero with valid codes, every other byte stands, and F is
set. -/
def Sys2Proof.Says.ExtentsAreFilled : Prop :=
  ∀ (s : State) (space idx w : Nat) (e : Extent), s.args = [space, idx] → spaceWorld s space = some w → mget (spaceOf s space).exts idx = some e →
    e.v = true → e.f = false → s.writes = [] →
    let inside (a : Nat) : Prop := 4096 * e.base ≤ a ∧ a < 4096 * (e.base + e.pages)
    ∃ u, exec .extentFillDone s = .next u ∧ mget (spaceOf u space).exts idx = some { e with f := true } ∧
      (∀ a, inside a → memGet u.mem a = 0#8 ∧ mval u.upsets [] (a / 64) = [] ∧ mget u.poison (a / 32) = none) ∧
      ∀ a, ¬ inside a → memGet u.mem a = memGet s.mem a

/-- EXTENT_CHANGE, by the owner or the control pair, with no walk of the space under way completes at once: the extent is as it says, or gone,
and no cached translation of the space reaches the frames that it had. -/
def Sys2Proof.Says.ExtentsAreChanged : Prop :=
  ∀ (s : State) (by_ : Asker) (space idx w : Nat) (e old : Extent), mayAsk s by_ → (∀ x ∈ s.ctl.changes, ¬ (x.space = space ∧ x.idx = idx)) →
    spaceWorld s space = some w → mget (spaceOf s space).exts idx = some old → old.v = true → changeOk s space idx w e = true →
    begunWalks s space = [] →
    ∃ u, exec (.extentChange by_ space idx e) s = .next u ∧ u.ctl.replies = (by_, .done) :: s.ctl.replies ∧
      (e.v = false → mget (spaceOf u space).exts idx = none) ∧
      (e.v = true → ∃ x, mget (spaceOf u space).exts idx = some x ∧ x = { e with f := x.f } ∧
        (old.base ≤ e.base → e.base + e.pages ≤ old.base + old.pages → x.f = old.f)) ∧
      ∀ k, ∀ x ∈ (coreOf u k).tlb, x.space = space → ¬ (x.frame < 4096 * (old.base + old.pages) ∧ 4096 * old.base < x.frame + 2 ^ x.lsize)

/-- LAYOUT_CHANGE, WORLD_CREATE, SPACE_CREATE, EXTENT_GRANT, EXTENT_FILL_DONE and EXTENT_CHANGE complete. -/
def Obligations.LayoutWorldsAndExtents : Prop :=
  Says.LayoutChangesAreMade ∧ Says.LayoutChangesAreRefused ∧ Says.WorldsAreCreated ∧ Says.SpacesAreCreated ∧ Says.ExtentsAreGranted ∧
    Says.ExtentsAreFilled ∧ Says.ExtentsAreChanged

/-- EVIDENCE_REQUEST, by the owner or the control pair, for a world completes: the answer is its measurements and the layout, signed, with a
fresh ephemeral key. The order of entries is the model's reading (DEDUCED, log 74); keys and signature are free (DESIGN CHOICE, log 26). -/
def Sys2Proof.Says.EvidenceIsGiven : Prop :=
  ∀ (s : State) (by_ : Asker) (world : Nat) (nonce : BitVec 256) (x : World), mayAsk s by_ → mget s.worlds world = some x →
    let body := evidence s world x nonce s.ctl.drawn
    ∃ u, exec (.evidenceRequest by_ world nonce) s = .next u ∧ mget u.worlds world = some { x with ephem := some s.ctl.drawn } ∧
      u.ctl.drawn = s.ctl.drawn + 1 ∧ u.ctl.replies = (by_, .bytes (body ++ bigBytes 96 (Config.sign body).toNat)) :: s.ctl.replies

/-- Whether a secret-bearing message may be used for this layout generation. -/
def goodKeyMsg (s : State) (m : KeyMsg) : Prop := m.typ = 1#32 ∧ m.slot.toNat < 8 ∧ m.reserved = true ∧ m.gen = s.ctl.gen

/-- KEY_INSTALL of a message that opens under the world's ephemeral key, for this layout generation, completes: it fills its session slot. -/
def Sys2Proof.Says.KeysAreInstalled : Prop :=
  ∀ (s : State) (by_ : Asker) (m : KeyMsg) (x : World) (k : Nat) (key : BitVec 256), mayAsk s by_ →
    slotBusy s m.world.toNat m.slot.toNat = false → mget s.worlds m.world.toNat = some x → x.ephem = some k → m.slot.toNat < x.sessions.length →
    goodKeyMsg s m → openKey m k = some key →
    ∃ u, exec (.keyInstall by_ m) s = .next u ∧ u.ctl.replies = (by_, .done) :: s.ctl.replies ∧
      sessionOf u m.world.toNat m.slot.toNat = ⟨key, 0#64, 0#64, m.pfx, false, true⟩

/-- Any other KEY_INSTALL is refused, with no other effect. -/
def Sys2Proof.Says.KeysAreRefused : Prop :=
  ∀ (s : State) (by_ : Asker) (m : KeyMsg) (x : World) (k : Nat), mayAsk s by_ → slotBusy s m.world.toNat m.slot.toNat = false →
    mget s.worlds m.world.toNat = some x → x.ephem = some k → ¬ goodKeyMsg s m ∨ openKey m k = none →
    answeredOnly (heard s by_) by_ .refused (exec (.keyInstall by_ m) s)

/-- MEASURED_LOAD, by the owner or the control pair, from a transfer extent to a sealed extent that is not writable completes: the bytes are
there, and they are measured. The transform of its reads is the model's reading (DEDUCED, log 73). -/
def Sys2Proof.Says.LoadsAreMeasured : Prop :=
  ∀ (s : State) (by_ : Asker) (world space src len idx : Nat) (x : World) (e : Extent), mayAsk s by_ → mget s.worlds world = some x →
    mget (spaceOf s space).exts idx = some e → spaceWorld s space = some world → e.v = true → e.f = true → e.sealed = true → e.rwx.getLsbD 1 = false →
    0 < len → len ≤ 4096 * e.pages → inTransfer s x src len = true → (measurements s world x).length < 96 → s.writes = [] →
    inDoor s (4096 * e.base) = false → cxlLost s (4096 * e.base) = false →
    let bs := homePlain s world src len
    ∃ u, exec (.measuredLoad by_ world space src len idx) s = .next u ∧ u.ctl.replies = (by_, .done) :: s.ctl.replies ∧
      homePlain u world (4096 * e.base) len = bs ∧ mget u.worlds world = some { x with meas := x.meas ++ [⟨2, space, x.meas.length, sha384 bs⟩] }

/-- A record of an event reaches the host: its time, class, world, kind, index and sub-location. -/
def reported (s s' : State) (world : Option Nat) (cls kind index sub : Nat) : Prop :=
  s'.ctl.events = ⟨s.clock, cls, world.isNone, world.getD 0, kind, index, sub⟩ :: s.ctl.events

/-- TDISP_BIND, by the owner or the control pair, of a free function to a world that has none completes, and the change is counted. -/
def Sys2Proof.Says.FunctionsAreBound : Prop :=
  ∀ (s : State) (by_ : Asker) (world fn : Nat) (x : World), mayAsk s by_ → mget s.worlds world = some x → x.fn = none → 0 < fn → fn < 64 →
    (fnOf s fn).world = none →
    ∃ u, exec (.tdispBind by_ world fn) s = .next u ∧ u.ctl.replies = (by_, .done) :: s.ctl.replies ∧ (fnOf u fn).world = some world ∧
      (∃ y, mget u.worlds world = some y ∧ y.fn = some fn) ∧ u.ctl.gen = s.ctl.gen + 1

/-- INTERFACE_UNLOCKED of a bound interface completes: it is in CONFIG_UNLOCKED or ERROR, and its world is told.
KIND and INDEX of the record are the model's choice (DEDUCED, log 19). -/
def Sys2Proof.Says.InterfacesUnlock : Prop :=
  ∀ (s : State) (world fn : Nat) (err : Bool) (x : World), mget s.worlds world = some x → x.fn = some fn →
    let st : Tdisp := if err then .error else .unlocked
    ∃ u, exec (.interfaceUnlocked world err) s = .next u ∧ fnOf u fn = { fnOf s fn with tdisp := st } ∧
      ((fnOf s fn).world = some world → (fnOf s fn).tdisp ≠ st → reported s u (some world) 0x72 11 fn 0)

/-- REVOCATION, by the owner or the control pair, of a world with no queue and no team completes: no cache, array, session, key table or
extent holds anything of it, its units are free, and the change is counted and reported.
KIND and INDEX of the record are the model's choice (DEDUCED, log 84). -/
def Sys2Proof.Says.WorldsAreRevoked : Prop :=
  ∀ (s : State) (by_ : Asker) (w : Nat) (x : World), mayAsk s by_ → mget s.worlds w = some x → x.revoking = false →
    worldQueues s w = [] → (∀ p ∈ s.teams, p.2.world ≠ w) →
    ∃ u, exec (.revocation by_ w) s = .next u ∧ u.ctl.replies = (by_, .done) :: s.ctl.replies ∧ mget u.worlds w = none ∧
      (∀ p ∈ u.spaces, p.2.world ≠ w) ∧ u.ctl.gen = s.ctl.gen + 1 ∧ reported s u (some w) 0x71 0 0 0 ∧
      (∀ d, mget (dieOf u d).keys w = none ∧ (∀ y ∈ (dieOf u d).l2, y.world ≠ w) ∧ ∀ y ∈ (dieOf u d).rdc, y.world ≠ w) ∧
      ∀ k, (∀ q ∈ (coreOf u k).subpWorld, q.2 ≠ w) ∧ (∀ q ∈ (coreOf u k).bankWorld, q.2 ≠ w) ∧ (∀ y ∈ (coreOf u k).l1, y.world ≠ w) ∧
        ∀ y ∈ (coreOf u k).tlb, ∀ p, (y.space, p) ∈ s.spaces → p.world ≠ w

/-- EVIDENCE_REQUEST, KEY_INSTALL, MEASURED_LOAD, TDISP_BIND, INTERFACE_UNLOCKED and REVOCATION complete. -/
def Obligations.EvidenceBindingAndRevocation : Prop :=
  Says.EvidenceIsGiven ∧ Says.KeysAreInstalled ∧ Says.KeysAreRefused ∧ Says.LoadsAreMeasured ∧ Says.FunctionsAreBound ∧ Says.InterfacesUnlock ∧
    Says.WorldsAreRevoked

/-! ### Reliability -/

/-- Whether a sector of a 64-byte unit is poisoned. -/
def poisonedUnit (s : State) (u : Nat) : Prop := (mget s.poison (2 * u)).isSome = true ∨ (mget s.poison (2 * u + 1)).isSome = true

/-- SCRUB of a unit with no error completes, and changes nothing. -/
def Sys2Proof.Says.ScrubsPass : Prop :=
  ∀ (s : State) (u : Nat), s.args = [u] → 64 * u < hbmEnd → s.ctl.off = false → ¬ poisonedUnit s u → rsRead (mval s.upsets [] u) = .clean →
    exec .scrub s = .next s

/-- SCRUB of a unit that it can correct completes: the unit is written back without the error. -/
def Sys2Proof.Says.ScrubsCorrect : Prop :=
  ∀ (s : State) (u : Nat), s.args = [u] → 64 * u < hbmEnd → s.ctl.off = false → ¬ poisonedUnit s u → rsRead (mval s.upsets [] u) = .corrected →
    ∃ t, exec .scrub s = .next t ∧ mval t.upsets [] u = []

/-- SCRUB of a unit that it cannot correct completes: it is reported.
That poison is such a unit is the model's reading (DEDUCED, log 85). -/
def Sys2Proof.Says.ScrubsReport : Prop :=
  ∀ (s : State) (u : Nat), s.args = [u] → 64 * u < hbmEnd → s.ctl.off = false →
    poisonedUnit s u ∨ rsRead (mval s.upsets [] u) = .uncorrectable ∨ rsRead (mval s.upsets [] u) = .integrity →
    ∃ t, exec .scrub s = .next t ∧ reported s t (ownerOf s (64 * u)) 0x56 7 (stackOf (64 * u)) 0

/-- The compare buffer holds one key of both teams of a pair. -/
structure KeyAtHand (s : State) (tid m : Nat) (t u : Team) (a b : CmpEntry) : Prop where
  args : s.args = [tid]
  lead : mget s.teams tid = some t
  twin : t.twin = 1
  mate : t.mate = some m
  trail : mget s.teams m = some u
  cmps : s.cmps = [a, b]
  pair : a.pair = tid
  meet : keysMeet a b = true
  apart : b.ctx.gid ≠ a.ctx.gid

/-- COMPARE_ENTRY of signatures that agree completes: the entries are matched, and their groups go on. -/
def Sys2Proof.Says.EntriesMatch : Prop :=
  ∀ (s : State) (tid m : Nat) (t u : Team) (a b : CmpEntry), KeyAtHand s tid m t u a b → a.sig = b.sig →
    ∃ v, exec .compareEntry s = .next v ∧ v.cmps = [{ a with matched := true }, { b with matched := true }] ∧
      ∀ gid g, (gid = a.ctx.gid ∨ gid = b.ctx.gid) → mget s.groups gid = some g →
        mget v.groups gid = some { g with holds := g.holds.filter (fun h => !h.isTwin) }

/-- COMPARE_ENTRY of signatures that differ completes: both teams are to roll back, or, where the interval of one has escaped, to lose their
bundle. -/
def Sys2Proof.Says.MismatchesAreAnswered : Prop :=
  ∀ (s : State) (tid m : Nat) (t u : Team) (a b : CmpEntry), KeyAtHand s tid m t u a b → a.sig ≠ b.sig →
    t.escaped = true ∨ u.escaped = true ∨ t.retry < 2 → t.answer = none → u.answer = none →
    ∃ v, exec .compareEntry s = .next v ∧ v.cmps = [] ∧
      ∀ k, (k = tid ∨ k = m) → ∃ w, mget v.teams k = some w ∧ w.answer = some (!(t.escaped || u.escaped))

/-- The third COMPARE_ENTRY of signatures that differ completes: TWIN_MISMATCH is taken in both teams, for the lanes of the words. -/
def Sys2Proof.Says.MismatchesTrap : Prop :=
  ∀ (s : State) (tid m : Nat) (t u : Team) (a b : CmpEntry) (ga gb : Group), KeyAtHand s tid m t u a b → a.sig ≠ b.sig → t.escaped = false →
    u.escaped = false → 2 ≤ t.retry → mget s.groups a.ctx.gid = some ga → mget s.groups b.ctx.gid = some gb → canTrap ga → canTrap gb →
    ∃ v, exec .compareEntry s = .next v ∧ v.cmps = [] ∧
      ∀ e, (e = a ∨ e = b) → ∃ g, mget v.groups e.ctx.gid = some g ∧ g.trap.cause = 0x32#8 ∧ g.trap.pc = e.ctx.pc ∧ g.trap.lanes = entryLanes s e

/-- ROLLBACK of a team that is to roll back and whose engines are at rest completes: slot, objects and pool are as they were at the
interval's begin, and so are registers, predicates and lanes of its groups; the next interval is a retry. -/
def Sys2Proof.Says.TeamsRollBack : Prop :=
  ∀ (s : State) (tid : Nat) (t : Team), s.args = [tid] → mget s.teams tid = some t → t.twin = 0 → t.mate = none → t.answer = some true →
    rollReady s [tid] = true → t.landings = [] → t.imageErrs = [] → t.imageClaims = [] → (∀ p ∈ s.teams, p.1 ≠ tid → p.2.claims = []) →
    (∀ q ∈ t.imageGroups, q.2.holds = []) → (∀ gid ∈ t.groups, ∃ q ∈ t.imageGroups, q.1 = gid) → mrising s.teams = true →
    ∃ v, exec .rollback s = .next v ∧
      (∃ w, mget v.teams tid = some w ∧ w.retry = t.retry + 1 ∧ w.interval = t.interval + 1 ∧ w.undo = [] ∧
        w.answer = none ∧ w.pool = t.imagePool ∧ w.sp = (t.undo.foldl undoEntry t).sp ∧ w.objs = (t.undo.foldl undoEntry t).objs ∧
        w.absent = (t.undo.foldl undoEntry t).absent) ∧
      ∀ gid g im, mget s.groups gid = some g → t.imageGroups.find? (fun q => q.1 == gid) = some (gid, im) →
        ∃ h, mget v.groups gid = some h ∧ h.v = im.v ∧ h.u = im.u ∧ h.p = im.p ∧ h.trap = im.trap ∧ h.vcount = im.vcount ∧
          ∀ l, l < im.lanes.length → (h.lane l).pc = (im.lane l).pc ∧ (h.lane l).st = (im.lane l).st

/-- BUNDLE_DISCARDED of a team whose bundle is lost completes: its queue is reset with code 5. -/
def Sys2Proof.Says.BundlesAreDiscarded : Prop :=
  ∀ (s : State) (tid : Nat) (t : Team) (q : Queue), s.args = [tid] → mget s.teams tid = some t → t.mate = none → t.answer = some false →
    queueAt s t.fe t.slot = some q → q.code = 0 →
    ∃ v, exec .bundleDiscarded s = .next v ∧ (∃ w, mget v.teams tid = some w ∧ w.answer = none) ∧
      queueAt v t.fe t.slot = some { q with code := 5, sub := t.sub, failAt := t.packet, stopping := .reset }

/-- SCRUB, COMPARE_ENTRY, ROLLBACK and BUNDLE_DISCARDED complete. -/
def Obligations.ErrorsAreContained : Prop :=
  Says.ScrubsPass ∧ Says.ScrubsCorrect ∧ Says.ScrubsReport ∧ Says.EntriesMatch ∧ Says.MismatchesAreAnswered ∧ Says.MismatchesTrap ∧
    Says.TeamsRollBack ∧ Says.BundlesAreDiscarded

/-! ### The host's side -/

/-- ALLOWLIST_DENIED of a register outside the list completes: a read returns zero, a write is ignored, and the world of the function is told.
KIND and INDEX of the record are the model's (DEDUCED, log 20). -/
def Sys2Proof.Says.RegistersAreDenied : Prop :=
  ∀ (s : State) (fn bar offset : Nat) (write : Bool), s.ctl.off = false → 6 ≤ s.ctl.boot → elsewhere fn bar offset write = false →
    fn ≠ 0 ∨ allowed bar offset = false →
    ∃ u, exec (.allowlistDenied fn bar offset write) s = .next u ∧ reported s u (if fn = 0 then none else (fnOf s fn).world) 0x70 11 fn 0 ∧
      (write = false → (fnOf u fn).reply = List.replicate 4 (some 0#8)) ∧ (write = true → u.fns = s.fns)

/-- A HOST_WINDOW_ACCESS that reads completes: memory and writes stand, and a byte that no transfer extent backs reads zero. -/
def Sys2Proof.Says.WindowsAreRead : Prop :=
  ∀ (s : State) (fn offset : Nat) (bytes : List Byte), s.ctl.off = false → 6 ≤ s.ctl.boot → s.writes = [] →
    (∀ p ∈ s.worlds, frameOwned s p.1 p.2.evFrame = false) →
    ∃ u, exec (.hostWindowAccess fn offset false bytes) s = .next u ∧ (fnOf u fn).reply.length = bytes.length ∧ u.writes = s.writes ∧
      u.mem = s.mem ∧ ∀ i, i < bytes.length → windowByte s fn (offset + i) = none → (fnOf u fn).reply.getD i none = some 0#8

/-- A HOST_WINDOW_ACCESS that writes a byte that no transfer extent backs completes, and changes nothing. -/
def Sys2Proof.Says.WindowsTakeNothing : Prop :=
  ∀ (s : State) (fn offset : Nat) (b : Byte), s.ctl.off = false → 6 ≤ s.ctl.boot → windowByte s fn offset = none →
    exec (.hostWindowAccess fn offset true [b]) s = .next s

/-- A HOST_WINDOW_ACCESS that writes a byte of a transfer extent completes: the write is out, and the host alone sees it.
The instant at which others see it is the model's (DEDUCED, log 77). -/
def Sys2Proof.Says.WindowsAreWritten : Prop :=
  ∀ (s : State) (fn offset pa : Nat) (b : Byte), s.ctl.off = false → 6 ≤ s.ctl.boot → windowByte s fn offset = some pa →
    ∃ u w, exec (.hostWindowAccess fn offset true [b]) s = .next u ∧ u.writes = s.writes ++ [w] ∧ w.pa = 16 * (pa / 16) ∧
      w.vis = 1#193 <<< 192 ∧ w.home = false ∧ u.mem = s.mem

/-- SUBMISSION_COMMIT of a function whose queue has the page at hand completes: 64 bytes are written, or WPTR alone in a control block, and no
other byte. -/
def Sys2Proof.Says.CommitsAreWritten : Prop :=
  ∀ (s : State) (fn e : Nat) (data : List Byte) (target i fe slot : Nat) (x : FrontEnd) (q : Queue), mailboxOpen s = true → s.ctl.halted = false →
    (fnOf s fn).commit = none → fnAccepted s fn = true → bellQueue s fn i = some (fe, slot) → Reading.mapped s fe slot x q → target % 64 = 0 →
    e < 16 → data.length = 64 → Reading.atHand q target 2 → s.writes = [] → Reading.plainAt s (Reading.fePa q target 2) →
    let n := if isControlBlock s fn q.space target then 8 else 64
    ∃ u, exec (.submissionCommit fn e data target i) s = .next u ∧ (fnOf u fn).commit = none ∧
      homePlain u q.world (Reading.fePa q target 2) n = data.take n ∧
      ∀ a, a < Reading.fePa q target 2 ∨ Reading.fePa q target 2 + n ≤ a → homePlain u q.world a 1 = homePlain s q.world a 1

/-- DOE_REQUEST completes: an interface is locked from CONFIG_UNLOCKED. -/
def Sys2Proof.Says.InterfacesAreLocked : Prop :=
  ∀ (s : State) (by_ : Asker) (fn f : Nat), mailboxOpen s = true → s.ctl.recovery = false → (fnOf s f).tdisp = .unlocked →
    ∃ u, exec (.doeRequest by_ fn (.tdispLock f)) s = .next u ∧ (fnOf u f).tdisp = .locked ∧ u.ctl.replies = (by_, .done) :: s.ctl.replies

/-- DOE_REQUEST completes: an interface starts from CONFIG_LOCKED. -/
def Sys2Proof.Says.InterfacesStart : Prop :=
  ∀ (s : State) (by_ : Asker) (fn f : Nat), mailboxOpen s = true → s.ctl.recovery = false → (fnOf s f).tdisp = .locked →
    ∃ u, exec (.doeRequest by_ fn (.tdispStart f)) s = .next u ∧ (fnOf u f).tdisp = .run ∧ u.ctl.replies = (by_, .done) :: s.ctl.replies

/-- DOE_REQUEST completes: an interface stops in every state. -/
def Sys2Proof.Says.InterfacesStop : Prop :=
  ∀ (s : State) (by_ : Asker) (fn f : Nat), mailboxOpen s = true → s.ctl.recovery = false →
    ∃ u, exec (.doeRequest by_ fn (.tdispStop f)) s = .next u ∧ (fnOf u f).tdisp = .unlocked ∧ u.ctl.replies = (by_, .done) :: s.ctl.replies

/-- CONFIGURATION_REQUEST completes: Request Retry Status until bring-up has ended. -/
def Sys2Proof.Says.ConfigurationIsAnswered : Prop :=
  ∀ s : State, s.ctl.off = false → exec .configurationRequest s = .next { s with ctl := { s.ctl with
    replies := (.host, if s.ctl.boot < 6 then .retry else .done) :: s.ctl.replies } }

/-- The control pair answers a master. -/
def mayBeMaster (s : State) (a : Asker) : Prop := mailboxOpen s = true ∧ s.ctl.halted = false ∧ s.ctl.recovery = false ∧ a ≠ .pair

/-- A master becomes owner, and that is reported. -/
def becomesOwner (s u : State) (a : Asker) : Prop :=
  u.ctl.owner = some a ∧ u.ctl.offer = none ∧ u.ctl.heard = s.clock ∧ u.ctl.replies = (a, .done) :: s.ctl.replies ∧
    reported s u none 0x84 0 0 (Asker.number a)

/-- CLAIM completes: a part without an owner is claimed. -/
def Sys2Proof.Says.PartsAreClaimed : Prop :=
  ∀ (s : State) (a : Asker), mayBeMaster s a → s.ctl.owner = none → ∃ u, exec (.claim a) s = .next u ∧ becomesOwner s u a

/-- CLAIM completes: of a part that another owns it is answered so, and changes nothing. A master that owns the part already is refused
(DEDUCED, log 82). -/
def Sys2Proof.Says.ClaimsAreAnswered : Prop :=
  ∀ (s : State) (a o : Asker), mayBeMaster s a → s.ctl.owner = some o → o ≠ a → answeredOnly s a .notOwner (exec (.claim a) s)

/-- ACCEPT completes: the master to whom the part is offered accepts within a second. -/
def Sys2Proof.Says.OffersAreAccepted : Prop :=
  ∀ (s : State) (a : Asker) (at_ : Nat), mayBeMaster s a → s.ctl.offer = some (a, at_) → s.clock < at_ + 600000000 →
    ∃ u, exec (.accept a) s = .next u ∧ becomesOwner s u a

/-- FORCE completes: the board controller takes the part from an owner silent for ten seconds. -/
def Sys2Proof.Says.OwnersAreForced : Prop :=
  ∀ s : State, mayBeMaster s .board → s.ctl.owner ≠ none → s.ctl.heard + 6000000000 ≤ s.clock →
    ∃ u, exec (.force .board) s = .next u ∧ becomesOwner s u .board

/-- HANDOVER completes: the owner offers the part. -/
def Sys2Proof.Says.PartsAreOffered : Prop :=
  ∀ (s : State) (a to_ : Asker), mayBeMaster s a → s.ctl.owner = some a → to_ ≠ .pair →
    ∃ u, exec (.handover a to_) s = .next u ∧ u.ctl.offer = some (to_, s.clock) ∧ u.ctl.owner = some a ∧ u.ctl.replies = (a, .done) :: s.ctl.replies

/-- HANDOVER_TIMEOUT completes: an offer lapses after a second. -/
def Sys2Proof.Says.OffersLapse : Prop :=
  ∀ (s : State) (m : Asker) (at_ : Nat), s.ctl.offer = some (m, at_) → at_ + 600000000 ≤ s.clock →
    exec .handoverTimeout s = .next { s with ctl := { s.ctl with offer := none } }

/-- ALLOWLIST_DENIED, HOST_WINDOW_ACCESS, SUBMISSION_COMMIT, DOE_REQUEST, CONFIGURATION_REQUEST, CLAIM, ACCEPT, FORCE, HANDOVER and
HANDOVER_TIMEOUT complete. -/
def Obligations.HostSide : Prop :=
  Says.RegistersAreDenied ∧ Says.WindowsAreRead ∧ Says.WindowsTakeNothing ∧ Says.WindowsAreWritten ∧ Says.CommitsAreWritten ∧
    Says.InterfacesAreLocked ∧ Says.InterfacesStart ∧ Says.InterfacesStop ∧ Says.ConfigurationIsAnswered ∧ Says.PartsAreClaimed ∧
    Says.ClaimsAreAnswered ∧ Says.OffersAreAccepted ∧ Says.OwnersAreForced ∧ Says.PartsAreOffered ∧ Says.OffersLapse

/-- CONTROL_PAIR_MISMATCH completes: the control pair's own work stops, every queue gets code 7, and the host is told. -/
def Sys2Proof.Says.MismatchesStopAll : Prop :=
  ∀ s : State, s.ctl.halted = false →
    ∃ u, exec .controlPairMismatch s = .next u ∧ u.ctl.halted = true ∧ reported s u none 0x81 0 0 0 ∧
      ∀ fe slot q, (∃ x, (fe, x) ∈ s.frontEnds ∧ (slot, q) ∈ x.slots) → mrising s.frontEnds = true → (∀ x ∈ s.frontEnds, mrising x.2.slots = true) →
        q.code = 0 → ∃ r, queueAt u fe slot = some r ∧ r.code = 7

/-- DEVICE_RESET completes: everything is lost but what the stacks hold: worlds, spaces, queues, teams, caches and keys are those of reset;
memory and its errors stay. That memory stays over a reset is the model's reading (DEDUCED, log 81). -/
def Sys2Proof.Says.DevicesAreReset : Prop :=
  ∀ (s : State) (signed : Bool), ∃ u, exec (.deviceReset signed) s = .next u ∧ u.mem = s.mem ∧ u.upsets = s.upsets ∧ u.poison = s.poison ∧
    u.worlds = [] ∧ u.spaces = [] ∧ u.frontEnds = [] ∧ u.teams = [] ∧ u.groups = [] ∧ u.cores = [] ∧ u.dies = [] ∧ u.nougats = [] ∧ u.writes = [] ∧
    u.fns = [] ∧ u.ctl.gen = 0#32 ∧ u.ctl.owner = none ∧ u.ctl.boot = 0 ∧ u.ctl.halted = false ∧ u.ctl.n = 64 ∧ u.ctl.capHost = 3200 ∧
    u.ctl.recovery = !signed

/-- CXL_LINK_FAILURE completes: the failed link is kept and reported. -/
def Sys2Proof.Says.LinksFail : Prop :=
  ∀ (s : State) (p : Nat), s.args = [p] → p < 4 → p ∉ s.ctl.cxlFailed → s.ctl.off = false →
    ∃ u, exec .cxlLinkFailure s = .next u ∧ u.ctl.cxlFailed = p :: s.ctl.cxlFailed ∧ reported s u none 0x83 8 p 0

/-- POWER_CAP_SET completes: a cap of 1,200 to 3,200 W in steps of 25 is set by its own master. Which one is whose is the model's reading
(DEDUCED, log 21). -/
def Sys2Proof.Says.CapsAreSet : Prop :=
  ∀ (s : State) (a : Asker) (w : Nat), mayBeMaster s a → 1200 ≤ w → w ≤ 3200 → w % 25 = 0 → a = .board ∨ s.ctl.owner = some a →
    ∃ u, exec (.powerCapSet a w) s = .next u ∧ u.ctl.replies = (a, .done) :: s.ctl.replies ∧
      u.ctl.capBoard = (if a = .board then w else s.ctl.capBoard) ∧ u.ctl.capHost = (if a = .board then s.ctl.capHost else w)

/-- POWER_AVERAGE completes: an average above the lower cap lowers N, and one 5% below it raises N again; by how much is the agenda's (DESIGN
CHOICE, log 22). -/
def Sys2Proof.Says.IssueIsThrottled : Prop :=
  ∀ (s : State) (w n : Nat), s.args = [w, n] → s.ctl.off = false → s.ctl.hot = [] → 8 ≤ n → n ≤ 64 →
    let cap := min s.ctl.capHost s.ctl.capBoard
    (cap < w ∧ n < s.ctl.n ∨ 100 * w ≤ 95 * cap ∧ s.ctl.n < n) →
    ∃ u, exec .powerAverage s = .next u ∧ u.ctl.n = n ∧ (cap < w → s.ctl.n = 64 → reported s u none 0x82 0 0 n)

/-- THERMAL_LIMIT at 115 °C completes: power goes, and with it all that the stacks hold; what lies beyond them stays (DEDUCED, log 88). -/
def Sys2Proof.Says.PowerGoes : Prop :=
  ∀ (s : State) (nougat : Bool) (unit c : Nat), s.ctl.off = false → 115 ≤ c →
    ∃ u, exec (.thermalLimit nougat unit c) s = .next u ∧ u.ctl.off = true ∧ u.mem = s.mem.filter (fun c => decide (hbmEnd ≤ c.1)) ∧
      u.groups = [] ∧ reported s u none 0x83 (if nougat then 2 else 1) unit c

/-- THERMAL_LIMIT at 100 °C completes: N is held at 8, and that is reported. -/
def Sys2Proof.Says.HotDiesThrottle : Prop :=
  ∀ (s : State) (nougat : Bool) (unit c : Nat), s.ctl.off = false → 100 ≤ c → c < 115 → (nougat, unit) ∉ s.ctl.hot →
    ∃ u, exec (.thermalLimit nougat unit c) s = .next u ∧ u.ctl.n = 8 ∧ (nougat, unit) ∈ u.ctl.hot ∧
      reported s u none 0x83 (if nougat then 2 else 1) unit c

/-- THERMAL_LIMIT below 100 °C completes: the die is no longer among the hot ones. -/
def Sys2Proof.Says.DiesCool : Prop :=
  ∀ (s : State) (nougat : Bool) (unit c : Nat), s.ctl.off = false → c < 100 →
    ∃ u, exec (.thermalLimit nougat unit c) s = .next u ∧ (nougat, unit) ∉ u.ctl.hot ∧ u.ctl.n = s.ctl.n

/-- CONTROL_PAIR_MISMATCH, DEVICE_RESET, CXL_LINK_FAILURE, POWER_CAP_SET, POWER_AVERAGE and THERMAL_LIMIT complete. -/
def Obligations.ResetPowerAndLinks : Prop :=
  Says.MismatchesStopAll ∧ Says.DevicesAreReset ∧ Says.LinksFail ∧ Says.CapsAreSet ∧ Says.IssueIsThrottled ∧ Says.PowerGoes ∧
    Says.HotDiesThrottle ∧ Says.DiesCool

/-! ### Rounding, memory, reset and an invariant -/

/-- A finite value counted in units of 2^(−k). -/
def unitsAt (k : Nat) (x : FV) : Int :=
  match x with
  | .fin s m e => (if s then -1 else 1) * (m * 2 ^ (e + k).toNat)
  | _ => 0

/-- Rounding to nearest in FP64, FP32, FP16 and BF16 (R124): of a finite value not zero the result has its sign, and no finite value of
the format is nearer; of two as near it is the even one; an infinity is the result only beyond the midpoint above the largest finite
value. Rounding to zero gives the greatest magnitude of the format that is not beyond the value. -/
def Obligations.RoundingIsExact : Prop :=
  ∀ (f : Fmt) (s : Bool) (m : Nat) (e : Int) (k : Nat), f ∈ [fp64, fp32, fp16, bf16] → 0 < m → 0 ≤ e + k → f.bias + f.mbits ≤ k →
    let v := FV.fin s m e
    let u := unitsAt k
    let near := f.round 0 false v
    let cut := f.round 1 false v
    let dist (y : Nat) : Nat := (u v - u (f.value y)).natAbs
    (f.value near = .inf s ∨ ∃ r q, f.value near = .fin s r q) ∧
    (∀ r q, f.value near = .fin s r q → ∀ y t n g, y < 2 ^ f.width → f.value y = .fin t n g →
      dist near ≤ dist y ∧ (dist near = dist y → u (f.value near) ≠ u (f.value y) → near % 2 = 0)) ∧
    (f.value near = .inf s → (u (f.value f.maxBits) + u (f.value f.maxBits) - u (f.value (f.maxBits - 1))).natAbs + (u (f.value f.maxBits)).natAbs ≤
      2 * (u v).natAbs) ∧
    (∃ r q, f.value cut = .fin s r q) ∧ (u (f.value cut)).natAbs ≤ (u v).natAbs ∧
    ∀ y t n g, y < 2 ^ f.width → f.value y = .fin t n g → (u (f.value y)).natAbs ≤ (u v).natAbs → (u (f.value y)).natAbs ≤ (u (f.value cut)).natAbs

/-- What a world writes to home memory it reads back, and every other byte that it reads there is as it was: whatever form the units had
before, and whatever key they were written under. An access to a doorbell frame or behind a failed link stores nothing. -/
def Obligations.HomeMemoryKeepsWhatIsWritten : Prop :=
  ∀ (s : State) (w pa : Nat) (bs : List Byte), memoryOk s →
    (inDoor s pa = false → cxlLost s pa = false → homePlain (homePut s w pa bs) w pa bs.length = bs ∧
      ∀ a, a < pa ∨ pa + bs.length ≤ a → homePlain (homePut s w pa bs) w a 1 = homePlain s w a 1) ∧
    (inDoor s pa = true ∨ cxlLost s pa = true → homePut s w pa bs = s)

/-- What reset leaves (R391, R433 to R435): no world, no queue and no team, layout generation 0, no owner, both caps at 3,200 W, issue in
every clock, bring-up not begun, and no fault of the control pair; memory is in canonical form. That memory lists nothing, and what an
unlisted byte reads as, is the model's choice (DESIGN CHOICE, log 1). -/
def Obligations.ResetLeaves : Prop :=
  let s := State.reset
  s.worlds = [] ∧ s.spaces = [] ∧ s.frontEnds = [] ∧ s.teams = [] ∧ s.groups = [] ∧ s.ctl.gen = 0#32 ∧ s.ctl.owner = none ∧ s.ctl.capHost = 3200 ∧
    s.ctl.capBoard = 3200 ∧ s.ctl.n = 64 ∧ s.ctl.boot = 0 ∧ s.ctl.recovery = false ∧ s.ctl.halted = false ∧ s.cores = [] ∧ s.dies = [] ∧
    s.nougats = [] ∧ s.writes = [] ∧ memoryOk s

/-- Every step keeps global memory in canonical form: addresses strictly rising, and no entry equal to what an unlisted address reads
as, so that equal memories are equal data. -/
def Obligations.StepKeepsMemoryCanonical : Prop :=
  ∀ s s' : State, memoryOk s → step s = .next s' → memoryOk s'
end

