-- ==== Sys2Proof/Laws/Maps.lean ====
section
/-! SUPPORT. Sparse maps and global memory: read after write, and the canonical form that every memory operation keeps. -/

namespace Sys2Proof.Laws

open Sys2Proof Sys2Proof.Machine

variable {α : Type}

@[simp] theorem mget_nil (n : Nat) : mget ([] : SMap α) n = none := rfl

@[simp] theorem mget_mput (m : SMap α) (n k : Nat) (v : α) : mget (mput m n v) k = if k = n then some v else mget m k := by
  induction m with
  | nil => simp only [mput, mget]; split <;> simp_all [eq_comm]
  | cons p m ih =>
    obtain ⟨j, x⟩ := p
    simp only [mput]
    split
    · simp only [mget]; grind
    · split
      · simp only [mget]; grind
      · simp only [mget, ih]; grind

@[simp] theorem mget_mdel (m : SMap α) (n k : Nat) : mget (mdel m n) k = if k = n then none else mget m k := by
  induction m with
  | nil => simp [mdel]
  | cons p m ih =>
    obtain ⟨j, x⟩ := p
    simp only [mdel]
    split
    · simp only [ih, mget]; grind
    · simp only [mget, ih]; grind

@[simp] theorem mval_mput (m : SMap α) (d : α) (n k : Nat) (v : α) : mval (mput m n v) d k = if k = n then v else mval m d k := by
  simp only [mval, mget_mput]; split <;> rfl

theorem mget_mupd (m : SMap α) (n k : Nat) (f : α → α) :
    mget (mupd m n f) k = if k = n then (mget m n).map f else mget m k := by
  unfold mupd
  split
  · rename_i x h; simp only [mget_mput]; split <;> simp_all
  · rename_i h; split <;> simp_all

@[simp] theorem mget_mupd_self (m : SMap α) (n : Nat) (f : α → α) : mget (mupd m n f) n = (mget m n).map f := by
  simp [mget_mupd]

theorem mget_mupd_ne {m : SMap α} {n k : Nat} {f : α → α} (h : k ≠ n) : mget (mupd m n f) k = mget m k := by
  simp [mget_mupd, h]

/-- Every number of a list lies above a bound. -/
theorem mrising_cons (k : Nat) (x : α) (m : SMap α) :
    mrising ((k, x) :: m) = true ↔ (∀ p ∈ m, k < p.1) ∧ mrising m = true := by
  induction m generalizing k x with
  | nil => simp [mrising]
  | cons p m ih =>
    obtain ⟨l, y⟩ := p
    simp only [mrising, Bool.and_eq_true, decide_eq_true_eq, List.mem_cons]
    constructor
    · rintro ⟨h1, h2⟩
      refine ⟨?_, h2⟩
      rintro p (rfl | hp)
      · exact h1
      · exact Nat.lt_trans h1 ((ih l y).mp h2 |>.1 p hp)
    · rintro ⟨h1, h2⟩
      exact ⟨h1 (l, y) (.inl rfl), h2⟩

theorem mem_mput {m : SMap α} {n : Nat} {v : α} {p : Nat × α} (h : p ∈ mput m n v) : p = (n, v) ∨ p ∈ m := by
  induction m with
  | nil => simpa [mput] using h
  | cons q m ih =>
    obtain ⟨j, x⟩ := q
    simp only [mput] at h
    split at h
    · simpa using h
    · split at h <;> simp only [List.mem_cons] at h ⊢ <;> grind

theorem mem_mdel {m : SMap α} {n : Nat} {p : Nat × α} (h : p ∈ mdel m n) : p ∈ m := by
  induction m with
  | nil => simp [mdel] at h
  | cons q m ih =>
    obtain ⟨j, x⟩ := q
    simp only [mdel] at h
    split at h <;> grind

@[simp] theorem mrising_mput {m : SMap α} (h : mrising m = true) (n : Nat) (v : α) : mrising (mput m n v) = true := by
  induction m with
  | nil => rfl
  | cons q m ih =>
    obtain ⟨j, x⟩ := q
    have hc := (mrising_cons j x m).mp h
    simp only [mput]
    split
    · rename_i hlt
      refine (mrising_cons _ _ _).mpr ⟨?_, h⟩
      intro p hp
      simp only [List.mem_cons] at hp
      rcases hp with rfl | hp
      · exact hlt
      · exact Nat.lt_trans hlt (hc.1 p hp)
    · split
      · rename_i _ he; subst he
        exact (mrising_cons _ _ _).mpr hc
      · refine (mrising_cons _ _ _).mpr ⟨?_, ih hc.2⟩
        intro p hp
        rcases mem_mput hp with rfl | hp
        · show j < n; omega
        · exact hc.1 p hp

@[simp] theorem mrising_mdel {m : SMap α} (h : mrising m = true) (n : Nat) : mrising (mdel m n) = true := by
  induction m with
  | nil => rfl
  | cons q m ih =>
    obtain ⟨j, x⟩ := q
    have hc := (mrising_cons j x m).mp h
    simp only [mdel]
    split
    · exact ih hc.2
    · exact (mrising_cons _ _ _).mpr ⟨fun p hp => hc.1 p (mem_mdel hp), ih hc.2⟩

/-! ### Memory -/

/-- Reading a byte after a write: the byte written at its address, and what was there everywhere else. -/
theorem memGet_memPut (m : List Host.Cell) (a k : Nat) (b : Byte) :
    memGet (memPut m a b) k = if k = a then b else memGet m k := by
  unfold memGet memPut
  split
  · rename_i h; rw [mget_mdel]; split <;> simp [h]
  · rw [mget_mput]; split <;> rfl

/-- The same for a run of bytes. -/
theorem memGet_memPutBytes (m : List Host.Cell) (a k : Nat) (bs : List Byte) :
    memGet (memPutBytes m a bs) k = if a ≤ k ∧ k < a + bs.length then bs.getD (k - a) 0#8 else memGet m k := by
  induction bs generalizing m a with
  | nil => simp only [memPutBytes, List.length_nil]; rw [if_neg]; omega
  | cons b bs ih =>
    simp only [memPutBytes, ih, memGet_memPut, List.length_cons]
    by_cases h1 : k = a
    · subst h1; simp
    · by_cases h2 : a + 1 ≤ k ∧ k < a + 1 + bs.length
      · rw [if_pos h2, if_pos (by omega)]
        have : k - a = (k - (a + 1)) + 1 := by omega
        rw [this, List.getD_cons_succ]
      · rw [if_neg h2, if_neg h1, if_neg (by omega)]

@[simp] theorem memGetBytes_length (m : List Host.Cell) (a n : Nat) : (memGetBytes m a n).length = n := by
  induction n generalizing a with
  | zero => rfl
  | succ n ih => simp [memGetBytes, ih]

theorem wf_iff (m : List Host.Cell) : Memory.wf m = true ↔ mrising m = true ∧ ∀ c ∈ m, c.2 ≠ memDefault := by
  simp [Memory.wf]

/-- A write of a byte keeps the canonical form. -/
@[simp] theorem wf_memPut {m : List Host.Cell} (h : Memory.wf m = true) (a : Nat) (b : Byte) : Memory.wf (memPut m a b) = true := by
  rw [wf_iff] at h ⊢
  unfold memPut
  split
  · exact ⟨mrising_mdel h.1 a, fun c hc => h.2 c (mem_mdel hc)⟩
  · refine ⟨mrising_mput h.1 a b, fun c hc => ?_⟩
    rcases mem_mput hc with rfl | hc
    · assumption
    · exact h.2 c hc

/-- A write of bytes keeps the canonical form. -/
@[simp] theorem wf_memPutBytes {m : List Host.Cell} (h : Memory.wf m = true) (a : Nat) (bs : List Byte) :
    Memory.wf (memPutBytes m a bs) = true := by
  induction bs generalizing m a with
  | nil => exact h
  | cons b bs ih => exact ih (wf_memPut h a b) (a + 1)

/-- Two memories in canonical form that read alike are the same. -/
theorem wf_ext {m n : List Host.Cell} (hm : Memory.wf m = true) (hn : Memory.wf n = true)
    (h : ∀ a, memGet m a = memGet n a) : m = n := by
  induction m generalizing n with
  | nil =>
    cases n with
    | nil => rfl
    | cons q n =>
      obtain ⟨k, y⟩ := q
      have := h k
      rw [wf_iff] at hn
      simp [memGet, mget] at this
      exact absurd this.symm (hn.2 (k, y) (by simp))
  | cons p m ih =>
    obtain ⟨j, x⟩ := p
    rw [wf_iff] at hm
    have cm := (mrising_cons j x m).mp hm.1
    have hx : x ≠ memDefault := hm.2 (j, x) (by simp)
    have low : ∀ (l : SMap Byte) (b : Nat), (∀ p ∈ l, b < p.1) → mget l b = none := by
      intro l b hl
      induction l with
      | nil => rfl
      | cons r l ihl =>
        obtain ⟨i, z⟩ := r
        have : b < i := hl (i, z) (by simp)
        simp only [mget]
        rw [if_neg (by omega)]
        exact ihl (fun p hp => hl p (by simp [hp]))
    cases n with
    | nil =>
      have := h j
      simp [memGet, mget] at this
      exact absurd this hx
    | cons q n =>
      obtain ⟨k, y⟩ := q
      rw [wf_iff] at hn
      have cn := (mrising_cons k y n).mp hn.1
      have hy : y ≠ memDefault := hn.2 (k, y) (by simp)
      have hjk : j = k := by
        rcases Nat.lt_trichotomy j k with hlt | he | hgt
        · have := h j
          have e : mget ((k, y) :: n) j = none := low _ _ (fun p hp => by
            simp only [List.mem_cons] at hp
            rcases hp with rfl | hp
            · exact hlt
            · exact Nat.lt_trans hlt (cn.1 p hp))
          rw [memGet, memGet, e] at this
          exact absurd (by simpa [mget] using this) hx
        · exact he
        · have := h k
          have e : mget ((j, x) :: m) k = none := low _ _ (fun p hp => by
            simp only [List.mem_cons] at hp
            rcases hp with rfl | hp
            · exact hgt
            · exact Nat.lt_trans hgt (cm.1 p hp))
          rw [memGet, memGet, e] at this
          exact absurd (by simpa [mget] using this.symm) hy
      subst hjk
      have hxy : x = y := by simpa [memGet, mget] using h j
      subst hxy
      congr 1
      refine ih ((wf_iff m).mpr ⟨cm.2, fun c hc => hm.2 c (by simp [hc])⟩)
        ((wf_iff n).mpr ⟨cn.2, fun c hc => hn.2 c (by simp [hc])⟩) (fun a => ?_)
      by_cases ha : a = j
      · subst ha; simp [memGet, low m a cm.1, low n a cn.1]
      · have := h a
        simpa [memGet, mget, Ne.symm ha] using this

end Sys2Proof.Laws
end

