-- ==== Sys2Proof/Laws/State.lean ====
section
/-! SUPPORT. One lemma for each field of the state, of a group and of a lane and each named update: what the update leaves of the
field. -/

namespace Sys2Proof.Laws

open Sys2Proof Sys2Proof.Machine

@[simp] theorem onGroup_clock (s : State) (gid : Nat) (f : Group → Group) : (onGroup s gid f).clock = s.clock := rfl
@[simp] theorem onGroup_decayAt (s : State) (gid : Nat) (f : Group → Group) : (onGroup s gid f).decayAt = s.decayAt := rfl
@[simp] theorem onGroup_cur (s : State) (gid : Nat) (f : Group → Group) : (onGroup s gid f).cur = s.cur := rfl
@[simp] theorem onGroup_args (s : State) (gid : Nat) (f : Group → Group) : (onGroup s gid f).args = s.args := rfl
@[simp] theorem onGroup_agenda (s : State) (gid : Nat) (f : Group → Group) : (onGroup s gid f).agenda = s.agenda := rfl
@[simp] theorem onGroup_fresh (s : State) (gid : Nat) (f : Group → Group) : (onGroup s gid f).fresh = s.fresh := rfl
@[simp] theorem onGroup_free (s : State) (gid : Nat) (f : Group → Group) : (onGroup s gid f).free = s.free := rfl
@[simp] theorem onGroup_mem (s : State) (gid : Nat) (f : Group → Group) : (onGroup s gid f).mem = s.mem := rfl
@[simp] theorem onGroup_forms (s : State) (gid : Nat) (f : Group → Group) : (onGroup s gid f).forms = s.forms := rfl
@[simp] theorem onGroup_former (s : State) (gid : Nat) (f : Group → Group) : (onGroup s gid f).former = s.former := rfl
@[simp] theorem onGroup_upsets (s : State) (gid : Nat) (f : Group → Group) : (onGroup s gid f).upsets = s.upsets := rfl
@[simp] theorem onGroup_poison (s : State) (gid : Nat) (f : Group → Group) : (onGroup s gid f).poison = s.poison := rfl
@[simp] theorem onGroup_writes (s : State) (gid : Nat) (f : Group → Group) : (onGroup s gid f).writes = s.writes := rfl
@[simp] theorem onGroup_cores (s : State) (gid : Nat) (f : Group → Group) : (onGroup s gid f).cores = s.cores := rfl
@[simp] theorem onGroup_dies (s : State) (gid : Nat) (f : Group → Group) : (onGroup s gid f).dies = s.dies := rfl
@[simp] theorem onGroup_nougats (s : State) (gid : Nat) (f : Group → Group) : (onGroup s gid f).nougats = s.nougats := rfl
@[simp] theorem onGroup_frontEnds (s : State) (gid : Nat) (f : Group → Group) : (onGroup s gid f).frontEnds = s.frontEnds := rfl
@[simp] theorem onGroup_parts (s : State) (gid : Nat) (f : Group → Group) : (onGroup s gid f).parts = s.parts := rfl
@[simp] theorem onGroup_walkers (s : State) (gid : Nat) (f : Group → Group) : (onGroup s gid f).walkers = s.walkers := rfl
@[simp] theorem onGroup_stores (s : State) (gid : Nat) (f : Group → Group) : (onGroup s gid f).stores = s.stores := rfl
@[simp] theorem onGroup_slices (s : State) (gid : Nat) (f : Group → Group) : (onGroup s gid f).slices = s.slices := rfl
@[simp] theorem onGroup_convs (s : State) (gid : Nat) (f : Group → Group) : (onGroup s gid f).convs = s.convs := rfl
@[simp] theorem onGroup_teams (s : State) (gid : Nat) (f : Group → Group) : (onGroup s gid f).teams = s.teams := rfl
@[simp] theorem onGroup_copies (s : State) (gid : Nat) (f : Group → Group) : (onGroup s gid f).copies = s.copies := rfl
@[simp] theorem onGroup_shipped (s : State) (gid : Nat) (f : Group → Group) : (onGroup s gid f).shipped = s.shipped := rfl
@[simp] theorem onGroup_invs (s : State) (gid : Nat) (f : Group → Group) : (onGroup s gid f).invs = s.invs := rfl
@[simp] theorem onGroup_walkq (s : State) (gid : Nat) (f : Group → Group) : (onGroup s gid f).walkq = s.walkq := rfl
@[simp] theorem onGroup_held (s : State) (gid : Nat) (f : Group → Group) : (onGroup s gid f).held = s.held := rfl
@[simp] theorem onGroup_pageq (s : State) (gid : Nat) (f : Group → Group) : (onGroup s gid f).pageq = s.pageq := rfl
@[simp] theorem onGroup_msgs (s : State) (gid : Nat) (f : Group → Group) : (onGroup s gid f).msgs = s.msgs := rfl
@[simp] theorem onGroup_drops (s : State) (gid : Nat) (f : Group → Group) : (onGroup s gid f).drops = s.drops := rfl
@[simp] theorem onGroup_cmps (s : State) (gid : Nat) (f : Group → Group) : (onGroup s gid f).cmps = s.cmps := rfl
@[simp] theorem onGroup_doors (s : State) (gid : Nat) (f : Group → Group) : (onGroup s gid f).doors = s.doors := rfl
@[simp] theorem onGroup_worlds (s : State) (gid : Nat) (f : Group → Group) : (onGroup s gid f).worlds = s.worlds := rfl
@[simp] theorem onGroup_spaces (s : State) (gid : Nat) (f : Group → Group) : (onGroup s gid f).spaces = s.spaces := rfl
@[simp] theorem onGroup_fns (s : State) (gid : Nat) (f : Group → Group) : (onGroup s gid f).fns = s.fns := rfl
@[simp] theorem onGroup_ctl (s : State) (gid : Nat) (f : Group → Group) : (onGroup s gid f).ctl = s.ctl := rfl

@[simp] theorem onTeam_clock (s : State) (tid : Nat) (f : Team → Team) : (onTeam s tid f).clock = s.clock := rfl
@[simp] theorem onTeam_decayAt (s : State) (tid : Nat) (f : Team → Team) : (onTeam s tid f).decayAt = s.decayAt := rfl
@[simp] theorem onTeam_cur (s : State) (tid : Nat) (f : Team → Team) : (onTeam s tid f).cur = s.cur := rfl
@[simp] theorem onTeam_args (s : State) (tid : Nat) (f : Team → Team) : (onTeam s tid f).args = s.args := rfl
@[simp] theorem onTeam_agenda (s : State) (tid : Nat) (f : Team → Team) : (onTeam s tid f).agenda = s.agenda := rfl
@[simp] theorem onTeam_fresh (s : State) (tid : Nat) (f : Team → Team) : (onTeam s tid f).fresh = s.fresh := rfl
@[simp] theorem onTeam_free (s : State) (tid : Nat) (f : Team → Team) : (onTeam s tid f).free = s.free := rfl
@[simp] theorem onTeam_mem (s : State) (tid : Nat) (f : Team → Team) : (onTeam s tid f).mem = s.mem := rfl
@[simp] theorem onTeam_forms (s : State) (tid : Nat) (f : Team → Team) : (onTeam s tid f).forms = s.forms := rfl
@[simp] theorem onTeam_former (s : State) (tid : Nat) (f : Team → Team) : (onTeam s tid f).former = s.former := rfl
@[simp] theorem onTeam_upsets (s : State) (tid : Nat) (f : Team → Team) : (onTeam s tid f).upsets = s.upsets := rfl
@[simp] theorem onTeam_poison (s : State) (tid : Nat) (f : Team → Team) : (onTeam s tid f).poison = s.poison := rfl
@[simp] theorem onTeam_writes (s : State) (tid : Nat) (f : Team → Team) : (onTeam s tid f).writes = s.writes := rfl
@[simp] theorem onTeam_cores (s : State) (tid : Nat) (f : Team → Team) : (onTeam s tid f).cores = s.cores := rfl
@[simp] theorem onTeam_dies (s : State) (tid : Nat) (f : Team → Team) : (onTeam s tid f).dies = s.dies := rfl
@[simp] theorem onTeam_nougats (s : State) (tid : Nat) (f : Team → Team) : (onTeam s tid f).nougats = s.nougats := rfl
@[simp] theorem onTeam_frontEnds (s : State) (tid : Nat) (f : Team → Team) : (onTeam s tid f).frontEnds = s.frontEnds := rfl
@[simp] theorem onTeam_parts (s : State) (tid : Nat) (f : Team → Team) : (onTeam s tid f).parts = s.parts := rfl
@[simp] theorem onTeam_walkers (s : State) (tid : Nat) (f : Team → Team) : (onTeam s tid f).walkers = s.walkers := rfl
@[simp] theorem onTeam_stores (s : State) (tid : Nat) (f : Team → Team) : (onTeam s tid f).stores = s.stores := rfl
@[simp] theorem onTeam_slices (s : State) (tid : Nat) (f : Team → Team) : (onTeam s tid f).slices = s.slices := rfl
@[simp] theorem onTeam_convs (s : State) (tid : Nat) (f : Team → Team) : (onTeam s tid f).convs = s.convs := rfl
@[simp] theorem onTeam_groups (s : State) (tid : Nat) (f : Team → Team) : (onTeam s tid f).groups = s.groups := rfl
@[simp] theorem onTeam_copies (s : State) (tid : Nat) (f : Team → Team) : (onTeam s tid f).copies = s.copies := rfl
@[simp] theorem onTeam_shipped (s : State) (tid : Nat) (f : Team → Team) : (onTeam s tid f).shipped = s.shipped := rfl
@[simp] theorem onTeam_invs (s : State) (tid : Nat) (f : Team → Team) : (onTeam s tid f).invs = s.invs := rfl
@[simp] theorem onTeam_walkq (s : State) (tid : Nat) (f : Team → Team) : (onTeam s tid f).walkq = s.walkq := rfl
@[simp] theorem onTeam_held (s : State) (tid : Nat) (f : Team → Team) : (onTeam s tid f).held = s.held := rfl
@[simp] theorem onTeam_pageq (s : State) (tid : Nat) (f : Team → Team) : (onTeam s tid f).pageq = s.pageq := rfl
@[simp] theorem onTeam_msgs (s : State) (tid : Nat) (f : Team → Team) : (onTeam s tid f).msgs = s.msgs := rfl
@[simp] theorem onTeam_drops (s : State) (tid : Nat) (f : Team → Team) : (onTeam s tid f).drops = s.drops := rfl
@[simp] theorem onTeam_cmps (s : State) (tid : Nat) (f : Team → Team) : (onTeam s tid f).cmps = s.cmps := rfl
@[simp] theorem onTeam_doors (s : State) (tid : Nat) (f : Team → Team) : (onTeam s tid f).doors = s.doors := rfl
@[simp] theorem onTeam_worlds (s : State) (tid : Nat) (f : Team → Team) : (onTeam s tid f).worlds = s.worlds := rfl
@[simp] theorem onTeam_spaces (s : State) (tid : Nat) (f : Team → Team) : (onTeam s tid f).spaces = s.spaces := rfl
@[simp] theorem onTeam_fns (s : State) (tid : Nat) (f : Team → Team) : (onTeam s tid f).fns = s.fns := rfl
@[simp] theorem onTeam_ctl (s : State) (tid : Nat) (f : Team → Team) : (onTeam s tid f).ctl = s.ctl := rfl

@[simp] theorem onCore_clock (s : State) (k : Nat) (f : Core → Core) : (onCore s k f).clock = s.clock := rfl
@[simp] theorem onCore_decayAt (s : State) (k : Nat) (f : Core → Core) : (onCore s k f).decayAt = s.decayAt := rfl
@[simp] theorem onCore_cur (s : State) (k : Nat) (f : Core → Core) : (onCore s k f).cur = s.cur := rfl
@[simp] theorem onCore_args (s : State) (k : Nat) (f : Core → Core) : (onCore s k f).args = s.args := rfl
@[simp] theorem onCore_agenda (s : State) (k : Nat) (f : Core → Core) : (onCore s k f).agenda = s.agenda := rfl
@[simp] theorem onCore_fresh (s : State) (k : Nat) (f : Core → Core) : (onCore s k f).fresh = s.fresh := rfl
@[simp] theorem onCore_free (s : State) (k : Nat) (f : Core → Core) : (onCore s k f).free = s.free := rfl
@[simp] theorem onCore_mem (s : State) (k : Nat) (f : Core → Core) : (onCore s k f).mem = s.mem := rfl
@[simp] theorem onCore_forms (s : State) (k : Nat) (f : Core → Core) : (onCore s k f).forms = s.forms := rfl
@[simp] theorem onCore_former (s : State) (k : Nat) (f : Core → Core) : (onCore s k f).former = s.former := rfl
@[simp] theorem onCore_upsets (s : State) (k : Nat) (f : Core → Core) : (onCore s k f).upsets = s.upsets := rfl
@[simp] theorem onCore_poison (s : State) (k : Nat) (f : Core → Core) : (onCore s k f).poison = s.poison := rfl
@[simp] theorem onCore_writes (s : State) (k : Nat) (f : Core → Core) : (onCore s k f).writes = s.writes := rfl
@[simp] theorem onCore_dies (s : State) (k : Nat) (f : Core → Core) : (onCore s k f).dies = s.dies := rfl
@[simp] theorem onCore_nougats (s : State) (k : Nat) (f : Core → Core) : (onCore s k f).nougats = s.nougats := rfl
@[simp] theorem onCore_frontEnds (s : State) (k : Nat) (f : Core → Core) : (onCore s k f).frontEnds = s.frontEnds := rfl
@[simp] theorem onCore_parts (s : State) (k : Nat) (f : Core → Core) : (onCore s k f).parts = s.parts := rfl
@[simp] theorem onCore_walkers (s : State) (k : Nat) (f : Core → Core) : (onCore s k f).walkers = s.walkers := rfl
@[simp] theorem onCore_stores (s : State) (k : Nat) (f : Core → Core) : (onCore s k f).stores = s.stores := rfl
@[simp] theorem onCore_slices (s : State) (k : Nat) (f : Core → Core) : (onCore s k f).slices = s.slices := rfl
@[simp] theorem onCore_convs (s : State) (k : Nat) (f : Core → Core) : (onCore s k f).convs = s.convs := rfl
@[simp] theorem onCore_teams (s : State) (k : Nat) (f : Core → Core) : (onCore s k f).teams = s.teams := rfl
@[simp] theorem onCore_groups (s : State) (k : Nat) (f : Core → Core) : (onCore s k f).groups = s.groups := rfl
@[simp] theorem onCore_copies (s : State) (k : Nat) (f : Core → Core) : (onCore s k f).copies = s.copies := rfl
@[simp] theorem onCore_shipped (s : State) (k : Nat) (f : Core → Core) : (onCore s k f).shipped = s.shipped := rfl
@[simp] theorem onCore_invs (s : State) (k : Nat) (f : Core → Core) : (onCore s k f).invs = s.invs := rfl
@[simp] theorem onCore_walkq (s : State) (k : Nat) (f : Core → Core) : (onCore s k f).walkq = s.walkq := rfl
@[simp] theorem onCore_held (s : State) (k : Nat) (f : Core → Core) : (onCore s k f).held = s.held := rfl
@[simp] theorem onCore_pageq (s : State) (k : Nat) (f : Core → Core) : (onCore s k f).pageq = s.pageq := rfl
@[simp] theorem onCore_msgs (s : State) (k : Nat) (f : Core → Core) : (onCore s k f).msgs = s.msgs := rfl
@[simp] theorem onCore_drops (s : State) (k : Nat) (f : Core → Core) : (onCore s k f).drops = s.drops := rfl
@[simp] theorem onCore_cmps (s : State) (k : Nat) (f : Core → Core) : (onCore s k f).cmps = s.cmps := rfl
@[simp] theorem onCore_doors (s : State) (k : Nat) (f : Core → Core) : (onCore s k f).doors = s.doors := rfl
@[simp] theorem onCore_worlds (s : State) (k : Nat) (f : Core → Core) : (onCore s k f).worlds = s.worlds := rfl
@[simp] theorem onCore_spaces (s : State) (k : Nat) (f : Core → Core) : (onCore s k f).spaces = s.spaces := rfl
@[simp] theorem onCore_fns (s : State) (k : Nat) (f : Core → Core) : (onCore s k f).fns = s.fns := rfl
@[simp] theorem onCore_ctl (s : State) (k : Nat) (f : Core → Core) : (onCore s k f).ctl = s.ctl := rfl

@[simp] theorem onDie_clock (s : State) (d : Nat) (f : Die → Die) : (onDie s d f).clock = s.clock := rfl
@[simp] theorem onDie_decayAt (s : State) (d : Nat) (f : Die → Die) : (onDie s d f).decayAt = s.decayAt := rfl
@[simp] theorem onDie_cur (s : State) (d : Nat) (f : Die → Die) : (onDie s d f).cur = s.cur := rfl
@[simp] theorem onDie_args (s : State) (d : Nat) (f : Die → Die) : (onDie s d f).args = s.args := rfl
@[simp] theorem onDie_agenda (s : State) (d : Nat) (f : Die → Die) : (onDie s d f).agenda = s.agenda := rfl
@[simp] theorem onDie_fresh (s : State) (d : Nat) (f : Die → Die) : (onDie s d f).fresh = s.fresh := rfl
@[simp] theorem onDie_free (s : State) (d : Nat) (f : Die → Die) : (onDie s d f).free = s.free := rfl
@[simp] theorem onDie_mem (s : State) (d : Nat) (f : Die → Die) : (onDie s d f).mem = s.mem := rfl
@[simp] theorem onDie_forms (s : State) (d : Nat) (f : Die → Die) : (onDie s d f).forms = s.forms := rfl
@[simp] theorem onDie_former (s : State) (d : Nat) (f : Die → Die) : (onDie s d f).former = s.former := rfl
@[simp] theorem onDie_upsets (s : State) (d : Nat) (f : Die → Die) : (onDie s d f).upsets = s.upsets := rfl
@[simp] theorem onDie_poison (s : State) (d : Nat) (f : Die → Die) : (onDie s d f).poison = s.poison := rfl
@[simp] theorem onDie_writes (s : State) (d : Nat) (f : Die → Die) : (onDie s d f).writes = s.writes := rfl
@[simp] theorem onDie_cores (s : State) (d : Nat) (f : Die → Die) : (onDie s d f).cores = s.cores := rfl
@[simp] theorem onDie_nougats (s : State) (d : Nat) (f : Die → Die) : (onDie s d f).nougats = s.nougats := rfl
@[simp] theorem onDie_frontEnds (s : State) (d : Nat) (f : Die → Die) : (onDie s d f).frontEnds = s.frontEnds := rfl
@[simp] theorem onDie_parts (s : State) (d : Nat) (f : Die → Die) : (onDie s d f).parts = s.parts := rfl
@[simp] theorem onDie_walkers (s : State) (d : Nat) (f : Die → Die) : (onDie s d f).walkers = s.walkers := rfl
@[simp] theorem onDie_stores (s : State) (d : Nat) (f : Die → Die) : (onDie s d f).stores = s.stores := rfl
@[simp] theorem onDie_slices (s : State) (d : Nat) (f : Die → Die) : (onDie s d f).slices = s.slices := rfl
@[simp] theorem onDie_convs (s : State) (d : Nat) (f : Die → Die) : (onDie s d f).convs = s.convs := rfl
@[simp] theorem onDie_teams (s : State) (d : Nat) (f : Die → Die) : (onDie s d f).teams = s.teams := rfl
@[simp] theorem onDie_groups (s : State) (d : Nat) (f : Die → Die) : (onDie s d f).groups = s.groups := rfl
@[simp] theorem onDie_copies (s : State) (d : Nat) (f : Die → Die) : (onDie s d f).copies = s.copies := rfl
@[simp] theorem onDie_shipped (s : State) (d : Nat) (f : Die → Die) : (onDie s d f).shipped = s.shipped := rfl
@[simp] theorem onDie_invs (s : State) (d : Nat) (f : Die → Die) : (onDie s d f).invs = s.invs := rfl
@[simp] theorem onDie_walkq (s : State) (d : Nat) (f : Die → Die) : (onDie s d f).walkq = s.walkq := rfl
@[simp] theorem onDie_held (s : State) (d : Nat) (f : Die → Die) : (onDie s d f).held = s.held := rfl
@[simp] theorem onDie_pageq (s : State) (d : Nat) (f : Die → Die) : (onDie s d f).pageq = s.pageq := rfl
@[simp] theorem onDie_msgs (s : State) (d : Nat) (f : Die → Die) : (onDie s d f).msgs = s.msgs := rfl
@[simp] theorem onDie_drops (s : State) (d : Nat) (f : Die → Die) : (onDie s d f).drops = s.drops := rfl
@[simp] theorem onDie_cmps (s : State) (d : Nat) (f : Die → Die) : (onDie s d f).cmps = s.cmps := rfl
@[simp] theorem onDie_doors (s : State) (d : Nat) (f : Die → Die) : (onDie s d f).doors = s.doors := rfl
@[simp] theorem onDie_worlds (s : State) (d : Nat) (f : Die → Die) : (onDie s d f).worlds = s.worlds := rfl
@[simp] theorem onDie_spaces (s : State) (d : Nat) (f : Die → Die) : (onDie s d f).spaces = s.spaces := rfl
@[simp] theorem onDie_fns (s : State) (d : Nat) (f : Die → Die) : (onDie s d f).fns = s.fns := rfl
@[simp] theorem onDie_ctl (s : State) (d : Nat) (f : Die → Die) : (onDie s d f).ctl = s.ctl := rfl

@[simp] theorem onQueue_clock (s : State) (fe slot : Nat) (f : Queue → Queue) : (onQueue s fe slot f).clock = s.clock := rfl
@[simp] theorem onQueue_decayAt (s : State) (fe slot : Nat) (f : Queue → Queue) : (onQueue s fe slot f).decayAt = s.decayAt := rfl
@[simp] theorem onQueue_cur (s : State) (fe slot : Nat) (f : Queue → Queue) : (onQueue s fe slot f).cur = s.cur := rfl
@[simp] theorem onQueue_args (s : State) (fe slot : Nat) (f : Queue → Queue) : (onQueue s fe slot f).args = s.args := rfl
@[simp] theorem onQueue_agenda (s : State) (fe slot : Nat) (f : Queue → Queue) : (onQueue s fe slot f).agenda = s.agenda := rfl
@[simp] theorem onQueue_fresh (s : State) (fe slot : Nat) (f : Queue → Queue) : (onQueue s fe slot f).fresh = s.fresh := rfl
@[simp] theorem onQueue_free (s : State) (fe slot : Nat) (f : Queue → Queue) : (onQueue s fe slot f).free = s.free := rfl
@[simp] theorem onQueue_mem (s : State) (fe slot : Nat) (f : Queue → Queue) : (onQueue s fe slot f).mem = s.mem := rfl
@[simp] theorem onQueue_forms (s : State) (fe slot : Nat) (f : Queue → Queue) : (onQueue s fe slot f).forms = s.forms := rfl
@[simp] theorem onQueue_former (s : State) (fe slot : Nat) (f : Queue → Queue) : (onQueue s fe slot f).former = s.former := rfl
@[simp] theorem onQueue_upsets (s : State) (fe slot : Nat) (f : Queue → Queue) : (onQueue s fe slot f).upsets = s.upsets := rfl
@[simp] theorem onQueue_poison (s : State) (fe slot : Nat) (f : Queue → Queue) : (onQueue s fe slot f).poison = s.poison := rfl
@[simp] theorem onQueue_writes (s : State) (fe slot : Nat) (f : Queue → Queue) : (onQueue s fe slot f).writes = s.writes := rfl
@[simp] theorem onQueue_cores (s : State) (fe slot : Nat) (f : Queue → Queue) : (onQueue s fe slot f).cores = s.cores := rfl
@[simp] theorem onQueue_dies (s : State) (fe slot : Nat) (f : Queue → Queue) : (onQueue s fe slot f).dies = s.dies := rfl
@[simp] theorem onQueue_nougats (s : State) (fe slot : Nat) (f : Queue → Queue) : (onQueue s fe slot f).nougats = s.nougats := rfl
@[simp] theorem onQueue_parts (s : State) (fe slot : Nat) (f : Queue → Queue) : (onQueue s fe slot f).parts = s.parts := rfl
@[simp] theorem onQueue_walkers (s : State) (fe slot : Nat) (f : Queue → Queue) : (onQueue s fe slot f).walkers = s.walkers := rfl
@[simp] theorem onQueue_stores (s : State) (fe slot : Nat) (f : Queue → Queue) : (onQueue s fe slot f).stores = s.stores := rfl
@[simp] theorem onQueue_slices (s : State) (fe slot : Nat) (f : Queue → Queue) : (onQueue s fe slot f).slices = s.slices := rfl
@[simp] theorem onQueue_convs (s : State) (fe slot : Nat) (f : Queue → Queue) : (onQueue s fe slot f).convs = s.convs := rfl
@[simp] theorem onQueue_teams (s : State) (fe slot : Nat) (f : Queue → Queue) : (onQueue s fe slot f).teams = s.teams := rfl
@[simp] theorem onQueue_groups (s : State) (fe slot : Nat) (f : Queue → Queue) : (onQueue s fe slot f).groups = s.groups := rfl
@[simp] theorem onQueue_copies (s : State) (fe slot : Nat) (f : Queue → Queue) : (onQueue s fe slot f).copies = s.copies := rfl
@[simp] theorem onQueue_shipped (s : State) (fe slot : Nat) (f : Queue → Queue) : (onQueue s fe slot f).shipped = s.shipped := rfl
@[simp] theorem onQueue_invs (s : State) (fe slot : Nat) (f : Queue → Queue) : (onQueue s fe slot f).invs = s.invs := rfl
@[simp] theorem onQueue_walkq (s : State) (fe slot : Nat) (f : Queue → Queue) : (onQueue s fe slot f).walkq = s.walkq := rfl
@[simp] theorem onQueue_held (s : State) (fe slot : Nat) (f : Queue → Queue) : (onQueue s fe slot f).held = s.held := rfl
@[simp] theorem onQueue_pageq (s : State) (fe slot : Nat) (f : Queue → Queue) : (onQueue s fe slot f).pageq = s.pageq := rfl
@[simp] theorem onQueue_msgs (s : State) (fe slot : Nat) (f : Queue → Queue) : (onQueue s fe slot f).msgs = s.msgs := rfl
@[simp] theorem onQueue_drops (s : State) (fe slot : Nat) (f : Queue → Queue) : (onQueue s fe slot f).drops = s.drops := rfl
@[simp] theorem onQueue_cmps (s : State) (fe slot : Nat) (f : Queue → Queue) : (onQueue s fe slot f).cmps = s.cmps := rfl
@[simp] theorem onQueue_doors (s : State) (fe slot : Nat) (f : Queue → Queue) : (onQueue s fe slot f).doors = s.doors := rfl
@[simp] theorem onQueue_worlds (s : State) (fe slot : Nat) (f : Queue → Queue) : (onQueue s fe slot f).worlds = s.worlds := rfl
@[simp] theorem onQueue_spaces (s : State) (fe slot : Nat) (f : Queue → Queue) : (onQueue s fe slot f).spaces = s.spaces := rfl
@[simp] theorem onQueue_fns (s : State) (fe slot : Nat) (f : Queue → Queue) : (onQueue s fe slot f).fns = s.fns := rfl
@[simp] theorem onQueue_ctl (s : State) (fe slot : Nat) (f : Queue → Queue) : (onQueue s fe slot f).ctl = s.ctl := rfl

@[simp] theorem onSlice_clock (s : State) (k : Nat) (f : SliceEng → SliceEng) : (onSlice s k f).clock = s.clock := rfl
@[simp] theorem onSlice_decayAt (s : State) (k : Nat) (f : SliceEng → SliceEng) : (onSlice s k f).decayAt = s.decayAt := rfl
@[simp] theorem onSlice_cur (s : State) (k : Nat) (f : SliceEng → SliceEng) : (onSlice s k f).cur = s.cur := rfl
@[simp] theorem onSlice_args (s : State) (k : Nat) (f : SliceEng → SliceEng) : (onSlice s k f).args = s.args := rfl
@[simp] theorem onSlice_agenda (s : State) (k : Nat) (f : SliceEng → SliceEng) : (onSlice s k f).agenda = s.agenda := rfl
@[simp] theorem onSlice_fresh (s : State) (k : Nat) (f : SliceEng → SliceEng) : (onSlice s k f).fresh = s.fresh := rfl
@[simp] theorem onSlice_free (s : State) (k : Nat) (f : SliceEng → SliceEng) : (onSlice s k f).free = s.free := rfl
@[simp] theorem onSlice_mem (s : State) (k : Nat) (f : SliceEng → SliceEng) : (onSlice s k f).mem = s.mem := rfl
@[simp] theorem onSlice_forms (s : State) (k : Nat) (f : SliceEng → SliceEng) : (onSlice s k f).forms = s.forms := rfl
@[simp] theorem onSlice_former (s : State) (k : Nat) (f : SliceEng → SliceEng) : (onSlice s k f).former = s.former := rfl
@[simp] theorem onSlice_upsets (s : State) (k : Nat) (f : SliceEng → SliceEng) : (onSlice s k f).upsets = s.upsets := rfl
@[simp] theorem onSlice_poison (s : State) (k : Nat) (f : SliceEng → SliceEng) : (onSlice s k f).poison = s.poison := rfl
@[simp] theorem onSlice_writes (s : State) (k : Nat) (f : SliceEng → SliceEng) : (onSlice s k f).writes = s.writes := rfl
@[simp] theorem onSlice_cores (s : State) (k : Nat) (f : SliceEng → SliceEng) : (onSlice s k f).cores = s.cores := rfl
@[simp] theorem onSlice_dies (s : State) (k : Nat) (f : SliceEng → SliceEng) : (onSlice s k f).dies = s.dies := rfl
@[simp] theorem onSlice_nougats (s : State) (k : Nat) (f : SliceEng → SliceEng) : (onSlice s k f).nougats = s.nougats := rfl
@[simp] theorem onSlice_frontEnds (s : State) (k : Nat) (f : SliceEng → SliceEng) : (onSlice s k f).frontEnds = s.frontEnds := rfl
@[simp] theorem onSlice_parts (s : State) (k : Nat) (f : SliceEng → SliceEng) : (onSlice s k f).parts = s.parts := rfl
@[simp] theorem onSlice_walkers (s : State) (k : Nat) (f : SliceEng → SliceEng) : (onSlice s k f).walkers = s.walkers := rfl
@[simp] theorem onSlice_stores (s : State) (k : Nat) (f : SliceEng → SliceEng) : (onSlice s k f).stores = s.stores := rfl
@[simp] theorem onSlice_convs (s : State) (k : Nat) (f : SliceEng → SliceEng) : (onSlice s k f).convs = s.convs := rfl
@[simp] theorem onSlice_teams (s : State) (k : Nat) (f : SliceEng → SliceEng) : (onSlice s k f).teams = s.teams := rfl
@[simp] theorem onSlice_groups (s : State) (k : Nat) (f : SliceEng → SliceEng) : (onSlice s k f).groups = s.groups := rfl
@[simp] theorem onSlice_copies (s : State) (k : Nat) (f : SliceEng → SliceEng) : (onSlice s k f).copies = s.copies := rfl
@[simp] theorem onSlice_shipped (s : State) (k : Nat) (f : SliceEng → SliceEng) : (onSlice s k f).shipped = s.shipped := rfl
@[simp] theorem onSlice_invs (s : State) (k : Nat) (f : SliceEng → SliceEng) : (onSlice s k f).invs = s.invs := rfl
@[simp] theorem onSlice_walkq (s : State) (k : Nat) (f : SliceEng → SliceEng) : (onSlice s k f).walkq = s.walkq := rfl
@[simp] theorem onSlice_held (s : State) (k : Nat) (f : SliceEng → SliceEng) : (onSlice s k f).held = s.held := rfl
@[simp] theorem onSlice_pageq (s : State) (k : Nat) (f : SliceEng → SliceEng) : (onSlice s k f).pageq = s.pageq := rfl
@[simp] theorem onSlice_msgs (s : State) (k : Nat) (f : SliceEng → SliceEng) : (onSlice s k f).msgs = s.msgs := rfl
@[simp] theorem onSlice_drops (s : State) (k : Nat) (f : SliceEng → SliceEng) : (onSlice s k f).drops = s.drops := rfl
@[simp] theorem onSlice_cmps (s : State) (k : Nat) (f : SliceEng → SliceEng) : (onSlice s k f).cmps = s.cmps := rfl
@[simp] theorem onSlice_doors (s : State) (k : Nat) (f : SliceEng → SliceEng) : (onSlice s k f).doors = s.doors := rfl
@[simp] theorem onSlice_worlds (s : State) (k : Nat) (f : SliceEng → SliceEng) : (onSlice s k f).worlds = s.worlds := rfl
@[simp] theorem onSlice_spaces (s : State) (k : Nat) (f : SliceEng → SliceEng) : (onSlice s k f).spaces = s.spaces := rfl
@[simp] theorem onSlice_fns (s : State) (k : Nat) (f : SliceEng → SliceEng) : (onSlice s k f).fns = s.fns := rfl
@[simp] theorem onSlice_ctl (s : State) (k : Nat) (f : SliceEng → SliceEng) : (onSlice s k f).ctl = s.ctl := rfl

@[simp] theorem onWalker_clock (s : State) (w : Nat) (f : Walker → Walker) : (onWalker s w f).clock = s.clock := rfl
@[simp] theorem onWalker_decayAt (s : State) (w : Nat) (f : Walker → Walker) : (onWalker s w f).decayAt = s.decayAt := rfl
@[simp] theorem onWalker_cur (s : State) (w : Nat) (f : Walker → Walker) : (onWalker s w f).cur = s.cur := rfl
@[simp] theorem onWalker_args (s : State) (w : Nat) (f : Walker → Walker) : (onWalker s w f).args = s.args := rfl
@[simp] theorem onWalker_agenda (s : State) (w : Nat) (f : Walker → Walker) : (onWalker s w f).agenda = s.agenda := rfl
@[simp] theorem onWalker_fresh (s : State) (w : Nat) (f : Walker → Walker) : (onWalker s w f).fresh = s.fresh := rfl
@[simp] theorem onWalker_free (s : State) (w : Nat) (f : Walker → Walker) : (onWalker s w f).free = s.free := rfl
@[simp] theorem onWalker_mem (s : State) (w : Nat) (f : Walker → Walker) : (onWalker s w f).mem = s.mem := rfl
@[simp] theorem onWalker_forms (s : State) (w : Nat) (f : Walker → Walker) : (onWalker s w f).forms = s.forms := rfl
@[simp] theorem onWalker_former (s : State) (w : Nat) (f : Walker → Walker) : (onWalker s w f).former = s.former := rfl
@[simp] theorem onWalker_upsets (s : State) (w : Nat) (f : Walker → Walker) : (onWalker s w f).upsets = s.upsets := rfl
@[simp] theorem onWalker_poison (s : State) (w : Nat) (f : Walker → Walker) : (onWalker s w f).poison = s.poison := rfl
@[simp] theorem onWalker_writes (s : State) (w : Nat) (f : Walker → Walker) : (onWalker s w f).writes = s.writes := rfl
@[simp] theorem onWalker_cores (s : State) (w : Nat) (f : Walker → Walker) : (onWalker s w f).cores = s.cores := rfl
@[simp] theorem onWalker_dies (s : State) (w : Nat) (f : Walker → Walker) : (onWalker s w f).dies = s.dies := rfl
@[simp] theorem onWalker_nougats (s : State) (w : Nat) (f : Walker → Walker) : (onWalker s w f).nougats = s.nougats := rfl
@[simp] theorem onWalker_frontEnds (s : State) (w : Nat) (f : Walker → Walker) : (onWalker s w f).frontEnds = s.frontEnds := rfl
@[simp] theorem onWalker_parts (s : State) (w : Nat) (f : Walker → Walker) : (onWalker s w f).parts = s.parts := rfl
@[simp] theorem onWalker_stores (s : State) (w : Nat) (f : Walker → Walker) : (onWalker s w f).stores = s.stores := rfl
@[simp] theorem onWalker_slices (s : State) (w : Nat) (f : Walker → Walker) : (onWalker s w f).slices = s.slices := rfl
@[simp] theorem onWalker_convs (s : State) (w : Nat) (f : Walker → Walker) : (onWalker s w f).convs = s.convs := rfl
@[simp] theorem onWalker_teams (s : State) (w : Nat) (f : Walker → Walker) : (onWalker s w f).teams = s.teams := rfl
@[simp] theorem onWalker_groups (s : State) (w : Nat) (f : Walker → Walker) : (onWalker s w f).groups = s.groups := rfl
@[simp] theorem onWalker_copies (s : State) (w : Nat) (f : Walker → Walker) : (onWalker s w f).copies = s.copies := rfl
@[simp] theorem onWalker_shipped (s : State) (w : Nat) (f : Walker → Walker) : (onWalker s w f).shipped = s.shipped := rfl
@[simp] theorem onWalker_invs (s : State) (w : Nat) (f : Walker → Walker) : (onWalker s w f).invs = s.invs := rfl
@[simp] theorem onWalker_walkq (s : State) (w : Nat) (f : Walker → Walker) : (onWalker s w f).walkq = s.walkq := rfl
@[simp] theorem onWalker_held (s : State) (w : Nat) (f : Walker → Walker) : (onWalker s w f).held = s.held := rfl
@[simp] theorem onWalker_pageq (s : State) (w : Nat) (f : Walker → Walker) : (onWalker s w f).pageq = s.pageq := rfl
@[simp] theorem onWalker_msgs (s : State) (w : Nat) (f : Walker → Walker) : (onWalker s w f).msgs = s.msgs := rfl
@[simp] theorem onWalker_drops (s : State) (w : Nat) (f : Walker → Walker) : (onWalker s w f).drops = s.drops := rfl
@[simp] theorem onWalker_cmps (s : State) (w : Nat) (f : Walker → Walker) : (onWalker s w f).cmps = s.cmps := rfl
@[simp] theorem onWalker_doors (s : State) (w : Nat) (f : Walker → Walker) : (onWalker s w f).doors = s.doors := rfl
@[simp] theorem onWalker_worlds (s : State) (w : Nat) (f : Walker → Walker) : (onWalker s w f).worlds = s.worlds := rfl
@[simp] theorem onWalker_spaces (s : State) (w : Nat) (f : Walker → Walker) : (onWalker s w f).spaces = s.spaces := rfl
@[simp] theorem onWalker_fns (s : State) (w : Nat) (f : Walker → Walker) : (onWalker s w f).fns = s.fns := rfl
@[simp] theorem onWalker_ctl (s : State) (w : Nat) (f : Walker → Walker) : (onWalker s w f).ctl = s.ctl := rfl

@[simp] theorem onFn_clock (s : State) (n : Nat) (f : Fn → Fn) : (onFn s n f).clock = s.clock := rfl
@[simp] theorem onFn_decayAt (s : State) (n : Nat) (f : Fn → Fn) : (onFn s n f).decayAt = s.decayAt := rfl
@[simp] theorem onFn_cur (s : State) (n : Nat) (f : Fn → Fn) : (onFn s n f).cur = s.cur := rfl
@[simp] theorem onFn_args (s : State) (n : Nat) (f : Fn → Fn) : (onFn s n f).args = s.args := rfl
@[simp] theorem onFn_agenda (s : State) (n : Nat) (f : Fn → Fn) : (onFn s n f).agenda = s.agenda := rfl
@[simp] theorem onFn_fresh (s : State) (n : Nat) (f : Fn → Fn) : (onFn s n f).fresh = s.fresh := rfl
@[simp] theorem onFn_free (s : State) (n : Nat) (f : Fn → Fn) : (onFn s n f).free = s.free := rfl
@[simp] theorem onFn_mem (s : State) (n : Nat) (f : Fn → Fn) : (onFn s n f).mem = s.mem := rfl
@[simp] theorem onFn_forms (s : State) (n : Nat) (f : Fn → Fn) : (onFn s n f).forms = s.forms := rfl
@[simp] theorem onFn_former (s : State) (n : Nat) (f : Fn → Fn) : (onFn s n f).former = s.former := rfl
@[simp] theorem onFn_upsets (s : State) (n : Nat) (f : Fn → Fn) : (onFn s n f).upsets = s.upsets := rfl
@[simp] theorem onFn_poison (s : State) (n : Nat) (f : Fn → Fn) : (onFn s n f).poison = s.poison := rfl
@[simp] theorem onFn_writes (s : State) (n : Nat) (f : Fn → Fn) : (onFn s n f).writes = s.writes := rfl
@[simp] theorem onFn_cores (s : State) (n : Nat) (f : Fn → Fn) : (onFn s n f).cores = s.cores := rfl
@[simp] theorem onFn_dies (s : State) (n : Nat) (f : Fn → Fn) : (onFn s n f).dies = s.dies := rfl
@[simp] theorem onFn_nougats (s : State) (n : Nat) (f : Fn → Fn) : (onFn s n f).nougats = s.nougats := rfl
@[simp] theorem onFn_frontEnds (s : State) (n : Nat) (f : Fn → Fn) : (onFn s n f).frontEnds = s.frontEnds := rfl
@[simp] theorem onFn_parts (s : State) (n : Nat) (f : Fn → Fn) : (onFn s n f).parts = s.parts := rfl
@[simp] theorem onFn_walkers (s : State) (n : Nat) (f : Fn → Fn) : (onFn s n f).walkers = s.walkers := rfl
@[simp] theorem onFn_stores (s : State) (n : Nat) (f : Fn → Fn) : (onFn s n f).stores = s.stores := rfl
@[simp] theorem onFn_slices (s : State) (n : Nat) (f : Fn → Fn) : (onFn s n f).slices = s.slices := rfl
@[simp] theorem onFn_convs (s : State) (n : Nat) (f : Fn → Fn) : (onFn s n f).convs = s.convs := rfl
@[simp] theorem onFn_teams (s : State) (n : Nat) (f : Fn → Fn) : (onFn s n f).teams = s.teams := rfl
@[simp] theorem onFn_groups (s : State) (n : Nat) (f : Fn → Fn) : (onFn s n f).groups = s.groups := rfl
@[simp] theorem onFn_copies (s : State) (n : Nat) (f : Fn → Fn) : (onFn s n f).copies = s.copies := rfl
@[simp] theorem onFn_shipped (s : State) (n : Nat) (f : Fn → Fn) : (onFn s n f).shipped = s.shipped := rfl
@[simp] theorem onFn_invs (s : State) (n : Nat) (f : Fn → Fn) : (onFn s n f).invs = s.invs := rfl
@[simp] theorem onFn_walkq (s : State) (n : Nat) (f : Fn → Fn) : (onFn s n f).walkq = s.walkq := rfl
@[simp] theorem onFn_held (s : State) (n : Nat) (f : Fn → Fn) : (onFn s n f).held = s.held := rfl
@[simp] theorem onFn_pageq (s : State) (n : Nat) (f : Fn → Fn) : (onFn s n f).pageq = s.pageq := rfl
@[simp] theorem onFn_msgs (s : State) (n : Nat) (f : Fn → Fn) : (onFn s n f).msgs = s.msgs := rfl
@[simp] theorem onFn_drops (s : State) (n : Nat) (f : Fn → Fn) : (onFn s n f).drops = s.drops := rfl
@[simp] theorem onFn_cmps (s : State) (n : Nat) (f : Fn → Fn) : (onFn s n f).cmps = s.cmps := rfl
@[simp] theorem onFn_doors (s : State) (n : Nat) (f : Fn → Fn) : (onFn s n f).doors = s.doors := rfl
@[simp] theorem onFn_worlds (s : State) (n : Nat) (f : Fn → Fn) : (onFn s n f).worlds = s.worlds := rfl
@[simp] theorem onFn_spaces (s : State) (n : Nat) (f : Fn → Fn) : (onFn s n f).spaces = s.spaces := rfl
@[simp] theorem onFn_ctl (s : State) (n : Nat) (f : Fn → Fn) : (onFn s n f).ctl = s.ctl := rfl

@[simp] theorem onNougat_clock (s : State) (h : Nat) (f : Nougat → Nougat) : (onNougat s h f).clock = s.clock := rfl
@[simp] theorem onNougat_decayAt (s : State) (h : Nat) (f : Nougat → Nougat) : (onNougat s h f).decayAt = s.decayAt := rfl
@[simp] theorem onNougat_cur (s : State) (h : Nat) (f : Nougat → Nougat) : (onNougat s h f).cur = s.cur := rfl
@[simp] theorem onNougat_args (s : State) (h : Nat) (f : Nougat → Nougat) : (onNougat s h f).args = s.args := rfl
@[simp] theorem onNougat_agenda (s : State) (h : Nat) (f : Nougat → Nougat) : (onNougat s h f).agenda = s.agenda := rfl
@[simp] theorem onNougat_fresh (s : State) (h : Nat) (f : Nougat → Nougat) : (onNougat s h f).fresh = s.fresh := rfl
@[simp] theorem onNougat_free (s : State) (h : Nat) (f : Nougat → Nougat) : (onNougat s h f).free = s.free := rfl
@[simp] theorem onNougat_mem (s : State) (h : Nat) (f : Nougat → Nougat) : (onNougat s h f).mem = s.mem := rfl
@[simp] theorem onNougat_forms (s : State) (h : Nat) (f : Nougat → Nougat) : (onNougat s h f).forms = s.forms := rfl
@[simp] theorem onNougat_former (s : State) (h : Nat) (f : Nougat → Nougat) : (onNougat s h f).former = s.former := rfl
@[simp] theorem onNougat_upsets (s : State) (h : Nat) (f : Nougat → Nougat) : (onNougat s h f).upsets = s.upsets := rfl
@[simp] theorem onNougat_poison (s : State) (h : Nat) (f : Nougat → Nougat) : (onNougat s h f).poison = s.poison := rfl
@[simp] theorem onNougat_writes (s : State) (h : Nat) (f : Nougat → Nougat) : (onNougat s h f).writes = s.writes := rfl
@[simp] theorem onNougat_cores (s : State) (h : Nat) (f : Nougat → Nougat) : (onNougat s h f).cores = s.cores := rfl
@[simp] theorem onNougat_dies (s : State) (h : Nat) (f : Nougat → Nougat) : (onNougat s h f).dies = s.dies := rfl
@[simp] theorem onNougat_frontEnds (s : State) (h : Nat) (f : Nougat → Nougat) : (onNougat s h f).frontEnds = s.frontEnds := rfl
@[simp] theorem onNougat_parts (s : State) (h : Nat) (f : Nougat → Nougat) : (onNougat s h f).parts = s.parts := rfl
@[simp] theorem onNougat_walkers (s : State) (h : Nat) (f : Nougat → Nougat) : (onNougat s h f).walkers = s.walkers := rfl
@[simp] theorem onNougat_stores (s : State) (h : Nat) (f : Nougat → Nougat) : (onNougat s h f).stores = s.stores := rfl
@[simp] theorem onNougat_slices (s : State) (h : Nat) (f : Nougat → Nougat) : (onNougat s h f).slices = s.slices := rfl
@[simp] theorem onNougat_convs (s : State) (h : Nat) (f : Nougat → Nougat) : (onNougat s h f).convs = s.convs := rfl
@[simp] theorem onNougat_teams (s : State) (h : Nat) (f : Nougat → Nougat) : (onNougat s h f).teams = s.teams := rfl
@[simp] theorem onNougat_groups (s : State) (h : Nat) (f : Nougat → Nougat) : (onNougat s h f).groups = s.groups := rfl
@[simp] theorem onNougat_copies (s : State) (h : Nat) (f : Nougat → Nougat) : (onNougat s h f).copies = s.copies := rfl
@[simp] theorem onNougat_shipped (s : State) (h : Nat) (f : Nougat → Nougat) : (onNougat s h f).shipped = s.shipped := rfl
@[simp] theorem onNougat_invs (s : State) (h : Nat) (f : Nougat → Nougat) : (onNougat s h f).invs = s.invs := rfl
@[simp] theorem onNougat_walkq (s : State) (h : Nat) (f : Nougat → Nougat) : (onNougat s h f).walkq = s.walkq := rfl
@[simp] theorem onNougat_held (s : State) (h : Nat) (f : Nougat → Nougat) : (onNougat s h f).held = s.held := rfl
@[simp] theorem onNougat_pageq (s : State) (h : Nat) (f : Nougat → Nougat) : (onNougat s h f).pageq = s.pageq := rfl
@[simp] theorem onNougat_msgs (s : State) (h : Nat) (f : Nougat → Nougat) : (onNougat s h f).msgs = s.msgs := rfl
@[simp] theorem onNougat_drops (s : State) (h : Nat) (f : Nougat → Nougat) : (onNougat s h f).drops = s.drops := rfl
@[simp] theorem onNougat_cmps (s : State) (h : Nat) (f : Nougat → Nougat) : (onNougat s h f).cmps = s.cmps := rfl
@[simp] theorem onNougat_doors (s : State) (h : Nat) (f : Nougat → Nougat) : (onNougat s h f).doors = s.doors := rfl
@[simp] theorem onNougat_worlds (s : State) (h : Nat) (f : Nougat → Nougat) : (onNougat s h f).worlds = s.worlds := rfl
@[simp] theorem onNougat_spaces (s : State) (h : Nat) (f : Nougat → Nougat) : (onNougat s h f).spaces = s.spaces := rfl
@[simp] theorem onNougat_fns (s : State) (h : Nat) (f : Nougat → Nougat) : (onNougat s h f).fns = s.fns := rfl
@[simp] theorem onNougat_ctl (s : State) (h : Nat) (f : Nougat → Nougat) : (onNougat s h f).ctl = s.ctl := rfl

@[simp] theorem tick_decayAt (s : State) : (tick s).decayAt = s.decayAt := rfl
@[simp] theorem tick_cur (s : State) : (tick s).cur = s.cur := rfl
@[simp] theorem tick_args (s : State) : (tick s).args = s.args := rfl
@[simp] theorem tick_agenda (s : State) : (tick s).agenda = s.agenda := rfl
@[simp] theorem tick_fresh (s : State) : (tick s).fresh = s.fresh := rfl
@[simp] theorem tick_free (s : State) : (tick s).free = s.free := rfl
@[simp] theorem tick_mem (s : State) : (tick s).mem = s.mem := rfl
@[simp] theorem tick_forms (s : State) : (tick s).forms = s.forms := rfl
@[simp] theorem tick_former (s : State) : (tick s).former = s.former := rfl
@[simp] theorem tick_upsets (s : State) : (tick s).upsets = s.upsets := rfl
@[simp] theorem tick_poison (s : State) : (tick s).poison = s.poison := rfl
@[simp] theorem tick_writes (s : State) : (tick s).writes = s.writes := rfl
@[simp] theorem tick_dies (s : State) : (tick s).dies = s.dies := rfl
@[simp] theorem tick_nougats (s : State) : (tick s).nougats = s.nougats := rfl
@[simp] theorem tick_frontEnds (s : State) : (tick s).frontEnds = s.frontEnds := rfl
@[simp] theorem tick_parts (s : State) : (tick s).parts = s.parts := rfl
@[simp] theorem tick_walkers (s : State) : (tick s).walkers = s.walkers := rfl
@[simp] theorem tick_stores (s : State) : (tick s).stores = s.stores := rfl
@[simp] theorem tick_slices (s : State) : (tick s).slices = s.slices := rfl
@[simp] theorem tick_convs (s : State) : (tick s).convs = s.convs := rfl
@[simp] theorem tick_groups (s : State) : (tick s).groups = s.groups := rfl
@[simp] theorem tick_copies (s : State) : (tick s).copies = s.copies := rfl
@[simp] theorem tick_shipped (s : State) : (tick s).shipped = s.shipped := rfl
@[simp] theorem tick_invs (s : State) : (tick s).invs = s.invs := rfl
@[simp] theorem tick_walkq (s : State) : (tick s).walkq = s.walkq := rfl
@[simp] theorem tick_held (s : State) : (tick s).held = s.held := rfl
@[simp] theorem tick_pageq (s : State) : (tick s).pageq = s.pageq := rfl
@[simp] theorem tick_msgs (s : State) : (tick s).msgs = s.msgs := rfl
@[simp] theorem tick_drops (s : State) : (tick s).drops = s.drops := rfl
@[simp] theorem tick_cmps (s : State) : (tick s).cmps = s.cmps := rfl
@[simp] theorem tick_doors (s : State) : (tick s).doors = s.doors := rfl
@[simp] theorem tick_worlds (s : State) : (tick s).worlds = s.worlds := rfl
@[simp] theorem tick_spaces (s : State) : (tick s).spaces = s.spaces := rfl
@[simp] theorem tick_fns (s : State) : (tick s).fns = s.fns := rfl

@[simp] theorem onLanes_team (g : Group) (m : Mask) (f : Lane → Lane) : (g.onLanes m f).team = g.team := rfl
@[simp] theorem onLanes_num (g : Group) (m : Mask) (f : Lane → Lane) : (g.onLanes m f).num = g.num := rfl
@[simp] theorem onLanes_role (g : Group) (m : Mask) (f : Lane → Lane) : (g.onLanes m f).role = g.role := rfl
@[simp] theorem onLanes_core (g : Group) (m : Mask) (f : Lane → Lane) : (g.onLanes m f).core = g.core := rfl
@[simp] theorem onLanes_subp (g : Group) (m : Mask) (f : Lane → Lane) : (g.onLanes m f).subp = g.subp := rfl
@[simp] theorem onLanes_age (g : Group) (m : Mask) (f : Lane → Lane) : (g.onLanes m f).age = g.age := rfl
@[simp] theorem onLanes_waitCount (g : Group) (m : Mask) (f : Lane → Lane) : (g.onLanes m f).waitCount = g.waitCount := rfl
@[simp] theorem onLanes_vcount (g : Group) (m : Mask) (f : Lane → Lane) : (g.onLanes m f).vcount = g.vcount := rfl
@[simp] theorem onLanes_tgran (g : Group) (m : Mask) (f : Lane → Lane) : (g.onLanes m f).tgran = g.tgran := rfl
@[simp] theorem onLanes_agran (g : Group) (m : Mask) (f : Lane → Lane) : (g.onLanes m f).agran = g.agran := rfl
@[simp] theorem onLanes_vmap (g : Group) (m : Mask) (f : Lane → Lane) : (g.onLanes m f).vmap = g.vmap := rfl
@[simp] theorem onLanes_tmap (g : Group) (m : Mask) (f : Lane → Lane) : (g.onLanes m f).tmap = g.tmap := rfl
@[simp] theorem onLanes_amap (g : Group) (m : Mask) (f : Lane → Lane) : (g.onLanes m f).amap = g.amap := rfl
@[simp] theorem onLanes_v (g : Group) (m : Mask) (f : Lane → Lane) : (g.onLanes m f).v = g.v := rfl
@[simp] theorem onLanes_vEpochs (g : Group) (m : Mask) (f : Lane → Lane) : (g.onLanes m f).vEpochs = g.vEpochs := rfl
@[simp] theorem onLanes_u (g : Group) (m : Mask) (f : Lane → Lane) : (g.onLanes m f).u = g.u := rfl
@[simp] theorem onLanes_p (g : Group) (m : Mask) (f : Lane → Lane) : (g.onLanes m f).p = g.p := rfl
@[simp] theorem onLanes_latches (g : Group) (m : Mask) (f : Lane → Lane) : (g.onLanes m f).latches = g.latches := rfl
@[simp] theorem onLanes_latchId (g : Group) (m : Mask) (f : Lane → Lane) : (g.onLanes m f).latchId = g.latchId := rfl
@[simp] theorem onLanes_latchLost (g : Group) (m : Mask) (f : Lane → Lane) : (g.onLanes m f).latchLost = g.latchLost := rfl
@[simp] theorem onLanes_tiles (g : Group) (m : Mask) (f : Lane → Lane) : (g.onLanes m f).tiles = g.tiles := rfl
@[simp] theorem onLanes_accs (g : Group) (m : Mask) (f : Lane → Lane) : (g.onLanes m f).accs = g.accs := rfl
@[simp] theorem onLanes_seed (g : Group) (m : Mask) (f : Lane → Lane) : (g.onLanes m f).seed = g.seed := rfl
@[simp] theorem onLanes_marks (g : Group) (m : Mask) (f : Lane → Lane) : (g.onLanes m f).marks = g.marks := rfl
@[simp] theorem onLanes_markLanes (g : Group) (m : Mask) (f : Lane → Lane) : (g.onLanes m f).markLanes = g.markLanes := rfl
@[simp] theorem onLanes_divWait (g : Group) (m : Mask) (f : Lane → Lane) : (g.onLanes m f).divWait = g.divWait := rfl
@[simp] theorem onLanes_divPend (g : Group) (m : Mask) (f : Lane → Lane) : (g.onLanes m f).divPend = g.divPend := rfl
@[simp] theorem onLanes_strikes (g : Group) (m : Mask) (f : Lane → Lane) : (g.onLanes m f).strikes = g.strikes := rfl
@[simp] theorem onLanes_accStrikes (g : Group) (m : Mask) (f : Lane → Lane) : (g.onLanes m f).accStrikes = g.accStrikes := rfl
@[simp] theorem onLanes_windows (g : Group) (m : Mask) (f : Lane → Lane) : (g.onLanes m f).windows = g.windows := rfl
@[simp] theorem onLanes_alatch (g : Group) (m : Mask) (f : Lane → Lane) : (g.onLanes m f).alatch = g.alatch := rfl
@[simp] theorem onLanes_tags (g : Group) (m : Mask) (f : Lane → Lane) : (g.onLanes m f).tags = g.tags := rfl
@[simp] theorem onLanes_trap (g : Group) (m : Mask) (f : Lane → Lane) : (g.onLanes m f).trap = g.trap := rfl
@[simp] theorem onLanes_fij (g : Group) (m : Mask) (f : Lane → Lane) : (g.onLanes m f).fij = g.fij := rfl
@[simp] theorem onLanes_fijCount (g : Group) (m : Mask) (f : Lane → Lane) : (g.onLanes m f).fijCount = g.fijCount := rfl
@[simp] theorem onLanes_fetched (g : Group) (m : Mask) (f : Lane → Lane) : (g.onLanes m f).fetched = g.fetched := rfl
@[simp] theorem onLanes_susp (g : Group) (m : Mask) (f : Lane → Lane) : (g.onLanes m f).susp = g.susp := rfl
@[simp] theorem onLanes_resume (g : Group) (m : Mask) (f : Lane → Lane) : (g.onLanes m f).resume = g.resume := rfl
@[simp] theorem onLanes_spWaits (g : Group) (m : Mask) (f : Lane → Lane) : (g.onLanes m f).spWaits = g.spWaits := rfl
@[simp] theorem onLanes_holds (g : Group) (m : Mask) (f : Lane → Lane) : (g.onLanes m f).holds = g.holds := rfl
@[simp] theorem onLanes_flights (g : Group) (m : Mask) (f : Lane → Lane) : (g.onLanes m f).flights = g.flights := rfl
@[simp] theorem onLanes_starvePend (g : Group) (m : Mask) (f : Lane → Lane) : (g.onLanes m f).starvePend = g.starvePend := rfl
@[simp] theorem onLanes_errs (g : Group) (m : Mask) (f : Lane → Lane) : (g.onLanes m f).errs = g.errs := rfl
@[simp] theorem onLanes_regErrs (g : Group) (m : Mask) (f : Lane → Lane) : (g.onLanes m f).regErrs = g.regErrs := rfl
@[simp] theorem onLanes_lr (g : Group) (m : Mask) (f : Lane → Lane) : (g.onLanes m f).lr = g.lr := rfl
@[simp] theorem onLanes_pairCount (g : Group) (m : Mask) (f : Lane → Lane) : (g.onLanes m f).pairCount = g.pairCount := rfl
@[simp] theorem onLanes_acqCount (g : Group) (m : Mask) (f : Lane → Lane) : (g.onLanes m f).acqCount = g.acqCount := rfl
@[simp] theorem onLanes_acqVals (g : Group) (m : Mask) (f : Lane → Lane) : (g.onLanes m f).acqVals = g.acqVals := rfl
@[simp] theorem onLanes_stopped (g : Group) (m : Mask) (f : Lane → Lane) : (g.onLanes m f).stopped = g.stopped := rfl

@[simp] theorem advance_team (g : Group) (m : Mask) : (advance g m).team = g.team := rfl
@[simp] theorem advance_num (g : Group) (m : Mask) : (advance g m).num = g.num := rfl
@[simp] theorem advance_role (g : Group) (m : Mask) : (advance g m).role = g.role := rfl
@[simp] theorem advance_core (g : Group) (m : Mask) : (advance g m).core = g.core := rfl
@[simp] theorem advance_subp (g : Group) (m : Mask) : (advance g m).subp = g.subp := rfl
@[simp] theorem advance_age (g : Group) (m : Mask) : (advance g m).age = g.age := rfl
@[simp] theorem advance_waitCount (g : Group) (m : Mask) : (advance g m).waitCount = g.waitCount := rfl
@[simp] theorem advance_vcount (g : Group) (m : Mask) : (advance g m).vcount = g.vcount := rfl
@[simp] theorem advance_tgran (g : Group) (m : Mask) : (advance g m).tgran = g.tgran := rfl
@[simp] theorem advance_agran (g : Group) (m : Mask) : (advance g m).agran = g.agran := rfl
@[simp] theorem advance_vmap (g : Group) (m : Mask) : (advance g m).vmap = g.vmap := rfl
@[simp] theorem advance_tmap (g : Group) (m : Mask) : (advance g m).tmap = g.tmap := rfl
@[simp] theorem advance_amap (g : Group) (m : Mask) : (advance g m).amap = g.amap := rfl
@[simp] theorem advance_v (g : Group) (m : Mask) : (advance g m).v = g.v := rfl
@[simp] theorem advance_vEpochs (g : Group) (m : Mask) : (advance g m).vEpochs = g.vEpochs := rfl
@[simp] theorem advance_u (g : Group) (m : Mask) : (advance g m).u = g.u := rfl
@[simp] theorem advance_p (g : Group) (m : Mask) : (advance g m).p = g.p := rfl
@[simp] theorem advance_latches (g : Group) (m : Mask) : (advance g m).latches = g.latches := rfl
@[simp] theorem advance_latchId (g : Group) (m : Mask) : (advance g m).latchId = g.latchId := rfl
@[simp] theorem advance_latchLost (g : Group) (m : Mask) : (advance g m).latchLost = g.latchLost := rfl
@[simp] theorem advance_tiles (g : Group) (m : Mask) : (advance g m).tiles = g.tiles := rfl
@[simp] theorem advance_accs (g : Group) (m : Mask) : (advance g m).accs = g.accs := rfl
@[simp] theorem advance_seed (g : Group) (m : Mask) : (advance g m).seed = g.seed := rfl
@[simp] theorem advance_marks (g : Group) (m : Mask) : (advance g m).marks = g.marks := rfl
@[simp] theorem advance_markLanes (g : Group) (m : Mask) : (advance g m).markLanes = g.markLanes := rfl
@[simp] theorem advance_divWait (g : Group) (m : Mask) : (advance g m).divWait = g.divWait := rfl
@[simp] theorem advance_divPend (g : Group) (m : Mask) : (advance g m).divPend = g.divPend := rfl
@[simp] theorem advance_strikes (g : Group) (m : Mask) : (advance g m).strikes = g.strikes := rfl
@[simp] theorem advance_accStrikes (g : Group) (m : Mask) : (advance g m).accStrikes = g.accStrikes := rfl
@[simp] theorem advance_windows (g : Group) (m : Mask) : (advance g m).windows = g.windows := rfl
@[simp] theorem advance_alatch (g : Group) (m : Mask) : (advance g m).alatch = g.alatch := rfl
@[simp] theorem advance_tags (g : Group) (m : Mask) : (advance g m).tags = g.tags := rfl
@[simp] theorem advance_trap (g : Group) (m : Mask) : (advance g m).trap = g.trap := rfl
@[simp] theorem advance_fij (g : Group) (m : Mask) : (advance g m).fij = g.fij := rfl
@[simp] theorem advance_fijCount (g : Group) (m : Mask) : (advance g m).fijCount = g.fijCount := rfl
@[simp] theorem advance_fetched (g : Group) (m : Mask) : (advance g m).fetched = g.fetched := rfl
@[simp] theorem advance_susp (g : Group) (m : Mask) : (advance g m).susp = g.susp := rfl
@[simp] theorem advance_resume (g : Group) (m : Mask) : (advance g m).resume = g.resume := rfl
@[simp] theorem advance_spWaits (g : Group) (m : Mask) : (advance g m).spWaits = g.spWaits := rfl
@[simp] theorem advance_holds (g : Group) (m : Mask) : (advance g m).holds = g.holds := rfl
@[simp] theorem advance_flights (g : Group) (m : Mask) : (advance g m).flights = g.flights := rfl
@[simp] theorem advance_starvePend (g : Group) (m : Mask) : (advance g m).starvePend = g.starvePend := rfl
@[simp] theorem advance_errs (g : Group) (m : Mask) : (advance g m).errs = g.errs := rfl
@[simp] theorem advance_regErrs (g : Group) (m : Mask) : (advance g m).regErrs = g.regErrs := rfl
@[simp] theorem advance_lr (g : Group) (m : Mask) : (advance g m).lr = g.lr := rfl
@[simp] theorem advance_pairCount (g : Group) (m : Mask) : (advance g m).pairCount = g.pairCount := rfl
@[simp] theorem advance_acqCount (g : Group) (m : Mask) : (advance g m).acqCount = g.acqCount := rfl
@[simp] theorem advance_acqVals (g : Group) (m : Mask) : (advance g m).acqVals = g.acqVals := rfl
@[simp] theorem advance_stopped (g : Group) (m : Mask) : (advance g m).stopped = g.stopped := rfl

@[simp] theorem pushLatch_team (g : Group) (full : Bool) (vals : SMap W64) : (pushLatch g full vals).team = g.team := rfl
@[simp] theorem pushLatch_num (g : Group) (full : Bool) (vals : SMap W64) : (pushLatch g full vals).num = g.num := rfl
@[simp] theorem pushLatch_role (g : Group) (full : Bool) (vals : SMap W64) : (pushLatch g full vals).role = g.role := rfl
@[simp] theorem pushLatch_core (g : Group) (full : Bool) (vals : SMap W64) : (pushLatch g full vals).core = g.core := rfl
@[simp] theorem pushLatch_subp (g : Group) (full : Bool) (vals : SMap W64) : (pushLatch g full vals).subp = g.subp := rfl
@[simp] theorem pushLatch_age (g : Group) (full : Bool) (vals : SMap W64) : (pushLatch g full vals).age = g.age := rfl
@[simp] theorem pushLatch_waitCount (g : Group) (full : Bool) (vals : SMap W64) : (pushLatch g full vals).waitCount = g.waitCount := rfl
@[simp] theorem pushLatch_vcount (g : Group) (full : Bool) (vals : SMap W64) : (pushLatch g full vals).vcount = g.vcount := rfl
@[simp] theorem pushLatch_tgran (g : Group) (full : Bool) (vals : SMap W64) : (pushLatch g full vals).tgran = g.tgran := rfl
@[simp] theorem pushLatch_agran (g : Group) (full : Bool) (vals : SMap W64) : (pushLatch g full vals).agran = g.agran := rfl
@[simp] theorem pushLatch_vmap (g : Group) (full : Bool) (vals : SMap W64) : (pushLatch g full vals).vmap = g.vmap := rfl
@[simp] theorem pushLatch_tmap (g : Group) (full : Bool) (vals : SMap W64) : (pushLatch g full vals).tmap = g.tmap := rfl
@[simp] theorem pushLatch_amap (g : Group) (full : Bool) (vals : SMap W64) : (pushLatch g full vals).amap = g.amap := rfl
@[simp] theorem pushLatch_lanes (g : Group) (full : Bool) (vals : SMap W64) : (pushLatch g full vals).lanes = g.lanes := rfl
@[simp] theorem pushLatch_v (g : Group) (full : Bool) (vals : SMap W64) : (pushLatch g full vals).v = g.v := rfl
@[simp] theorem pushLatch_vEpochs (g : Group) (full : Bool) (vals : SMap W64) : (pushLatch g full vals).vEpochs = g.vEpochs := rfl
@[simp] theorem pushLatch_u (g : Group) (full : Bool) (vals : SMap W64) : (pushLatch g full vals).u = g.u := rfl
@[simp] theorem pushLatch_p (g : Group) (full : Bool) (vals : SMap W64) : (pushLatch g full vals).p = g.p := rfl
@[simp] theorem pushLatch_latchLost (g : Group) (full : Bool) (vals : SMap W64) : (pushLatch g full vals).latchLost = g.latchLost := rfl
@[simp] theorem pushLatch_tiles (g : Group) (full : Bool) (vals : SMap W64) : (pushLatch g full vals).tiles = g.tiles := rfl
@[simp] theorem pushLatch_accs (g : Group) (full : Bool) (vals : SMap W64) : (pushLatch g full vals).accs = g.accs := rfl
@[simp] theorem pushLatch_seed (g : Group) (full : Bool) (vals : SMap W64) : (pushLatch g full vals).seed = g.seed := rfl
@[simp] theorem pushLatch_marks (g : Group) (full : Bool) (vals : SMap W64) : (pushLatch g full vals).marks = g.marks := rfl
@[simp] theorem pushLatch_markLanes (g : Group) (full : Bool) (vals : SMap W64) : (pushLatch g full vals).markLanes = g.markLanes := rfl
@[simp] theorem pushLatch_divWait (g : Group) (full : Bool) (vals : SMap W64) : (pushLatch g full vals).divWait = g.divWait := rfl
@[simp] theorem pushLatch_divPend (g : Group) (full : Bool) (vals : SMap W64) : (pushLatch g full vals).divPend = g.divPend := rfl
@[simp] theorem pushLatch_strikes (g : Group) (full : Bool) (vals : SMap W64) : (pushLatch g full vals).strikes = g.strikes := rfl
@[simp] theorem pushLatch_accStrikes (g : Group) (full : Bool) (vals : SMap W64) : (pushLatch g full vals).accStrikes = g.accStrikes := rfl
@[simp] theorem pushLatch_windows (g : Group) (full : Bool) (vals : SMap W64) : (pushLatch g full vals).windows = g.windows := rfl
@[simp] theorem pushLatch_alatch (g : Group) (full : Bool) (vals : SMap W64) : (pushLatch g full vals).alatch = g.alatch := rfl
@[simp] theorem pushLatch_tags (g : Group) (full : Bool) (vals : SMap W64) : (pushLatch g full vals).tags = g.tags := rfl
@[simp] theorem pushLatch_trap (g : Group) (full : Bool) (vals : SMap W64) : (pushLatch g full vals).trap = g.trap := rfl
@[simp] theorem pushLatch_fij (g : Group) (full : Bool) (vals : SMap W64) : (pushLatch g full vals).fij = g.fij := rfl
@[simp] theorem pushLatch_fijCount (g : Group) (full : Bool) (vals : SMap W64) : (pushLatch g full vals).fijCount = g.fijCount := rfl
@[simp] theorem pushLatch_fetched (g : Group) (full : Bool) (vals : SMap W64) : (pushLatch g full vals).fetched = g.fetched := rfl
@[simp] theorem pushLatch_susp (g : Group) (full : Bool) (vals : SMap W64) : (pushLatch g full vals).susp = g.susp := rfl
@[simp] theorem pushLatch_resume (g : Group) (full : Bool) (vals : SMap W64) : (pushLatch g full vals).resume = g.resume := rfl
@[simp] theorem pushLatch_spWaits (g : Group) (full : Bool) (vals : SMap W64) : (pushLatch g full vals).spWaits = g.spWaits := rfl
@[simp] theorem pushLatch_holds (g : Group) (full : Bool) (vals : SMap W64) : (pushLatch g full vals).holds = g.holds := rfl
@[simp] theorem pushLatch_flights (g : Group) (full : Bool) (vals : SMap W64) : (pushLatch g full vals).flights = g.flights := rfl
@[simp] theorem pushLatch_starvePend (g : Group) (full : Bool) (vals : SMap W64) : (pushLatch g full vals).starvePend = g.starvePend := rfl
@[simp] theorem pushLatch_errs (g : Group) (full : Bool) (vals : SMap W64) : (pushLatch g full vals).errs = g.errs := rfl
@[simp] theorem pushLatch_regErrs (g : Group) (full : Bool) (vals : SMap W64) : (pushLatch g full vals).regErrs = g.regErrs := rfl
@[simp] theorem pushLatch_lr (g : Group) (full : Bool) (vals : SMap W64) : (pushLatch g full vals).lr = g.lr := rfl
@[simp] theorem pushLatch_pairCount (g : Group) (full : Bool) (vals : SMap W64) : (pushLatch g full vals).pairCount = g.pairCount := rfl
@[simp] theorem pushLatch_acqCount (g : Group) (full : Bool) (vals : SMap W64) : (pushLatch g full vals).acqCount = g.acqCount := rfl
@[simp] theorem pushLatch_acqVals (g : Group) (full : Bool) (vals : SMap W64) : (pushLatch g full vals).acqVals = g.acqVals := rfl
@[simp] theorem pushLatch_stopped (g : Group) (full : Bool) (vals : SMap W64) : (pushLatch g full vals).stopped = g.stopped := rfl

@[simp] theorem emptyLatches_team (g : Group) : (emptyLatches g).team = g.team := rfl
@[simp] theorem emptyLatches_num (g : Group) : (emptyLatches g).num = g.num := rfl
@[simp] theorem emptyLatches_role (g : Group) : (emptyLatches g).role = g.role := rfl
@[simp] theorem emptyLatches_core (g : Group) : (emptyLatches g).core = g.core := rfl
@[simp] theorem emptyLatches_subp (g : Group) : (emptyLatches g).subp = g.subp := rfl
@[simp] theorem emptyLatches_age (g : Group) : (emptyLatches g).age = g.age := rfl
@[simp] theorem emptyLatches_waitCount (g : Group) : (emptyLatches g).waitCount = g.waitCount := rfl
@[simp] theorem emptyLatches_vcount (g : Group) : (emptyLatches g).vcount = g.vcount := rfl
@[simp] theorem emptyLatches_tgran (g : Group) : (emptyLatches g).tgran = g.tgran := rfl
@[simp] theorem emptyLatches_agran (g : Group) : (emptyLatches g).agran = g.agran := rfl
@[simp] theorem emptyLatches_vmap (g : Group) : (emptyLatches g).vmap = g.vmap := rfl
@[simp] theorem emptyLatches_tmap (g : Group) : (emptyLatches g).tmap = g.tmap := rfl
@[simp] theorem emptyLatches_amap (g : Group) : (emptyLatches g).amap = g.amap := rfl
@[simp] theorem emptyLatches_lanes (g : Group) : (emptyLatches g).lanes = g.lanes := rfl
@[simp] theorem emptyLatches_v (g : Group) : (emptyLatches g).v = g.v := rfl
@[simp] theorem emptyLatches_vEpochs (g : Group) : (emptyLatches g).vEpochs = g.vEpochs := rfl
@[simp] theorem emptyLatches_u (g : Group) : (emptyLatches g).u = g.u := rfl
@[simp] theorem emptyLatches_p (g : Group) : (emptyLatches g).p = g.p := rfl
@[simp] theorem emptyLatches_latchId (g : Group) : (emptyLatches g).latchId = g.latchId := rfl
@[simp] theorem emptyLatches_tiles (g : Group) : (emptyLatches g).tiles = g.tiles := rfl
@[simp] theorem emptyLatches_accs (g : Group) : (emptyLatches g).accs = g.accs := rfl
@[simp] theorem emptyLatches_seed (g : Group) : (emptyLatches g).seed = g.seed := rfl
@[simp] theorem emptyLatches_marks (g : Group) : (emptyLatches g).marks = g.marks := rfl
@[simp] theorem emptyLatches_markLanes (g : Group) : (emptyLatches g).markLanes = g.markLanes := rfl
@[simp] theorem emptyLatches_divWait (g : Group) : (emptyLatches g).divWait = g.divWait := rfl
@[simp] theorem emptyLatches_divPend (g : Group) : (emptyLatches g).divPend = g.divPend := rfl
@[simp] theorem emptyLatches_strikes (g : Group) : (emptyLatches g).strikes = g.strikes := rfl
@[simp] theorem emptyLatches_accStrikes (g : Group) : (emptyLatches g).accStrikes = g.accStrikes := rfl
@[simp] theorem emptyLatches_windows (g : Group) : (emptyLatches g).windows = g.windows := rfl
@[simp] theorem emptyLatches_alatch (g : Group) : (emptyLatches g).alatch = g.alatch := rfl
@[simp] theorem emptyLatches_tags (g : Group) : (emptyLatches g).tags = g.tags := rfl
@[simp] theorem emptyLatches_trap (g : Group) : (emptyLatches g).trap = g.trap := rfl
@[simp] theorem emptyLatches_fij (g : Group) : (emptyLatches g).fij = g.fij := rfl
@[simp] theorem emptyLatches_fijCount (g : Group) : (emptyLatches g).fijCount = g.fijCount := rfl
@[simp] theorem emptyLatches_fetched (g : Group) : (emptyLatches g).fetched = g.fetched := rfl
@[simp] theorem emptyLatches_susp (g : Group) : (emptyLatches g).susp = g.susp := rfl
@[simp] theorem emptyLatches_resume (g : Group) : (emptyLatches g).resume = g.resume := rfl
@[simp] theorem emptyLatches_spWaits (g : Group) : (emptyLatches g).spWaits = g.spWaits := rfl
@[simp] theorem emptyLatches_holds (g : Group) : (emptyLatches g).holds = g.holds := rfl
@[simp] theorem emptyLatches_flights (g : Group) : (emptyLatches g).flights = g.flights := rfl
@[simp] theorem emptyLatches_starvePend (g : Group) : (emptyLatches g).starvePend = g.starvePend := rfl
@[simp] theorem emptyLatches_errs (g : Group) : (emptyLatches g).errs = g.errs := rfl
@[simp] theorem emptyLatches_regErrs (g : Group) : (emptyLatches g).regErrs = g.regErrs := rfl
@[simp] theorem emptyLatches_lr (g : Group) : (emptyLatches g).lr = g.lr := rfl
@[simp] theorem emptyLatches_pairCount (g : Group) : (emptyLatches g).pairCount = g.pairCount := rfl
@[simp] theorem emptyLatches_acqCount (g : Group) : (emptyLatches g).acqCount = g.acqCount := rfl
@[simp] theorem emptyLatches_acqVals (g : Group) : (emptyLatches g).acqVals = g.acqVals := rfl
@[simp] theorem emptyLatches_stopped (g : Group) : (emptyLatches g).stopped = g.stopped := rfl

@[simp] theorem uWrite_team (g : Group) (n : Nat) (x : W32) : (uWrite g n x).team = g.team := rfl
@[simp] theorem uWrite_num (g : Group) (n : Nat) (x : W32) : (uWrite g n x).num = g.num := rfl
@[simp] theorem uWrite_role (g : Group) (n : Nat) (x : W32) : (uWrite g n x).role = g.role := rfl
@[simp] theorem uWrite_core (g : Group) (n : Nat) (x : W32) : (uWrite g n x).core = g.core := rfl
@[simp] theorem uWrite_subp (g : Group) (n : Nat) (x : W32) : (uWrite g n x).subp = g.subp := rfl
@[simp] theorem uWrite_age (g : Group) (n : Nat) (x : W32) : (uWrite g n x).age = g.age := rfl
@[simp] theorem uWrite_waitCount (g : Group) (n : Nat) (x : W32) : (uWrite g n x).waitCount = g.waitCount := rfl
@[simp] theorem uWrite_vcount (g : Group) (n : Nat) (x : W32) : (uWrite g n x).vcount = g.vcount := rfl
@[simp] theorem uWrite_tgran (g : Group) (n : Nat) (x : W32) : (uWrite g n x).tgran = g.tgran := rfl
@[simp] theorem uWrite_agran (g : Group) (n : Nat) (x : W32) : (uWrite g n x).agran = g.agran := rfl
@[simp] theorem uWrite_vmap (g : Group) (n : Nat) (x : W32) : (uWrite g n x).vmap = g.vmap := rfl
@[simp] theorem uWrite_tmap (g : Group) (n : Nat) (x : W32) : (uWrite g n x).tmap = g.tmap := rfl
@[simp] theorem uWrite_amap (g : Group) (n : Nat) (x : W32) : (uWrite g n x).amap = g.amap := rfl
@[simp] theorem uWrite_lanes (g : Group) (n : Nat) (x : W32) : (uWrite g n x).lanes = g.lanes := rfl
@[simp] theorem uWrite_v (g : Group) (n : Nat) (x : W32) : (uWrite g n x).v = g.v := rfl
@[simp] theorem uWrite_vEpochs (g : Group) (n : Nat) (x : W32) : (uWrite g n x).vEpochs = g.vEpochs := rfl
@[simp] theorem uWrite_p (g : Group) (n : Nat) (x : W32) : (uWrite g n x).p = g.p := rfl
@[simp] theorem uWrite_latches (g : Group) (n : Nat) (x : W32) : (uWrite g n x).latches = g.latches := rfl
@[simp] theorem uWrite_latchId (g : Group) (n : Nat) (x : W32) : (uWrite g n x).latchId = g.latchId := rfl
@[simp] theorem uWrite_latchLost (g : Group) (n : Nat) (x : W32) : (uWrite g n x).latchLost = g.latchLost := rfl
@[simp] theorem uWrite_tiles (g : Group) (n : Nat) (x : W32) : (uWrite g n x).tiles = g.tiles := rfl
@[simp] theorem uWrite_accs (g : Group) (n : Nat) (x : W32) : (uWrite g n x).accs = g.accs := rfl
@[simp] theorem uWrite_seed (g : Group) (n : Nat) (x : W32) : (uWrite g n x).seed = g.seed := rfl
@[simp] theorem uWrite_marks (g : Group) (n : Nat) (x : W32) : (uWrite g n x).marks = g.marks := rfl
@[simp] theorem uWrite_markLanes (g : Group) (n : Nat) (x : W32) : (uWrite g n x).markLanes = g.markLanes := rfl
@[simp] theorem uWrite_divWait (g : Group) (n : Nat) (x : W32) : (uWrite g n x).divWait = g.divWait := rfl
@[simp] theorem uWrite_divPend (g : Group) (n : Nat) (x : W32) : (uWrite g n x).divPend = g.divPend := rfl
@[simp] theorem uWrite_strikes (g : Group) (n : Nat) (x : W32) : (uWrite g n x).strikes = g.strikes := rfl
@[simp] theorem uWrite_accStrikes (g : Group) (n : Nat) (x : W32) : (uWrite g n x).accStrikes = g.accStrikes := rfl
@[simp] theorem uWrite_windows (g : Group) (n : Nat) (x : W32) : (uWrite g n x).windows = g.windows := rfl
@[simp] theorem uWrite_alatch (g : Group) (n : Nat) (x : W32) : (uWrite g n x).alatch = g.alatch := rfl
@[simp] theorem uWrite_tags (g : Group) (n : Nat) (x : W32) : (uWrite g n x).tags = g.tags := rfl
@[simp] theorem uWrite_trap (g : Group) (n : Nat) (x : W32) : (uWrite g n x).trap = g.trap := rfl
@[simp] theorem uWrite_fij (g : Group) (n : Nat) (x : W32) : (uWrite g n x).fij = g.fij := rfl
@[simp] theorem uWrite_fijCount (g : Group) (n : Nat) (x : W32) : (uWrite g n x).fijCount = g.fijCount := rfl
@[simp] theorem uWrite_fetched (g : Group) (n : Nat) (x : W32) : (uWrite g n x).fetched = g.fetched := rfl
@[simp] theorem uWrite_susp (g : Group) (n : Nat) (x : W32) : (uWrite g n x).susp = g.susp := rfl
@[simp] theorem uWrite_resume (g : Group) (n : Nat) (x : W32) : (uWrite g n x).resume = g.resume := rfl
@[simp] theorem uWrite_spWaits (g : Group) (n : Nat) (x : W32) : (uWrite g n x).spWaits = g.spWaits := rfl
@[simp] theorem uWrite_holds (g : Group) (n : Nat) (x : W32) : (uWrite g n x).holds = g.holds := rfl
@[simp] theorem uWrite_flights (g : Group) (n : Nat) (x : W32) : (uWrite g n x).flights = g.flights := rfl
@[simp] theorem uWrite_starvePend (g : Group) (n : Nat) (x : W32) : (uWrite g n x).starvePend = g.starvePend := rfl
@[simp] theorem uWrite_errs (g : Group) (n : Nat) (x : W32) : (uWrite g n x).errs = g.errs := rfl
@[simp] theorem uWrite_lr (g : Group) (n : Nat) (x : W32) : (uWrite g n x).lr = g.lr := rfl
@[simp] theorem uWrite_pairCount (g : Group) (n : Nat) (x : W32) : (uWrite g n x).pairCount = g.pairCount := rfl
@[simp] theorem uWrite_acqCount (g : Group) (n : Nat) (x : W32) : (uWrite g n x).acqCount = g.acqCount := rfl
@[simp] theorem uWrite_acqVals (g : Group) (n : Nat) (x : W32) : (uWrite g n x).acqVals = g.acqVals := rfl
@[simp] theorem uWrite_stopped (g : Group) (n : Nat) (x : W32) : (uWrite g n x).stopped = g.stopped := rfl

@[simp] theorem pWrite_team (g : Group) (n l : Nat) (b : Bool) : (pWrite g n l b).team = g.team := rfl
@[simp] theorem pWrite_num (g : Group) (n l : Nat) (b : Bool) : (pWrite g n l b).num = g.num := rfl
@[simp] theorem pWrite_role (g : Group) (n l : Nat) (b : Bool) : (pWrite g n l b).role = g.role := rfl
@[simp] theorem pWrite_core (g : Group) (n l : Nat) (b : Bool) : (pWrite g n l b).core = g.core := rfl
@[simp] theorem pWrite_subp (g : Group) (n l : Nat) (b : Bool) : (pWrite g n l b).subp = g.subp := rfl
@[simp] theorem pWrite_age (g : Group) (n l : Nat) (b : Bool) : (pWrite g n l b).age = g.age := rfl
@[simp] theorem pWrite_waitCount (g : Group) (n l : Nat) (b : Bool) : (pWrite g n l b).waitCount = g.waitCount := rfl
@[simp] theorem pWrite_vcount (g : Group) (n l : Nat) (b : Bool) : (pWrite g n l b).vcount = g.vcount := rfl
@[simp] theorem pWrite_tgran (g : Group) (n l : Nat) (b : Bool) : (pWrite g n l b).tgran = g.tgran := rfl
@[simp] theorem pWrite_agran (g : Group) (n l : Nat) (b : Bool) : (pWrite g n l b).agran = g.agran := rfl
@[simp] theorem pWrite_vmap (g : Group) (n l : Nat) (b : Bool) : (pWrite g n l b).vmap = g.vmap := rfl
@[simp] theorem pWrite_tmap (g : Group) (n l : Nat) (b : Bool) : (pWrite g n l b).tmap = g.tmap := rfl
@[simp] theorem pWrite_amap (g : Group) (n l : Nat) (b : Bool) : (pWrite g n l b).amap = g.amap := rfl
@[simp] theorem pWrite_lanes (g : Group) (n l : Nat) (b : Bool) : (pWrite g n l b).lanes = g.lanes := rfl
@[simp] theorem pWrite_v (g : Group) (n l : Nat) (b : Bool) : (pWrite g n l b).v = g.v := rfl
@[simp] theorem pWrite_vEpochs (g : Group) (n l : Nat) (b : Bool) : (pWrite g n l b).vEpochs = g.vEpochs := rfl
@[simp] theorem pWrite_u (g : Group) (n l : Nat) (b : Bool) : (pWrite g n l b).u = g.u := rfl
@[simp] theorem pWrite_latches (g : Group) (n l : Nat) (b : Bool) : (pWrite g n l b).latches = g.latches := rfl
@[simp] theorem pWrite_latchId (g : Group) (n l : Nat) (b : Bool) : (pWrite g n l b).latchId = g.latchId := rfl
@[simp] theorem pWrite_latchLost (g : Group) (n l : Nat) (b : Bool) : (pWrite g n l b).latchLost = g.latchLost := rfl
@[simp] theorem pWrite_tiles (g : Group) (n l : Nat) (b : Bool) : (pWrite g n l b).tiles = g.tiles := rfl
@[simp] theorem pWrite_accs (g : Group) (n l : Nat) (b : Bool) : (pWrite g n l b).accs = g.accs := rfl
@[simp] theorem pWrite_seed (g : Group) (n l : Nat) (b : Bool) : (pWrite g n l b).seed = g.seed := rfl
@[simp] theorem pWrite_marks (g : Group) (n l : Nat) (b : Bool) : (pWrite g n l b).marks = g.marks := rfl
@[simp] theorem pWrite_markLanes (g : Group) (n l : Nat) (b : Bool) : (pWrite g n l b).markLanes = g.markLanes := rfl
@[simp] theorem pWrite_divWait (g : Group) (n l : Nat) (b : Bool) : (pWrite g n l b).divWait = g.divWait := rfl
@[simp] theorem pWrite_divPend (g : Group) (n l : Nat) (b : Bool) : (pWrite g n l b).divPend = g.divPend := rfl
@[simp] theorem pWrite_strikes (g : Group) (n l : Nat) (b : Bool) : (pWrite g n l b).strikes = g.strikes := rfl
@[simp] theorem pWrite_accStrikes (g : Group) (n l : Nat) (b : Bool) : (pWrite g n l b).accStrikes = g.accStrikes := rfl
@[simp] theorem pWrite_windows (g : Group) (n l : Nat) (b : Bool) : (pWrite g n l b).windows = g.windows := rfl
@[simp] theorem pWrite_alatch (g : Group) (n l : Nat) (b : Bool) : (pWrite g n l b).alatch = g.alatch := rfl
@[simp] theorem pWrite_tags (g : Group) (n l : Nat) (b : Bool) : (pWrite g n l b).tags = g.tags := rfl
@[simp] theorem pWrite_trap (g : Group) (n l : Nat) (b : Bool) : (pWrite g n l b).trap = g.trap := rfl
@[simp] theorem pWrite_fij (g : Group) (n l : Nat) (b : Bool) : (pWrite g n l b).fij = g.fij := rfl
@[simp] theorem pWrite_fijCount (g : Group) (n l : Nat) (b : Bool) : (pWrite g n l b).fijCount = g.fijCount := rfl
@[simp] theorem pWrite_fetched (g : Group) (n l : Nat) (b : Bool) : (pWrite g n l b).fetched = g.fetched := rfl
@[simp] theorem pWrite_susp (g : Group) (n l : Nat) (b : Bool) : (pWrite g n l b).susp = g.susp := rfl
@[simp] theorem pWrite_resume (g : Group) (n l : Nat) (b : Bool) : (pWrite g n l b).resume = g.resume := rfl
@[simp] theorem pWrite_spWaits (g : Group) (n l : Nat) (b : Bool) : (pWrite g n l b).spWaits = g.spWaits := rfl
@[simp] theorem pWrite_holds (g : Group) (n l : Nat) (b : Bool) : (pWrite g n l b).holds = g.holds := rfl
@[simp] theorem pWrite_flights (g : Group) (n l : Nat) (b : Bool) : (pWrite g n l b).flights = g.flights := rfl
@[simp] theorem pWrite_starvePend (g : Group) (n l : Nat) (b : Bool) : (pWrite g n l b).starvePend = g.starvePend := rfl
@[simp] theorem pWrite_errs (g : Group) (n l : Nat) (b : Bool) : (pWrite g n l b).errs = g.errs := rfl
@[simp] theorem pWrite_lr (g : Group) (n l : Nat) (b : Bool) : (pWrite g n l b).lr = g.lr := rfl
@[simp] theorem pWrite_pairCount (g : Group) (n l : Nat) (b : Bool) : (pWrite g n l b).pairCount = g.pairCount := rfl
@[simp] theorem pWrite_acqCount (g : Group) (n l : Nat) (b : Bool) : (pWrite g n l b).acqCount = g.acqCount := rfl
@[simp] theorem pWrite_acqVals (g : Group) (n l : Nat) (b : Bool) : (pWrite g n l b).acqVals = g.acqVals := rfl
@[simp] theorem pWrite_stopped (g : Group) (n l : Nat) (b : Bool) : (pWrite g n l b).stopped = g.stopped := rfl

/-- What is at a group's number after a change of a group. -/
theorem onGroup_get (s : State) (gid k : Nat) (f : Group → Group) :
    mget (onGroup s gid f).groups k = if k = gid then (mget s.groups gid).map f else mget s.groups k := mget_mupd _ _ _ _

/-- What is at a team's number after a change of a team. -/
theorem onTeam_get (s : State) (tid k : Nat) (f : Team → Team) :
    mget (onTeam s tid f).teams k = if k = tid then (mget s.teams tid).map f else mget s.teams k := mget_mupd _ _ _ _

end Sys2Proof.Laws
end

