-- ==== Sys2Proof/Laws/Memory.lean ====
section
/-! SUPPORT. Global memory: every operation that writes it keeps its canonical form, and those that only order writes leave it as it is. -/

namespace Sys2Proof.Laws

open Sys2Proof Sys2Proof.Machine

/-- A fold of steps that keep a property keeps it. -/
theorem foldl_keeps {α β : Type} {P : α → Prop} {f : α → β → α} (h : ∀ x b, P x → P (f x b)) (l : List β) {x : α} (hx : P x) : P (l.foldl f x) := by
  induction l generalizing x with
  | nil => exact hx
  | cons b l ih => exact ih (h x b hx)

theorem reset_memory_wf : Memory.wf State.reset.mem = true := rfl

theorem setForm_wf {s : State} (h : Memory.wf s.mem = true) (f : Form) (u : Nat) : Memory.wf (setForm s f u).mem = true := by
  unfold setForm; split
  · exact h
  · exact wf_memPutBytes h _ _

theorem setForms_wf {s : State} (h : Memory.wf s.mem = true) (f : Form) (us : List Nat) :
    Memory.wf (us.foldl (fun (s : State) u => setForm s f u) s).mem = true :=
  foldl_keeps (P := fun s : State => Memory.wf s.mem = true) (fun _ u hs => setForm_wf hs f u) us h

theorem foldl_mem {β : Type} {f : State → β → State} (h : ∀ s b, (f s b).mem = s.mem) (l : List β) (s : State) : (l.foldl f s).mem = s.mem :=
  foldl_keeps (P := fun t : State => t.mem = s.mem) (fun x b hx => (h x b).trans hx) l rfl

@[simp] theorem mergeUnit_mem (bad : Nat → Bool) (s : State) (u : Nat) : (mergeUnit bad s u).mem = s.mem := by
  unfold mergeUnit; split
  · rfl
  · rfl
  · split <;> rfl

@[simp] theorem writeErrors_mem (bad : Nat → Bool) (s : State) (pa n : Nat) : (writeErrors bad s pa n).mem = s.mem := by
  unfold writeErrors
  refine foldl_mem (fun s u => ?_) _ s
  split
  · rfl
  · exact mergeUnit_mem bad s u

theorem homePut_wf {s : State} (h : Memory.wf s.mem = true) (w pa : Nat) (bs : List Byte) : Memory.wf (homePut s w pa bs).mem = true := by
  unfold homePut; split
  · exact h
  · dsimp only
    exact wf_memPutBytes (setForms_wf (s := writeErrors (foreign s w) s pa bs.length) (by rw [writeErrors_mem]; exact h) _ _) _ _

theorem homePutRaw_wf {s : State} (h : Memory.wf s.mem = true) (pa : Nat) (bs : List Byte) : Memory.wf (homePutRaw s pa bs).mem = true := by
  unfold homePutRaw; split
  · exact h
  · exact wf_memPutBytes (setForms_wf (s := writeErrors (fun _ => false) s pa bs.length) (by rw [writeErrors_mem]; exact h) _ _) _ _

theorem settleWrite_wf {s : State} (h : Memory.wf s.mem = true) (w : MWrite) : Memory.wf (settleWrite s w).mem = true := by
  unfold settleWrite; split
  · exact homePut_wf h _ _ _
  · exact foldl_keeps (P := fun s : State => Memory.wf s.mem = true) (fun _ r hs => homePut_wf hs _ _ _) _ h

theorem settleList_wf (ws : List MWrite) {s : State} (h : Memory.wf s.mem = true) : Memory.wf (settleList ws s).mem = true := by
  induction ws generalizing s with
  | nil => exact h
  | cons w ws ih =>
    unfold settleList; split
    · exact ih (settleWrite_wf h w)
    · exact h

theorem settle_wf {s : State} (h : Memory.wf s.mem = true) : Memory.wf (settle s).mem = true := settleList_wf _ h

@[simp] theorem requestLines_mem (s : State) (agent : Option Nat) (pa n : Nat) : (requestLines s agent pa n).mem = s.mem := by
  unfold requestLines; dsimp only; split <;> rfl

@[simp] theorem dirtyOn_mem (s : State) (die pa : Nat) : (dirtyOn s die pa).mem = s.mem := rfl

@[simp] theorem l1Store_mem (s : State) (core world pa : Nat) (bs : List Byte) : (l1Store s core world pa bs).mem = s.mem := rfl

@[simp] theorem drainGo_mem (fuel : Nat) (s : State) (id : Nat) : (drainGo fuel s id).mem = s.mem := by
  induction fuel generalizing s id with
  | zero => rfl
  | succ fuel ih =>
    unfold drainGo; split
    · rfl
    · dsimp only
      split
      all_goals exact (foldl_mem ih _ _).trans (requestLines_mem _ _ _ _)

@[simp] theorem drain_mem (s : State) (id : Nat) : (drain s id).mem = s.mem := drainGo_mem _ s id

@[simp] theorem reachGo_mem (fuel : Nat) (m : BitVec 193) (s : State) (id : Nat) : (reachGo fuel m s id).mem = s.mem := by
  induction fuel generalizing m s id with
  | zero => rfl
  | succ fuel ih =>
    unfold reachGo; split
    · rfl
    · split
      · rfl
      · exact (foldl_mem (fun s p => ih _ s _) _ _).trans (drain_mem s id)

@[simp] theorem reachAll_mem (s : State) (id : Nat) (m : BitVec 193) : (reachAll s id m).mem = s.mem := reachGo_mem _ m s id

theorem reach_wf {s : State} (h : Memory.wf s.mem = true) (id agent : Nat) : Memory.wf (reach s id agent).mem = true :=
  settle_wf (by rw [reachAll_mem]; exact h)

theorem seeBefore_wf {s : State} (h : Memory.wf s.mem = true) (agent : Nat) (b : Before) : Memory.wf (seeBefore s agent b).mem = true := by
  unfold seeBefore; split
  · exact h
  · refine settle_wf ?_
    rw [foldl_mem (fun s p => by split <;> simp)]; exact h

theorem fenceFull_wf {s : State} (h : Memory.wf s.mem = true) (core : Nat) (scope : BitVec 193) : Memory.wf (fenceFull s core scope).mem = true := by
  unfold fenceFull
  refine settle_wf ?_
  rw [foldl_mem (fun s id => reachAll_mem s id scope)]; exact h

theorem flushBytes_wf {s : State} (h : Memory.wf s.mem = true) (pa n : Nat) : Memory.wf (flushBytes s pa n).mem = true := by
  unfold flushBytes; split
  · refine settle_wf ?_
    show Memory.wf (List.foldl (fun s (w : MWrite) => drain s w.id) s _).mem = true
    rw [foldl_mem (fun s (w : MWrite) => drain_mem s w.id)]; exact h
  · exact h

@[simp] theorem toDoor_mem (s : State) (x : DoorAccess) : (toDoor s x).mem = s.mem := rfl

@[simp] theorem storeWrite_mem (s : State) (core world pa : Nat) (bs : List Byte) (after : Before) :
    (storeWrite s core world pa bs after).mem = s.mem := by
  unfold storeWrite; split <;> rfl

@[simp] theorem homeWriteSkip_mem (s : State) (core world pa : Nat) (bs : List Byte) (skip : List Nat) (after : Before) :
    (homeWriteSkip s core world pa bs skip after).mem = s.mem := by
  unfold homeWriteSkip; split
  · rfl
  · dsimp only
    have h := (foldl_mem (fun s (w : MWrite) => drain_mem s w.id) (s.writes.filter (fun w => !w.home && ((w.core == some core && w.overlaps pa bs.length) ||
      after.any (fun p => p.1 == w.id && beyondCore (some core) p.2)))) (requestLines s (some core) pa bs.length)).trans (requestLines_mem _ _ _ _)
    split
    · exact h
    · exact (foldl_mem (fun s (p : Byte × Nat) => l1Store_mem s core world (pa + p.2) [p.1]) _ _).trans h

@[simp] theorem homeWrite_mem (s : State) (core world pa : Nat) (bs : List Byte) (after : Before) :
    (homeWrite s core world pa bs after).mem = s.mem := homeWriteSkip_mem s core world pa bs [] after

theorem engineWrite_wf {s : State} (h : Memory.wf s.mem = true) (core world : Nat) (cores : List Nat) (bs : SMap Byte) (after : Before) :
    Memory.wf (engineWrite s core world cores bs after).mem = true :=
  foldl_keeps (P := fun s : State => Memory.wf s.mem = true) (fun s r hs =>
    foldl_keeps (P := fun s : State => Memory.wf s.mem = true) (fun _ k ht => reach_wf ht _ k) cores (by rw [homeWriteSkip_mem]; exact hs)) _ h

theorem deviceWrite_wf {s : State} (h : Memory.wf s.mem = true) (world pa : Nat) (bs : List Byte) : Memory.wf (deviceWrite s world pa bs).mem = true :=
  homePut_wf (flushBytes_wf h _ _) _ _ _

theorem mrising_filter {α : Type} {m : SMap α} (h : mrising m = true) (p : Nat × α → Bool) : mrising (m.filter p) = true := by
  induction m with
  | nil => rfl
  | cons q m ih =>
    obtain ⟨k, x⟩ := q
    obtain ⟨h1, h2⟩ := (mrising_cons k x m).mp h
    rw [List.filter_cons]
    split
    · exact (mrising_cons _ _ _).mpr ⟨fun r hr => h1 r (List.mem_of_mem_filter hr), ih h2⟩
    · exact ih h2

theorem wf_filter {m : List Host.Cell} (h : Memory.wf m = true) (p : Host.Cell → Bool) : Memory.wf (m.filter p) = true := by
  rw [wf_iff] at h ⊢
  exact ⟨mrising_filter h.1 p, fun c hc => h.2 c (List.mem_of_mem_filter hc)⟩

theorem fillRange_wf {s : State} (h : Memory.wf s.mem = true) (lo hi : Nat) : Memory.wf (fillRange s lo hi).mem = true := by
  unfold fillRange
  refine wf_filter ?_ _
  split
  · exact flushBytes_wf h _ _
  · exact h

theorem lost_mem (s : State) : (lost s).mem = s.mem := rfl

end Sys2Proof.Laws
end

