-- ==== Sys2Proof/Laws/Word.lean ====
section
/-! SUPPORT. What the shared operations of a word do: the checks at issue, the end of a word, the writes of registers, predicates
and latches, and a whole lane operation. -/

namespace Sys2Proof.Laws

open Sys2Proof Sys2Proof.Machine

/-! ### Lane sets -/

theorem has_maskOf_aux (ls : List Nat) (m : Mask) (l : Nat) (hl : l < 32) :
    has (ls.foldl (fun m k => m ||| 1#32 <<< k) m) l = (has m l || ls.contains l) := by
  induction ls generalizing m with
  | nil => simp
  | cons k ls ih =>
    simp only [List.foldl_cons, ih, List.contains_cons]
    have : has (m ||| 1#32 <<< k) l = (has m l || l == k) := by
      simp only [has, BitVec.getLsbD_or, BitVec.getLsbD_shiftLeft, BitVec.getLsbD_one]
      congr 1
      rw [Bool.eq_iff_iff]
      simp [hl]
      omega
    rw [this, Bool.or_assoc]

@[simp] theorem has_maskBy (p : Nat → Bool) (l : Nat) (hl : l < 32) : has (maskBy p) l = p l := by
  unfold maskBy maskOf
  rw [has_maskOf_aux _ _ _ hl]
  have h0 : has 0#32 l = false := by simp [has]
  rw [h0, Bool.false_or, Bool.eq_iff_iff]
  simp [nLanes, hl]

theorem has_ge (m : Mask) (l : Nat) (hl : 32 ≤ l) : has m l = false := by
  simp [has, hl]

theorem mem_lanesOf (m : Mask) (l : Nat) : l ∈ lanesOf m ↔ has m l = true := by
  simp only [lanesOf, List.mem_filter, List.mem_range, nLanes]
  constructor
  · exact fun h => h.2
  · intro h
    refine ⟨?_, h⟩
    by_contra hl
    rw [has_ge m l (by omega)] at h
    exact absurd h (by simp)

theorem lt_of_mem_lanesOf {m : Mask} {l : Nat} (h : l ∈ lanesOf m) : l < 32 := by
  simp only [lanesOf, List.mem_filter, List.mem_range, nLanes] at h
  exact h.1

theorem nodup_lanesOf (m : Mask) : (lanesOf m).Nodup := List.Nodup.filter _ List.nodup_range

/-! ### Words -/

/-- With a word at hand `withWord` continues with it. -/
theorem withWord_issuing {s : State} {c : Ctx} {g : Group} {t : Team} (h : Issuing s c g t)
    (k : State → Ctx → Group → Team → State) : withWord s k = k { s with cur := .idle } c g t := by
  simp only [withWord, h.cur, h.group, h.team]

/-- With no error in the group's arrays a read of registers goes on. -/
theorem readRegs_clean {s : State} {c : Ctx} {g : Group} {t : Team} (h : g.regErrs = []) (reads : List (Mask × List (Nat × Nat)))
    (k : State → Group → State) : readRegs s c g t reads k = k s g := by simp [readRegs, h]

/-- A word that meets no cause and whose registers hold no error goes on to its effect on the lanes of CL. -/
theorem issueWord_issuing {s : State} {c : Ctx} {g : Group} {t : Team} (h : Issuing s c g t) (hr : g.regErrs = [])
    {pg : BitVec 4} {pn : Bool} {n : Needs} {regs : List (Nat × Nat)} {k : State → Ctx → Group → Team → Mask → State}
    (hn : issueCause { s with cur := .idle } g t n = none) :
    issueWord s pg pn n regs k = k { s with cur := .idle } c g t (clOf g c pg pn) := by
  simp [issueWord, withWord_issuing h, hn, readRegs_clean hr]

theorem takeImages_none {s : State} (h : ∀ p ∈ s.teams, p.2.imageWait = false) : takeImages s = s := by
  have : s.teams.filter (fun p => p.2.imageWait) = [] := by
    rw [List.filter_eq_nil_iff]; intro p hp; simp [h p hp]
  simp [takeImages, this]

/-- The end of a word: the latch entry pushed, ISSUE advanced, nothing else changed. -/
theorem endWord_eq {s : State} {c : Ctx} {g : Group} {full : Bool} {vals : SMap W64} (hl : g.latchLost = false)
    (hi : ∀ p ∈ s.teams, p.2.imageWait = false) :
    endWord { s with cur := .idle } c g full vals =
      afterWord s c (advance (pushLatch { g with susp := [], resume := none } full vals) c.mask) := by
  unfold endWord
  have : settleLatches (pushLatch { g with susp := [], resume := none } full vals) =
      pushLatch { g with susp := [], resume := none } full vals := by simp [settleLatches, hl]
  rw [this, takeImages_none (by simpa using hi)]
  rfl

/-- Advancing changes the PCs of the set and nothing else. -/
theorem advance_lanes (g : Group) (m : Mask) :
    (advance g m).lanes.length = g.lanes.length ∧ ∀ l, l < g.lanes.length →
      (advance g m).lane l = if has m l then { g.lane l with pc := (g.lane l).pc + 8#64 } else g.lane l := by
  refine ⟨by simp [advance, Group.onLanes], fun l hl => ?_⟩
  simp only [advance, Group.onLanes, Group.lane, List.getD_eq_getElem?_getD, List.getElem?_map, List.getElem?_zipIdx]
  simp [hl]

/-- Changing the lanes of a set, lane by lane. -/
theorem onLanes_lane (g : Group) (m : Mask) (f : Lane → Lane) (l : Nat) (hl : l < g.lanes.length) :
    (g.onLanes m f).lane l = if has m l then f (g.lane l) else g.lane l := by
  simp only [Group.onLanes, Group.lane, List.getD_eq_getElem?_getD, List.getElem?_map, List.getElem?_zipIdx]
  simp [hl]

/-! ### Registers -/

theorem vRead_closed {g : Group} (h : g.windows = []) (n l : Nat) : vRead g n l = vRaw g n l := by simp [vRead, h]

theorem spoil_closed {g : Group} (h : g.windows = []) (p : Window → Bool) : spoil g p = g := by simp [spoil, h]

/-- A write of a vector register's lane, no window being open: that register and lane, and nothing else. -/
theorem vWrite_closed {g : Group} (h : g.windows = []) (he : g.regErrs = []) (n l : Nat) (x : W32) :
    vWrite g n l x = { g with v := mput g.v n ((vRow g n).set l x) } := by
  simp [vWrite, spoil_closed h, he]

theorem vRow_length (g : Group) (n : Nat) : (vRow g n).length = 32 := by simp [vRow, nLanes]

theorem vRaw_write (g : Group) (n l k j : Nat) (x : W32) (hl : l < 32) (hj : j < 32) :
    vRaw { g with v := mput g.v n ((vRow g n).set l x) } k j = if k = n ∧ j = l then x else vRaw g k j := by
  by_cases hk : k = n
  · subst hk
    simp only [vRaw, mget_mput, if_true, true_and]
    rw [List.getD_eq_getElem?_getD, List.getElem?_set]
    by_cases h : j = l
    · subst h; simp [vRow_length, hl]
    · rw [if_neg (by omega), if_neg h]
      simp [vRow, nLanes, hj, vRaw]
  · simp [vRaw, hk, freeVector]

theorem uRead_write (g : Group) (n k : Nat) (x : W32) : uRead (uWrite g n x) k = if k = n then x else uRead g k := by
  simp [uRead, uWrite]

theorem pRead_write (g : Group) (n l k j : Nat) (b : Bool) (hl : l < 32) (hj : j < 32) :
    pRead (pWrite g n l b) k j = if k = n ∧ j = l then b else pRead g k j := by
  by_cases hk : k = n
  · subst hk
    simp only [pRead, pWrite, mval_mput, if_true, true_and]
    by_cases h : j = l
    · subst h
      cases b <;> simp [has, hl]
    · cases b <;> simp only [has, if_neg h, if_true, if_false, Bool.false_eq_true, BitVec.getLsbD_or, BitVec.getLsbD_and,
        BitVec.getLsbD_not, BitVec.getLsbD_shiftLeft, BitVec.getLsbD_one] <;> simp [hj] <;> omega
  · simp [pRead, pWrite, hk]

/-- Writes of predicate `n` over a list of lanes. -/
theorem pRead_fold (g : Group) (n : Nat) (ls : List Nat) (hls : ∀ l ∈ ls, l < 32) (b : Nat → Bool) (k j : Nat) (hj : j < 32) :
    pRead (ls.foldl (fun g l => pWrite g n l (b l)) g) k j = if k = n ∧ j ∈ ls then b j else pRead g k j := by
  induction ls generalizing g with
  | nil => simp
  | cons l ls ih =>
    rw [List.foldl_cons, ih _ (fun x hx => hls x (by simp [hx])), pRead_write _ _ _ _ _ _ (hls l (by simp)) hj]
    by_cases hk : k = n
    · by_cases h1 : j ∈ ls
      · simp [hk, h1]
      · by_cases h2 : j = l
        · simp [hk, h2]
        · simp [hk, h2]
    · simp [hk]

/-- The fields that a lane operation may change, before the word's end. -/
def regsOnly (g g' : Group) : Prop := g' = { g with v := g'.v, u := g'.u, p := g'.p }

theorem regsOnly_refl (g : Group) : regsOnly g g := rfl

theorem regsOnly_trans {a b c : Group} (h1 : regsOnly a b) (h2 : regsOnly b c) : regsOnly a c := by
  unfold regsOnly at *
  rw [h2, h1]

/-- The conditions under which a register write is plain. -/
def plainRegs (g : Group) : Prop := g.windows = [] ∧ g.regErrs = []

theorem plainRegs_of {g g' : Group} (h : regsOnly g g') (hp : plainRegs g) : plainRegs g' := by
  unfold regsOnly at h; rw [h]; exact hp

theorem pWrite_plain {g : Group} (he : g.regErrs = []) (n l : Nat) (b : Bool) : pWrite g n l b = { g with p := (pWrite g n l b).p } := by
  simp [pWrite, he]

theorem regsOnly_pWrite {g : Group} (h : plainRegs g) (n l : Nat) (b : Bool) : regsOnly g (pWrite g n l b) := by
  unfold regsOnly; rw [pWrite_plain h.2]

theorem regsOnly_foldl {α : Type} (f : Group → α → Group) (hf : ∀ g x, plainRegs g → regsOnly g (f g x)) {g : Group} (hp : plainRegs g)
    (ls : List α) : regsOnly g (ls.foldl f g) := by
  induction ls generalizing g with
  | nil => rfl
  | cons x ls ih => exact regsOnly_trans (hf g x hp) (ih (plainRegs_of (hf g x hp) hp))

theorem uWrite_plain {g : Group} (he : g.regErrs = []) (n : Nat) (x : W32) : uWrite g n x = { g with u := mput g.u n x } := by
  simp [uWrite, he]

theorem hi32_ofNat (x : Nat) : hi32 (BitVec.ofNat 64 x) = BitVec.ofNat 32 (x / 2 ^ 32) := by
  apply BitVec.eq_of_toNat_eq
  simp only [hi32, BitVec.extractLsb'_toNat, BitVec.toNat_ofNat, Nat.shiftRight_eq_div_pow]
  omega

theorem lo32_ofNat (x : Nat) : lo32 (BitVec.ofNat 64 x) = BitVec.ofNat 32 x := by
  apply BitVec.eq_of_toNat_eq
  simp only [lo32, BitVec.toNat_setWidth, BitVec.toNat_ofNat]
  omega

/-- One lane's result: the register or pair that it names in that lane, and nothing else. -/
theorem putLane_regs {g : Group} (h : plainRegs g) (d : Dest) (l x : Nat) : regsOnly g (putLane g d l x) := by
  cases d with
  | v n wide =>
    cases wide
    · simp only [putLane, Bool.false_eq_true, if_false]; rw [vWrite_closed h.1 h.2]; rfl
    · simp only [putLane, if_true, vWrite64]
      rw [vWrite_closed h.1 h.2, vWrite_closed (by exact h.1) (by exact h.2)]; rfl
  | u n wide =>
    cases wide
    · simp only [putLane, Bool.false_eq_true, if_false]; rw [uWrite_plain h.2]; rfl
    · simp only [putLane, if_true, uWrite64]
      rw [uWrite_plain h.2, uWrite_plain (by exact h.2)]; rfl
  | p n => rfl
  | none => rfl

theorem putLane_vector {g : Group} (h : plainRegs g) (d : Dest) (l x n j : Nat) (hl : l < 32) (hj : j < 32) :
    vRaw (putLane g d l x) n j = if j = l then (vpart d n x).getD (vRaw g n j) else vRaw g n j := by
  cases d with
  | v m wide =>
    cases wide
    · simp only [putLane, Bool.false_eq_true, if_false]
      rw [vWrite_closed h.1 h.2, vRaw_write _ _ _ _ _ _ hl hj]
      by_cases hn : n = m <;> by_cases hjl : j = l <;> simp [hn, hjl, vpart]
    · simp only [putLane, if_true, vWrite64]
      rw [vWrite_closed h.1 h.2, vWrite_closed (by exact h.1) (by exact h.2), vRaw_write _ _ _ _ _ _ hl hj,
        vRaw_write _ _ _ _ _ _ hl hj, lo32_ofNat, hi32_ofNat]
      by_cases hjl : j = l
      · by_cases hn : n = m
        · subst hn; simp [hjl, vpart]
        · by_cases hn' : n = m + 1 <;> simp [hjl, vpart, hn, hn']
      · simp [hjl]
  | u m wide =>
    cases wide
    · simp only [putLane, Bool.false_eq_true, if_false]; rw [uWrite_plain h.2]; simp [vpart, vRaw, freeVector]
    · simp only [putLane, if_true, uWrite64]
      rw [uWrite_plain h.2, uWrite_plain (by exact h.2)]; simp [vpart, vRaw, freeVector]
  | p n => simp [putLane, vpart]
  | none => simp [putLane, vpart]

theorem putLane_uniform {g : Group} (h : plainRegs g) (d : Dest) (l x n : Nat) :
    uRead (putLane g d l x) n = (upart d n x).getD (uRead g n) := by
  cases d with
  | v m wide =>
    cases wide
    · simp only [putLane, Bool.false_eq_true, if_false]; rw [vWrite_closed h.1 h.2]; rfl
    · simp only [putLane, if_true, vWrite64]
      rw [vWrite_closed h.1 h.2, vWrite_closed (by exact h.1) (by exact h.2)]; rfl
  | u m wide =>
    cases wide
    · simp only [putLane, Bool.false_eq_true, if_false, uRead_write]
      by_cases hn : n = m <;> simp [hn, upart]
    · simp only [putLane, if_true, uWrite64, uRead_write, lo32_ofNat, hi32_ofNat]
      by_cases hn : n = m
      · subst hn; simp [upart]
      · by_cases hn' : n = m + 1 <;> simp [upart, hn, hn']
  | p n => rfl
  | none => rfl

theorem putLane_p {g : Group} (h : plainRegs g) (d : Dest) (l x : Nat) : (putLane g d l x).p = g.p := by
  cases d with
  | v m wide =>
    cases wide
    · simp only [putLane, Bool.false_eq_true, if_false]; rw [vWrite_closed h.1 h.2]
    · simp only [putLane, if_true, vWrite64]
      rw [vWrite_closed h.1 h.2, vWrite_closed (by exact h.1) (by exact h.2)]
  | u m wide => cases wide <;> rfl
  | p n => rfl
  | none => rfl

/-- The lane's part of `aluLanes`: the register unless NW, then the predicate. -/
def laneStep (o : Alu) (nw : Bool) (pd : Option Nat) (x : Group) (r : Nat × Nat × Bool) : Group :=
  let x := if nw then x else putLane x o.dst r.1 r.2.1
  match pd with
  | some n => pWrite x n r.1 r.2.2
  | none => x

/-- Where the predicate result of an operation goes. -/
def Alu.predDest (o : Alu) : Option Nat :=
  match o.dst with
  | .p n => some n
  | _ => o.pd

theorem aluLanes_eq (o : Alu) (nw : Bool) (g : Group) (cl : Mask) :
    aluLanes o nw g cl = (((lanesOf cl).map (fun l => (l, o.eval g l))).foldl (laneStep o nw (Alu.predDest o)) g,
      ((lanesOf cl).map (fun l => (l, o.eval g l))).map (fun r => (r.1, latchVal o.dst r.2.1))) := by
  unfold aluLanes laneStep Alu.predDest
  rcases o with ⟨a, b, c, ps, dst, pd, ck, il, fn⟩
  cases dst <;> cases pd <;> rfl

theorem laneStep_regs {x : Group} (h : plainRegs x) (o : Alu) (nw : Bool) (pd : Option Nat) (r : Nat × Nat × Bool) :
    regsOnly x (laneStep o nw pd x r) := by
  unfold laneStep
  cases nw <;> cases pd
  · exact putLane_regs h _ _ _
  · exact regsOnly_trans (putLane_regs h _ _ _) (regsOnly_pWrite (plainRegs_of (putLane_regs h _ _ _) h) _ _ _)
  · rfl
  · exact regsOnly_pWrite h _ _ _

theorem foldStep (o : Alu) (nw : Bool) (pd : Option Nat) (e : Nat → Nat × Bool) :
    ∀ (ls : List Nat) (g : Group), plainRegs g → (∀ l ∈ ls, l < 32) → ls.Nodup →
      let g' := (ls.map (fun l => (l, e l))).foldl (laneStep o nw pd) g
      regsOnly g g' ∧
      (∀ n j, j < 32 → vRaw g' n j = if decide (j ∈ ls) && !nw then (vpart o.dst n (e j).1).getD (vRaw g n j) else vRaw g n j) ∧
      (∀ n j, j < 32 → pRead g' n j = if pd = some n ∧ j ∈ ls then (e j).2 else pRead g n j) ∧
      ((∀ m w, o.dst ≠ .u m w) → ∀ n, uRead g' n = uRead g n) := by
  intro ls
  induction ls with
  | nil => intro g _ _ _; exact ⟨rfl, by simp, by simp, fun _ _ => rfl⟩
  | cons l ls ih =>
    intro g hp hls hnd
    have hl : l < 32 := hls l (by simp)
    have hnd' := List.nodup_cons.mp hnd
    have hs := laneStep_regs hp o nw pd (l, e l)
    obtain ⟨h1, h2, h3, h4⟩ := ih (laneStep o nw pd g (l, e l)) (plainRegs_of hs hp) (fun x hx => hls x (by simp [hx])) hnd'.2
    have hv : ∀ n j, j < 32 → vRaw (laneStep o nw pd g (l, e l)) n j =
        if decide (j = l) && !nw then (vpart o.dst n (e j).1).getD (vRaw g n j) else vRaw g n j := by
      intro n j hj
      have base : vRaw (if nw then g else putLane g o.dst l (e l).1) n j =
          if decide (j = l) && !nw then (vpart o.dst n (e j).1).getD (vRaw g n j) else vRaw g n j := by
        cases nw
        · simp only [Bool.false_eq_true, if_false, putLane_vector hp _ _ _ _ _ hl hj]
          by_cases h : j = l
          · subst h; simp
          · simp [h]
        · simp
      cases pd <;> exact base
    have hpr : ∀ n j, j < 32 → pRead (laneStep o nw pd g (l, e l)) n j = if pd = some n ∧ j = l then (e j).2 else pRead g n j := by
      intro n j hj
      have base : ∀ n j, pRead (if nw then g else putLane g o.dst l (e l).1) n j = pRead g n j := by
        intro n j
        cases nw
        · simp only [Bool.false_eq_true, if_false, pRead, putLane_p hp]
        · rfl
      cases pd with
      | none => simpa [laneStep] using base n j
      | some m =>
        simp only [laneStep]
        rw [pRead_write _ _ _ _ _ _ hl hj, base]
        by_cases h1 : n = m <;> by_cases h2 : j = l <;> simp [h1, h2, eq_comm]
    refine ⟨regsOnly_trans hs h1, ?_, ?_, ?_⟩
    · intro n j hj
      rw [List.map_cons, List.foldl_cons, h2 n j hj, hv n j hj]
      by_cases hjl : j = l
      · subst hjl; simp [hnd'.1]
      · simp [hjl]
    · intro n j hj
      rw [List.map_cons, List.foldl_cons, h3 n j hj, hpr n j hj]
      by_cases hjl : j = l
      · subst hjl; simp [hnd'.1]
      · simp [hjl]
    · intro hd n
      rw [List.map_cons, List.foldl_cons, h4 hd n]
      have base : uRead (if nw then g else putLane g o.dst l (e l).1) n = uRead g n := by
        cases nw
        · simp only [Bool.false_eq_true, if_false, putLane_uniform hp]
          cases hdd : o.dst with
          | u m w => exact absurd hdd (hd m w)
          | v m w => rfl
          | p m => rfl
          | none => rfl
        · rfl
      cases pd <;> exact base

theorem mget_map {α : Type} (ls : List Nat) (x : Nat → α) (l : Nat) :
    mget (ls.map (fun k => (k, x k))) l = if l ∈ ls then some (x l) else none := by
  induction ls with
  | nil => rfl
  | cons k ls ih =>
    simp only [List.map_cons, mget, ih, List.mem_cons]
    by_cases h : k = l
    · subst h; simp
    · simp [h, Ne.symm h]

theorem fijEvent_quiet {g : Group} (h : slice g.fij.toNat 0 4 = 0) (k : Nat) (hk : k ≠ 0) : fijEvent g k = (g, false) := by
  simp [fijEvent, h, Ne.symm hk]

/-- The end of a word that has changed registers and predicates only: the latch entry, the advance, and nothing else. -/
theorem endWord_post {s : State} {c : Ctx} {g g1 : Group} (hq : Undisturbed s g) (h1 : regsOnly g g1) (full : Bool) (vals : SMap W64) :
    ∃ g', endWord { s with cur := .idle } c g1 full vals = afterWord s c g' ∧ advanced c g g' ∧
      g'.v = g1.v ∧ g'.u = g1.u ∧ g'.p = g1.p ∧ g'.vEpochs = g1.vEpochs ∧
      g'.latches = (⟨g.latchId, full, vals⟩ :: g.latches).take 4 ∧
      g' = { g with v := g'.v, u := g'.u, p := g'.p, lanes := g'.lanes, latches := g'.latches, latchId := g.latchId + 1,
                    susp := [], resume := none } := by
  unfold regsOnly at h1
  have hl : g1.latchLost = false := by rw [h1]; exact hq.ownLatches
  refine ⟨_, endWord_eq hl hq.noImage, ?_, rfl, rfl, rfl, rfl, ?_, ?_⟩
  · have := advance_lanes (pushLatch { g1 with susp := [], resume := none } full vals) c.mask
    have e : (pushLatch { g1 with susp := [], resume := none } full vals).lanes = g.lanes := by rw [h1]; rfl
    simp only [Group.lane, e] at this
    exact this
  · rw [h1]; rfl
  · rw [h1]; rfl

/-- A lane operation without injection or windows does what `LanePost` says and nothing else. -/
theorem runLanes_post {s : State} {c : Ctx} {g : Group} {t : Team} (hq : Undisturbed s g) (o : Alu) (once nw : Bool) (cl : Mask)
    (hv : ∀ n w, o.dst = .v n w → once = false) (hu : ∀ n w, o.dst = .u n w → once = true) :
    ∃ g', runLanes o once nw { s with cur := .idle } c g t cl = afterWord s c g' ∧
      LanePost c g g' once nw cl o.dst (Alu.predDest o) (fun l => (o.eval g l).1) (fun l => (o.eval g l).2) := by
  have hp : plainRegs g := ⟨hq.noWindow, hq.noError⟩
  by_cases hcl : cl = 0#32
  · obtain ⟨g', e, hpc, ev, eu, ep, ee, el, er⟩ := endWord_post (s := s) (c := c) hq (regsOnly_refl g) o.dst.isReg []
    refine ⟨g', ?_, ?_⟩
    · rw [← e]; simp [runLanes, hcl]
    · have hz : ∀ l, has cl l = false := by intro l; simp [hcl, has]
      have hz0 : ∀ l, has 0#32 l = false := by intro l; simp [has]
      have hv' : ∀ n l, vRaw g' n l = vRaw g n l := by intro n l; simp only [vRaw, freeVector, ev, ee]
      constructor
      · intro n l _; simp [hz, hv']
      · intro n; simp [hcl, uRead, eu]
      · intro n l _; simp [hcl, hz0, pRead, ep]
      · exact ⟨[], el, fun l _ => by simp [hcl, hz0, mval, mget]⟩
      · exact hpc
      · exact er
  · have hf : ∀ k, k ≠ 0 → fijEvent g k = (g, false) := fun k hk => fijEvent_quiet hq.noInjection k hk
    have key : runLanes o once nw { s with cur := .idle } c g t cl =
        endWord { s with cur := .idle } c (if once then aluOnce o nw g c.mask else aluLanes o nw g cl).1 o.dst.isReg
          (if once then aluOnce o nw g c.mask else aluLanes o nw g cl).2 := by
      have h2 : (if o.writesVector nw then fijEvent g 2 else (g, false)) = (g, false) := by split <;> simp [hf]
      have hw : runLanes o once nw { s with cur := .idle } c g t cl = writeLanes o once nw { s with cur := .idle } c g cl := by
        unfold runLanes
        rw [if_neg hcl]
        split
        · rfl
        · simp [hf, hq.noStrike]
      rw [hw]
      unfold writeLanes
      simp only [h2, Bool.false_eq_true, if_false]
    cases once with
    | false =>
      have hu' : ∀ m w, o.dst ≠ .u m w := fun m w h => absurd (hu m w h) (by simp)
      obtain ⟨h1, h2, h3, h4⟩ := foldStep o nw (Alu.predDest o) (o.eval g) (lanesOf cl) g hp
        (fun l h => lt_of_mem_lanesOf h) (nodup_lanesOf cl)
      obtain ⟨g', e, hpc, ev, eu, ep, ee, el, er⟩ := endWord_post (s := s) (c := c) hq h1 o.dst.isReg
        (((lanesOf cl).map (fun l => (l, o.eval g l))).map (fun r => (r.1, latchVal o.dst r.2.1)))
      refine ⟨g', ?_, ?_⟩
      · rw [← e, key]; simp only [Bool.false_eq_true, if_false, aluLanes_eq]
      · constructor
        · intro n l hl
          have : vRaw g' n l = vRaw (List.foldl (laneStep o nw (Alu.predDest o)) g ((lanesOf cl).map (fun l => (l, o.eval g l)))) n l := by
            simp only [vRaw, freeVector, ev, ee]
          rw [this, h2 n l hl]
          simp [mem_lanesOf]
        · intro n
          have : uRead g' n = uRead (List.foldl (laneStep o nw (Alu.predDest o)) g ((lanesOf cl).map (fun l => (l, o.eval g l)))) n := by
            simp only [uRead, eu]
          rw [this, h4 hu' n]; simp
        · intro n l hl
          have : pRead g' n l = pRead (List.foldl (laneStep o nw (Alu.predDest o)) g ((lanesOf cl).map (fun l => (l, o.eval g l)))) n l := by
            simp only [pRead, ep]
          rw [this, h3 n l hl]; simp [mem_lanesOf]
        · refine ⟨_, el, fun l hl => ?_⟩
          have : ((lanesOf cl).map (fun l => (l, o.eval g l))).map (fun r => (r.1, latchVal o.dst r.2.1)) =
              (lanesOf cl).map (fun l => (l, latchVal o.dst (o.eval g l).1)) := by simp
          rw [this, mval, mget_map]
          by_cases h : has cl l = true
          · simp [mem_lanesOf, h]
          · simp [mem_lanesOf, h]
        · exact hpc
        · exact er
    | true =>
      have hv' : ∀ m w, o.dst ≠ .v m w := fun m w h => absurd (hv m w h) (by simp)
      have h0 : regsOnly g (if nw then g else putLane g o.dst 0 (o.eval g 0).1) := by
        cases nw
        · exact putLane_regs hp _ _ _
        · rfl
      have e1 : (aluOnce o nw g c.mask).1 = (match Alu.predDest o with
          | some n => (lanesOf c.mask).foldl (fun x l => pWrite x n l (o.eval g 0).2) (if nw then g else putLane g o.dst 0 (o.eval g 0).1)
          | none => if nw then g else putLane g o.dst 0 (o.eval g 0).1) := by
        unfold aluOnce Alu.predDest
        rcases o with ⟨a, b, c, ps, dst, pd, ck, il, fn⟩
        cases dst <;> cases pd <;> rfl
      have h1 : regsOnly g (aluOnce o nw g c.mask).1 := by
        rw [e1]
        split
        · exact regsOnly_trans h0 (regsOnly_foldl _ (fun g x hg => regsOnly_pWrite hg _ _ _) (plainRegs_of h0 hp) _)
        · exact h0
      have pf : ∀ (n : Nat) (ls : List Nat) (b : Bool) (x : Group),
          (ls.foldl (fun x l => pWrite x n l b) x).v = x.v ∧ (ls.foldl (fun x l => pWrite x n l b) x).u = x.u ∧
          (ls.foldl (fun x l => pWrite x n l b) x).vEpochs = x.vEpochs := by
        intro n ls b
        induction ls with
        | nil => intro x; exact ⟨rfl, rfl, rfl⟩
        | cons l ls ih => intro x; exact ih _
      have hreg : (aluOnce o nw g c.mask).1.v = (if nw then g else putLane g o.dst 0 (o.eval g 0).1).v ∧
          (aluOnce o nw g c.mask).1.u = (if nw then g else putLane g o.dst 0 (o.eval g 0).1).u ∧
          (aluOnce o nw g c.mask).1.vEpochs = (if nw then g else putLane g o.dst 0 (o.eval g 0).1).vEpochs := by
        rw [e1]; split
        · exact pf _ _ _ _
        · exact ⟨rfl, rfl, rfl⟩
      obtain ⟨g', e, hpc, ev, eu, ep, ee, el, er⟩ := endWord_post (s := s) (c := c) hq h1 o.dst.isReg (aluOnce o nw g c.mask).2
      refine ⟨g', ?_, ?_⟩
      · rw [← e, key]; simp only [if_true]
      · constructor
        · intro n l hl
          have : vRaw g' n l = vRaw (if nw then g else putLane g o.dst 0 (o.eval g 0).1) n l := by
            simp only [vRaw, freeVector, ev, ee, hreg.1, hreg.2.2]
          rw [this]
          cases nw
          · simp only [Bool.false_eq_true, if_false, putLane_vector hp _ _ _ _ _ (by decide : 0 < 32) hl]
            have : vpart o.dst n (o.eval g 0).1 = none := by
              cases hd : o.dst with
              | v m w => exact absurd hd (hv' m w)
              | _ => rfl
            simp [this]
          · simp
        · intro n
          have : uRead g' n = uRead (if nw then g else putLane g o.dst 0 (o.eval g 0).1) n := by
            simp only [uRead, eu, hreg.2.1]
          rw [this]
          cases nw
          · simp only [Bool.false_eq_true, if_false, putLane_uniform hp]
            simp [hcl]
          · simp
        · intro n l hl
          have : pRead g' n l = pRead (aluOnce o nw g c.mask).1 n l := by simp only [pRead, ep]
          rw [this, e1]
          have base : pRead (if nw then g else putLane g o.dst 0 (o.eval g 0).1) n l = pRead g n l := by
            cases nw
            · simp only [Bool.false_eq_true, if_false, pRead, putLane_p hp]
            · rfl
          cases hpd : Alu.predDest o with
          | none => simp [base]
          | some m =>
            simp only []
            rw [pRead_fold _ _ _ (fun l h => lt_of_mem_lanesOf h) (fun _ => (o.eval g 0).2) _ _ hl, base]
            by_cases hm : n = m
            · subst hm; simp [mem_lanesOf, hcl]
            · simp [hm, Ne.symm hm]
        · refine ⟨_, el, fun l hl => ?_⟩
          have : (aluOnce o nw g c.mask).2 = (List.range nLanes).map (fun l => (l, latchVal o.dst (o.eval g 0).1)) := rfl
          rw [this, mval, mget_map]
          simp [hcl, nLanes, hl]
        · exact hpc
        · exact er

/-- What a word with readable operands meets at issue: nothing (R66). -/
theorem issueCause_none {s : State} {g : Group} {t : Team} {n : Needs} (h1 : n.illegal = false) (h2 : n.priv = false)
    (h3 : ∀ q ∈ n.latches, latchReady g q = true) (h4 : n.vtop ≤ g.vcount) (h5 : n.ttop ≤ 4 * g.tgran) (h6 : n.atop ≤ 4 * g.agran)
    (h7 : n.cvtop ≤ cvCount s g.core t.world) : issueCause s g t n = none := by
  unfold issueCause
  have e : n.latches.any (fun q => !latchReady g q) = false := by
    rw [List.any_eq_false]; intro q hq; simp [h3 q hq]
  simp only [h1, h2, e, Bool.false_eq_true, if_false]
  rw [if_neg]
  simp only [Bool.or_eq_true, decide_eq_true_eq]
  omega

/-- A single-form ALU word whose operands can be read completes: its group as `LanePost` says, and nothing else changed. -/
theorem runAlu_completes {s : State} {c : Ctx} {g : Group} {t : Team} (h : Issuing s c g t) (hq : Undisturbed s g) (f : SForm) (o : Alu)
    (hi : o.illegal = false) (hr : canRead g [o.a, o.b, o.c] o.dst)
    (hv : ∀ n w, o.dst = .v n w → ud f = false) (hu : ∀ n w, o.dst = .u n w → ud f = true) :
    ∃ g', runAlu f o s = .next (afterWord s c g') ∧
      LanePost c g g' (ud f) f.nw (clOf g c f.pg f.pn) o.dst (Alu.predDest o) (fun l => (o.eval g l).1) (fun l => (o.eval g l).2) := by
  obtain ⟨g', e, hp⟩ := runLanes_post (t := t) (c := c) hq o (ud f) f.nw (clOf g c f.pg f.pn) hv hu
  refine ⟨g', ?_, hp⟩
  unfold runAlu
  rw [issueWord_issuing h hq.noError, e]
  obtain ⟨r1, r2, r3⟩ := hr
  refine issueCause_none hi rfl ?_ ?_ (Nat.zero_le _) (Nat.zero_le _) (Nat.zero_le _)
  · intro q hq'
    simp only [Alu.needs, List.mem_append] at hq'
    rcases hq' with (hq' | hq') | hq'
    · exact r1 _ (by simp) _ hq'
    · exact r1 _ (by simp) _ hq'
    · exact r1 _ (by simp) _ hq'
  · have a1 := r2 o.a (by simp)
    have a2 := r2 o.b (by simp)
    have a3 := r2 o.c (by simp)
    simp only [Alu.needs]
    omega

/-- The same for an immediate-form word. -/
theorem runAluI_completes {s : State} {c : Ctx} {g : Group} {t : Team} (h : Issuing s c g t) (hq : Undisturbed s g) (f : SIForm) (o : Alu)
    (hi : o.illegal = false) (hr : canRead g [o.a, o.b, o.c] o.dst)
    (hv : ∀ n w, o.dst = .v n w → f.ud = false) (hu : ∀ n w, o.dst = .u n w → f.ud = true) :
    ∃ g', runAluI f o s = .next (afterWord s c g') ∧
      LanePost c g g' f.ud false (clOf g c f.pg f.pn) o.dst (Alu.predDest o) (fun l => (o.eval g l).1) (fun l => (o.eval g l).2) := by
  obtain ⟨g', e, hp⟩ := runLanes_post (t := t) (c := c) hq o f.ud false (clOf g c f.pg f.pn) hv hu
  refine ⟨g', ?_, hp⟩
  unfold runAluI
  rw [issueWord_issuing h hq.noError, e]
  obtain ⟨r1, r2, r3⟩ := hr
  refine issueCause_none hi rfl ?_ ?_ (Nat.zero_le _) (Nat.zero_le _) (Nat.zero_le _)
  · intro q hq'
    simp only [Alu.needs, List.mem_append] at hq'
    rcases hq' with (hq' | hq') | hq'
    · exact r1 _ (by simp) _ hq'
    · exact r1 _ (by simp) _ hq'
    · exact r1 _ (by simp) _ hq'
  · have a1 := r2 o.a (by simp)
    have a2 := r2 o.b (by simp)
    have a3 := r2 o.c (by simp)
    simp only [Alu.needs]
    omega

end Sys2Proof.Laws
end

