-- ==== Sys2Proof/Laws/Ops.lean ====
section
/-! SUPPORT. What the shared operations can do: taking a trap and its end, the releases of waits and the updates of barrier objects, queues
that stop, reports, and writes to home memory. -/

namespace Sys2Proof.Laws

open Sys2Proof Sys2Proof.Machine

/-! ### Taking a trap (R360 to R362) -/

theorem zipIdx_map_lane (g : Group) (f : Lane × Nat → Lane) (l : Nat) (hl : l < g.lanes.length) :
    (g.lanes.zipIdx.map f).getD l Lane.none = f (g.lane l, l) := by
  simp [List.getD_eq_getElem?_getD, Group.lane, hl]

/-- Handler entry, as the statements say it. -/
theorem enterHandler_enters (g : Group) (x : Cause) (T : Mask) (tpc taddr tinfo : W64) :
    EntersHandler g { enterHandler g x T tpc taddr tinfo with susp := [], resume := none } x T tpc taddr tinfo where
  registers := rfl
  lanes := fun l hl => by
    show (g.lanes.zipIdx.map _).getD l Lane.none = _
    rw [zipIdx_map_lane g _ l hl]
    rfl
  latches := rfl
  rest := rfl

/-- A cause that a handler can take: the group enters its handler, and nothing else changes. -/
theorem takeTrap_canTrap {s : State} {gid : Nat} {g : Group} (hg : mget s.groups gid = some g) (h : canTrap g) (x : Cause) (T : Mask)
    (tpc taddr tinfo : W64) :
    takeTrap s gid x T tpc taddr tinfo =
      { s with groups := mput s.groups gid { enterHandler g x T tpc taddr tinfo with susp := [], resume := none } } := by
  have : (g.trap.handler = 0#64 || decide (g.inHandler ≠ 0#32)) = false := by simp [h.1, h.2]
  simp only [takeTrap, hg, this]
  simp [onGroup, mupd, hg]

/-- With no handler, or in one, the context stops. -/
theorem takeTrap_stops {s : State} {gid : Nat} {g : Group} (hg : mget s.groups gid = some g) (h : ¬ canTrap g) (x : Cause) (T : Mask)
    (tpc taddr tinfo : W64) : takeTrap s gid x T tpc taddr tinfo = stopContext s gid x := by
  unfold canTrap at h
  simp only [takeTrap, hg]
  rw [if_pos (by by_cases h0 : g.trap.handler = 0#64 <;> simp_all)]

/-- With a lane still in the handler its end changes nothing. -/
theorem endHandler_inHandler {g : Group} (h : g.inHandler ≠ 0#32) : endHandler g = g := by simp [endHandler, h]

/-- The end of a handler makes the parked lanes active, and changes no other lane. -/
theorem endHandler_lane {g : Group} (h : g.inHandler = 0#32) (l : Nat) (hl : l < g.lanes.length) (h32 : l < 32) :
    (endHandler g).lane l = if (g.lane l).st = .parked then { g.lane l with st := .active } else g.lane l := by
  have e : endHandler g = emptyLatches (g.onLanes (g.inState .parked) (fun x => { x with st := .active })) := if_pos h
  rw [e]
  refine (onLanes_lane g (g.inState .parked) (fun x => { x with st := .active }) l hl).trans ?_
  simp [Group.inState, has_maskBy _ _ h32]

/-! ### Waits and barrier objects (R31, R32, R210) -/

theorem map_lane (g : Group) (f : Lane → Lane) (l : Nat) (hl : l < g.lanes.length) : (g.lanes.map f).getD l Lane.none = f (g.lane l) := by
  simp [List.getD_eq_getElem?_getD, Group.lane, hl]

/-- A release makes each lane whose wait satisfies the test active at the next word, or parked beside a handler, and no other. -/
theorem releaseWhere_lane (g : Group) (p : Wait → Bool) (l : Nat) (hl : l < g.lanes.length) :
    (releaseWhere g p).lane l =
      if (g.lane l).st = .blocked ∧ (∃ w, (g.lane l).wait = some w ∧ p w = true) then releaseLane (decide (g.inHandler ≠ 0#32)) (g.lane l) else g.lane l := by
  show (g.lanes.map _).getD l Lane.none = _
  rw [map_lane g _ l hl]
  cases (g.lane l).st <;> cases (g.lane l).wait <;> simp

/-- What a release leaves of its group besides the lanes. -/
theorem releaseWhere_rest (g : Group) (p : Wait → Bool) : releaseWhere g p = { g with lanes := (releaseWhere g p).lanes } := rfl

/-- What a release in a team leaves of a group. -/
theorem releaseTeam_group (s : State) (tid : Nat) (p : Wait → Bool) (gid : Nat) :
    mget (releaseTeam s tid p).groups gid = (mget s.groups gid).map (fun g => if g.team = tid then releaseWhere g p else g) := by
  show mget (List.map _ s.groups) gid = _
  induction s.groups with
  | nil => rfl
  | cons q m ih =>
    obtain ⟨k, g⟩ := q
    by_cases hk : k = gid <;> by_cases ht : g.team = tid <;> simp_all [mget]

/-- A completed phase: the object stands at the next one, with its counts at zero. -/
theorem next_phase (b : Barrier) : b.next = { b with phase := (b.phase + 1) % 2 ^ 32, arrived := 0, landed := 0, xbytes := 0 } := rfl

theorem arrive_expect (b : Barrier) : b.arrive.expect = b.expect ∧ b.arrive.arrived = min (b.arrived + 1) 8191 := ⟨rfl, rfl⟩

/-! ### Queues (R343) -/

/-- A change of a queue changes that queue alone. -/
theorem queueAt_onQueue (s : State) (fe slot : Nat) (f : Queue → Queue) (fe' slot' : Nat) :
    queueAt (onQueue s fe slot f) fe' slot' = if fe' = fe ∧ slot' = slot then (queueAt s fe slot).map f else queueAt s fe' slot' := by
  simp only [queueAt, onQueue, mget_mupd]
  by_cases h1 : fe' = fe
  · subst h1
    cases mget s.frontEnds fe' with
    | none => by_cases h2 : slot' = slot <;> simp [h2]
    | some x => by_cases h2 : slot' = slot <;> simp [h2, mget_mupd]
  · simp [h1]

/-- A queue with no earlier failure that stops: its code, sub-launch and packet are kept, and it is to be reset. -/
theorem stopQueue_queue {s : State} {fe slot : Nat} {q : Queue} (hq : queueAt s fe slot = some q) (h : q.code = 0) (code sub index : Nat) :
    queueAt (stopQueue s fe slot code sub index) fe slot = some { q with code := code, sub := sub, failAt := index, stopping := .reset } := by
  have := queueAt_onQueue s fe slot (fun q => { q with code := code, sub := sub, failAt := index, stopping := .reset }) fe slot
  have e : (decide (q.code ≠ 0) && decide (q.failAt ≤ index)) = false := by simp [h]
  simp only [stopQueue, hq, e]
  exact this.trans (by simp [hq])

/-- The first code of a queue stands, unless an earlier packet fails. -/
theorem stopQueue_stands {s : State} {fe slot : Nat} {q : Queue} (hq : queueAt s fe slot = some q) (h : q.code ≠ 0) {index : Nat}
    (hi : q.failAt ≤ index) (code sub : Nat) : stopQueue s fe slot code sub index = s := by
  simp [stopQueue, hq, h, hi]

/-! ### Writes to home memory, and reports (R193, R399, R400) -/

/-- What a write to home memory may change of the machine: memory with its codes, the writes that wait, and the copies and leases of the
caches. -/
def homeOnly (s t : State) : Prop :=
  t = { s with mem := t.mem, forms := t.forms, upsets := t.upsets, poison := t.poison, writes := t.writes, cores := t.cores, dies := t.dies }

theorem homeOnly_refl (s : State) : homeOnly s s := rfl

theorem homeOnly_trans {s t u : State} (h1 : homeOnly s t) (h2 : homeOnly t u) : homeOnly s u := by
  unfold homeOnly at *; rw [h2, h1]

theorem homeOnly_writes (s : State) (ws : List MWrite) : homeOnly s { s with writes := ws } := rfl

/-- A change of the worlds beside it. -/
theorem homeOnly_worlds {s t : State} (h : homeOnly s t) (m : SMap World) : homeOnly { s with worlds := m } { t with worlds := m } := by
  unfold homeOnly at *; rw [h]

theorem setForm_homeOnly (s : State) (f : Form) (u : Nat) : homeOnly s (setForm s f u) := by
  unfold setForm; split <;> rfl

theorem setForms_homeOnly (s : State) (f : Form) (us : List Nat) : homeOnly s (us.foldl (fun (s : State) u => setForm s f u) s) :=
  foldl_keeps (P := homeOnly s) (fun t u h => homeOnly_trans h (setForm_homeOnly t f u)) us (homeOnly_refl s)

theorem foldl_homeOnly {β : Type} {f : State → β → State} (h : ∀ s b, homeOnly s (f s b)) (l : List β) (s : State) :
    homeOnly s (l.foldl f s) :=
  foldl_keeps (P := homeOnly s) (fun t b ht => homeOnly_trans ht (h t b)) l (homeOnly_refl s)

theorem mergeUnit_homeOnly (bad : Nat → Bool) (s : State) (u : Nat) : homeOnly s (mergeUnit bad s u) := by
  unfold mergeUnit; split
  · rfl
  · rfl
  · split <;> rfl

theorem writeErrors_homeOnly (bad : Nat → Bool) (s : State) (pa n : Nat) : homeOnly s (writeErrors bad s pa n) := by
  refine homeOnly_trans (foldl_homeOnly (fun s u => ?_) (bigUnits pa n) s) rfl
  split
  · rfl
  · exact mergeUnit_homeOnly bad s u

theorem homePut_homeOnly (s : State) (w pa : Nat) (bs : List Byte) : homeOnly s (homePut s w pa bs) := by
  unfold homePut; split
  · rfl
  · exact homeOnly_trans (homeOnly_trans (writeErrors_homeOnly (foreign s w) s pa bs.length) (setForms_homeOnly _ (.plain (keyOf s w)) _)) rfl

theorem settleWrite_homeOnly (s : State) (w : MWrite) : homeOnly s (settleWrite s w) := by
  unfold settleWrite; split
  · exact homePut_homeOnly s _ _ _
  · exact foldl_homeOnly (fun s r => homePut_homeOnly s _ _ _) _ s

theorem settleList_homeOnly (ws : List MWrite) (s : State) : homeOnly s (settleList ws s) := by
  induction ws generalizing s with
  | nil => rfl
  | cons w ws ih =>
    unfold settleList; split
    · exact homeOnly_trans (settleWrite_homeOnly s w) (ih _)
    · rfl

theorem settle_homeOnly (s : State) : homeOnly s (settle s) := settleList_homeOnly _ s

theorem requestLines_homeOnly (s : State) (agent : Option Nat) (pa n : Nat) : homeOnly s (requestLines s agent pa n) := by
  unfold requestLines; dsimp only; split <;> rfl

theorem dirtyOn_homeOnly (s : State) (die pa : Nat) : homeOnly s (dirtyOn s die pa) := rfl

theorem drainGo_homeOnly (fuel : Nat) (s : State) (id : Nat) : homeOnly s (drainGo fuel s id) := by
  induction fuel generalizing s id with
  | zero => rfl
  | succ fuel ih =>
    unfold drainGo; split
    · rfl
    · rename_i w _
      have h := homeOnly_trans (requestLines_homeOnly s w.core w.pa w.bytes.length) (foldl_homeOnly ih (drainFirst s.writes w) _)
      dsimp only
      split
      · exact homeOnly_trans (homeOnly_trans h (dirtyOn_homeOnly _ _ _)) (homeOnly_writes _ _)
      · exact homeOnly_trans h (homeOnly_writes _ _)

theorem drain_homeOnly (s : State) (id : Nat) : homeOnly s (drain s id) := drainGo_homeOnly _ s id

theorem flushBytes_homeOnly (s : State) (pa n : Nat) : homeOnly s (flushBytes s pa n) := by
  unfold flushBytes; split
  · have h : homeOnly s ((s.writes.filter (fun w => w.overlaps pa n)).foldl (fun s (w : MWrite) => drain s w.id) s) :=
      foldl_homeOnly (fun t (w : MWrite) => drain_homeOnly t w.id) _ s
    exact homeOnly_trans (homeOnly_trans h (homeOnly_writes _ _)) (settle_homeOnly _)
  · rfl

theorem deviceWrite_homeOnly (s : State) (world pa : Nat) (bs : List Byte) : homeOnly s (deviceWrite s world pa bs) :=
  homeOnly_trans (flushBytes_homeOnly s _ _) (homePut_homeOnly _ _ _ _)

/-- A record in a world's event queue changes home memory, its copies and the world's count alone. -/
theorem worldRecord_only (s : State) (w : Nat) (e : EvRec) :
    homeOnly { s with worlds := (worldRecord s w e).worlds } (worldRecord s w e) := by
  unfold worldRecord; split
  · rfl
  · dsimp only
    split
    · rename_i x _ _
      exact homeOnly_worlds (homeOnly_trans (deviceWrite_homeOnly s w (x.evFrame + 0x40 + 16 * (x.count % 64)) e.bytes)
        (deviceWrite_homeOnly _ w x.evFrame (leBytes 8 (x.count + 1)))) _
    · rfl

/-- A report reaches the host, and changes nothing else but home memory and the world's count. -/
theorem report_only (s : State) (world : Option Nat) (cls kind index sub : Nat) :
    homeOnly { s with
      worlds := (report s world cls kind index sub).worlds
      ctl := { s.ctl with events := ⟨s.clock, cls, world.isNone, world.getD 0, kind, index, sub⟩ :: s.ctl.events } } (report s world cls kind index sub) := by
  cases world with
  | none => rfl
  | some w => exact worldRecord_only _ w _

theorem worldRecord_wf {s : State} (h : Memory.wf s.mem = true) (w : Nat) (e : EvRec) : Memory.wf (worldRecord s w e).mem = true := by
  unfold worldRecord; split
  · exact h
  · dsimp only
    split
    · exact deviceWrite_wf (deviceWrite_wf h _ _ _) _ _ _
    · exact h

theorem report_wf {s : State} (h : Memory.wf s.mem = true) (world : Option Nat) (cls kind index sub : Nat) :
    Memory.wf (report s world cls kind index sub).mem = true := by
  cases world with
  | none => exact h
  | some w =>
    let s' : State := { s with ctl := { s.ctl with events := ⟨s.clock, cls, false, w, kind, index, sub⟩ :: s.ctl.events } }
    exact worldRecord_wf (s := s') h w ⟨s.clock, cls, false, w, kind, index, sub⟩

end Sys2Proof.Laws
end

