-- ==== Sys2Proof/Tests/Slice0.lean ====
section
/-! SUPPORT. The package's own tests: ill-formed words refused, decode of words written out from the manual's encodings,
single steps, and a witness for every statement with hypotheses. A witness names a state and operands that meet the hypotheses of the
statement together. -/

namespace Sys2Proof.Tests

open Sys2Proof Sys2Proof.Machine

set_option Elab.async false

theorem test_reset_memory : Memory.wf State.reset.mem = true := by decide

/-! ### Small states -/

/-- A form S word's fields, unguarded, with no control bit. -/
def form (d a b c fn : Nat) : SForm := ⟨15#4, false, .ofNat 8 d, .ofNat 8 a, .ofNat 8 b, .ofNat 8 c, 0#3, false, false, false, .ofNat 13 fn⟩

/-- A group of 32 active lanes at 0x1000 with a handler at 0x8000, and a team of world 1 and space 1 with a slot of 64 KiB. -/
def group0 : Group := { Group.blank 0 0 0 64 0 0x1000#64 with trap := ⟨0#8, 0#32, 0#64, 0#64, 0#64, 0x8000#64⟩ }
def team0 : Team := { Team.blank 1 1 0 0 [0] with scratch := 65536 }

/-- The issue of a word in the lanes of a mask, and a state in which a word of a group of team 0 is at hand. -/
def ctx (m : Mask) (w : BitVec 64) : Ctx := ⟨0, m, 0x1000#64, w⟩
def at_ (g : Group) (t : Team) (c : Ctx) : State := { State.reset with groups := [(0, g)], teams := [(0, t)], cur := .word c, fresh := 10 }

/-- The issue of a word by all lanes, and its state. -/
def c0 : Ctx := ctx allLanes 0#64
def s0 : State := at_ group0 team0 c0

theorem issuing (g : Group) (t : Team) (m : Mask) (w : BitVec 64) (h : g.team = 0) : Issuing (at_ g t (ctx m w)) (ctx m w) g t :=
  ⟨rfl, rfl, by rw [h]; rfl⟩

theorem undisturbed (g : Group) (t : Team) (c : Ctx) (h : t.imageWait = false)
    (hg : g.regErrs = [] ∧ slice g.fij.toNat 0 4 = 0 ∧ g.strikes = [] ∧ g.windows = [] ∧ g.latchLost = false) : Undisturbed (at_ g t c) g :=
  ⟨hg.1, hg.2.1, hg.2.2.1, hg.2.2.2.1, hg.2.2.2.2, by intro p hp; cases List.mem_singleton.mp hp; exact h⟩

theorem issuing0 : Issuing s0 c0 group0 team0 := issuing _ _ _ _ rfl
theorem undisturbed0 : Undisturbed s0 group0 := undisturbed _ _ _ rfl (by decide)

/-- What holds of every lane below 32 holds of every lane of a mask. -/
theorem ofHas {m : Mask} {P : Nat → Prop} (h : ∀ l, l < 32 → has m l = true → P l) : ∀ l, has m l = true → P l := fun l hl =>
  h l (by by_contra hn; rw [has, BitVec.getLsbD_of_ge _ _ (by omega)] at hl; simp at hl) hl

/-! ### Well-formedness: one ill-formed instruction for each check -/

theorem test_ill_predicate_field : (Instr.iadd { form 4 8 10 0 0 with pg := 12#4 }).wellFormed = false := by decide +kernel
theorem test_ill_guard_negated : (Instr.iadd { form 4 8 10 0 0 with pn := true }).wellFormed = false := by decide +kernel
theorem test_ill_opx : (Instr.iadd (form 4 8 10 0 0x40)).wellFormed = false := by decide +kernel
theorem test_ill_unused_field : (Instr.exit (form 1 0 0 0 0)).wellFormed = false := by decide +kernel
theorem test_ill_odd_pair : (Instr.iadd (form 5 8 10 0 1)).wellFormed = false := by decide +kernel
theorem test_ill_latch : (Instr.iadd { form 4 8 10 0 0 with lq := 1#3 }).wellFormed = false := by decide +kernel
theorem test_ill_nw : (Instr.st { form 4 8 0 0 0 with nw := true }).wellFormed = false := by decide +kernel
theorem test_ill_ru : (Instr.ld { form 4 8 0 0 0 with ru := true }).wellFormed = false := by decide +kernel
theorem test_ill_immediate : (Instr.movi ⟨15#4, false, 4#8, 1#8, 0#32, false, 0#2⟩).wellFormed = false := by decide +kernel
theorem test_ill_slot : (Instr.pairMov ⟨7#3, 4#8, 9#8, 1#6⟩).wellFormed = false := by decide +kernel
theorem test_ill_crumb : (Instr.crumbMapok ⟨1#4, 0#4, 0#4, 0#14⟩).wellFormed = false := by decide +kernel
theorem test_ill_sysreg : (Instr.srr (form 4 5 0 0 0)).wellFormed = false := by decide +kernel

/-! ### Decoding: words that the manual writes out with their assembly -/

/-- The one instruction that a word decodes to. -/
def one (w : BitVec 64) : Option Instr := match decode w with
  | .ok (.one i) => some i
  | _ => none

/-- `iadd.cc v4, v8, v10, p1`; `?!p2 iadd v7, q0, s300`; `movi v9, 0x12345678` (R83, R66, R89). -/
theorem test_decode_integer :
    one 0x01F0204050080008#64 = some (.iadd (form 4 8 10 1 0x8)) ∧
    one 0x0128380160040900#64 = some (.iadd { form 7 0 44 0 0x900 with pg := 2#4, pn := true, lq := 4#3 }) ∧
    one 0x0FF0480091A2B3C0#64 = some (.movi ⟨15#4, false, 9#8, 0#8, 0x12345678#32, false, 0#2⟩) := by decide +kernel

/-- `exit`; `bra` to PC − 64; `trap 0x2A`; `srr v42:v43, TINFO`; `srw THANDLER, s12:s13` (R105, R106, R364 to R367). -/
theorem test_decode_control :
    one 0x65F0000000000000#64 = some (.exit (form 0 0 0 0 0)) ∧ one 0x60F7FFFFFFC00000#64 = some (.bra (form 0xFF 0xFF 0xFF 0xF8 0)) ∧
    one 0x78F0000001500000#64 = some (.trap (form 0 0 0 42 0)) ∧ one 0x79F0000000000001#64 = some (.rttSkip (form 0 0 0 0 1)) ∧
    one 0x7AF1502000000000#64 = some (.srr (form 42 4 0 0 0)) ∧ one 0x7BF0004060000100#64 = some (.srw (form 0 8 12 0 0x100)) := by decide +kernel

/-- `ffma.rz v8, v1, -v2, v3`; `pdot4.e4m3 v6, v1, v2, v3`; `fscl.b0 v7, v7, v20, v21`; `pcvt.fs2 v8, v1, v2` with ZC (R136, R149, R152). -/
theorem test_decode_floating :
    one 0x22F0400810180011#64 = some (.ffma (form 8 1 2 3 0x11)) ∧ one 0x34F030081018000A#64 = some (.pdot4 (form 6 1 2 3 0xA)) ∧
    one 0x2CF03838A0A80008#64 = some (.fscl (form 7 7 20 21 8)) ∧ one 0x3BF0400810000022#64 = some (.pcvt (form 8 1 2 0 0x22)) := by decide +kernel

/-- `ld v8, [v4:v5 + 64]`; `st [s8:s9], s30`; `atom.add.ar.dev v6, [v4:v5], v9`; `?p2 red.add.rel.dev.z32 [s4:s5], s30`; `fence.dev`
(R177, R183, R186). -/
theorem test_decode_memory :
    one 0x40F0402002000020#64 = some (.ld (form 8 4 0 64 0x20)) ∧ one 0x41F0F04000000620#64 = some (.st (form 30 8 0 0 0x620)) ∧
    one 0x45F0302048000070#64 = some (.atom (form 6 4 9 0 0x70)) ∧
    one 0x47200020F0000650#64 = some (.red { form 0 4 30 0 0x650 with pg := 2#4 }) ∧ one 0x48F0000000000004#64 = some (.fence (form 0 0 0 0 4)) := by
  decide +kernel

/-- `acp.t1 …, 20`; `bcp.ld b1, [s20], s8:s9, s12`; `bwait b3, v2`; `?p2 barv.exp.na b0 v1, s27`; `rgive 56`; `rclaim 56`
(R222, R227, R232, R233). -/
theorem test_decode_copies :
    one 0x50F0002040A00090#64 = some (.acp (form 0 4 8 20 0x90)) ∧ one 0x53F00040A0600010#64 = some (.bcpLd (form 0 8 20 12 0x10)) ∧
    one 0x57F0000010000034#64 = some (.bwaitToken (form 0 0 2 0 0x34)) ∧
    one 0x56200800D800040C#64 = some (.barv { form 1 0 27 0 0x40C with pg := 2#4 }) ∧ one 0x71F0000000000007#64 = some (.rgive (form 0 0 0 0 7)) ∧
    one 0x72F0000000000007#64 = some (.rclaim (form 0 0 0 0 7)) ∧ one 0x77F0000000000000#64 = some (.rchk (form 0 0 0 0 0)) := by decide +kernel

/-- `mma.fs0.fs1 cv2, s16, a0, v32`; `msg cv2`; `mwt cv2`; `mld.t t0, [s20], 8`; `mld.a v32, [s20], s21, 2`; `mz a0, 4`;
`mdr.get v40, a0, 1`; `mdrx.fs2 a4, [s40:s41], s42, [s44:s45], 4` (R253 to R259). -/
theorem test_decode_matrix :
    one 0x5AF0108001000020#64 = some (.mma (form 2 16 0 32 0x20)) ∧ one 0x59F0100000000000#64 = some (.msg (form 2 0 0 0 0)) ∧
    one 0x5CF0100000000000#64 = some (.mwt (form 2 0 0 0 0)) ∧ one 0x58F000A000000038#64 = some (.mldT (form 0 20 0 0 0x38)) ∧
    one 0x58F100A0A8000108#64 = some (.mldA (form 32 20 21 0 0x108)) ∧ one 0x5DF0000000000003#64 = some (.mz (form 0 0 0 0 3)) ∧
    one 0x5EF1400000000000#64 = some (.mdrGet (form 40 0 0 0 0)) ∧ one 0x5FF0214151600160#64 = some (.mdrx (form 4 40 42 44 0x160)) := by decide +kernel

/-- `?p1 lrinv.ar.dev v10:v11, [v4:v5], v20, 5`; `lrload 5, [s8:s9]`; `wrload [s8:s9]`; `tlbinv [s6:s7], s8`; `tlbinv.all`;
`xopen s8, [s20], [s16:s17], s12`; `xseal s8, [s16:s17], [s20], s12` (R281, R285, R328, R330, R401). -/
theorem test_decode_system :
    one 0x73105020A0280070#64 = some (.lrinv { form 10 4 20 5 0x70 with pg := 1#4 }) ∧ one 0x74F0004000000405#64 = some (.lrload (form 0 8 0 0 0x405)) ∧
    one 0x7DF0004000000400#64 = some (.wrload (form 0 8 0 0 0x400)) ∧ one 0x75F0003040000600#64 = some (.tlbinv (form 0 6 8 0 0x600)) ∧
    one 0x75F0000000000001#64 = some (.tlbinvAll (form 0 0 0 0 1)) ∧ one 0x76F04080A0600000#64 = some (.xopen (form 8 16 20 12 0)) ∧
    one 0x76F04080A0600001#64 = some (.xseal (form 8 16 20 12 1)) := by decide +kernel

/-- `{ iadd v4, v9 || fmul.rz v6, v11 }`, and the same word with bit 0 set (R56, R59). -/
theorem test_decode_pair :
    decode 0x85C1024037830582#64 = .ok (.two (.pairIadd ⟨7#3, 4#8, 9#8, 0#6⟩) (.pairFmul ⟨7#3, 6#8, 11#8, 1#6⟩)) ∧
    decode 0x85C1024037830583#64 = .error .pairBit := by decide +kernel

/-- `ldl.z32 c4, [c1 + 0]`; `add c6, c4, c5`; `li c3, −1`; `sel c3, c5, c4`; `bf c10, +14`; `ldp c11, [c8 + 0]`; `mapok`
(R260, R264, R267 to R271). -/
theorem test_decode_crumb :
    decodeCrumb 0x81006000#32 = .ok (.crumbLdl ⟨4#4, 0#4, 1#4, 0x2000#14⟩) ∧ decodeCrumb 0x05914000#32 = .ok (.crumbAdd ⟨6#4, 4#4, 5#4, 0#14⟩) ∧
    decodeCrumb 0x50C03FFF#32 = .ok (.crumbLi ⟨3#4, 0#4, 0#4, 0x3FFF#14⟩) ∧ decodeCrumb 0x48D50000#32 = .ok (.crumbSel ⟨3#4, 5#4, 4#4, 0#14⟩) ∧
    decodeCrumb 0x6428000E#32 = .ok (.crumbBf ⟨0#4, 10#4, 0#4, 14#14⟩) ∧ decodeCrumb 0xA2E00000#32 = .ok (.crumbLdp ⟨11#4, 8#4, 0#4, 0#14⟩) ∧
    decodeCrumb 0xAC000000#32 = .ok (.crumbMapok ⟨0#4, 0#4, 0#4, 0#14⟩) ∧ decodeCrumb 0x00000000#32 = .error .unlisted := by decide +kernel

/-! ### Encodings and one step -/

/-- Decoding rejects what the tables do not list and what an entry does not allow (DecodedWords has no hypothesis). -/
theorem test_rejects : decode 0x2DF0000000000000#64 = .error .unlisted ∧ decode 0x01F0080000000001#64 = .error .field := by decide +kernel

theorem witness_one_word : decode 0x01F0204050080008#64 = .ok (.one (.iadd (form 4 8 10 1 0x8))) ∧
    decodeSlot 0x05C10240#31 = .ok (.pairIadd ⟨7#3, 4#8, 9#8, 0#6⟩) ∧ decodeCrumb 0x05914000#32 = .ok (.crumbAdd ⟨6#4, 4#4, 5#4, 0#14⟩) := by
  decide +kernel

theorem witness_pair_word : (Instr.pairIadd ⟨7#3, 4#8, 9#8, 0#6⟩).wellFormed = true ∧ (Instr.pairFmul ⟨7#3, 6#8, 11#8, 1#6⟩).wellFormed = true ∧
    encode (.pairIadd ⟨7#3, 4#8, 9#8, 0#6⟩) = .slot 0x05C10240#31 ∧
    encode (.pairFmul ⟨7#3, 6#8, 11#8, 1#6⟩) = .slot 0x1BC182C1#31 := by decide +kernel

/-- An issue of `iadd.cc v4, v8, v10, p1`, of a pair word, a Crumb word of slice 0, and an event of the agenda. -/
def wordAdd : BitVec 64 := 0x01F0204050080008#64
def sCrumb (word : BitVec 32) (i : Engine) : State := { State.reset with cur := .crumb i word }
theorem witness_step_word : noLineHeld (at_ group0 team0 (ctx allLanes wordAdd)) ∧ decode wordAdd = .ok (.one (.iadd (form 4 8 10 1 0x8))) :=
  ⟨rfl, by decide +kernel⟩

theorem witness_step_pair : ∃ s c, s.cur = .word c ∧ noLineHeld s ∧
    decode c.word = .ok (.two (.pairIadd ⟨7#3, 4#8, 9#8, 0#6⟩) (.pairFmul ⟨7#3, 6#8, 11#8, 1#6⟩)) ∧
    (beginPair (.pairIadd ⟨7#3, 4#8, 9#8, 0#6⟩) (.pairFmul ⟨7#3, 6#8, 11#8, 1#6⟩) s).cur = .pair c 0 none ∧
    ({ s with cur := .pair c 1 none } : State).cur = .pair c 1 none :=
  ⟨at_ group0 team0 (ctx allLanes 0x85C1024037830582#64), ctx allLanes 0x85C1024037830582#64, rfl, rfl, by decide +kernel, by decide +kernel, rfl⟩

theorem witness_step_crumb : noLineHeld (sCrumb 0x05914000#32 (.walker 0)) ∧ decodeCrumb 0x05914000#32 = .ok (.crumbAdd ⟨6#4, 4#4, 5#4, 0#14⟩) :=
  ⟨rfl, by decide +kernel⟩

theorem witness_step_event : ∃ s : State, s.cur = .idle ∧ noLineHeld s ∧ s.agenda = .event .issueCycle [0, 0] :: [] ∧
    noLineHeld State.reset ∧ State.reset.cur = .idle ∧ State.reset.agenda = [] :=
  ⟨{ State.reset with agenda := [.event .issueCycle [0, 0]] }, rfl, rfl, rfl, rfl, rfl, rfl⟩

theorem witness_undefined_word : ∃ s c g t, Issuing s c g t ∧ noLineHeld s ∧ decode c.word = .error .unlisted ∧ g.trap.handler ≠ 0#64 ∧
    g.inHandler = 0#32 :=
  ⟨at_ group0 team0 (ctx allLanes 0x2DF0000000000000#64), ctx allLanes 0x2DF0000000000000#64, group0, team0, issuing _ _ _ _ rfl, rfl,
    by decide +kernel, by decide +kernel, by decide +kernel⟩

/-- A branch whose target, 0x1000 − 2^20 × 8, is no address of the space, by all lanes. -/
theorem witness_bad_target : Issuing s0 c0 group0 team0 ∧ Undisturbed s0 group0 ∧ clOf group0 c0 15#4 false ≠ 0#32 ∧
    ¬ goodTarget (c0.pc + ((off32 (form 0xFF 0xF0 0 0 0)).signExtend 64) * 8#64) := ⟨issuing0, undisturbed0, by decide +kernel, by unfold goodTarget; decide +kernel⟩

/-! ### Words that compute -/

/-- A lane operation of the state `s0` executes. -/
theorem executes (i : Instr) (x : LaneOp) (hw : i.wellFormed = true) (h : (∀ o ∈ x.ops, ∀ q ∈ o.latches, latchReady group0 q = true) ∧
    (∀ o ∈ x.ops, o.vtop ≤ group0.vcount) ∧ x.d.vtop ≤ group0.vcount) : Executes s0 c0 group0 team0 i x := ⟨issuing0, undisturbed0, hw, h⟩

theorem witness_arith : ∃ x, Reading.arithOp (.iadd (form 4 8 10 1 0x18)) = some x ∧ Executes s0 c0 group0 team0 (.iadd (form 4 8 10 1 0x18)) x :=
  ⟨_, rfl, executes _ _ (by decide +kernel) (by decide +kernel)⟩
theorem witness_logic : ∃ x, Reading.logicOp (.tern (form 63 8 10 1 0x7F)) = some x ∧ Executes s0 c0 group0 team0 (.tern (form 63 8 10 1 0x7F)) x :=
  ⟨_, rfl, executes _ _ (by decide +kernel) (by decide +kernel)⟩
theorem witness_compare : ∃ x, Reading.compareOp (.isetp (form 11 8 10 0 0)) = some x ∧ Executes s0 c0 group0 team0 (.isetp (form 11 8 10 0 0)) x :=
  ⟨_, rfl, executes _ _ (by decide +kernel) (by decide +kernel)⟩
theorem witness_float : ∃ x, Reading.floatOp (.dfma (form 62 8 10 12 1)) = some x ∧ Executes s0 c0 group0 team0 (.dfma (form 62 8 10 12 1)) x :=
  ⟨_, rfl, executes _ _ (by decide +kernel) (by decide +kernel)⟩
/-- `pcvt.fs0 v8, v1, v2` of the first element, of a team whose slot 0 holds format 3. -/
theorem witness_packed : ∃ s t x, Reading.packedOp t (.pcvt (form 8 1 2 0 0x20)) = some x ∧ Executes s c0 group0 t (.pcvt (form 8 1 2 0 0x20)) x ∧
    Reading.slotTakes t (.pcvt (form 8 1 2 0 0x20)) :=
  ⟨at_ group0 { team0 with fs := List.replicate 8 0x213#32 } c0, { team0 with fs := List.replicate 8 0x213#32 }, _, rfl,
    ⟨issuing _ _ _ _ rfl, undisturbed _ _ _ rfl (by decide), by decide +kernel, by unfold canRead; decide +kernel⟩, by
      unfold Reading.slotTakes; decide +kernel⟩
theorem witness_group : ∃ x, Reading.groupOp s0 team0 (clOf group0 c0 15#4 false) (.gred (form 4 8 0 0 0)) = some x ∧ x.f = form 4 8 0 0 0 ∧
    Executes s0 c0 group0 team0 (.gred (form 4 8 0 0 0)) x := ⟨_, rfl, rfl, executes _ _ (by decide +kernel) (by decide +kernel)⟩
/-- `srr v4:v5, CLOCK`. -/
theorem witness_srr : ∃ x, sysregPriv s0 0x12 = false ∧ Reading.groupOp s0 team0 (clOf group0 c0 15#4 false) (.srr (form 4 0x12 0 0 0)) = some x ∧
    Executes s0 c0 group0 team0 (.srr (form 4 0x12 0 0 0)) x := ⟨_, by decide +kernel, rfl, executes _ _ (by decide +kernel) (by decide +kernel)⟩
theorem witness_v2p : Issuing s0 c0 group0 team0 ∧ Undisturbed s0 group0 ∧ (Instr.v2p (form 0 9 10 0 0)).wellFormed = true ∧
    canRead group0 [srcA (form 0 9 10 0 0) false, srcB (form 0 9 10 0 0) false] .none :=
  ⟨issuing0, undisturbed0, by decide +kernel, by unfold canRead; decide +kernel⟩
/-- `movi v62:v63, 5` and `iaddi v4, v8, 7`. -/
theorem witness_immediates : (Instr.movi ⟨15#4, false, 62#8, 0#8, 5#32, false, 1#2⟩).wellFormed = true ∧ canRead group0 [] (.v 62 true) ∧
    (Instr.iaddi ⟨15#4, false, 4#8, 8#8, 7#32, false, 0#2⟩).wellFormed = true ∧
    canRead group0 [srcI ⟨15#4, false, 4#8, 8#8, 7#32, false, 0#2⟩ false] (.v 4 false) :=
  ⟨by decide +kernel, by unfold canRead; decide +kernel, by decide +kernel, by unfold canRead; decide +kernel⟩

/-! ### Control, traps and system registers -/

/-- A group whose vector register pair 4 holds 0x2000 in every lane, and whose predicate 0 is false. -/
def group4 : Group := { group0 with v := [(4, List.replicate 32 0x2000#32), (5, List.replicate 32 0#32)] }
def s4 : State := at_ group4 team0 c0
theorem issuing4 : Issuing s4 c0 group4 team0 := issuing _ _ _ _ rfl
theorem undisturbed4 : Undisturbed s4 group4 := undisturbed _ _ _ rfl (by decide)

/-- NOP has no condition but these; with guard `?p0` false no lane contributes. -/
theorem witness_nop : Issuing s0 c0 group0 team0 ∧ Undisturbed s0 group0 ∧ clOf group0 c0 0#4 false = 0#32 := ⟨issuing0, undisturbed0, by decide +kernel⟩
theorem witness_branch : canRead group0 [.none] .none ∧
    (∀ l, has (clOf group0 c0 15#4 false) l = true → goodTarget (c0.pc + ((off32 (form 0 0 0 8 0)).signExtend 64) * 8#64)) :=
  ⟨by unfold canRead; decide +kernel, fun _ _ => by unfold goodTarget; decide +kernel⟩
theorem witness_brx : canRead group4 [opnd (form 0 4 0 0 0) 4#8 false false true] .none ∧
    (∀ l, has (clOf group4 c0 15#4 false) l = true → goodTarget (BitVec.ofNat 64 ((opnd (form 0 4 0 0 0) 4#8 false false true).read group4 l))) :=
  ⟨by unfold canRead; decide +kernel, ofHas (by unfold goodTarget; decide +kernel)⟩
/-- `call v30:v31` to PC + 64 and `call.ind.meet v30:v31, v4:v5`. -/
theorem witness_call : canRead group4 [opnd (form 30 4 0 0 3) 4#8 false false true] (.v 30 true) ∧ (Instr.call (form 30 0 0 8 0)).wellFormed = true ∧
    (Instr.callInd (form 30 4 0 0 3)).wellFormed = true ∧ canRead group4 [.none] (.v 30 true) :=
  ⟨by unfold canRead; decide +kernel, by decide +kernel, by decide +kernel, by unfold canRead; decide +kernel⟩
theorem witness_meet : canRead group4 [.none] .none ∧ canRead group4 [opnd (form 0 4 0 0 2) 4#8 false false true] .none :=
  ⟨by unfold canRead; decide +kernel, by unfold canRead; decide +kernel⟩
/-- EXIT by lane 0, which leaves 31 lanes, and by lanes that leave none. -/
theorem witness_exit : s0.convs = [] ∧ clOf group0 (ctx 1#32 0#64) 15#4 false ≠ 0#32 ∧
    group0.live &&& ~~~clOf group0 (ctx 1#32 0#64) 15#4 false ≠ 0#32 ∧ group0.inHandler = 0#32 := by decide +kernel
theorem witness_yield : Issuing s0 c0 group0 team0 ∧ Undisturbed s0 group0 ∧ clOf group0 c0 15#4 false ≠ 0#32 := ⟨issuing0, undisturbed0, by decide +kernel⟩

/-- A group with a lane in its handler, and one with a lane that waits while another is in the handler. -/
def groupH : Group := { group0 with lanes := lupd (lupd group0.lanes 0 (fun x => { x with h := true })) 1 (fun x => { x with st := .parked }) }
theorem witness_cause : mget s0.groups 0 = some group0 ∧ canTrap group0 ∧ ¬ canTrap groupH ∧ mget (at_ groupH team0 c0).groups 0 = some groupH :=
  ⟨rfl, ⟨by decide, by decide +kernel⟩, fun h => absurd h.2 (by decide +kernel), rfl⟩
/-- A blocked lane whose wait on object 0 is released. -/
def groupW : Group := { group0 with lanes := lupd group0.lanes 1 (fun x => { x with st := .blocked, wait := some (.barrier 0 0 false) }) }
theorem witness_released_in_handler : canTrap groupW ∧ ∃ g', takeTrap (at_ groupW team0 c0) 0 .illegal 1#32 0x1000#64 0#64 0#64 =
    { at_ groupW team0 c0 with groups := mput (at_ groupW team0 c0).groups 0 g' } ∧
    (g'.lane 1).st = .blocked ∧ (g'.lane 1).wait = some (.barrier 0 0 false) ∧ (g'.lane 1).h = false ∧ g'.inHandler ≠ 0#32 :=
  ⟨⟨by decide, by decide +kernel⟩, _, rfl, by decide +kernel, by decide +kernel, by decide +kernel, by decide +kernel⟩

/-- A queue mapped in slot 0 of front end 0, whose control block is at 0x10000 and whose ring has 16 packets. -/
def queue0 : Queue := ⟨0x10000, 4, 1, 1, 0, 0, 0, 16, 0, 0, 0, 0, 0, none, [], .run, true, [], [], [], false⟩
def front0 : FrontEnd := ⟨true, 0, 0, 8, [(0, queue0)], []⟩
theorem witness_stop : ∃ s : State, mget s.groups 0 = some group0 ∧ mget s.teams group0.team = some team0 ∧ queueAt s team0.fe team0.slot = some queue0 ∧
    queue0.code = 0 ∧ (mget s.groups 0 = some group0 ∧ mget s.teams group0.team = some team0 ∧ team0.packet ≤ team0.packet) :=
  ⟨{ s0 with frontEnds := [(0, front0)] }, rfl, rfl, by decide +kernel, rfl, rfl, rfl, Nat.le_refl _⟩

theorem witness_trap : Issuing s0 c0 group0 team0 ∧ Undisturbed s0 group0 ∧ canTrap group0 ∧ clOf group0 c0 15#4 false ≠ 0#32 :=
  ⟨issuing0, undisturbed0, ⟨by decide, by decide +kernel⟩, by decide +kernel⟩

/-- RTT by lane 0, alone in the handler, and by lane 0 while another stays in it. -/
theorem witness_rtt : Issuing (at_ groupH team0 (ctx 1#32 0#64)) (ctx 1#32 0#64) groupH team0 ∧ (ctx 1#32 0#64).mask &&& ~~~groupH.inHandler = 0#32 ∧
    groupH.lanes.length ≤ 32 ∧ groupH.inHandler &&& ~~~clOf groupH (ctx 1#32 0#64) 15#4 false = 0#32 ∧
    groupH.inHandler &&& ~~~clOf groupH (ctx 1#32 0#64) 0#4 false ≠ 0#32 := ⟨issuing _ _ _ _ rfl, by decide +kernel⟩

/-- `srw THANDLER, v4:v5`. -/
theorem witness_srw : sysregPriv s4 0x08 = false ∧ canRead group4 [opnd (form 0 8 4 0 0) 4#8 false false (sysregPair 0x08)] .none ∧
    clOf group4 c0 15#4 false ≠ 0#32 := ⟨by decide +kernel, by unfold canRead; decide +kernel, by decide +kernel⟩
theorem witness_unlisted : ∃ s c g t, Issuing s c g t ∧ noLineHeld s ∧ canTrap g ∧ c.word.extractLsb' 56 8 = 0x7A#8 ∧
    (c.word.extractLsb' 35 8).toNat ∉ [0x00, 0x01, 0x02, 0x03, 0x04, 0x08, 0x10, 0x11, 0x12, 0x20] ∧
    (form 4 0x05 0 0 0).a.toNat ∉ [0x00, 0x01, 0x02, 0x03, 0x04, 0x08, 0x10, 0x11, 0x12, 0x20] :=
  ⟨at_ group0 team0 (ctx allLanes 0x7AF0002800000000#64), ctx allLanes 0x7AF0002800000000#64, group0, team0, issuing _ _ _ _ rfl, rfl,
    ⟨by decide, by decide +kernel⟩, by decide +kernel⟩
/-- The trap registers, RTT and FIJ from outside a handler, in a world that is no test context. -/
theorem witness_privilege : Issuing s0 c0 group0 team0 ∧ canTrap group0 ∧ (form 4 4 0 0 0).a.toNat ≤ 4 ∧ c0.mask ≠ 0#32 ∧
    (form 4 0x20 0 0 0).a.toNat = 0x20 ∧ (∀ w, mget s0.worlds team0.world = some w → w.test = false) :=
  ⟨issuing0, ⟨by decide, by decide +kernel⟩, by decide, by decide, by decide, fun w h => by cases h⟩

/-! ### Memory -/

theorem ofMapped {s : State} {g : Group} {t : Team} {k : Nat} {vas : List Nat}
    (h : (Reading.looked s g t k vas).2.all (fun n => match n.st with | .mapped _ _ _ => true | _ => false) = true) : Reading.allMapped s g t k vas := by
  intro n hn
  have := List.all_eq_true.mp h n hn
  revert this
  cases n.st <;> simp

theorem ofOk {as : List (Nat × LaneAcc)} (h : as.all (fun p => match p.2 with | .ok _ => true | _ => false) = true) : Reading.allOk as := by
  intro p hp
  have := List.all_eq_true.mp h p hp
  revert this
  cases p.2 <;> simp

/-- A group whose pair 4 holds 0x2000 + 8 l in lane l, with that page at hand for an access kind, and 5 in register 9; its uniform pair 4
holds the same page's address. -/
def groupM (kind : Nat) : Group :=
  { group0 with
    v := [(4, (List.range 32).map (fun l => BitVec.ofNat 32 (0x2000 + 8 * l))), (5, List.replicate 32 0#32), (9, List.replicate 32 5#32)]
    u := [(4, 0x2000#32)], susp := [⟨0x2000, kind, .mapped 0x5000 12 7⟩] }
def sM (kind : Nat) : State := at_ (groupM kind) team0 c0
theorem issuingM (kind : Nat) : Issuing (sM kind) c0 (groupM kind) team0 := issuing _ _ _ _ rfl
theorem undisturbedM (kind : Nat) : Undisturbed (sM kind) (groupM kind) := ⟨rfl, by show slice (0#64).toNat 0 4 = 0; decide, rfl, rfl, rfl, by
  intro p hp; cases List.mem_singleton.mp hp; rfl⟩

/-- `ld.b64 v8:v9, [v4:v5]`. -/
theorem witness_load :
    let f := form 8 4 0 0 0x30
    let as := Reading.accesses f (groupM 1) team0 false 0 8 allLanes
    let vas := (whoNeeds false allLanes as).flatMap (·.2)
    Issuing (sM 1) c0 (groupM 1) team0 ∧ Undisturbed (sM 1) (groupM 1) ∧ memSpc f ≠ 1 ∧ szBytes f = 8 ∧ clOf (groupM 1) c0 f.pg f.pn = allLanes ∧
    canRead (groupM 1) [Reading.addrOp f (memSpc f)] .none ∧ (ud f = false ∧ f.d.toNat + max 1 (8 / 4) ≤ (groupM 1).vcount) ∧ allLanes ≠ 0#32 ∧
    Reading.allOk as ∧ Reading.allMapped (sM 1) (groupM 1) team0 1 vas ∧
    Reading.allClean (sM 1) team0.world (Reading.partsOf (Reading.physOf (sM 1) (groupM 1) team0 1 vas) as) :=
  ⟨issuingM 1, undisturbedM 1, by decide, by decide, by decide +kernel, by unfold canRead; decide +kernel, by decide, by decide,
    ofOk (by decide +kernel), ofMapped (by decide +kernel), by unfold Reading.allClean; decide +kernel⟩

/-- `ld.sp.b64 v8:v9, [v4]`, and `sld` of two words. -/
theorem witness_scratch_load :
    ∀ p ∈ [(Instr.ld (form 8 4 0 0 0xB0), form 8 4 0 0 0xB0, 8), (.sld (form 8 4 0 0 0x90), form 8 4 0 0 0x90, 8)],
    let f := p.2.1
    let as := Reading.accesses f (groupM 1) team0 false 1 p.2.2 allLanes
    team0.twin = 0 ∧ p.1.wellFormed = true ∧ (p.1 = .ld f ∧ memSpc f = 1 ∧ p.2.2 = szBytes f ∨ p.1 = .sld f ∧ p.2.2 = 4 * 2 ^ memSz f) ∧
    canRead (groupM 1) [Reading.addrOp f 1] .none ∧ Reading.allOk as ∧
    (∀ p ∈ as, ∀ q ∈ p.2.pieces, absentSector team0 q.1 8 = none ∧ spBad team0 q.1 8 = false) ∧ Reading.lanesLive (groupM 1) c0 := by
  intro p hp
  fin_cases hp
  · exact ⟨rfl, by decide +kernel, by decide +kernel, by unfold canRead; decide +kernel, ofOk (by decide +kernel), by decide +kernel, ofHas (by decide +kernel)⟩
  · exact ⟨rfl, by decide +kernel, by decide +kernel, by unfold canRead; decide +kernel, ofOk (by decide +kernel), by decide +kernel, ofHas (by decide +kernel)⟩

/-- `st.b64 [v4:v5], v8:v9`, and `strel`, to global memory. -/
theorem witness_store :
    let f := form 8 4 0 0 0x30
    let as := Reading.accesses f (groupM 2) team0 false 0 8 allLanes
    let vas := Reading.vasOf as
    team0.twin = 0 ∧ (Instr.st f).wellFormed = true ∧ (Instr.strel f).wellFormed = true ∧ memSpc f ≠ 1 ∧ szBytes f = 8 ∧
    canRead (groupM 2) [Reading.addrOp f (memSpc f)] .none ∧ f.d.toNat + max 1 (8 / 4) ≤ (groupM 2).vcount ∧ Reading.allOk as ∧
    Reading.allMapped (sM 2) (groupM 2) team0 2 vas ∧ Reading.noDoor (sM 2) (Reading.partsOf (Reading.physOf (sM 2) (groupM 2) team0 2 vas) as) ∧
    (∀ p ∈ Reading.partsOf (Reading.physOf (sM 2) (groupM 2) team0 2 vas) as, ∀ q ∈ halfPieces p.pieces,
      (Reading.physOf (sM 2) (groupM 2) team0 2 vas q.1).2.testBit 5 = false) :=
  ⟨rfl, by decide +kernel, by decide +kernel, by decide, by decide, by unfold canRead; decide +kernel, by decide, ofOk (by decide +kernel),
    ofMapped (by decide +kernel), by unfold Reading.noDoor; decide +kernel, by decide +kernel⟩

/-- The same store through a page that is mapped uncached. -/
def groupU : Group := { groupM 2 with susp := [⟨0x2000, 2, .mapped 0x5000 12 39⟩] }
theorem witness_uncached_store :
    let f := form 8 4 0 0 0x30
    let s := at_ groupU team0 c0
    let as := Reading.accesses f groupU team0 false 0 8 allLanes
    let vas := Reading.vasOf as
    let tr := Reading.physOf s groupU team0 2 vas
    Issuing s c0 groupU team0 ∧ Undisturbed s groupU ∧ groupU.flights = [] ∧ s.writes = [] ∧ canRead groupU [Reading.addrOp f (memSpc f)] .none ∧
    clOf groupU c0 f.pg f.pn = allLanes ∧ Reading.allOk as ∧ Reading.allMapped s groupU team0 2 vas ∧
    (∀ p ∈ Reading.partsOf tr as, ∀ q ∈ halfPieces p.pieces, (tr q.1).2.testBit 5 = true) :=
  ⟨issuing _ _ _ _ rfl, undisturbed _ _ _ rfl (by decide), rfl, rfl, by unfold canRead; decide +kernel, by decide +kernel, ofOk (by decide +kernel),
    ofMapped (by decide +kernel), by decide +kernel⟩

/-- `st.sp.b64 [v4], v8:v9`. -/
theorem witness_scratch_store :
    let f := form 8 4 0 0 0xB0
    let as := Reading.accesses f (groupM 1) team0 false 1 8 allLanes
    (Instr.st f).wellFormed = true ∧ memSpc f = 1 ∧ szBytes f = 8 ∧ canRead (groupM 1) [Reading.addrOp f 1] .none ∧
    f.d.toNat + max 1 (8 / 4) ≤ (groupM 1).vcount ∧ Reading.allOk as ∧ (∀ p ∈ as, ∀ q ∈ p.2.pieces, absentSector team0 q.1 8 = none) :=
  ⟨by decide +kernel, by decide, by decide, by unfold canRead; decide +kernel, by decide, ofOk (by decide +kernel), by decide +kernel⟩

/-- `atom.add.ar.dev v6, [v4:v5], v9`, of 32 bits. -/
theorem witness_atomic :
    let f := form 6 4 9 0 0x70
    let as := Reading.atomAccesses f (groupM 0xB) team0 allLanes
    let vas := Reading.vasOf as
    fnBit f 8 = false ∧ (Instr.atom f).wellFormed = true ∧ canRead (groupM 0xB) [Reading.atomA f, Reading.atomB f, Reading.atomC f false] (.v 6 false) ∧
    Reading.allOk as ∧ Reading.allMapped (sM 0xB) (groupM 0xB) team0 0xB vas ∧
    Reading.allClean (sM 0xB) team0.world (Reading.partsOf (Reading.physOf (sM 0xB) (groupM 0xB) team0 0xB vas) as) :=
  ⟨by decide, by decide +kernel, by unfold canRead; decide +kernel, ofOk (by decide +kernel), ofMapped (by decide +kernel), by
    unfold Reading.allClean; decide +kernel⟩

/-- An atomic of lane 3 in flight. -/
def flightA : Flight := { Flight.blank with
  id := 7, op := .atomic 0 false, dest := some 6, size := 4, world := 1, parts := [⟨3, [(0x2018, 0x5018, 4)]⟩], opsB := [(3, 5#64)] }
def groupA : Group := { group0 with flights := [flightA] }
def sA : State := at_ groupA team0 c0
theorem witness_atomic_acts : mget sA.groups 0 = some groupA ∧ flightA ∈ groupA.flights ∧ (∀ y ∈ groupA.flights, y.id = flightA.id → y = flightA) ∧
    mget flightA.vals 3 = none ∧ flightA.parts.find? (fun p => p.lane == 3) = some ⟨3, [(0x2018, 0x5018, 4)]⟩ ∧ inDoor sA 0x5018 = false ∧
    (∀ w ∈ sA.writes, w.home = true) ∧ (∃ aop, (aop < 9 ∨ 4 = 4 ∧ aop < 12) ∧ flightA.op = .atomic aop (4 == 8)) ∧
    (mval flightA.opsB 0#64 3).toNat < 2 ^ (8 * 4) :=
  ⟨rfl, by decide, by decide, by decide, by decide, by decide, by decide, ⟨0, by decide, rfl⟩, by decide⟩

/-- `atom.sp.add v6, [v4], v9` by lane 3. -/
theorem witness_scratch_atomic :
    let f := form 6 4 9 0 0x100
    let g := groupM 1
    let c := ctx 8#32 0#64
    let o : Nat := (Reading.atomA f).read g 3 % 2 ^ 32
    Issuing (at_ g team0 c) c g team0 ∧ team0.twin = 0 ∧ fnBit f 8 = true ∧ (Instr.atom f).wellFormed = true ∧ Reading.lanesLive g c ∧
    clOf g c f.pg f.pn = 1#32 <<< 3 ∧ canRead g [Reading.atomA f, Reading.atomB f, Reading.atomC f false] (.v 6 false) ∧
    scratchAcc team0 (o : Int) 4 4 = .ok [(o, 4)] ∧ absentSector team0 o 4 = none ∧ spBad team0 o 4 = false ∧
    Reading.allOk (Reading.atomAccesses f g team0 (clOf g c f.pg f.pn)) ∧
    (∀ p ∈ Reading.atomAccesses f g team0 (clOf g c f.pg f.pn), ∀ q ∈ p.2.pieces, absentSector team0 q.1 4 = none ∧ spBad team0 q.1 4 = false) :=
  ⟨issuing _ _ _ _ rfl, rfl, by decide, by decide +kernel, ofHas (by decide +kernel), by decide +kernel, by unfold canRead; decide +kernel, by
    decide +kernel, by decide +kernel, by decide +kernel, ofOk (by decide +kernel), by decide +kernel⟩

/-- A store by core 191 at the last unit below the end of the stacks. -/
theorem witness_store_seen : 191 < 193 ∧ inDoor State.reset (hbmEnd - 8) = false := by decide +kernel

/-- A load from an odd address and one from beyond the address space, and from a slot offset that is odd, and beyond the slot. -/
def groupB (a b : W32) : Group := { group0 with v := [(4, List.replicate 32 a), (5, List.replicate 32 b)] }
theorem witness_bad_address :
    let f := form 8 4 0 0 0x20
    let f1 := form 8 4 0 0 0xA0
    let ea (g : Group) : W64 := BitVec.ofInt 64 ((Reading.addrOp f 0).read g 0 + offOf f)
    let o (g : Group) : Int := ((Reading.addrOp f1 1).read g 0 % 2 ^ 32 : Nat) + offOf f1
    (Instr.ld f).wellFormed = true ∧ (Instr.ld f1).wellFormed = true ∧ canTrap (groupB 1#32 0#32) ∧ has (clOf (groupB 1#32 0#32) c0 15#4 false) 0 = true ∧
    canRead (groupB 1#32 0#32) [Reading.addrOp f (memSpc f)] .none ∧ canRead (groupB 1#32 0#32) [Reading.addrOp f1 (memSpc f1)] .none ∧
    (ea (groupB 1#32 0#32)).toNat % 4 = 1 ∧ (ea (groupB 0#32 0x01000000#32)).toNat = 2 ^ 56 ∧ o (groupB 1#32 0#32) % 4 = 1 ∧
    o (groupB 65536#32 0#32) = team0.scratch :=
  ⟨by decide +kernel, by decide +kernel, ⟨by decide, by decide +kernel⟩, by decide +kernel, by unfold canRead; decide +kernel, by
    unfold canRead; decide +kernel, by decide +kernel, by decide +kernel, by decide +kernel, by decide +kernel⟩

theorem witness_fence : Issuing s0 c0 group0 team0 ∧ Undisturbed s0 group0 ∧ (Instr.fence (form 0 0 0 0 4)).wellFormed = true ∧
    clOf group0 c0 15#4 false ≠ 0#32 := ⟨issuing0, undisturbed0, by decide +kernel, by decide +kernel⟩

/-- `cctl.ivl1 [v4:v5]`, and `iflush [v4:v5], v9`. -/
theorem witness_cache_control :
    let f := form 0 4 0 0 0
    let as := (lanesOf allLanes).map (fun l => (l, globalAcc (BitVec.ofInt 64 ((cacheAddr f).read (groupM 1) l + offOf f)) 1))
    canRead (groupM 1) [cacheAddr f] .none ∧ Reading.allOk as ∧ Reading.allMapped (sM 1) (groupM 1) team0 1 (Reading.vasOf as) ∧
    canRead (groupM 1) [cacheAddr f, opnd (form 0 4 9 0 0) 9#8 false false false] .none ∧ clOf (groupM 1) c0 15#4 false = allLanes :=
  ⟨by unfold canRead; decide +kernel, ofOk (by decide +kernel), ofMapped (by decide +kernel), by unfold canRead; decide +kernel, by decide +kernel⟩

/-- `pres p11, [v4], 4` of a slot of 64 KiB: runs of four sectors at offsets 0x2000 + 32 l. -/
def groupP : Group := { group0 with v := [(4, (List.range 32).map (fun l => BitVec.ofNat 32 (0x2000 + 32 * l)))] }
theorem witness_presence :
    let f := form 11 4 3 0 0
    Issuing (at_ groupP team0 c0) c0 groupP team0 ∧ canRead groupP [opnd f f.a (fnBit f 10) (lqA f) false] .none ∧
    (∀ l, has (clOf groupP c0 f.pg f.pn) l = true → (opnd f f.a (fnBit f 10) (lqA f) false).read groupP l % 32 = 0 ∧
      (opnd f f.a (fnBit f 10) (lqA f) false).read groupP l + 32 * (f.b.toNat % 32 + 1) ≤ team0.scratch) ∧
    (∀ x, copyInto (at_ groupP team0 c0) groupP.team x = false) ∧ (∀ p ∈ (at_ groupP team0 c0).groups, p.2.team = groupP.team → p.2.spWaits = []) :=
  ⟨issuing _ _ _ _ rfl, by unfold canRead; decide +kernel, ofHas (by decide +kernel), fun _ => rfl, by decide +kernel⟩

/-! ### Copies, barriers and the register pool -/

/-- `acp.t1 [v4:v5], v8, 20` from the page at 0x2000 to offsets 32 l, and its batch. -/
def groupC : Group := { groupM 1 with v := [(4, (List.range 32).map (fun l => BitVec.ofNat 32 (0x2000 + 8 * l))), (5, List.replicate 32 0#32),
  (8, (List.range 32).map (fun l => BitVec.ofNat 32 (32 * l)))] }
def sC : State := at_ groupC team0 c0
theorem witness_transfer :
    let f := form 0 4 8 20 0x90
    let a := opnd f f.a (fnBit f 10) (lqA f) true
    let b := opnd f f.b (fnBit f 9) (lqB f) false
    let cc := if fnBit f 7 then .none else opnd f f.c (fnBit f 8) (lqC f) false
    let n := Reading.transferCount f groupC
    let vas := ((lanesOf allLanes).map (fun l => (l, pagesOf (a.read groupC l) (n l)))).flatMap (·.2)
    Issuing sC c0 groupC team0 ∧ team0.rollbacks = false ∧ clOf groupC c0 f.pg f.pn = allLanes ∧ canRead groupC [a, b, cc] .none ∧
    unlanded groupC + (lanesOf allLanes).length ≤ 1024 ∧ Reading.allMapped sC groupC team0 1 vas ∧
    (∀ l, has allLanes l = true → b.read groupC l % 32 = 0 ∧ b.read groupC l + 32 ≤ team0.scratch ∧
      (0 < n l → a.read groupC l % 4 = 0 ∧ a.read groupC l + n l ≤ 2 ^ 56)) :=
  ⟨issuing _ _ _ _ rfl, by decide, by decide +kernel, by unfold canRead; decide +kernel, by decide +kernel, ofMapped (by decide +kernel), ofHas (by
    decide +kernel)⟩
/-- ACPW with nothing pending, and with a batch pending. -/
theorem witness_batches : (tagAt group0 (tagOf (form 0 0 0 0 0x10))).pend = 0 ∧
    (tagAt { group0 with tags := List.replicate 8 ⟨0, 3, 0, 1⟩ } (tagOf (form 0 0 0 0 0x70))).pend ≠ 0 := by decide +kernel

theorem witness_updates : mget s0.teams 0 = some team0 ∧ 63 < team0.objs.length ∧ mget s0.groups 0 = some group0 ∧
    (⟨true, false, 1, 8191, 0, 0, 0⟩ : Barrier).arrived ≤ 8191 := ⟨rfl, by decide, rfl, by decide⟩
/-- `binit b63, s4` with 4,096 in s4, and with 1. -/
theorem witness_binit : objOf (form 0 0 4 0 0x3F0) < team0.objs.length ∧ objOf (form 0 0 4 0 0x3F0) ≠ 0 ∧
    (uRead { group0 with u := [(4, 4096#32)] } (uni (form 0 0 4 0 0x3F0) 4#8)).toNat = 4096 ∧
    (uRead { group0 with u := [(4, 1#32)] } (uni (form 0 0 4 0 0x3F0) 4#8)).toNat = 1 := by decide +kernel
/-- A team whose object 0 is valid and expects its 32 threads, of whom none has arrived. -/
def teamO (arrived : Nat) : Team := { team0 with objs := lupd team0.objs 0 (fun _ => ⟨true, true, 32, arrived, 0, 0, 0⟩) }
theorem witness_barv : objOf (form 4 0 8 0 0x8) < (teamO 0).objs.length ∧ (objAt (teamO 0) (objOf (form 4 0 8 0 0x8))).v = true ∧
    canRead group0 [opnd (form 4 0 8 0 0x8) 8#8 false false false] (.v 4 false) ∧
    canRead group0 [opnd (form 4 0 8 0 0) 8#8 false false false] .none ∧ Reading.lanesLive group0 c0 :=
  ⟨by decide, by decide, by unfold canRead; decide +kernel, by unfold canRead; decide +kernel, ofHas (by decide +kernel)⟩
/-- TBAR by 16 lanes, short of the 32 that are expected, and by 32. -/
theorem witness_tbar : 0 < (teamO 0).objs.length ∧ (objAt (teamO 0) 0).v = true ∧ (objAt (teamO 0) 0).expect ≤ 8191 ∧ Reading.lanesLive group0 c0 ∧
    (∀ l, has c0.mask l = true → (group0.lane l).wait = none) ∧
    (objAt (teamO 0) 0).arrived + (lanesOf (clOf group0 (ctx 0xFFFF#32 0#64) 15#4 false)).length < (objAt (teamO 0) 0).expect ∧
    (objAt (teamO 0) 0).arrived + (lanesOf (clOf group0 c0 15#4 false)).length = (objAt (teamO 0) 0).expect ∧
    (objAt (teamO 0) 0).landed = (objAt (teamO 0) 0).xbytes ∧ group0.inHandler = 0#32 :=
  ⟨by decide, by decide, by decide, ofHas (by decide +kernel), ofHas (by decide +kernel), by decide +kernel⟩

/-- `rgive 56` by all live lanes of a group with 64 registers; `rclaim 56` with an empty pool, behind an older claim, and with one of 7
granules. -/
def teamP : Team := { team0 with pool := 7 }
def team1 : Team := { team0 with claims := [⟨1, 9, allLanes⟩], groups := [0, 1] }
theorem witness_pool : clOf group0 c0 15#4 false = c0.mask ∧ c0.mask = group0.live ∧ c0.mask ≠ 0#32 ∧ 8 * 7 + 8 ≤ group0.vcount ∧ group0.holds = [] ∧
    loadTouches group0 (group0.vcount - 8 * 7) = false ∧ convTouches s0 0 (group0.vcount - 8 * 7) = false ∧ (∀ p ∈ s0.teams, p.2.claims = []) ∧
    group0.vcount + 8 * 24 ≤ 256 ∧ team0.pool < 7 ∧ team0.claims = [] := by decide +kernel
theorem witness_claim_behind : team1.claims ≠ [] ∧ claimBlocks (at_ group0 team1 c0) 0 team1 (team1.claims.headD ⟨0, 0, 0#32⟩) = none ∧
    (team1.claims.headD ⟨0, 0, 0#32⟩).gid ≠ c0.gid := by decide +kernel
theorem witness_claim_granted : 7 ≤ teamP.pool ∧ teamP.claims = [] ∧ group0.inHandler = 0#32 ∧ group0.lanes.length ≤ 32 ∧
    (∀ l, has c0.mask l = true → (group0.lane l).st = .active ∧ (group0.lane l).wait = none) ∧
    (claimBlocks (at_ group0 teamP c0) 0 teamP ⟨0, 7, allLanes⟩).isSome = true :=
  ⟨by decide, by decide, by decide +kernel, by decide +kernel, ofHas (by decide +kernel), by decide +kernel⟩

/-! ### The matrix engine -/

/-- A group with a descriptor in s16 to s19: itself, all lanes, K of 16, one tile, B in the slot at 0; with a tile and an accumulator
granule; a team whose format slots hold FP16; and a core with one sub-partition of its world, so one convergence register. -/
def groupX : Group := { group0 with u := [(16, 0x100#32), (17, 0xFFFFFFFF#32), (18, 0x40#32)], tgran := 1, agran := 1 }
def teamX : Team := { team0 with fs := List.replicate 8 2#32 }
def sX : State := { at_ groupX teamX c0 with cores := [(0, { Core.empty with subpWorld := [(0, 1)] })] }
theorem issuingX : Issuing sX c0 groupX teamX := ⟨rfl, rfl, rfl⟩
theorem witness_mma : Issuing sX c0 groupX teamX ∧ clOf groupX c0 15#4 false ≠ 0#32 ∧ (form 0 16 0 32 0x8).d.toNat < cvCount sX groupX.core teamX.world ∧
    (form 0 16 0 32 0x8).c.toNat < groupX.vcount ∧ (form 0 16 0 32 0x8).b.toNat < 4 * groupX.agran ∧
    declareCause { sX with cur := .idle } groupX teamX (convAt sX (cvKey 0 1 0)) (declared (form 0 16 0 32 0x8) groupX teamX (convAt sX (cvKey 0 1 0))) = none :=
  ⟨issuingX, by decide +kernel, by decide +kernel, by decide +kernel, by decide +kernel, by decide +kernel⟩
/-- The declared register, and MSG by 16 lanes and by all. -/
def convX : Conv := declared (form 0 16 0 32 0x8) groupX teamX Conv.zero
def sY : State := { sX with convs := [(cvKey 0 1 0, convX)] }
theorem witness_msg : (convAt sY (cvKey 0 1 0)).st = .opened ∧ (convAt sY (cvKey 0 1 0)).team = groupX.team ∧
    overBudget groupX teamX (convAt sY (cvKey 0 1 0)) = false ∧ (convAt sY (cvKey 0 1 0)).member groupX.num = some 0 ∧
    allLanes &&& ~~~(convAt sY (cvKey 0 1 0)).lmask = 0#32 ∧ allLanes &&& (convAt sY (cvKey 0 1 0)).signedOf 0 = 0#32 ∧
    (let v := convAt sY (cvKey 0 1 0)
     let v' (m : Mask) := { v with signed := v.signed ||| (m.setWidth 256 <<< (32 * 0)) }
     v.members.all (fun n => (v' allLanes).signedOf (n - v.gbase) == v.lmask) = true ∧
     v.members.all (fun n => (v' 0xFFFF#32).signedOf (n - v.gbase) == v.lmask) = false) := by decide +kernel
theorem witness_mwt : groupX.diverged (cvKey 0 1 0) &&& allLanes = 0#32 ∧ (convAt sX (cvKey 0 1 0)).st = .idle ∧ (convAt sY (cvKey 0 1 0)).st ≠ .idle ∧
    (convAt sY (cvKey 0 1 0)).team = groupX.team := by decide +kernel
/-- `mld.t t3, [s20], 1`, and `mld.a v32, [s20], s21, 2`, with zeros in s20 and s21. -/
theorem witness_mld : (uRead groupX 20).toNat % 8 = 0 ∧ (uRead groupX 21).toNat % 8 = 0 ∧ groupX.spWaits = [] ∧ 3 + 1 ≤ 4 * groupX.tgran ∧ (uRead groupX 20).toNat % 128 = 0 ∧ 0 + 1024 * 1 ≤ teamX.scratch ∧
    absentSector teamX 0 1024 = none ∧ spBad teamX 0 1024 = false ∧ 32 + 2 ≤ groupX.vcount ∧ Reading.lanesLive groupX c0 ∧
    (∀ l, has allLanes l = true → 0 + l % 16 * 0 + 4 * (l / 16) + (8 * (2 - 1) + 4) ≤ teamX.scratch ∧
      absentSector teamX (0 + l % 16 * 0 + 4 * (l / 16)) (8 * (2 - 1) + 4) = none ∧ spBad teamX (0 + l % 16 * 0 + 4 * (l / 16)) (8 * (2 - 1) + 4) = false) :=
  ⟨by decide +kernel, by decide +kernel, by decide, by decide, by decide +kernel, by decide, by decide +kernel, by decide +kernel, by decide, ofHas (by decide +kernel), ofHas (by
    decide +kernel)⟩
/-- `mz a0, 4`; `mdr.get v40, a0, 4` and `mdr.put` of the same registers. -/
theorem witness_mdr : 0 + 4 ≤ 4 * groupX.agran ∧ 40 + 4 * 4 ≤ groupX.vcount ∧ (∀ a, a < 4 → has groupX.marks a = false) := by decide +kernel

/-- `mdrx.sp.fs0 a0, [s20], s21, [s22], 1` of rows of 16 bytes at the slot's begin. -/
theorem witness_mdrx_slot : Issuing sX c0 groupX teamX ∧ teamX.twin = 0 ∧ groupX.spWaits = [] ∧ drainOk (form 0 20 21 0 0x400) groupX teamX ∧
    fnBit (form 0 20 21 0 0x400) 10 = true ∧ (drained (form 0 20 21 0 0x400) groupX teamX).length = 16 ∧
    (∀ w ∈ drained (form 0 20 21 0 0x400) groupX teamX, w.1 + w.2.length ≤ teamX.scratch ∧ absentSector teamX w.1 w.2.length = none) :=
  ⟨issuingX, rfl, rfl, ⟨by decide +kernel, by decide +kernel, by decide +kernel, by decide +kernel, fun a _ _ => by
    show has 0#32 a = false; simp [has]⟩, by decide, by decide +kernel, by decide +kernel⟩

/-! ### Bulk copies -/

/-- Memory with some bytes at 0x5000 and above, in a frame that space 1 of world 1 holds from 0x5000 on. -/
def extP : Extent := ⟨5, 4, true, true, false, false, 0#3⟩
def spaces1 : List (Nat × Space) := [(1, { Space.none with world := 1, exts := [(0, extP)] })]
/-- `bcp.ld b1, [s8:s9], s20, s12` of a record at 0x2000, mapped to 0x5000, of one dimension of 32 elements of one byte from 0x2400 on. -/
def groupK : Group := { groupM 1 with u := [(8, 0x2000#32)], susp := [⟨0x2000, 1, .mapped 0x5000 12 7⟩] }
def teamK : Team := { team0 with objs := lupd team0.objs 1 (fun _ => ⟨true, true, 1, 0, 0, 0, 0⟩) }
def sK : State := { at_ groupK teamK c0 with
  mem := [⟨0x5001, 0x24#8⟩, ⟨0x5008, 1#8⟩, ⟨0x5014, 32#8⟩, ⟨0x5048, 32#8⟩], spaces := spaces1, agenda := [] }
theorem ofPages {ns : List PageNeed} (h : ns.all (fun n => match n.st with | .mapped _ _ _ => true | _ => false) = true) :
    ∀ n ∈ ns, ∃ fr sz at_, n.st = .mapped fr sz at_ := by
  intro n hn
  have := List.all_eq_true.mp h n hn
  revert this
  cases n.st <;> simp
theorem witness_bulk :
    let f := form 0 8 20 12 0x10
    let recVa := (uRead64 groupK (uni f f.a)).toNat
    let k := (List.range 5).map (fun i => (uRead groupK (uni f f.c + i)).toInt)
    let recVas := (lanesOf allLanes).flatMap (fun _ => pagesOf recVa 192)
    let pieces := Reading.recordPieces (Reading.physOf sK groupK teamK 1 recVas) recVa
    let got := readRec (Reading.looked sK groupK teamK 1 recVas).1 groupK.core teamK recVa (pieces 192)
    let r := parseRec got.2
    let vas := r.addrs k
    let firsts := ((vas.map (fun va => va / 4096 * 4096)).eraseDups).map (fun p => (vas.find? (fun va => va / 4096 * 4096 == p)).getD p)
    let ns := pageStates got.1 groupK teamK 1 ((lanesOf allLanes).flatMap (fun _ => firsts))
    Issuing sK c0 groupK teamK ∧ Undisturbed sK groupK ∧ teamK.twin = 0 ∧ groupK.spWaits = [] ∧ groupK.flights = [] ∧
    clOf groupK c0 f.pg f.pn = allLanes ∧ (objAt teamK (objOf f)).v = true ∧ recVa = 0x2000 ∧
    Reading.allMapped sK groupK teamK 1 recVas ∧ (∀ q ∈ pieces 128, readError sK teamK.world q.2.1 q.2.2 = .clean) ∧ r.ok = true ∧ r.size = 32 ∧ r.swz = 0 ∧
    vas = (List.range 32).map (· + 0x2400) ∧ (∀ n ∈ ns.2, ∃ fr sz at_, n.st = .mapped fr sz at_) ∧
    canRead (groupM 1) [opnd (form 0 4 0 0 0) 4#8 false false true] .none :=
  ⟨⟨rfl, rfl, rfl⟩, ⟨rfl, by decide, rfl, rfl, rfl, by intro p hp; cases List.mem_singleton.mp hp; rfl⟩, rfl, rfl, rfl, by decide +kernel, by decide, by
    decide +kernel, ofMapped (by decide +kernel), by decide +kernel, by decide +kernel, by decide +kernel, by decide +kernel, by decide +kernel,
    ofPages (by decide +kernel), by unfold canRead; decide +kernel⟩

/-! ### The matrix engine's operation and drain -/

/-- `mdrx.g.fs0 a0, [s20:s21], s24, [s22:s23], 1` of one tile to the page at 0x2000, with no scale. -/
def groupY : Group := { groupX with accs := [(0, List.replicate 128 0x3F800000#32)], u := [(20, 0x2000#32), (24, 32#32)], susp := [⟨0x2000, 2, .mapped 0x5000 12 7⟩] }
theorem witness_mdrx_global :
    let f := form 0 20 24 0 0
    let ws := drained f groupY teamX
    let bytes := ws.flatMap (fun w => w.2.zipIdx.map (fun p => ((w.1 + p.2) % 2 ^ 64, p.1)))
    let vas := (lanesOf (clOf groupY c0 f.pg f.pn)).flatMap (fun _ => ws.flatMap (fun w => pagesOf (w.1 % 2 ^ 64) w.2.length))
    let s := at_ groupY teamX c0
    Undisturbed s groupY ∧ groupY.spWaits = [] ∧ drainOk f groupY teamX ∧ fnBit f 10 = false ∧ groupY.flights = [] ∧ bytes.length = 256 ∧
    (∀ b ∈ bytes, b.1 < 2 ^ 56 ∧ inDoor s (Reading.physOf s groupY teamX 2 vas b.1).1 = false ∧ (Reading.physOf s groupY teamX 2 vas b.1).2.testBit 5 = false) ∧
    Reading.allMapped s groupY teamX 2 vas :=
  ⟨undisturbed _ _ _ rfl (by decide), rfl, ⟨by decide +kernel, by decide +kernel, by decide +kernel, by decide +kernel, fun a _ _ => by
    show has 0#32 a = false; simp [has]⟩, by decide, rfl, by decide +kernel, by decide +kernel, ofMapped (by decide +kernel)⟩

/-- The declared operation, armed with its unit free and its operands present, and busy. -/
def convArmed (st : CvSt) : Conv := { convX with st := st, signed := 0xFFFFFFFF#256 }
def sZ (st : CvSt) : State := { sX with cur := .idle, args := [cvKey 0 1 0], convs := [(cvKey 0 1 0, convArmed st)] }
theorem witness_armed_start : unitFree (sZ .armed) (cvKey 0 1 0) (convArmed .armed) = true ∧ operandsPresent teamX (convArmed .armed) = true ∧
    mget (sZ .armed).teams (convArmed .armed).team = some teamX := by decide +kernel
theorem witness_matrix_complete :
    let v := convArmed .busy
    let s := sZ .busy
    mget s.teams v.team = some teamX ∧ leadGroup s v = some (0, groupX) ∧ memberGroups s v = [(0, groupX)] ∧ mget s.groups 0 = some groupX ∧
    v.ru = false ∧ v.stale = [] ∧ v.stored = [] ∧ groupX.regErrs = [] ∧ teamX.spErrs = [] ∧ teamX.spSingle = [] ∧ groupX.accStrikes = [] ∧
    slice groupX.fij.toNat 0 4 = 0 ∧ groupX.windows = [] ∧ groupX.holds = [] ∧ s.convs = [(cvKey 0 1 0, v)] ∧
    (∀ p ∈ s.groups, ∀ l, (p.2.lane l).st ≠ .blocked) ∧ slotWidth (fsFmt (v.fsA teamX)) = 16 ∧ slotWidth (fsFmt (v.fsB teamX)) = 16 := by
  refine ⟨by decide +kernel, by decide +kernel, by decide +kernel, rfl, rfl, rfl, rfl, rfl, rfl, rfl, rfl, by decide +kernel, rfl, rfl, rfl, ?_, by
    decide +kernel, by decide +kernel⟩
  intro p hp l
  cases List.mem_singleton.mp hp
  by_cases h : l < 32
  · revert l; decide +kernel
  · have hl : groupX.lanes.length = 32 := by decide
    simp only [Group.lane, List.getD, List.getElem?_eq_none (show groupX.lanes.length ≤ l by omega)]
    decide

/-! ### Pair words and Crumb words -/

/-- `{ iadd v4, v5 ; mov v6, v7 }`, and two slots that write one register. -/
def slotI : PSlot := ⟨7#3, 4#8, 5#8, 0#6⟩
def slotM : PSlot := ⟨7#3, 6#8, 7#8, 0#6⟩
theorem witness_pair_words :
    mget (at_ group0 team0 c0).groups 0 = some group0 ∧ Undisturbed { s0 with cur := .pair c0 0 none } group0 ∧
    Reading.slotOp (.pairIadd slotI) = some { f := slotI, fn := fun d a => d + a } ∧ Reading.slotOp (.pairMov slotM) = some { f := slotM, fn := fun _ a => a } ∧
    slotI.d ≠ slotM.d ∧ canTrap group0 ∧ Reading.slotOp (.pairMov { slotM with d := 4#8 }) = some { f := { slotM with d := 4#8 }, fn := fun _ a => a } ∧
    4 ∈ pairReads (.pairIadd slotI) (.pairMov { slotM with a := 8#8 }) ∧ 8 ∈ pairReads (.pairIadd slotI) (.pairMov { slotM with a := 8#8 }) ∧ 4 % 4 = 8 % 4 :=
  ⟨rfl, ⟨rfl, by show slice (0#64).toNat 0 4 = 0; decide, rfl, rfl, rfl, by intro p hp; cases List.mem_singleton.mp hp; rfl⟩, rfl, rfl, by decide, ⟨by decide, by decide +kernel⟩, rfl, by decide, by decide, by decide⟩

/-- Slice engine 3 with a word at hand, the last but one of its image; and walker 2. -/
def imgA (ro : Bool) : Image := ⟨ro, [0#32, 0#32, 0#32]⟩
def invA : Inv := ⟨0, 5, 0, [], 1, 1, 0, 9, 0x2000, 0xA0, 1#64, 2#64, 7, .running⟩
def sliceA (ro : Bool) : SliceEng := { SliceEng.empty with image := imgA ro, inv := some 4, buf := List.replicate 128 0#8, idx := 1 }
def sliceS (ro : Bool) : State := { s0 with cur := .crumb (.slice 3) 0#32, slices := [(3, sliceA ro)], invs := [(4, invA)] }
def reqA : WalkReq := ⟨3, 0, 1, 1, 0x2000, 1, [], []⟩
def walkS : State := { s0 with cur := .crumb (.walker 2) 0#32, walkers := [(2, { Walker.empty with req := some reqA, image := imgA true, idx := 1 })], spaces := [(1, { Space.none with world := 1, exts := [(0, ⟨5, 4, true, true, false, true, 0#3⟩)] })] }
theorem witness_crumb : (∀ ro, Reading.hasNext (sliceS ro) (.slice 3)) ∧ Reading.hasNext walkS (.walker 2) ∧ Reading.crumbOp (.crumbAdd ⟨1#4, 2#4, 3#4, 0#14⟩) ≠ none ∧
    lo32 (crumbStrike { sliceS true with slices := [(3, { sliceA true with strike := 1#64 })] } (.slice 3)) ≠ 0#32 ∧ lo32 (crumbStrike (sliceS true) (.slice 3)) = 0#32 ∧
    (∀ ro, (sliceAt (sliceS ro) 3).image.ro = ro ∧ (sliceAt (sliceS ro) 3).buf.length = 128 ∧ mget (sliceS ro).invs 4 = some invA) ∧
    1 ≤ (1#14 : BitVec 14).toInt ∧ (cIdx (sliceS true) (.slice 3) : Int) + (1#14 : BitVec 14).toInt < (cWords (sliceS true) (.slice 3)).length ∧
    0 ≤ (cIdx walkS (.walker 2) : Int) + (0x3FFF#14 : BitVec 14).toInt :=
  ⟨by intro ro; cases ro <;> (unfold Reading.hasNext; decide), by unfold Reading.hasNext; decide, by simp [Reading.crumbOp], by decide, by decide, by
    decide +kernel, by decide, by decide, by decide⟩
/-- `ldp` from the walker arena at 0x5000, and the verdicts. -/
theorem witness_walk :
    (walkerAt walkS 2).req = some reqA ∧ (walkerAt walkS 2).ldps < 32 ∧ (spaceOf walkS 1).exts.any (fun q => q.2.arena && extHolds q.2 0x5000 8) = true ∧
    readError walkS 1 0x5000 8 = .clean ∧ (cReg walkS (.walker 2) 7).getLsbD 6 = false ∧ reqA.drop = [] := by decide +kernel

/-! ### Line routines, images, translations and sessions -/

/-- A state whose teams all wait for no image. -/
theorem calm {s : State} {g : Group} (h : (g.regErrs = [] ∧ slice g.fij.toNat 0 4 = 0 ∧ g.strikes = [] ∧ g.windows = [] ∧ g.latchLost = false) ∧
    s.teams.all (fun p => !p.2.imageWait) = true) : Undisturbed s g :=
  ⟨h.1.1, h.1.2.1, h.1.2.2.1, h.1.2.2.2.1, h.1.2.2.2.2, fun p hp => by simpa using List.all_eq_true.mp h.2 p hp⟩

/-- `lrinv v8, [v4:v5], v12, 9` of 32 lines of the page at 0x2000. -/
def groupL : Group := { group0 with v := [(4, (List.range 32).map (fun l => BitVec.ofNat 32 (0x2000 + 128 * l))), (5, List.replicate 32 0#32),
  (12, List.replicate 32 7#32), (13, List.replicate 32 0#32), (14, List.replicate 32 8#32), (15, List.replicate 32 0#32)], susp := [⟨0x2000, 0xB, .mapped 0x5000 12 7⟩] }
def sL : State := at_ groupL team0 c0
theorem witness_lrinv :
    let f := form 8 4 12 9 0
    let a := opnd f f.a (fnBit f 10) (lqA f) true
    Issuing sL c0 groupL team0 ∧ Undisturbed sL groupL ∧ (Instr.lrinv f).wellFormed = true ∧ canRead groupL [a] (.v 8 true) ∧ f.b.toNat + 4 ≤ groupL.vcount ∧
    (∀ l, has (clOf groupL c0 f.pg f.pn) l = true → a.read groupL l % 128 = 0 ∧ a.read groupL l < 2 ^ 56) ∧
    Reading.allMapped sL groupL team0 0xB ((lanesOf (clOf groupL c0 f.pg f.pn)).map (fun l => a.read groupL l)) :=
  ⟨issuing _ _ _ _ rfl, undisturbed _ _ _ rfl (by decide), by decide +kernel, by unfold canRead; decide +kernel, by decide, ofHas (by decide +kernel),
    ofMapped (by decide +kernel)⟩
/-- The last of two answers comes, for lane 5. -/
def jobA : LrJob := ⟨ctx 0x21#32 0#64, 0x21#32, 8, false, none, none, [(0, 3#64)], []⟩
def groupJ : Group := { group0 with lr := some jobA }
def sJ : State := { s0 with cur := .idle, args := [4], groups := [(0, groupJ)], invs := [(4, { invA with st := .ended 77#64 })] }
theorem witness_lrinv_end : mget sJ.invs 4 = some { invA with st := .ended 77#64 } ∧ mget sJ.groups invA.gid = some groupJ ∧ groupJ.lr = some jobA ∧ jobA.ctx.gid = invA.gid ∧
    Undisturbed sJ groupJ ∧ has jobA.cl invA.lane = true ∧ (∀ l, has jobA.cl l = true → l ≠ invA.lane → (mget jobA.results l).isSome = true) ∧
    (∀ p ∈ jobA.results, p.1 < 32 ∧ has jobA.cl p.1 = true) ∧ mrising jobA.results = true :=
  ⟨rfl, rfl, rfl, rfl, ⟨rfl, by show slice (0#64).toNat 0 4 = 0; decide, rfl, rfl, rfl, by intro p hp; cases List.mem_singleton.mp hp; rfl⟩, by decide,
    ofHas (by decide +kernel), by decide, by decide⟩

/-- `lrload 3, [s8:s9]` and `wrload [s8:s9]` of an image of two words at 0x2000, whose header says its length. -/
def groupI : Group := { groupM 1 with u := [(8, 0x2000#32)] }
def sI : State := { at_ groupI team0 c0 with mem := [⟨0x5000, 2#8⟩, ⟨0x5008, 0x11#8⟩], spaces := spaces1 }
theorem witness_image : Issuing sI c0 groupI team0 ∧ Undisturbed sI groupI ∧ Reading.ImageAtHand sI c0 groupI team0 (form 0 8 0 0 3) false 2 ∧
    Reading.imageHead sI c0 groupI team0 (form 0 8 0 0 3) = 2 ∧ Reading.ImageAtHand sI c0 groupI team0 (form 0 8 0 0 0) true 2 ∧
    Reading.imageHead sI c0 groupI team0 (form 0 8 0 0 0) = 2 :=
  ⟨⟨rfl, rfl, rfl⟩, calm (by decide),
    ⟨by decide +kernel, by decide +kernel, by decide +kernel, rfl, ofMapped (by decide +kernel), by decide +kernel, ofPages (by decide +kernel), by
      decide +kernel, fun _ hd => by cases hd⟩, by decide +kernel,
    ⟨by decide +kernel, by decide +kernel, by decide +kernel, rfl, ofMapped (by decide +kernel), by decide +kernel, ofPages (by decide +kernel), by
      decide +kernel, fun _ hd => by cases hd⟩, by decide +kernel⟩

/-- `tlbinv [s8:s9], s20` of one page. -/
def groupT : Group := { groupI with u := [(8, 0x2000#32), (20, 1#32)] }
theorem witness_tlbinv :
    let f := form 0 8 20 0 0x600
    let lo := (uRead64 groupT (uni f f.a)).toNat / 4096 * 4096
    (Instr.tlbinv f).wellFormed = true ∧ clOf groupT c0 f.pg f.pn ≠ 0#32 ∧ lo < min (lo + 4096 * (uRead groupT (uni f f.b)).toNat) (2 ^ 56) := by decide +kernel

/-- World 1 with its interface in a state, and slot 0 with a key, a used flag and counters; `xopen s4, [s8:s9], s20, s12` of 16 bytes. -/
def worldA (x : Session) : World :=
  { part := 0, key := 0, sessions := [x], transfer := [], meas := [], evFrame := 0x9000, count := 0, doorFrame := 0xA000, test := false
    ephem := none, fn := some 3, revoking := false }
def sessionA (v used : Bool) : Session := ⟨5#256, 3#64, 9#64, 7#32, used, v⟩
def groupE (ctr : W32) (kind : Nat) (holds : List Hold) : Group := { group0 with
  u := [(8, 0x2000#32), (12, 1#32), (13, 16#32), (14, ctr)], susp := [⟨0x2000, kind, .mapped 0x5000 12 7⟩], holds := holds }
def sE (g : Group) (x : Session) (run : Bool) : State := { at_ g team0 c0 with
  worlds := [(1, worldA x)], fns := [(3, { Fn.zero with tdisp := if run then .run else .locked, world := some 1 })] }
def fE (z : Bool) : SForm := form 4 8 20 12 (if z then 1 else 0)
theorem sessionVa (ctr : W32) (kind : Nat) (holds : List Hold) (z : Bool) : Reading.cryptVa (groupE ctr kind holds) (fE z) = 0x2000 := by
  have h8 : uRead (groupE ctr kind holds) (uni (fE z) (fE z).a) = 0x2000#32 := by cases z <;> rfl
  have h9 : uRead (groupE ctr kind holds) (uni (fE z) (fE z).a + 1) = 0#32 := by cases z <;> rfl
  rw [Reading.cryptVa, uRead64, h8, h9]; decide
/-- The words of the group are words of a session, whatever it holds. -/
theorem sessionWord (ctr : W32) (kind : Nat) (holds : List Hold) (x : Session) (run z : Bool) :
    Reading.SessionWord (sE (groupE ctr kind holds) x run) c0 (groupE ctr kind holds) team0 (fE z) where
  issuing := ⟨rfl, rfl, rfl⟩
  calm := calm ⟨⟨rfl, by show slice (0#64).toNat 0 4 = 0; decide, rfl, rfl, rfl⟩, rfl⟩
  single := rfl
  keepsNoImage := by decide
  noFlight := rfl
  noWait := by intro p hp _; cases List.mem_singleton.mp hp; rfl
  noCopy := by intro p hp; cases hp
  noOther := by intro p hp h; cases List.mem_singleton.mp hp; exact absurd rfl h
  rising := rfl
  lanes := by cases z <;> exact (by decide +kernel : clOf (groupE 0#32 0 []) c0 15#4 false ≠ 0#32)
  len := by
    have h : Reading.cryptLen (groupE ctr kind holds) (fE z) = 16 := by cases z <;> rfl
    rw [h]; decide
  aligned := by
    have h : Reading.cryptOff (groupE ctr kind holds) (fE z) = 0 := by cases z <;> rfl
    rw [sessionVa, h]; decide
  inside := by
    have h : Reading.cryptOff (groupE ctr kind holds) (fE z) = 0 ∧ Reading.cryptLen (groupE ctr kind holds) (fE z) = 16 := by cases z <;> exact ⟨rfl, rfl⟩
    rw [Reading.cryptRun, h.1, sessionVa, h.2]; decide
  noRelease := rfl
  noSingle := rfl

/-- Every status: no handle, no lock, an old counter, and a session at hand with a seal counter left, or at its end. -/
theorem witness_sessions :
    let s (x : Session) (run : Bool) : State := sE (groupE 10#32 1 []) x run
    let h := Reading.cryptHandle (groupE 10#32 1 []) (fE false)
    let full : Session := { sessionA true true with sealNext := BitVec.allOnes 64 }
    Reading.cryptSlot (groupE 10#32 1 []) (fE false) = 0 ∧
    handleSlot (s (sessionA false false) true) 1 h = none ∧ handleSlot (s (sessionA true true) false) 1 h = some 0 ∧
    interfaceLocked (s (sessionA true true) false) 1 = false ∧ handleSlot (s (sessionA true true) true) 1 h = some 0 ∧
    interfaceLocked (s (sessionA true true) true) 1 = true ∧ (sessionOf (s (sessionA true true) true) 1 0).used = true ∧
    (Reading.cryptCtr (groupE 9#32 1 []) (fE false)).toNat ≤ (sessionOf (s (sessionA true true) true) 1 0).last.toNat ∧
    (sessionOf (s (sessionA true true) true) 1 0).last.toNat < (Reading.cryptCtr (groupE 10#32 1 []) (fE false)).toNat ∧
    (sessionOf (s (sessionA true true) true) 1 0).sealNext ≠ BitVec.allOnes 64 ∧ handleSlot (s full true) 1 h = some 0 ∧
    (sessionOf (s full true) 1 0).sealNext = BitVec.allOnes 64 ∧ absentSector team0 0 16 = none ∧ spBad team0 0 16 = false ∧
    (mget (s (sessionA true true) true).worlds 1).isSome = true ∧ 0 < ((mget (s (sessionA true true) true).worlds 1).map (·.sessions.length)).getD 0 := by
  decide +kernel
theorem witness_session_pages :
    let vas (n : Nat) : List Nat := (lanesOf allLanes).flatMap (fun _ => pagesOf 0x2000 n)
    Reading.cryptVas (groupE 10#32 1 []) c0 (fE false) 32 = vas 32 ∧ Reading.cryptVas (groupE 10#32 2 []) c0 (fE true) 48 = vas 48 ∧
    Reading.allMapped (sE (groupE 10#32 1 []) (sessionA true true) true) (groupE 10#32 1 []) team0 1 (vas 32) ∧
    Reading.allMapped (sE (groupE 10#32 2 []) (sessionA true true) true) (groupE 10#32 2 []) team0 2 (vas 48) ∧
    Reading.allClean (sE (groupE 10#32 1 []) (sessionA true true) true) 1
      [⟨0, runPieces (Reading.physOf (sE (groupE 10#32 1 []) (sessionA true true) true) (groupE 10#32 1 []) team0 1 (vas 32)) 0x2000 32⟩] :=
  ⟨by decide +kernel, by decide +kernel, ofMapped (by decide +kernel), ofMapped (by decide +kernel), by unfold Reading.allClean; decide +kernel⟩
/-- A step under way of XOPEN and one of XSEAL; a decryption that gives something ends with status 0, and one that does not with 1. -/
theorem witness_session_ends (dec : Option (List Byte)) (locked : Bool) (h : locked = true) :
    (groupE 10#32 1 [.crypt 0 10#64 [] [] []]).holds = [.crypt 0 (Reading.cryptCtr (groupE 10#32 1 []) (fE false)) [] [] []] ∧
    ∃ (st : Nat) (p : List Byte), st = 0 ∧ dec = some p ∧ locked = true ∨
      p = [] ∧ (st = 1 ∧ dec = none ∨ st = 3 ∧ dec.isSome = true ∧ locked = false) := by
  refine ⟨rfl, ?_⟩
  cases dec with
  | none => exact ⟨1, [], .inr ⟨rfl, .inl ⟨rfl, rfl⟩⟩⟩
  | some p => exact ⟨0, p, .inl ⟨rfl, rfl, h⟩⟩

/-! ### Issue and returns -/

/-- A group of whose lanes 0 to 15 stand at 0x1000 and 16 to 31 at 0x1008, the latter having missed 256 issues if `starved`. -/
def groupQ (starved : Bool) : Group := { group0 with
  lanes := (List.range 32).map (fun l => { group0.lane 0 with pc := if l < 16 then 0x1000#64 else 0x1008#64, w := if starved && decide (16 ≤ l) then 256 else 0 }) }
theorem witness_issue : issueSet (groupQ true) = 0xFFFF0000#32 ∧ issueSet (groupQ false) = 0xFFFF#32 ∧ has ((groupQ true).inState .active) 16 = true ∧
    ((groupQ true).lane 16).w = 256 := by decide +kernel
/-- Sub-partition 0 of core 0 with the word of group 0 at hand. -/
def groupF : Group := { groupQ false with fetched := [(0x1000, 0x07F0000000000000#64)] }
def coreF : Core := { Core.empty with tlb := [⟨1, 0x1000, 12, 0x5000, 7⟩] }
def sF : State := { s0 with cur := .idle, args := [0, 0], groups := [(0, groupF)], cores := [(0, coreF)], mem := [(0x5006, 0xF0#8), (0x5007, 0x07#8)], spaces := spaces1 }
theorem witness_issue_cycle : sF.groups.filter (fun p => p.2.core == 0 && p.2.subp == 0) = [(0, groupF)] ∧ mget sF.teams groupF.team = some team0 ∧
    resumable sF 0 0 = none ∧ (subpAt sF 0 0).cycleAt ≠ some sF.clock ∧ 1 ≤ sF.ctl.n ∧ (subpAt sF 0 0).cycleAt.map (· / 64) ≠ some (sF.clock / 64) ∧
    canIssue sF groupF = true ∧ groupF.errs = [] ∧ groupF.starvePend = [] ∧ groupF.divPend = [] ∧ team0.twin = 0 ∧
    copyRoom sF 0 groupF 0x07F0000000000000#64 = true ∧ groupF.flights = [] ∧ groupF.holds = [] ∧ goodTarget (issuePc groupF) ∧
    mget groupF.fetched (issuePc groupF).toNat = some 0x07F0000000000000#64 ∧ groupF.susp = [] ∧
    (pageStates sF groupF team0 4 [(issuePc groupF).toNat]).2 = [⟨(issuePc groupF).toNat, 4, .mapped 0x5000 12 7⟩] ∧
    readWord sF groupF.core team0.world (0x5000 + (issuePc groupF).toNat % 2 ^ 12) = 0x07F0000000000000#64 := by unfold goodTarget; decide +kernel
/-- A load of 8 bytes of lanes 3 and 9 in flight, and an ATOMX of lane 5 at its home. -/
def flightL : Flight := { Flight.blank with
  id := 7, op := .load, dest := some 6, size := 8, sx := true, latch := 3, world := 1, parts := [⟨3, [(0x2018, 0x5018, 8)]⟩, ⟨9, [(0x2FFC, 0x5FFC, 4), (0x3000, 0x7000, 4)]⟩] }
def sLoad : State := { s0 with cur := .idle, args := [0, 7], groups := [(0, { group0 with flights := [flightL] })], mem := [(0x5019, 5#8), (0x7003, 6#8)], spaces := spaces1 }
theorem witness_load_return : Undisturbed sLoad { group0 with flights := [flightL] } ∧ stillShipped sLoad 0 7 = false ∧ flightL.size ∈ [1, 2, 4, 8, 16] ∧
    (∀ p ∈ flightL.parts, p.lane < 32 ∧ (group0.lane p.lane).st ≠ .exited) ∧ (flightL.parts.map (·.lane)).Nodup ∧
    (∀ p ∈ flightL.parts, (p.pieces.map (·.2.2)).sum = flightL.size ∧ ∀ q ∈ p.pieces, backed sLoad q.2.1 = true ∧ readError sLoad 1 q.2.1 q.2.2 = .clean ∧
      coreRead sLoad 0 1 q.2.1 q.2.2 = viewRead sLoad 0 1 q.2.1 q.2.2) ∧ flightL.bad = [] ∧ flightL.inject = false ∧ team0.imageGroups = [] :=
  ⟨calm (by decide), by decide, by decide, by decide +kernel, by decide, by decide +kernel⟩
def flightX : Flight := { Flight.blank with
  id := 7, op := .atomicX false, dest := some 6, size := 4, world := 1, parts := [⟨5, [(0x2018, 0x5018, 4)]⟩], opsB := [(5, 0#64)], opsC := [(5, 9#64)] }
def sShip : State := { s0 with cur := .idle, args := [2], groups := [(0, { group0 with flights := [flightX] })], shipped := [(2, ⟨0, 7, 5, 0x5018 / 128⟩)], spaces := spaces1 }
theorem witness_shipped : backed sShip (0x5018 / 128 * 128) = true ∧ (∀ p ∈ sShip.cores, p.2.leases = []) ∧
    (sliceAt sShip (homeSlice (0x5018 / 128 * 128))).inv = none ∧ inDoor sShip 0x5018 = false ∧ sShip.writes = [] := by decide +kernel
/-- A core that holds a lease and a line. -/
def sLease : State := { s0 with clock := 20000, cores := [(0, { Core.empty with leases := [⟨9, 30000⟩], l1 := [⟨1, 9, 3000, []⟩, ⟨1, 10, 19000, []⟩], pred := [(9, 2)] })] }
theorem witness_ages : (∃ p ∈ sLease.cores, ∃ x ∈ p.2.leases, x.line = 9 ∧ (x.last + 512 ≤ 2 * sLease.clock)) ∧ sLease.decayAt + 4096 ≤ sLease.clock := by decide +kernel
/-- A group all of whose lanes wait in RCLAIM, and one all of whose lanes wait on object 0. -/
def groupD (w : Wait) : Group := { group0 with lanes := List.replicate 32 { group0.lane 0 with st := .blocked, wait := some w } }
def sClaim : State := { s0 with cur := .idle, args := [0], groups := [(0, groupD (.pool 0))], teams := [(0, { team0 with claims := [⟨0, 9, allLanes⟩] })] }
theorem witness_claim_deadlock : (groupD (.pool 0)).lanes.length = 32 ∧ canTrap (groupD (.pool 0)) ∧ (groupD (.pool 0)).live = allLanes ∧
    inClaim (groupD (.pool 0)) = true ∧ team0.pool < 9 ∧ team0.rollbacks = false ∧
    alloc 64 (vectorUsed sClaim 0 0 (some 0)) 65 = none :=
  ⟨by decide, ⟨by decide, by decide +kernel⟩, by decide +kernel, by decide +kernel, by decide, by decide, by decide +kernel⟩
def teamS : Team := { teamO 32 with starved := 65536, objs := lupd team0.objs 0 (fun _ => ⟨true, true, 33, 32, 0, 0, 5⟩) }
theorem witness_starved : 65536 ≤ teamS.starved ∧ 0 < teamS.objs.length ∧ (objAt teamS 0).v = true ∧ (objAt teamS 0).arrived ≤ (objAt teamS 0).expect ∧ 0 < (objAt teamS 0).expect ∧
    (∀ l, l < 32 → ((groupD (.barrier 0 5 true)).lane l).st = .blocked ∧ ((groupD (.barrier 0 5 true)).lane l).pc = 0x1000#64 ∧ ((groupD (.barrier 0 5 true)).lane l).wait = some (.barrier 0 5 true)) ∧
    (groupD (.barrier 0 5 true)).starvePend = [] := by decide +kernel

/-! ### Coherence -/

/-- Line 0x40 of home die 0, held by its L2 with XP, by die 3 with a state, and in the almanac with a state; of class 0 a set takes one line. -/
def partC : Part := ⟨0, 1, 0, 1, 0, 8, 0, 4, [(0, 1)], 0, 0⟩
def sCoh (xp : Nat) (rdc : List (Moesi × Bool)) (alm : List Alm) (args : List Nat) (msgs : List (Nat × Msg)) : State :=
  { State.reset with
    fresh := 10, clock := 5000, args := args, msgs := msgs, parts := [(0, partC)]
    dies := [(0, { Die.empty with l2 := [⟨0, 0x40, xp, 0, true, false⟩], backstop := [⟨2, 0x0A#8, 1⟩] }), (3, { Die.empty with rdc := rdc.map (fun p => ⟨0, 0x40, p.1, p.2, 0⟩) })]
    nougats := [(halfOf 0x40, { Nougat.empty with alm := alm })] }
def almC (st : AlmSt) (shr : BitVec 8) (own : Nat) (pend : Bool) (req : Option CohReq) : Alm := ⟨0x40, st, shr, own, 0, pend, req, 0#8, false, false, 0, false⟩
def msgC (kind : MsgKind) (src dst : Nat) (dirty mark : Bool) : Msg := ⟨kind, 0x40, src, dst, 2, dirty, .s, 0x08#8, mark⟩
def sMsg (xp : Nat) (rdc : List (Moesi × Bool)) (k : MsgKind) (dst : Nat) (mark : Bool) : State := sCoh xp rdc [] [7] [(7, msgC k 8 dst false mark)]
theorem witness_requests : (∀ a ∈ [[], [almC .sh 9#8 0 false none]], quietLine (sCoh 0 [] a [5, 0x40] []) 0x40 ∧ lacks (sCoh 0 [] a [5, 0x40] []) 5 0x40 = true ∧
      roomFor (sCoh 0 [] a [5, 0x40] []) 5 0x40 = true ∧ ((almOf (sCoh 0 [] a [5, 0x40] []) 0x40 = none → (setEntries (sCoh 0 [] a [5, 0x40] []) 0x40).length <
        almWays (sCoh 0 [] a [5, 0x40] []) (partOfLine (sCoh 0 [] a [5, 0x40] []) 0x40))) ∧
      ∀ k ∈ [ReqKind.rds, .rdx], (Reading.resolution 0 5 k ((almOf (sCoh 0 [] a [5, 0x40] []) 0x40).map (fun x => (x.st, x.shr, x.own)))).map (·.2.isEmpty) = some false) ∧
    xpOf (sCoh 1 [] [almC .sh 9#8 0 false none] [0, 0x40] []) 0x40 = 1 ∧ homeOf 0x40 = 0 ∧ backed State.reset (128 * 0x40) = true ∧
    (Reading.resolution 0 0 .upg (some (AlmSt.sh, 9#8, 0))).map (·.2.isEmpty) = some false := by unfold quietLine; decide +kernel
theorem witness_lone_upgrade :
    let s := sCoh 1 [(.s, false)] [almC .sh 8#8 0 false none] [3, 0x40] []
    quietLine s 0x40 ∧ almOf s 0x40 = some (almC .sh 8#8 0 false none) ∧ (8#8 : BitVec 8) = 1#8 <<< 3 ∧ rdcOf s 3 0x40 = some ⟨0, 0x40, .s, false, 0⟩ := by
  unfold quietLine; decide +kernel
theorem witness_evictions : rdcOf (sCoh 2 [(.m, true)] [almC .ex 8#8 3 false none] [3, 0x40] []) 3 0x40 = some ⟨0, 0x40, .m, true, 0⟩ ∧
    evictable (sCoh 2 [(.m, true)] [almC .ex 8#8 3 false none] [3, 0x40] []) 3 0x40 = true ∧
    quietLine (sCoh 2 [(.m, true)] [almC .ex 8#8 3 false none] [3, 0x40] []) 0x40 ∧
    rdcOf (sCoh 1 [(.s, false)] [almC .sh 9#8 0 false none] [3, 0x40] []) 3 0x40 = some ⟨0, 0x40, .s, false, 0⟩ ∧
    evictable (sCoh 1 [(.s, false)] [almC .sh 9#8 0 false none] [3, 0x40] []) 3 0x40 = true ∧
    quietLine (sCoh 1 [(.s, false)] [almC .sh 9#8 0 false none] [3, 0x40] []) 0x40 := by unfold quietLine; decide +kernel
theorem witness_holders : ∀ k ∈ [MsgKind.fws, .fwx, .inv, .rcl, .prb], arrives (sMsg 1 [(.o, true)] k 3 false) 7 (msgC k 8 3 false false) k ∧
    rdcOf (sMsg 1 [(.o, true)] k 3 false) 3 0x40 = some ⟨0, 0x40, .o, true, 0⟩ := by unfold arrives; decide +kernel
theorem witness_homes : ∀ k ∈ [MsgKind.fwx, .inv, .rcl, .hrs, .hrx, .hwb, .rel, .spl], arrives (sMsg 0 [] k 0 false) 7 (msgC k 8 0 false false) k ∧
    l2Of (sMsg 0 [] k 0 false) 0x40 = some ⟨0, 0x40, 0, 0, true, false⟩ ∧
    arrives (sMsg 3 [] k 0 false) 7 (msgC k 8 0 false false) k ∧ l2Of (sMsg 3 [] k 0 false) 0x40 = some ⟨0, 0x40, 3, 0, true, false⟩ ∧
    backstopOf (sMsg 3 [] k 0 false) 0x40 = some ⟨2, 0x0A#8, 1⟩ ∧ diesOf 0x0A#8 = [1, 3] ∧
    (k = .hrs ∨ k = .hrx → onTheWay (sMsg 3 [] k 0 false) 0x40 = false) := by unfold arrives; decide +kernel
theorem witness_acks :
    (∀ k ∈ [MsgKind.dat, .dak, .iak, .wak], let dst := if k = .iak then 8 else 3
      arrives (sMsg 1 [(.h, true)] k dst true) 7 (msgC k 8 dst false true) k ∧ (nougatAt (sMsg 1 [(.h, true)] k dst true) (halfOf 0x40)).waiting = [] ∧
      ((almOf (sMsg 1 [(.h, true)] k dst true) 0x40).bind (·.req)).map (·.kind) ≠ some .upg) ∧
    almOf (sCoh 1 [] [{ almC .ex 9#8 0 true (some ⟨.rds, 3, 0x40⟩) with waitDak := true }] [7] []) 0x40 =
      some { almC .ex 9#8 0 true (some ⟨.rds, 3, 0x40⟩) with waitDak := true } ∧ (9#8 &&& ~~~(1#8 <<< 0) : BitVec 8) ≠ 0#8 ∧
    almOf (sCoh 1 [] [{ almC .rc 9#8 0 false none with waitAck := 8#8 }] [7] []) 0x40 = some { almC .rc 9#8 0 false none with waitAck := 8#8 } ∧
    (8#8 &&& ~~~(1#8 <<< 3) : BitVec 8) = 0#8 := by unfold arrives; decide +kernel
/-- The last answer to the probes of line 0x40 reaches its home. -/
theorem witness_probe_ends : arrives (sMsg 3 [] .iak 0 true) 7 (msgC .iak 8 0 false true) .iak ∧ (dieOf (sMsg 3 [] .iak 0 true) 0).spills = [] ∧
    onTheWay { sMsg 3 [] .iak 0 true with msgs := mdel (sMsg 3 [] .iak 0 true).msgs 7 } 0x40 = false := by unfold arrives; decide +kernel
/-- Sixteen exported lines of one set of the home's L2, line 0x40 the one used least recently. -/
def sFull (alm : List Alm) : State := { sCoh 1 [] alm [0x40] [] with
  dies := [(0, { Die.empty with l2 := [1, 131, 194, 261, 324, 391, 454, 521, 584, 651, 714, 781, 844, 911, 974, 64].map (fun n => ⟨0, n, 1, 0, true, false⟩) })] }
theorem witness_recalls : (∀ a ∈ [[], [almC .sh 9#8 0 false none]], mustEvict (sFull a) 0x40 = true ∧ xpOf (sFull a) 0x40 = 1 ∧ quietLine (sFull a) 0x40 ∧
      ∀ x ∈ (nougatAt (sFull a) (halfOf 0x40)).alm, x.req ≠ some ⟨.hrc, homeOf 0x40, 0x40⟩) ∧
    almOf (sCoh 1 [] [almC .rc 9#8 0 false none] [0x40] []) 0x40 = some (almC .rc 9#8 0 false none) ∧
    (almC .rc 9#8 0 false none).recallAt + 4096 ≤ 2 * (sCoh 1 [] [] [0x40] []).clock ∧
    (nougatAt (sCoh 1 [] [] [1] []) 0).lost = false ∧ (nougatAt { sCoh 1 [] [] [1] [] with nougats := [(0, { Nougat.empty with lost := true })] } 0).lost = true := by
  unfold quietLine; decide +kernel

/-! ### Copies land -/

theorem plain {s : State} {tid : Nat} {t : Team} (h : mget s.teams tid = some t ∧ t.rollbacks = false ∧ (s.groups.all (fun p => decide (p.2.team = tid → p.2.spWaits = []))) = true ∧
    (s.teams.all (fun p => !p.2.imageWait)) = true) : plainTeam s tid t :=
  ⟨h.1, h.2.1, fun p hp => of_decide_eq_true (List.all_eq_true.mp h.2.2.1 p hp), fun p hp => by simpa using List.all_eq_true.mp h.2.2.2 p hp⟩
/-- A transfer of 20 bytes, the last of a closed batch, that lanes wait for; and a bulk copy of one sector. -/
def sAcp : State := { s0 with
  cur := .idle, args := [3], mem := [(0x5104, 9#8)], spaces := spaces1
  groups := [(0, { groupD (.tag 1 7) with tags := [⟨0, 0, 0, 0⟩, ⟨7, 1, 0, 5⟩] })], teams := [(0, { team0 with absent := [4] })]
  copies := [(3, ⟨0, .acp 0 1 4 2 [(0x2100, 0x5100, 20)], 4, 0, 3, [], [], [], []⟩)] }
def secsA : List (Nat × Option Nat × Byte) := (List.range 32).map (fun i => (i, if i < 24 then some (0x5100 + i) else none, 0x11#8))
def sBulk (store : Bool) : State := { s0 with
  cur := .idle, args := [3, 4], mem := [(0x5104, 9#8)], spaces := spaces1, teams := [(0, { teamK with absent := if store then [] else [4] })]
  copies := [(3, ⟨0, .bulk 0 1 store 0x2000 128 [0] [(4, secsA)], 0, 0, 3, [], [], [(4, secsA)], []⟩)] }
theorem witness_transfer_lands : plainTeam sAcp 0 { team0 with absent := [4] } ∧ (∀ p ∈ [(0x2100, 0x5100, 20)], readError sAcp 1 p.2.1 p.2.2 = .clean) ∧
    copyInto { sAcp with copies := mdel sAcp.copies 3 } 0 4 = false := ⟨plain (by decide +kernel), by decide +kernel, by decide⟩
theorem witness_bulk_lands : plainTeam (sBulk false) 0 { teamK with absent := [4] } ∧ secsA.length = 32 ∧ 1 < teamK.objs.length ∧
    (∀ x ∈ secsA, ∀ pa, x.2.1 = some pa → readError (sBulk false) 1 pa 1 = .clean) ∧ copyInto (dropSector (sBulk false) 3 4) 0 4 = false :=
  ⟨plain (by decide +kernel), by decide, by decide, by decide +kernel, by decide⟩
theorem witness_bulk_stores : plainTeam (sBulk true) 0 teamK ∧ teamK.absent = [] ∧ teamK.spErrs = [] ∧ teamK.spSingle = [] ∧ teamK.rels = [] ∧
    (∀ p ∈ [(4, secsA)], ∀ x ∈ p.2, ∀ pa, x.2.1 = some pa → backed (sBulk true) pa = true ∧ inDoor (sBulk true) pa = false) ∧
    group0.core < 192 ∧ (∀ k ∈ teamCores (sBulk true) teamK, k < 192) ∧ (([(4, secsA)].flatMap (·.2)).filterMap (·.2.1)).Nodup :=
  ⟨plain (by decide +kernel), rfl, rfl, rfl, rfl, by decide +kernel, by decide, by decide, by decide +kernel⟩

/-! ### Walks, drops and invocations -/

/-- A group whose access waits for a page; and walker 4 of cluster 1, with that request next in its partition. -/
def groupN : Group := { group0 with susp := [⟨0x2000, 1, .pending⟩] }
def sWalk : State := { s0 with
  cur := .idle, args := [4], groups := [(0, groupN)], spaces := [(1, { Space.none with world := 1, exts := [(0, extP)], walkerArea := 0x5000 })], mem := [(0x5000, 2#8), (0x5008, 1#8)]
  frontEnds := [(0, ⟨true, 0, 0, 2, [], []⟩)], walkq := [reqA], stores := [(1, [⟨1, imgA true⟩])]
  held := [(6, ⟨reqA, 0x5000#64, 12#64, 7#64, 0⟩)], drops := [⟨8, 0, 1, none, [1]⟩, ⟨9, 0, 1, some 9, [3]⟩], slices := [(3, { SliceEng.empty with cache := [⟨1, 9, 0#32, 0, imgA true⟩] })]
  ctl := { Ctl.reset with boot := 6 }, pageq := [⟨1, { reqA with id := 2 }, 0, 1, 1, 1, 0#64, 1, false, false⟩] }
theorem witness_walk_begins : unasked { sWalk with walkq := [] } (.group 0) 0 1 groupN.susp = some ⟨0x2000, 1, .pending⟩ ∧ (walkerAt sWalk 4).req = none ∧
    partOfCluster sWalk 1 = some 0 ∧ nextWalk sWalk 0 = some reqA ∧ (mval sWalk.stores [] 1).find? (fun x => x.space == 1) = some ⟨1, imgA true⟩ ∧
    (imgA true).words ≠ [] ∧ readError sWalk 1 0x5000 16 = .clean ∧ (∀ x ∈ sWalk.walkq, x.id = reqA.id → x = reqA) ∧ readError sWalk 1 0x5000 8 = .clean ∧
    imageWords 2 (homeRead { sWalk with stores := [] } 1 0x5008 8) = [1#32, 0#32] := by decide +kernel
theorem witness_walk_ends : mget sWalk.held 6 = some ⟨reqA, 0x5000#64, 12#64, 7#64, 0⟩ ∧ mailboxOpen sWalk = true ∧ sWalk.ctl.halted = false ∧ sWalk.ctl.recovery = false ∧
    sWalk.pageq.find? (fun x => x.part == 0 && x.seq == 1 && x.where_ != 0) = some ⟨1, { reqA with id := 2 }, 0, 1, 1, 1, 0#64, 1, false, false⟩ ∧
    sWalk.walkq.any (fun r => r.wants 0 1 0x5000 1) = false ∧
    ⟨8, 0, 1, none, [1]⟩ ∈ sWalk.drops ∧ ⟨9, 0, 1, some 9, [3]⟩ ∈ sWalk.drops := by decide +kernel
/-- Invocation 4 is on its way to the slice of line 0xA0, and stands in its queue. -/
def kA : Nat := homeSlice (128 * 0xA0)
def sInv (st : InvSt) : State := { s0 with
  cur := .idle, args := [if st = .sent then 4 else kA], spaces := spaces1, invs := [(4, { invA with st := st })]
  slices := [(kA, { SliceEng.empty with queue := if st = .sent then [] else [4], cache := [⟨1, 9, 0#32, 0, imgA true⟩] })] }
theorem witness_invocations : mget (sInv .sent).invs 4 = some { invA with st := .sent } ∧ (sliceAt (sInv .queued) kA).inv = none ∧
    nextInv (sInv .queued) kA = some (4, { invA with st := .queued }) ∧ backed State.reset (128 * 0xA0) = true ∧ inDoor (sInv .queued) (128 * 0xA0) = false ∧
    (sliceAt (sInv .queued) kA).cache.find? (fun x => x.space == 1 && x.n == 9) = some ⟨1, 9, 0#32, 0, imgA true⟩ ∧
    readError (sInv .queued) 1 (128 * 0xA0) 128 = .clean ∧ (sInv .queued).msgs = [] ∧ (sInv .queued).nougats = [] := by decide +kernel

/-! ### Queues and packets -/

/-- Front end 0 of partition 0 with queue 2 of world 1 in slot 3, its block and ring at 0x2000, mapped to 0x5000. -/
def queueA : Queue := { Queue.fresh 0x2000 4 1 1 0 5 with
  started := true, wptr := 4, rptr := 1, next := 1
  susp := [⟨0x2000, 1, .mapped 0x5000 12 7⟩, ⟨0x2000, 2, .mapped 0x5000 12 7⟩, ⟨0x2000, 0xB, .mapped 0x5000 12 7⟩] }
def feA (q : Queue) : FrontEnd := ⟨true, 0, 0, 2, [(3, q)], []⟩
def coreA : Core := { Core.empty with subpWorld := [(0, 1), (1, 1)], bankWorld := [(0, 1), (1, 1)], portions := [(1, 1)] }
def sQ (q : Queue) (mem : List Host.Cell) (args : List Nat) : State := { State.reset with
  fresh := 10, args := args, mem := mem, ctl := { Ctl.reset with boot := 6, owner := some .host }
  worlds := [(1, worldA (sessionA true true))], spaces := spaces1, frontEnds := [(0, feA q)], cores := [(0, coreA), (1, coreA)] }
theorem witness_ask : mayAsk (sQ queueA [] []) .pair ∧ mayAsk (sQ queueA [] []) .host ∧ (∀ o, (sQ queueA [] []).ctl.owner ≠ some o ↔ o ≠ .host) :=
  ⟨by unfold mayAsk; decide +kernel, by unfold mayAsk; decide +kernel, fun o => by simp [sQ, eq_comm]⟩
theorem witness_map : mapOk (sQ queueA [] []) (feA queueA) 0 4 0x3000 4 1 1 0 = true ∧ (feA queueA).kept = [] ∧ contextTeams (sQ queueA [] []) 0 3 = [] ∧
    contextTeams { sQ queueA [] [] with teams := [(9, { team0 with fe := 0, slot := 3 })] } 0 3 ≠ [] ∧ queueAt (sQ queueA [] []) 0 3 = some queueA ∧
    queueA.stopping = .run := by decide +kernel
theorem handA (q : Queue) (kind : Nat) (h : q.susp = queueA.susp) (hk : kind ∈ [1, 2, 0xB]) (va : Nat) (hv : va / 4096 = 2) : Reading.atHand q va kind := by
  refine ⟨by omega, ⟨0x2000, kind, .mapped 0x5000 12 7⟩, 0x5000, 12, 7, ?_, rfl⟩
  simp only [List.mem_cons, List.not_mem_nil, or_false] at hk
  rcases hk with rfl | rfl | rfl <;> simp [Reading.known, h, queueA, Queue.fresh, PageNeed.page, hv]
/-- The host's doorbell, a store into the doorbell frame, and a rung queue, with WPTR in the block, and beyond the ring. -/
theorem witness_doorbells : bellQueue (sQ queueA [] [0, 5]) 0 5 = some (0, 3) ∧ fnAccepted (sQ queueA [] [0, 5]) 0 = true ∧ (fnOf (sQ queueA [] [0, 5]) 0).commit = none ∧
    (0xA018 % 4096 < 0x800 ∧ 0xA018 % 4096 / 128 = 0 ∧ 0xA018 / 8 % 16 = 3) ∧
    (sQ queueA [] []).worlds.find? (fun p => p.2.doorFrame / 4096 == 0xA018 / 4096) = some (1, worldA (sessionA true true)) ∧
    Reading.mapped (sQ { queueA with rung := 1 } [] [0, 3]) 0 3 (feA { queueA with rung := 1 }) { queueA with rung := 1 } ∧
    Reading.atHand { queueA with rung := 1 } 0x2000 1 ∧ queueA.started = true ∧
    (∀ w ∈ [(9, true), (200, false)], let s := sQ { queueA with rung := 1 } [(0x5000, BitVec.ofNat 8 w.1)] [0, 3]
      readError s 1 (Reading.fePa queueA 0x2000 1) 8 = .clean ∧ let v := leNat (Reading.feBytes s (feA queueA) queueA 0x2000 8)
      decide (1 ≤ v ∧ v ≤ 1 + 2 ^ 4 ∧ 4 ≤ v) = w.2) :=
  ⟨by decide +kernel, by decide +kernel, by decide +kernel, by decide, by decide +kernel, ⟨rfl, rfl⟩, handA _ 1 rfl (by decide) _ (by decide), rfl, by decide +kernel⟩
/-- Packet 1, at 0x5080: a NOP, a WAIT on 0x2800, a bundle of a fill whose record lies at 0x2400, and an illegal type. -/
def memP (typ : Nat) : List Host.Cell := match typ with
  | 0 => []
  | 1 => [(0x5080, 1#8), (0x5081, 1#8), (0x5084, 3#8), (0x5089, 0x24#8), (0x5401, 0x30#8), (0x5408, 32#8), (0x5410, 7#8)]
  | 2 => [(0x5080, 2#8), (0x50A9, 0x28#8), (0x50B0, 5#8)]
  | _ => [(0x5080, 9#8)]
def packetP (typ : Nat) : Packet := parsePacket (Reading.feBytes (sQ queueA (memP typ) [0, 3]) (feA queueA) queueA 0x2080 64)
theorem witness_packets : (∀ typ ∈ [0, 1, 2], starts (sQ queueA (memP typ) [0, 3]) queueA = true ∧
      readError (sQ queueA (memP typ) [0, 3]) 1 (Reading.fePa queueA 0x2080 1) 64 = .clean ∧ (packetP typ).legal = true ∧ (packetP typ).typ = typ) ∧
    queueA.q + 64 + 64 * (queueA.next % 2 ^ queueA.n) = 0x2080 ∧ Reading.atHand queueA 0x2080 1 ∧ queueA.nops = [] ∧ (packetP 9).legal = false ∧
    (let p := packetP 1
     let recs := (p.kinds.take p.n).zip p.subs
     recs = [(3, 0x2400)] ∧ 0x2400 % recSize 3 = 0 ∧ readError (sQ queueA (memP 1) [0, 3]) 1 (Reading.fePa queueA 0x2400 1) (recSize 3) = .clean ∧
     recs.map (fun r => readSub (sQ queueA (memP 1) [0, 3]) (feA queueA) queueA r.1 r.2 (Reading.fePa queueA r.2 1)
        (subBytes (sQ queueA (memP 1) [0, 3]) (feA queueA) queueA r.1 (Reading.fePa queueA r.2 1))) =
      [Sub.fill 0x3000 32 7#64 0].map some) ∧ Reading.atHand queueA 0x2400 1 ∧
    (∀ v ∈ [4, 5], decide (5 ≤ leNat (Reading.feBytes (sQ queueA [(0x5800, BitVec.ofNat 8 v)] [0, 3]) (feA queueA) queueA 0x2800 8)) = decide (v = 5)) :=
  ⟨by decide +kernel, by decide, handA _ 1 rfl (by decide) _ (by decide), rfl, by decide +kernel, by decide +kernel, handA _ 1 rfl (by decide) _ (by decide), by
    decide +kernel⟩
/-- A NOP, and a bundle whose fill has ended, that retire with a signal at 0x2808. -/
theorem witness_retires : (∀ k ∈ [0, 1, 2], let q := { queueA with nops := [(1, k, 0x2808, 5#64)] }
      Reading.fePa q 0x2000 2 + 8 = 0x5008 ∧ Reading.fePa q 0x2808 (if k = 2 then 0xB else 2) = 0x5808 ∧ Reading.plainAt (sQ q [] [0, 3]) 0x5008 ∧
      Reading.plainAt (sQ q [] [0, 3]) 0x5808) ∧
    (let q := { queueA with bundles := [⟨1, 1, 0x2808, 5#64, [.fill 0x3000 32 7#64 32]⟩] }
     (q.bundles.find? (fun b => b.index == q.rptr)).isSome = true ∧ ∀ b ∈ q.bundles, ∀ y ∈ b.subs, y.ended = true) := by
  unfold Reading.plainAt; decide +kernel
/-- A copy of 64 bytes from 0x2400 to 0x2800, and a fill. -/
def queueS (y : Sub) : Queue := { queueA with bundles := [⟨1, 0, 0, 0#64, [y]⟩] }
theorem witness_sublaunches : (queueS (.copy 0x2400 0x2800 64 32)).works 1 = true ∧
    ((queueS (.copy 0x2400 0x2800 64 32)).bundles.find? (fun b => b.index == 1)).bind (fun b => b.subs[0]?) = some (.copy 0x2400 0x2800 64 32) ∧
    readError (sQ (queueS (.copy 0x2400 0x2800 64 32)) [] [0, 3, 1, 0]) 1 0x5420 32 = .clean ∧
    (∀ i, i < 32 → Reading.plainAt (sQ (queueS (.fill 0x2800 64 7#64 32)) [] [0, 3, 1, 0]) (0x5820 + i)) ∧
    Reading.fePa queueA 0x2820 2 = 0x5820 := by unfold Reading.plainAt; decide +kernel

/-! ### Placement and contexts -/

/-- A grid of two teams of 48 threads, each of two groups of role 0 with 8 granules of registers; of twin teams; and co-resident. -/
def launchA (flags : Nat) : Launch :=
  { addr := 0x2400, pa := 0x5400, entry := 0x1000#64, gx := 2, gy := 1, gz := 1, tx := 48, ty := 1, tz := 1, flags := flags, scratch := 4096, roles := [0x000802, 0, 0, 0]
    fs := List.replicate 8 2#32, argPtr := 0x2600, argSize := 64, handler := 0x8000#64, space := 1, preload := (List.range 32).map (fun i => BitVec.ofNat 32 (i + 1)) }
def sPlace (flags : Nat) : State := sQ (queueS (.grid (launchA flags) 0 0 false)) [] [0, 3, 1, 0]
def roomP : Room := roomOf (sPlace 0) 0 1 false
theorem witness_placement : (queueS (.grid (launchA 0) 0 0 false)).works 1 = true ∧ subAt (queueS (.grid (launchA 0) 0 0 false)) 1 0 = some (.grid (launchA 0) 0 0 false) ∧
    0 < (launchA 0).teams ∧ (launchA 6).twin = true ∧ (launchA 6).coresident = false ∧ (launchA 0).twin = false ∧ (launchA 8).coresident = true ∧
    (match planLaunch (launchA 0) roomP with
      | some ([p], _) => (seatTeam 0 3 1 0 0 1 (launchA 0) 0 0 (sPlace 0) p).toOption.isSome
      | _ => false) = true ∧
    (match planLaunch (launchA 6) roomP with
      | some ([p, q], _) => (seatPlans 0 3 1 0 0 1 (launchA 6) 0 (sPlace 6) [p, q]).toOption.isSome
      | _ => false) = true ∧
    (match nextPlan (sPlace 8) (feA (queueS (.grid (launchA 8) 0 0 false))) (queueS (.grid (launchA 8) 0 0 false)) (launchA 8) 0 with
      | some ps => (seatMany 0 3 1 0 0 1 (launchA 8) ps 0 (sPlace 8)).toOption.isSome && ps.all (fun p => p.length == 1) && ps.length == 2
      | none => false) = true := by decide +kernel
theorem witness_grid_end : subAt (queueS (.grid (launchA 0) 2 2 false)) 1 0 = some (.grid (launchA 0) (launchA 0).teams (launchA 0).teams false) ∧
    (sPlace 0).writes = [] ∧ (sPlace 0).teams = [] := by decide +kernel
/-- Two parked groups of two teams, in every second granule of their pools, and a grid of one group that needs as many blocks as a map may not
have: of registers, of tiles, of accumulators, of its slot. -/
def groupV (tid : Nat) (vm tm : List (Nat × Nat)) : Group :=
  { group0 with team := tid, vmap := vm, tmap := tm, amap := tm, tgran := 2, agran := 2, lanes := List.replicate 32 { group0.lane 0 with st := .parked } }
def groupV0 : Group := groupV 0 [(1, 1), (3, 1), (5, 1), (7, 1), (9, 1), (11, 1)] [(1, 1), (3, 1)]
def teamV (gid first n : Nat) (m : List (Nat × Nat)) : Team := { team0 with groups := [gid], smap := (List.range n).map (fun i => (first + 2 * i, 1)) ++ m }
def sMove (role scratch : Nat) : State := { sQ (queueS (.grid { launchA 0 with tx := 32, roles := [role, 0, 0, 0], scratch := scratch } 0 0 false)) [] [] with
  cores := [(0, { coreA with subpWorld := [(0, 1)], bankWorld := [(0, 1), (1, 1), (2, 1)] })]
  groups := [(0, groupV0), (1, groupV 1 [(13, 1), (15, 1), (16, 16), (32, 32)] [(5, 1), (7, 1)])], teams := [(0, teamV 0 1 8 []), (1, teamV 1 17 7 [(32, 4)])] }
theorem witness_compaction : (placePools (sMove 0x000801 4096)).contains (.vector, 0, 0) = true ∧ (placePools (sMove 0x040101 4096)).contains (.tile, 0, 0) = true ∧
    (placePools (sMove 0x400101 4096)).contains (.accumulator, 0, 0) = true ∧ (placePools (sMove 0x000101 48128)).contains (.scratchpad, 0, 1) = true ∧
    (∀ p ∈ (sMove 0 0).teams, p.2.claims = []) ∧ ready (sMove 0 0) 0 groupV0 = false ∧ copiesInto (sMove 0 0) 0 = false ∧
    (moveDown 64 (vectorUsed (sMove 0 0) 0 0 (some 0)) groupV0.vmap (fun _ _ => true)).isSome = true ∧
    (moveDown 8 (tileUsed (sMove 0 0) 0 0) groupV0.tmap (fun _ _ => true)).isSome = true ∧
    (moveDown 8 (accUsed (sMove 0 0) 0 0) groupV0.amap (fun _ _ => true)).isSome = true ∧ (∀ k lo n, k ≠ PoolKind.scratchpad → targeted groupV0 k lo n = false) ∧
    (moveDown (slotPool (sMove 0 0) 0 1) (slotUsed (sMove 0 0) 0 1) (teamV 0 1 8 []).smap (fun _ _ => true)).isSome = true :=
  ⟨by decide +kernel, by decide +kernel, by decide +kernel, by decide +kernel, by decide +kernel, by decide +kernel, by decide +kernel, by decide +kernel, by
    decide +kernel, by decide +kernel, fun k _ _ _ => by cases k <;> rfl, by decide +kernel⟩

/-! ### Contexts, buckets and worlds -/

/-- A team of queue 3 with one parked group, resident, and saved. -/
def groupR : Group := { group0 with team := 9, vcount := 8, vmap := [(0, 1)], lanes := List.replicate 32 { group0.lane 0 with st := .parked } }
def teamR : Team := { team0 with fe := 0, slot := 3, packet := 1, groups := [4], scratch := 32, sp := [(5, 7#8)], pool := 2 }
def queueC (st : Stop) : Queue := { queueA with stopping := st }
def sCtx (st : Stop) : State := { sQ (queueC st) [] [0, 3] with groups := [(4, groupR)], teams := [(9, teamR)] }
def savedR : Saved := savedOf (sCtx .run) (feA (queueC .run)) 0 3 (queueC .run)
def sRest : State := sQ { queueA with saved := [savedR] } [] []
theorem witness_contexts : contextTeams (sCtx (.save false)) 0 3 = [(9, teamR)] ∧ saveReady (sCtx (.save false)) [(9, teamR)] false = true ∧
    (sCtx (.save false)).writes = [] ∧ (∀ p ∈ (sCtx (.save false)).teams, p.2.claims = []) ∧
    (∃ base, saveBase (sCtx (.save false)) (saveArea (savedOf (sCtx (.save false)) (feA (queueC (.save false))) 0 3 (queueC (.save false)))).length = some base ∧
      Reading.plainAt (sCtx (.save false)) base) ∧
    refuses (heard sRest .host) (feA queueA) 1 savedR = false ∧ savedR.convs = [] ∧ savedR.copies = [] ∧ savedR.seen = [] ∧
    (match planSaved savedR savedR.teams (cvFree (heard sRest .host) 1 true) (roomOf (heard sRest .host) 0 1 false) with
      | some ps => decide (ps.map (·.1) = [9]) && (match reseatAll savedR 0 3 ps (heard sRest .host) with
        | .ok s1 => s1.groups.all (fun g => g.2.flights.isEmpty) && s1.teams.all (fun p => p.2.claims.isEmpty)
        | .error _ => false)
      | none => false) = true :=
  ⟨by decide +kernel, by decide +kernel, rfl, by decide +kernel, ⟨hbmEnd - 8192, by decide +kernel, by unfold Reading.plainAt; decide +kernel⟩, by
    decide +kernel, by decide +kernel, by decide +kernel, by decide +kernel, by decide +kernel⟩
theorem witness_resets : contextTeams (sQ queueA [] []) 0 3 = [] ∧ queueA.dried = false ∧ bothLost (sQ queueA [] []) = false ∧ Reading.atHand queueA 0x2000 2 ∧
    Reading.plainAt (sQ queueA [] []) (Reading.fePa queueA 0x2000 2 + 0x10) ∧ frameOwned (sQ queueA [] []) 1 0x9000 = false ∧
    Reading.atHand { queueA with stopping := .reset, code := 3, failAt := 1 } 0x2000 2 :=
  ⟨by decide +kernel, rfl, by decide, handA _ 2 rfl (by decide) _ (by decide), by unfold Reading.plainAt; decide +kernel, by decide +kernel, handA _ 2 rfl (by decide) _ (by decide)⟩
theorem witness_buckets : State.reset.ctl.bucketAt + 600 ≤ ({ State.reset with clock := 600 } : State).clock ∧ State.reset.ctl.halted = false ∧
    mrising [(0, { Fn.zero with cap := 4, level := 7 }), (3, Fn.zero)] = true := by decide
/-- Changes of the layout that the state allows, and one that it does not. -/
theorem witness_layout : (relayout (heard (sQ queueA [] []) .host) (.partition 1 true 1 4 6)).isSome = true ∧ relayout (heard (sQ queueA [] []) .host) (.partition 1 true 1 1 6) = none ∧
    (relayout (heard (sQ queueA [] []) .host) (.subp 0 2 (some 1))).isSome = true ∧ (relayout (heard (sQ queueA [] []) .host) (.bank 0 2 (some 1))).isSome = true := by decide +kernel
theorem witness_creations : mget (sQ queueA [] []).worlds 2 = none ∧ (∃ x ∈ (sQ queueA [] []).frontEnds, x.2.valid = true ∧ x.2.part = 0) ∧
    mget (sQ queueA [] []).spaces 2 = none ∧ (mget (sQ queueA [] []).worlds 1).isSome = true ∧
    (let a : Extent := ⟨0x10000 / 4096, 4, true, true, false, false, 0#3⟩
     let b : Extent := ⟨0x20000 / 4096, 1, true, true, false, false, 0#3⟩
     extMeets a b = false ∧ (∀ p ∈ (sQ queueA [] []).spaces, ∀ q ∈ p.2.exts, q.2.v = true → extMeets a q.2 = false ∧ extMeets b q.2 = false) ∧
     extentOk (sQ queueA [] []) 2 62 1 a = true ∧ extentOk (sQ queueA [] []) 2 63 1 b = true) := by decide +kernel
/-- An extent to grant, one that is being filled, and one to change. -/
def extG : Extent := ⟨0x30, 2, true, false, false, false, 7#3⟩
def sExt : State := { sQ queueA [(0x30005, 9#8)] [1, 1] with spaces := [(1, { Space.none with world := 1, exts := [(0, extP), (1, extG)], arena := 0x5000, walkerArea := 0x8000 })] }
theorem witness_extents : spaceWorld (sQ queueA [] []) 1 = some 1 ∧ mget (spaceOf (sQ queueA [] []) 1).exts 1 = none ∧ extentOk (sQ queueA [] []) 1 1 1 extG = true ∧
    mget (spaceOf sExt 1).exts 1 = some extG ∧ extG.f = false ∧ sExt.ctl.changes = [] ∧ changeOk sExt 1 1 1 { extG with pages := 1 } = true ∧
    changeOk sExt 1 1 1 { extG with v := false } = true ∧ begunWalks sExt 1 = [] := by decide +kernel

/-! ### Evidence, keys and revocation -/

theorem length_xorL (a b : List Nat) : (xorL a b).length = min a.length b.length := by simp [xorL]
theorem length_nextWord (i : Nat) (ws : List (List Nat)) (h : 8 ≤ ws.length) (hw : ∀ w ∈ ws, w.length = 4) : (aesNextWord i ws).length = 4 := by
  have g (k : Nat) (hk : k < ws.length) : (ws.getD k []).length = 4 := by
    rw [List.getD_eq_getElem?_getD, List.getElem?_eq_getElem hk]
    exact hw _ (List.getElem_mem hk)
  have h0 := g 0 (by omega)
  have h7 := g 7 (by omega)
  unfold aesNextWord
  simp only [length_xorL, h7]
  split
  · split
    · rfl
    · rw [h0]; rfl
  · split
    · rw [List.length_map, h0]; rfl
    · rw [h0]; rfl
theorem length_words (ws : List (List Nat)) (h : ws.length = 8) (hw : ∀ w ∈ ws, w.length = 4) (n : Nat) :
    ((List.range n).foldl (fun ws k => aesNextWord (k + 8) ws :: ws) ws).length = 8 + n ∧
      ∀ w ∈ (List.range n).foldl (fun ws k => aesNextWord (k + 8) ws :: ws) ws, w.length = 4 := by
  induction n with
  | zero => exact ⟨h, hw⟩
  | succ n ih =>
    obtain ⟨h1, h2⟩ := ih
    rw [List.range_succ, List.foldl_append, List.foldl_cons, List.foldl_nil]
    refine ⟨by rw [List.length_cons, h1]; omega, fun w hw => ?_⟩
    rcases List.mem_cons.mp hw with rfl | hw
    · exact length_nextWord _ _ (by omega) h2
    · exact h2 w hw
theorem schedule_words (key : List Nat) (h : key.length = 32) : (aesSchedule key).length = 60 ∧ ∀ w ∈ aesSchedule key, w.length = 4 := by
  have hw : ∀ w ∈ ((List.range 8).map (fun i => (key.drop (4 * i)).take 4)).reverse, w.length = 4 := fun w hw => by
    simp only [List.mem_reverse, List.mem_map, List.mem_range] at hw
    obtain ⟨i, hi, rfl⟩ := hw
    simp [h]; omega
  unfold aesSchedule
  exact length_words _ (by rw [List.length_reverse, List.length_map, List.length_range]) hw 52
theorem length_flatten4 (l : List (List Nat)) (h : ∀ w ∈ l, w.length = 4) : l.flatten.length = 4 * l.length := by
  induction l with
  | nil => rfl
  | cons w l ih =>
    simp only [List.flatten_cons, List.length_append, List.length_cons, ih (fun x hx => h x (List.mem_cons_of_mem _ hx)), h w (List.mem_cons_self ..)]
    omega
theorem length_aesEnc (key blk : List Nat) (h : key.length = 32) : (aesEnc key blk).length = 16 := by
  obtain ⟨h1, h2⟩ := schedule_words key h
  have k : ((aesKeys key).getD 14 []).length = 16 := by
    have h3 (w) (hw : w ∈ (List.drop 56 (aesSchedule key).reverse).take 4) : w.length = 4 :=
      h2 w (List.mem_reverse.mp (List.mem_of_mem_drop (List.mem_of_mem_take hw)))
    simp only [aesKeys, List.getD_eq_getElem?_getD, List.getElem?_map, List.getElem?_range (show 14 < 15 by omega), Option.map_some, Option.getD_some]
    rw [length_flatten4 _ h3]
    simp [h1]
  simp only [aesEnc, length_xorL, k, aesShift, List.length_map, List.length_range]
  rfl
theorem length_gcmTag (key iv aad ct : List Nat) (h : key.length = 32) : (gcmTag key iv aad ct).length = 16 := by
  simp [gcmTag, length_xorL, length_aesEnc _ _ h, beBytes]
/-- Sixteen bytes are those of their number. -/
theorem bigBytes_beNum (l : List Byte) (h : l.length = 16) : bigBytes 16 (BitVec.ofNat 128 (beNum (toNats l))).toNat = l := by
  obtain ⟨a0, a1, a2, a3, a4, a5, a6, a7, a8, a9, a10, a11, a12, a13, a14, a15, rfl⟩ : ∃ a0 a1 a2 a3 a4 a5 a6 a7 a8 a9 a10 a11 a12 a13 a14 a15,
      l = [a0, a1, a2, a3, a4, a5, a6, a7, a8, a9, a10, a11, a12, a13, a14, a15] := by
    match l, h with
    | [a0, a1, a2, a3, a4, a5, a6, a7, a8, a9, a10, a11, a12, a13, a14, a15], _ => exact ⟨_, _, _, _, _, _, _, _, _, _, _, _, _, _, _, _, rfl⟩
  have b (x : Byte) : x.toNat < 256 := x.isLt
  have e (x : Byte) (n : Nat) (hn : n = x.toNat) : BitVec.ofNat 8 n = x := BitVec.eq_of_toNat_eq (by rw [hn]; simp)
  have := b a0; have := b a1; have := b a2; have := b a3; have := b a4; have := b a5; have := b a6; have := b a7
  have := b a8; have := b a9; have := b a10; have := b a11; have := b a12; have := b a13; have := b a14; have := b a15
  simp only [bigBytes, toBytes, toNats, beBytes, beNum, List.map_cons, List.map_nil, List.foldl_cons, List.foldl_nil, BitVec.toNat_ofNat,
    show List.range 16 = [0, 1, 2, 3, 4, 5, 6, 7, 8, 9, 10, 11, 12, 13, 14, 15] from rfl, Nat.zero_mul, Nat.zero_add, Nat.reducePow, Nat.reduceSub]
  rw [Nat.mod_eq_of_lt (by omega)]
  simp only [List.cons.injEq, and_true]
  refine ⟨?_, ?_, ?_, ?_, ?_, ?_, ?_, ?_, ?_, ?_, ?_, ?_, ?_, ?_, ?_, ?_⟩ <;> (apply e; omega)
/-- A message for slot 0 of world 1, in layout generation 0, with the tag that opens it under an ephemeral key. -/
def msgK (typ : BitVec 32) (tag : BitVec 128) : KeyMsg := ⟨typ, 1#16, 0#8, true, 0#32, 7#32, 3, 2#96, 5#256, tag⟩
def tagBytes (k : Nat) : List Byte :=
  toBytes (gcmTag (beBytes 32 (wrapKey (Config.ecdhSecret k 3)).toNat) (beBytes 12 2) (keyAad (msgK 1#32 0#128)) (toNats (bigBytes 32 5)))
def tagK (k : Nat) : BitVec 128 := .ofNat 128 (beNum (toNats (tagBytes k)))
theorem witness_key_opens (k : Nat) : (openKey (msgK 1#32 (tagK k)) k).isSome = true := by
  have h : bigBytes 16 (tagK k).toNat = tagBytes k := bigBytes_beNum (tagBytes k) (by simp [tagBytes, toBytes, length_gcmTag, beBytes])
  have d (key : BitVec 256) (iv aad : List Nat) (ct t : List Byte) (h : toBytes (gcmTag (beBytes 32 key.toNat) iv aad (toNats ct)) = t) :
      (gcmDec key iv aad ct t).isSome = true := by simp [gcmDec, h]
  have a (t : BitVec 128) : keyAad (msgK 1#32 t) = keyAad (msgK 1#32 0#128) := rfl
  rw [openKey, Option.isSome_map, a]
  exact d (wrapKey (Config.ecdhSecret k 3)) (beBytes 12 2) (keyAad (msgK 1#32 0#128)) (bigBytes 32 5) (bigBytes 16 (tagK k).toNat) h.symm
/-- World 1 with an ephemeral key, a transfer extent at 0x40000, a sealed extent at 0x30000, and function 3. -/
def worldK : World := { worldA (sessionA true true) with ephem := some 9, transfer := [(0, (1, 2))] }
def extS : Extent := ⟨0x30, 1, true, true, true, false, 5#3⟩
def extT : Extent := ⟨0x40, 1, true, true, false, false, 3#3⟩
def sKey : State := { sQ queueA [(0x40003, 6#8)] [] with
  worlds := [(1, worldK)], spaces := [(1, { Space.none with world := 1, exts := [(0, extP), (1, extS), (2, extT)] })]
  fns := [(3, { Fn.zero with world := some 1, tdisp := .run })] }
theorem witness_keys : mayAsk sKey .host ∧ slotBusy sKey 1 0 = false ∧ mget sKey.worlds 1 = some worldK ∧ (0#8).toNat < worldK.sessions.length ∧
    (∀ t, let m := msgK 1#32 t; m.typ = 1#32 ∧ m.slot.toNat < 8 ∧ m.reserved = true ∧ m.gen = sKey.ctl.gen) ∧
    ¬ (msgK 2#32 0#128).typ = 1#32 :=
  ⟨by unfold mayAsk; decide +kernel, by decide +kernel, rfl, by decide, fun _ => ⟨rfl, show (0#8).toNat < 8 by decide, rfl, rfl⟩, by decide⟩
theorem witness_measured : mget (spaceOf sKey 1).exts 1 = some extS ∧ spaceWorld sKey 1 = some 1 ∧ extS.v = true ∧ extS.f = true ∧ extS.sealed = true ∧
    extS.rwx.getLsbD 1 = false ∧ 5 ≤ 4096 * extS.pages ∧ inTransfer sKey worldK 0x40001 5 = true ∧ (measurements sKey 1 worldK).length < 96 ∧
    inDoor sKey (4096 * extS.base) = false ∧ cxlLost sKey (4096 * extS.base) = false := by decide +kernel
/-- The same part with no front end and no team: a function is free, and the world may be revoked. -/
def sRev : State := { sKey with frontEnds := [], worlds := [(1, worldK), (2, { worldA (sessionA false false) with fn := none })] }
theorem witness_binding : mayAsk sRev .host ∧ (mget sRev.worlds 2).map (·.fn) = some none ∧ (fnOf sRev 5).world = none ∧
    (mget sRev.worlds 1).map (·.fn) = some (some 3) ∧ (fnOf sRev 3).world = some 1 ∧ (fnOf sRev 3).tdisp ≠ .unlocked ∧ (fnOf sRev 3).tdisp ≠ .error ∧
    (mget sRev.worlds 1).map (·.revoking) = some false ∧ worldQueues sRev 1 = [] ∧ (∀ p ∈ sRev.teams, p.2.world ≠ 1) :=
  ⟨by unfold mayAsk; decide +kernel, by decide +kernel⟩

/-! ### Reliability -/

/-- The scrubber at unit 1: sound, with one wrong symbol, with a poisoned half. -/
def sScrub (ups : List (Nat × List (Nat × Byte))) (poison : SMap Bool) : State := { sKey with args := [1], upsets := ups, poison := poison }
theorem witness_scrub : 64 * 1 < hbmEnd ∧ (sScrub [] []).ctl.off = false ∧ rsRead (mval (sScrub [] []).upsets [] 1) = .clean ∧
    rsRead (mval (sScrub [(1, [(3, 5#8)])] []).upsets [] 1) = .corrected ∧
    poisonedUnit (sScrub [] [(3, true)]) 1 ∧ ¬ poisonedUnit (sScrub [] []) 1 := by unfold poisonedUnit; decide +kernel
/-- Teams 9 and 10, a pair, each with a group that waits with an entry. -/
def groupZ (tid : Nat) : Group := { group0 with team := tid, holds := [.twin] }
def teamZ (twin mate retry : Nat) (escaped : Bool) : Team :=
  { team0 with fe := 0, slot := 3, packet := 1, twin := twin, mate := some mate, groups := [twin], retry := retry, escaped := escaped }
def entryZ (trailing : Bool) (sig : W64) : CmpEntry := ⟨9, trailing, 0, 0, sig, ⟨if trailing then 2 else 1, allLanes, 0x1000#64, 0xF0#64 <<< 48⟩, [], false⟩
def sTwin (retry : Nat) (escaped : Bool) (sig : W64) : State := { sKey with
  args := [9], teams := [(9, teamZ 1 10 retry escaped), (10, teamZ 2 9 retry escaped)], groups := [(1, groupZ 9), (2, groupZ 10)]
  cmps := [entryZ false 7#64, entryZ true sig] }
theorem witness_twin_entries (retry : Nat) (escaped : Bool) (sig : W64) :
    KeyAtHand (sTwin retry escaped sig) 9 10 (teamZ 1 10 retry escaped) (teamZ 2 9 retry escaped) (entryZ false 7#64) (entryZ true sig) where
  args := rfl
  lead := rfl
  twin := rfl
  mate := rfl
  trail := rfl
  cmps := rfl
  pair := rfl
  meet := rfl
  apart := by simp [entryZ]
theorem witness_twin_traps : (teamZ 1 10 2 false).answer = none ∧ (canTrap (groupZ 9) ∧ canTrap (groupZ 10)) ∧ entryLanes (sTwin 2 false 8#64) (entryZ false 7#64) ≠ 0#32 ∧
    entryLanes (sTwin 2 false 8#64) (entryZ true 8#64) ≠ 0#32 :=
  ⟨rfl, ⟨⟨by decide, rfl⟩, ⟨by decide, rfl⟩⟩, by decide +kernel, by decide +kernel⟩
/-- Team 9 alone, with a logged change and the image of its group, to roll back or to lose its bundle. -/
def sRoll (roll : Bool) : State := { sKey with
  args := [9], groups := [(1, { groupZ 9 with holds := [], u := [(16, 5#32)] })]
  teams := [(9, { team0 with fe := 0, slot := 3, packet := 1, groups := [1], answer := some roll, sp := [(33, 4#8)], undo := [.slot 1 [0#8, 9#8] false], imagePool := 3, imageGroups := [(1, { groupZ 9 with holds := [], u := [(16, 6#32)] })] })] }
theorem witness_rollback : rollReady (sRoll true) [9] = true ∧ mrising (sRoll true).teams = true ∧ (mget (sRoll true).teams 9).map (fun t =>
      decide (t.twin = 0 ∧ t.mate = none ∧ t.answer = some true ∧ t.landings = [] ∧ t.imageErrs = [] ∧ t.imageClaims = [])) = some true ∧
    ((sRoll true).teams.all (fun p => p.2.imageGroups.all (fun q => q.2.holds.isEmpty) && p.2.groups == p.2.imageGroups.map (·.1))) = true ∧
    (queueAt (sRoll false) 0 3).map (·.code) = some 0 := by decide +kernel

/-! ### The host's side -/

theorem witness_denied (bar : Nat) : allowed bar 1 = false := by simp [allowed]
theorem witness_elsewhere : elsewhere 0 3 1 true = false := by decide +kernel
theorem witness_window : sKey.writes = [] ∧ (∀ p ∈ sKey.worlds, frameOwned sKey p.1 p.2.evFrame = false) ∧ sKey.ctl.off = false ∧ 6 ≤ sKey.ctl.boot ∧ windowByte sKey 3 0x5000 = none ∧ windowByte sKey 3 0x101 = some 0x40101 := by decide +kernel
theorem witness_commit : fnAccepted (sQ queueA [] []) 0 = true ∧ (fnOf (sQ queueA [] []) 0).commit = none ∧ bellQueue (sQ queueA [] []) 0 5 = some (0, 3) ∧
    Reading.atHand queueA 0x2040 2 ∧ Reading.atHand queueA 0x2000 2 ∧ isControlBlock (sQ queueA [] []) 0 1 0x2000 = true ∧
    isControlBlock (sQ queueA [] []) 0 1 0x2040 = false ∧ Reading.plainAt (sQ queueA [] []) (Reading.fePa queueA 0x2040 2) ∧
    Reading.plainAt (sQ queueA [] []) (Reading.fePa queueA 0x2000 2) :=
  ⟨by decide +kernel, by decide +kernel, by decide +kernel, handA _ 2 rfl (by decide) _ (by decide), handA _ 2 rfl (by decide) _ (by decide), by decide +kernel,
    by decide +kernel, by unfold Reading.plainAt; decide +kernel, by unfold Reading.plainAt; decide +kernel⟩
/-- A part that is up, with an owner that has long been silent and an offer to the second host. -/
def sOwn (owner : Option Asker) : State := { State.reset with
  clock := 6000000000, ctl := { Ctl.reset with boot := 6, owner := owner, offer := some (.host2, 5999999999) }, fns := [(3, { Fn.zero with tdisp := .locked })] }
theorem witness_ownership : mailboxOpen (sOwn none) = true ∧ (sOwn none).ctl.halted = false ∧ (sOwn none).ctl.recovery = false ∧
    (sOwn (some .host)).clock < 5999999999 + 600000000 ∧ (sOwn (some .host)).ctl.heard + 6000000000 ≤ (sOwn (some .host)).clock ∧
    (fnOf (sOwn none) 4).tdisp = .unlocked ∧ (fnOf (sOwn none) 3).tdisp = .locked ∧
    (let s := { sOwn none with clock := 7000000000 }; 5999999999 + 600000000 ≤ s.clock ∧ s.ctl.offer = some (.host2, 5999999999)) := by decide +kernel
theorem witness_mismatch : mrising sKey.frontEnds = true ∧ (∀ x ∈ sKey.frontEnds, mrising x.2.slots = true) ∧ sKey.ctl.halted = false ∧
    (3, queueA) ∈ (feA queueA).slots ∧ queueA.code = 0 := by decide +kernel
theorem witness_power : 0 ∉ sKey.ctl.cxlFailed ∧ mailboxOpen sKey = true ∧ sKey.ctl.owner = some .host ∧ sKey.ctl.hot = [] ∧ 2000 % 25 = 0 ∧
    (let cap := min sKey.ctl.capHost sKey.ctl.capBoard; cap < 3300 ∧ 40 < sKey.ctl.n) ∧
    (let s := { sKey with ctl := { sKey.ctl with n := 40 } }; let cap := min s.ctl.capHost s.ctl.capBoard; 100 * 3000 ≤ 95 * cap ∧ s.ctl.n < 50) := by decide +kernel

/-! ### Rounding and memory -/

theorem witness_rounding : fp16 ∈ [fp64, fp32, fp16, bf16] ∧ fp16.bias + fp16.mbits ≤ 25 ∧ (0 : Int) ≤ -3 + (25 : Nat) := by decide
theorem witness_home : memoryOk sKey ∧ inDoor sKey 0x5000 = false ∧ cxlLost sKey 0x5000 = false ∧ inDoor { sKey with worlds := [(1, { worldK with doorFrame := 0x8000 })] } 0x8018 = true := by
  unfold memoryOk; decide +kernel
theorem witness_step : memoryOk State.reset ∧ (match step State.reset with | .next _ => true | _ => false) = true := by unfold memoryOk; decide +kernel

end Sys2Proof.Tests
end

namespace Sys2Proof.Proofs.MemoryOk

/-! Every step keeps global memory canonical (O60). `f_ok` says that operation `f` of the model keeps `memoryOk`. Global memory changes where
bytes are put (`homePut`, `homePutRaw`, `setForm`) and where a range is filled (`fillRange`), and the laws of memory have these cases; all
other operations pass memory on, so their lemmas follow the branches and the calls of their definitions. The lemmas stand in the order of the
model's files; `exec_ok` puts them together by instruction and event. -/

open Sys2Proof Sys2Proof.Machine Sys2Proof.Laws

/-- An outcome's next state, if there is one, has canonical memory. -/
def outOk : Out → Prop
  | .next t => memoryOk t
  | _ => True

/-- What the next step executes it executes at a state with canonical memory, or has brought to one. -/
def todoOk : Todo → Prop
  | .run _ t => memoryOk t
  | .done o => outOk o

/-- The state of an operation that may refuse, if it does not, has canonical memory. -/
def optOk : Option State → Prop
  | some t => memoryOk t
  | none => True

theorem ite_ok {p : Prop} [Decidable p] {s t : State} (hs : memoryOk s) (ht : memoryOk t) : memoryOk (if p then s else t) := by
  split
  · exact hs
  · exact ht

theorem ite_out_ok {p : Prop} [Decidable p] {a b : Out} (ha : outOk a) (hb : outOk b) : outOk (if p then a else b) := by
  split
  · exact ha
  · exact hb

theorem ite_some_ok {p : Prop} [Decidable p] {s : State} (h : memoryOk s) : optOk (if p then some s else none) := by
  split
  · exact h
  · exact trivial

theorem ite_fst_ok {α : Type} {p : Prop} [Decidable p] {x y : State × α} (hx : memoryOk x.1) (hy : memoryOk y.1) :
    memoryOk (if p then x else y).1 := by
  split
  · exact hx
  · exact hy

theorem except_map_ok {ε α β : Type} {f : α → β} {x : Except ε α} {b : β} (e : x.map f = .ok b) : ∃ a, x = .ok a ∧ f a = b := by
  cases x with
  | error _ => cases e
  | ok a => exact ⟨a, rfl, Except.ok.inj e⟩

theorem foldl_ok {β : Type} {f : State → β → State} {l : List β} {s : State} (hf : ∀ {s b}, memoryOk s → memoryOk (f s b)) (h : memoryOk s) :
    memoryOk (l.foldl f s) :=
  foldl_keeps (P := memoryOk) (fun _ _ h => hf h) l h

theorem foldl_fst_ok {α β : Type} {f : State × α → β → State × α} {l : List β} {x : State × α}
    (hf : ∀ {x b}, memoryOk x.1 → memoryOk (f x b).1) (h : memoryOk x.1) : memoryOk (l.foldl f x).1 :=
  foldl_keeps (P := fun x : State × α => memoryOk x.1) (fun _ _ h => hf h) l h

theorem fst_ok {α : Type} {p : State × α} {s : State} {x : α} (e : p = (s, x)) (h : memoryOk p.1) : memoryOk s := by
  subst e; exact h

theorem some_ok {o : Option State} {s : State} (e : o = some s) (h : optOk o) : memoryOk s := by
  subst e; exact h

/-- An operation that leaves memory as it is keeps it canonical. -/
theorem same_mem_ok {s t : State} (e : t.mem = s.mem) (h : memoryOk s) : memoryOk t := by
  unfold memoryOk; rw [e]; exact h

section
variable {s : State}

/-! ### Mem -/

theorem settle_ok (h : memoryOk s) : memoryOk (settle s) :=
  settle_wf h

theorem requestLines_ok {agent pa n} (h : memoryOk s) : memoryOk (requestLines s agent pa n) :=
  same_mem_ok (requestLines_mem s agent pa n) h

theorem writeBack_ok {line} (h : memoryOk s) : memoryOk (writeBack s line) :=
  foldl_ok (fun h1 => ite_ok h1 h1) h

theorem drain_ok {id} (h : memoryOk s) : memoryOk (drain s id) :=
  same_mem_ok (drain_mem s id) h

theorem reach_ok {id agent} (h : memoryOk s) : memoryOk (reach s id agent) :=
  reach_wf h _ _

theorem seeBefore_ok {agent b} (h : memoryOk s) : memoryOk (seeBefore s agent b) :=
  seeBefore_wf h _ _

theorem fenceFull_ok {core scope} (h : memoryOk s) : memoryOk (fenceFull s core scope) :=
  fenceFull_wf h _ _

theorem flushBytes_ok {pa n} (h : memoryOk s) : memoryOk (flushBytes s pa n) :=
  flushBytes_wf h _ _

theorem storeWrite_ok {core world pa bs after} (h : memoryOk s) : memoryOk (storeWrite s core world pa bs after) :=
  same_mem_ok (storeWrite_mem s core world pa bs after) h

theorem homeWrite_ok {core world pa bs after} (h : memoryOk s) : memoryOk (homeWrite s core world pa bs after) :=
  same_mem_ok (homeWrite_mem s core world pa bs after) h

theorem engineWrite_ok {core world cores bs after} (h : memoryOk s) : memoryOk (engineWrite s core world cores bs after) :=
  engineWrite_wf h _ _ _ _ _

theorem deviceWrite_ok {world pa bs} (h : memoryOk s) : memoryOk (deviceWrite s world pa bs) :=
  deviceWrite_wf h _ _ _

theorem fillRange_ok {lo hi} (h : memoryOk s) : memoryOk (fillRange s lo hi) :=
  fillRange_wf h _ _

/-! ### Ops -/

theorem onGroup_ok {gid f} (h : memoryOk s) : memoryOk (onGroup s gid f) :=
  h

theorem onTeam_ok {tid f} (h : memoryOk s) : memoryOk (onTeam s tid f) :=
  h

theorem onCore_ok {k f} (h : memoryOk s) : memoryOk (onCore s k f) :=
  h

theorem onDie_ok {d f} (h : memoryOk s) : memoryOk (onDie s d f) :=
  h

theorem onPart_ok {p f} (h : memoryOk s) : memoryOk (onPart s p f) :=
  h

theorem report_ok {world cls kind index sub} (h : memoryOk s) : memoryOk (report s world cls kind index sub) :=
  report_wf h _ _ _ _ _

theorem noteCorrection_ok {world kind index sub} (h : memoryOk s) : memoryOk (noteCorrection s world kind index sub) :=
  ite_ok (report_ok h) h

theorem onQueue_ok {fe slot f} (h : memoryOk s) : memoryOk (onQueue s fe slot f) :=
  h

theorem stopIssue_ok {tids} (h : memoryOk s) : memoryOk (stopIssue s tids) :=
  h

theorem stopQueue_ok {fe slot code sub index} (h : memoryOk s) : memoryOk (stopQueue s fe slot code sub index) := by
  unfold stopQueue
  split
  · exact h
  · exact ite_ok h h

theorem stopContext_ok {gid c} (h : memoryOk s) : memoryOk (stopContext s gid c) := by
  unfold stopContext
  split
  · exact h
  split
  · exact h
  · exact ite_ok h (report_ok (stopQueue_ok h))

theorem takeTrap_ok {gid c T tpc taddr tinfo} (h : memoryOk s) : memoryOk (takeTrap s gid c T tpc taddr tinfo) := by
  unfold takeTrap
  split
  · exact h
  · exact ite_ok (stopContext_ok h) h

theorem setAnswer_ok {tids b} (h : memoryOk s) : memoryOk (setAnswer s tids b) :=
  h

theorem consumeError_ok {gid c T tpc taddr reason opInterval} (h : memoryOk s) : memoryOk (consumeError s gid c T tpc taddr reason opInterval) := by
  unfold consumeError
  split
  · exact h
  split
  · exact h
  · exact ite_ok (takeTrap_ok h) (ite_ok h (ite_ok h (takeTrap_ok h)))

theorem engineConsume_ok {gid c reason opInterval} (h : memoryOk s) : memoryOk (engineConsume s gid c reason opInterval) := by
  unfold engineConsume
  split
  · exact h
  split
  · exact h
  · exact ite_ok (consumeError_ok h) h

theorem reportConsumed_ok {gid cls kind index sub} (h : memoryOk s) : memoryOk (reportConsumed s gid cls kind index sub) := by
  unfold reportConsumed
  split
  · exact h
  · exact report_ok h

theorem consumeMemory_ok {gid e T tpc taddr pa reason opInterval} (h : memoryOk s) : memoryOk
    (consumeMemory s gid e T tpc taddr pa reason opInterval) := by
  unfold consumeMemory
  split
  · exact consumeError_ok (ite_ok (reportConsumed_ok h) (reportConsumed_ok h))
  · exact consumeError_ok (reportConsumed_ok h)
  · exact h

theorem logEntry_ok {tid e} (h : memoryOk s) : memoryOk (logEntry s tid e) := by
  unfold logEntry
  split
  · exact h
  · exact ite_ok h (ite_ok h h)

theorem logSlot_ok {tid sec} (h : memoryOk s) : memoryOk (logSlot s tid sec) := by
  unfold logSlot
  split
  · exact h
  · exact ite_ok h (logEntry_ok h)

theorem logArea_ok {tid obj} (h : memoryOk s) : memoryOk (logArea s tid obj) := by
  unfold logArea
  split
  · exact h
  · exact ite_ok h (logEntry_ok h)

theorem escape_ok {tid} (h : memoryOk s) : memoryOk (escape s tid) :=
  h

theorem spChange_ok {landing by_ tid o bs} (h : memoryOk s) : memoryOk (spChange s landing by_ tid o bs) := by
  refine ite_ok h ?_
  extract_lets secs logged offs stored hit spoilt kept
  have hl : memoryOk logged := foldl_ok (fun h1 => logSlot_ok h1) h
  have hs : memoryOk stored := ite_ok hl hl
  exact onTeam_ok (ite_ok hs hs)

theorem spWrite_ok {by_ tid o bs} (h : memoryOk s) : memoryOk (spWrite s by_ tid o bs) :=
  spChange_ok h

theorem spLand_ok {tid o bs} (h : memoryOk s) : memoryOk (spLand s tid o bs) :=
  spChange_ok h

theorem clearPresence_ok {tid sec} (h : memoryOk s) : memoryOk (clearPresence s tid sec) :=
  onTeam_ok (logSlot_ok h)

theorem dropL1_ok {core world} (h : memoryOk s) : memoryOk (dropL1 s core world) :=
  h

theorem acquireAt_ok {core world scope} (h : memoryOk s) : memoryOk (acquireAt s core world scope) :=
  ite_ok h h

theorem addRel_ok {tid lo n after} (h : memoryOk s) : memoryOk (addRel s tid lo n after) :=
  ite_ok h h

theorem observe_ok {tid lo n cores} (h : memoryOk s) : memoryOk (observe s tid lo n cores) := by
  unfold observe
  split
  · exact h
  · exact foldl_ok (fun h1 => dropL1_ok (seeBefore_ok h1)) h

theorem releaseTeam_ok {tid p} (h : memoryOk s) : memoryOk (releaseTeam s tid p) :=
  h

theorem updateObj_ok {tid o f} (h : memoryOk s) : memoryOk (updateObj s tid o f) := by
  unfold updateObj
  dsimp only
  split
  · exact logArea_ok h
  · exact ite_ok (releaseTeam_ok (observe_ok (onTeam_ok (logArea_ok h)))) (onTeam_ok (logArea_ok h))

theorem setPresence_ok {tid sec} (h : memoryOk s) : memoryOk (setPresence s tid sec) :=
  onTeam_ok (logSlot_ok h)

theorem newInterval_ok {tid} (h : memoryOk s) : memoryOk (newInterval s tid) :=
  h

theorem onImage_ok {gid p f} (h : memoryOk s) : memoryOk (onImage s gid p f) := by
  unfold onImage
  split <;> exact h

theorem takeImage_image_ok {tid} (h : memoryOk s) : memoryOk (takeImage.image tid s) :=
  h

theorem takeImage_ok {tid} (h : memoryOk s) : memoryOk (takeImage s tid) := by
  unfold takeImage
  split
  · exact h
  split
  · exact h
  split
  · exact ite_ok (onTeam_ok (consumeError_ok h)) (takeImage_image_ok (consumeError_ok h))
  · exact h

theorem takeImages_ok (h : memoryOk s) : memoryOk (takeImages s) :=
  foldl_ok (fun h1 => takeImage_ok h1) h

theorem endWord_ok {c g full vals} (h : memoryOk s) : memoryOk (endWord s c g full vals) :=
  takeImages_ok h

theorem withWord_ok {k} (h : memoryOk s) (hk : ∀ {s x y z}, memoryOk s → memoryOk (k s x y z)) : memoryOk (withWord s k) := by
  unfold withWord
  split
  · dsimp only
    split
    · exact h
    split
    · exact h
    · exact hk h
  · exact h

/-! ### Operands -/

theorem correctRegs_ok {gid g world reads} (h : memoryOk s) : memoryOk (correctRegs s gid g world reads).1 :=
  foldl_ok (fun h1 => noteCorrection_ok h1) h

theorem readRegs_ok {c g t reads k} (h : memoryOk s) (hk : ∀ {s x}, memoryOk s → memoryOk (k s x)) : memoryOk (readRegs s c g t reads k) := by
  unfold readRegs
  split
  · exact hk h
  split
  next e =>
  have h1 := fst_ok e (correctRegs_ok h)
  dsimp only
  split
  · exact hk h1
  · exact consumeError_ok (reportConsumed_ok h1)

theorem issueWord_ok {pg pn n regs k} (h : memoryOk s) (hk : ∀ {s x y z u}, memoryOk s → memoryOk (k s x y z u)) : memoryOk
    (issueWord s pg pn n regs k) := by
  unfold issueWord
  refine withWord_ok h fun h1 => ?_
  split
  · exact takeTrap_ok h1
  · exact readRegs_ok h1 fun h2 => hk h2

theorem diverge_ok {c g t cl} (h : memoryOk s) : memoryOk (diverge s c g t cl) :=
  consumeError_ok (reportConsumed_ok h)

theorem writeLanes_ok {o once nw c g cl} (h : memoryOk s) : memoryOk (writeLanes o once nw s c g cl) :=
  endWord_ok h

theorem runLanes_ok {o once nw c g t cl} (h : memoryOk s) : memoryOk (runLanes o once nw s c g t cl) :=
  ite_ok (endWord_ok h) (ite_ok (writeLanes_ok h) (ite_ok (diverge_ok h) (ite_ok (writeLanes_ok h) (ite_ok (diverge_ok h) (writeLanes_ok h)))))

theorem endResult_ok {c g cl d once nw x} (h : memoryOk s) : memoryOk (endResult s c g cl d once nw x) :=
  ite_ok (endWord_ok h) (endWord_ok h)

theorem runAlu_ok {f o} (h : memoryOk s) : outOk (runAlu f o s) :=
  issueWord_ok h fun h1 => runLanes_ok h1

theorem runAluI_ok {f o} (h : memoryOk s) : outOk (runAluI f o s) :=
  issueWord_ok h fun h1 => runLanes_ok h1

theorem runSlot_finish_ok {c slot r0 g r} (h : memoryOk s) : memoryOk (runSlot.finish s c slot r0 g r) :=
  ite_ok h (endWord_ok h)

theorem runSlot_ok {check r} (h : memoryOk s) : outOk (runSlot check r s) := by
  unfold runSlot
  split
  · dsimp only
    split
    · exact h
    split
    · exact runSlot_finish_ok h
    split
    · split
      · exact h
      · exact diverge_ok h
    · exact runSlot_finish_ok h
  · exact h

theorem runSlotOp_ok {f fn} (h : memoryOk s) : outOk (runSlotOp f fn s) :=
  runSlot_ok h

theorem runSlotFp_ok {check f fn} (h : memoryOk s) : outOk (runSlotFp check f fn s) :=
  runSlot_ok h

/-! ### Integer -/

theorem execV2p_ok {f} (h : memoryOk s) : outOk (execV2p f s) :=
  issueWord_ok h fun h1 => endWord_ok h1

/-! ### Arith -/

theorem withSlot_ok {f slot mk} (h : memoryOk s) : outOk (withSlot f slot mk s) := by
  unfold withSlot
  split
  · split
    · exact runAlu_ok h
    · exact h
  · exact h

/-! ### Pools -/

theorem serveGo_ok {fuel tid} (h : memoryOk s) : memoryOk (serveGo fuel s tid) := by
  induction fuel generalizing s with
  | zero => exact h
  | succ fuel ih =>
    unfold serveGo
    split
    · exact h
    split
    · exact h
    split
    · exact h
    · refine ih ?_
      split <;> exact h

theorem serveClaims_ok {tid} (h : memoryOk s) : memoryOk (serveClaims s tid) :=
  serveGo_ok h

theorem serveAll_ok (h : memoryOk s) : memoryOk (serveAll s) :=
  foldl_ok (fun h1 => ite_ok h1 (serveClaims_ok h1)) h

theorem tryGive_ok {gid} (h : memoryOk s) : memoryOk (tryGive s gid) := by
  unfold tryGive
  split
  · exact h
  split
  · exact h
  · exact ite_ok h (serveAll_ok h)

/-! ### Read -/

theorem correctScratch_ok {tid o n} (h : memoryOk s) : memoryOk (correctScratch s tid o n) := by
  unfold correctScratch
  split
  · exact h
  · exact ite_ok h (foldl_ok (fun h1 => noteCorrection_ok h1) h)

/-! ### Exit -/

theorem reapGroup_ok {gid} (h : memoryOk s) : memoryOk (reapGroup s gid) := by
  unfold reapGroup
  split
  · exact h
  · exact ite_ok h h

theorem teamEnded_ok {t} (h : memoryOk s) : memoryOk (teamEnded s t) :=
  ite_ok h h

theorem storeCopies_ok {tid t} (h : memoryOk s) : memoryOk (storeCopies s tid t) := by
  unfold storeCopies
  dsimp only
  refine foldl_ok (fun h1 => ?_) h
  split
  · exact engineWrite_ok h1
  · exact h1

theorem endTeam_ok {tid} (h : memoryOk s) : memoryOk (endTeam s tid) := by
  unfold endTeam
  split
  · exact h
  · exact serveAll_ok (foldl_ok (fun h1 => reapGroup_ok h1) (teamEnded_ok (storeCopies_ok h)))

theorem endGroup_ok {gid} (h : memoryOk s) : memoryOk (endGroup s gid) := by
  unfold endGroup
  split
  · exact h
  · exact ite_ok h (serveAll_ok (ite_ok h (endTeam_ok h)))

theorem exitLanes_ok {gid m} (h : memoryOk s) : memoryOk (exitLanes s gid m) := by
  unfold exitLanes
  split
  · exact h
  split
  · exact h
  · exact takeImages_ok (endGroup_ok (foldl_ok (fun h1 => updateObj_ok h1) h))

theorem raiseDivergence_ok {gid key m tpc} (h : memoryOk s) : memoryOk (raiseDivergence s gid key m tpc) := by
  unfold raiseDivergence
  split
  · exact h
  split
  · exact h
  · exact consumeError_ok (reportConsumed_ok h)

theorem exitAfterWait_ok {gid m} (h : memoryOk s) : memoryOk (exitAfterWait s gid m) := by
  unfold exitAfterWait
  refine foldl_ok (fun h1 => ?_) h
  split
  · exact h1
  split
  · exact h1
  · exact exitLanes_ok h1

theorem releaseConv_ok {key} (h : memoryOk s) : memoryOk (releaseConv s key) := by
  unfold releaseConv
  refine foldl_ok (fun h1 => ?_) h
  split
  · exact h1
  · exact ite_ok h1 (ite_ok (exitAfterWait_ok h1) (ite_ok (raiseDivergence_ok h1) (raiseDivergence_ok (ite_ok h1 h1))))

/-! ### Control -/

theorem transfer_ok {c g cl tgt k} (h : memoryOk s) (hk : ∀ {x0}, memoryOk (k x0)) : memoryOk (transfer s c g cl tgt k) :=
  ite_ok (takeTrap_ok h) hk

theorem execNop_ok {f} (h : memoryOk s) : outOk (execNop f s) :=
  issueWord_ok h fun h1 => endWord_ok h1

theorem execBra_ok {f} (h : memoryOk s) : outOk (execBra f s) :=
  issueWord_ok h fun h1 => transfer_ok h1 (endWord_ok h1)

theorem indirect_ok {f} (h : memoryOk s) : memoryOk (indirect f s) :=
  issueWord_ok h fun h1 => transfer_ok h1 (endWord_ok h1)

theorem callWith_ok {f o tgt} (h : memoryOk s) : memoryOk (callWith f o tgt s) :=
  issueWord_ok h fun h1 => transfer_ok h1 (endResult_ok h1)

theorem meetWith_ok {f o mr} (h : memoryOk s) : memoryOk (meetWith f o mr s) :=
  issueWord_ok h fun h1 => endWord_ok h1

theorem execExit_ok {f} (h : memoryOk s) : outOk (execExit f s) :=
  issueWord_ok h fun h1 => ite_ok (takeTrap_ok h1) (exitLanes_ok (endWord_ok h1))

theorem execYield_ok {f} (h : memoryOk s) : outOk (execYield f s) :=
  issueWord_ok h fun h1 => endWord_ok h1

theorem execRgive_ok {f} (h : memoryOk s) : outOk (execRgive f s) :=
  withWord_ok h fun h1 =>
    ite_ok (takeTrap_ok h1) (readRegs_ok h1 fun h2 => ite_ok (takeTrap_ok h2) (ite_ok (endWord_ok h2) (tryGive_ok (endWord_ok h2))))

theorem execRclaim_ok {f} (h : memoryOk s) : outOk (execRclaim f s) :=
  withWord_ok h fun h1 =>
    ite_ok (takeTrap_ok h1) (readRegs_ok h1 fun h2 => ite_ok (takeTrap_ok h2) (ite_ok (endWord_ok h2) (serveClaims_ok (onTeam_ok (endWord_ok h2)))))

/-! ### GroupOps -/

theorem voteWith_ok {f fn} (h : memoryOk s) : outOk (voteWith f fn s) :=
  issueWord_ok h fun h1 => endWord_ok h1

theorem execVoteBallot_ok {f} (h : memoryOk s) : outOk (execVoteBallot f s) :=
  issueWord_ok h fun h1 => endResult_ok h1

theorem execShfl_ok {f} (h : memoryOk s) : outOk (execShfl f s) :=
  issueWord_ok h fun h1 => endResult_ok h1

theorem execMatchAny_ok {f} (h : memoryOk s) : outOk (execMatchAny f s) :=
  issueWord_ok h fun h1 => endResult_ok h1

theorem execMatchAll_ok {f} (h : memoryOk s) : outOk (execMatchAll f s) :=
  issueWord_ok h fun h1 => endResult_ok h1

theorem execElect_ok {f} (h : memoryOk s) : outOk (execElect f s) :=
  issueWord_ok h fun h1 => endWord_ok h1

theorem execGred_ok {f} (h : memoryOk s) : outOk (execGred f s) :=
  issueWord_ok h fun h1 => endResult_ok h1

theorem execSread_ok {f} (h : memoryOk s) : outOk (execSread f s) :=
  issueWord_ok h fun h1 => endResult_ok h1

/-! ### Translate -/

theorem lookupTrans_ok {core part space va kind} (h : memoryOk s) : memoryOk (lookupTrans s core part space va kind).1 := by
  unfold lookupTrans
  split
  · exact h
  dsimp only
  split <;> exact h

theorem pageState_ok {g t page kind} (h : memoryOk s) : memoryOk (pageState s g t page kind).1 := by
  unfold pageState
  split
  · exact h
  split
  next e => exact fst_ok e (lookupTrans_ok h)
  next e => exact fst_ok e (lookupTrans_ok h)

theorem pageStates_ok {g t kind vas} (h : memoryOk s) : memoryOk (pageStates s g t kind vas).1 :=
  foldl_fst_ok (fun h1 => pageState_ok h1) h

theorem trapLowest_ok {c fs} (h : memoryOk s) : memoryOk (trapLowest s c fs) := by
  unfold trapLowest
  split
  · exact h
  dsimp only
  split
  · exact h
  · exact takeTrap_ok h

theorem withPagesOr_ok {c pre who kind k} (h : memoryOk s) (hk : ∀ {s x y}, memoryOk s → memoryOk (k s x y)) : memoryOk
    (withPagesOr s c pre who kind k) := by
  unfold withPagesOr
  split
  · exact h
  split
  · exact h
  · exact ite_ok (onGroup_ok (pageStates_ok h)) (ite_ok (trapLowest_ok (pageStates_ok h)) (hk (pageStates_ok h)))

theorem withPages_ok {c who kind k} (h : memoryOk s) (hk : ∀ {s x y}, memoryOk s → memoryOk (k s x y)) : memoryOk (withPages s c who kind k) :=
  withPagesOr_ok h fun h1 => hk h1

/-! ### Access -/

theorem consumeScratch_ok {gid t o m pc opInterval} (h : memoryOk s) : memoryOk (consumeScratch s gid t o m pc opInterval) :=
  consumeError_ok (reportConsumed_ok h)

theorem keepResult_ok {gid key l x} (h : memoryOk s) : memoryOk (keepResult s gid key l x) := by
  unfold keepResult
  split <;> exact h

theorem spRead_ok {gid tid t x} (h : memoryOk s) : memoryOk (spRead s gid tid t x) := by
  unfold spRead
  split
  · exact h
  dsimp only
  split
  · exact acquireAt_ok (correctScratch_ok (seeBefore_ok h))
  · exact correctScratch_ok (seeBefore_ok h)

theorem spDo_ok {gid tid x} (h : memoryOk s) : memoryOk (spDo s gid tid x) := by
  unfold spDo
  split
  · exact h
  dsimp only
  split
  · exact addRel_ok (spWrite_ok h)
  · exact onGroup_ok (keepResult_ok (spRead_ok h))
  · exact onGroup_ok (spRead_ok h)
  · refine onGroup_ok ?_
    refine keepResult_ok ?_
    split
    · exact addRel_ok (spWrite_ok (spRead_ok h))
    · exact spRead_ok h

theorem spWake_ok {gid tid x} (h : memoryOk s) : memoryOk (spWake s gid tid x) := by
  unfold spWake
  split
  · exact h
  · exact h
  · dsimp only
    split
    · exact h
    split
    · exact consumeScratch_ok h
    refine onGroup_ok ?_
    refine spDo_ok ?_
    split
    · exact observe_ok h
    · exact h

theorem wakeSector_ok {tid sec} (h : memoryOk s) : memoryOk (wakeSector s tid sec) :=
  foldl_ok (fun h1 => ite_ok (foldl_ok (fun h2 => spWake_ok h2) h1) h1) h

theorem present_ok {tid sec} (h : memoryOk s) : memoryOk (present s tid sec) :=
  wakeSector_ok (setPresence_ok h)

theorem blockOnce_ok {c g cl sec full} (h : memoryOk s) : memoryOk (blockOnce s c g cl sec full) := by
  unfold blockOnce
  split
  · exact h
  · exact endWord_ok h

theorem endOnce_ok {c g full vals} (h : memoryOk s) : memoryOk (endOnce s c g full vals) := by
  unfold endOnce
  split
  · exact endWord_ok h
  · exact takeImages_ok h

theorem spRun_ok {gid tid xs} (h : memoryOk s) : memoryOk (spRun s gid tid xs) := by
  unfold spRun
  refine foldl_ok (fun h1 => ?_) h
  split
  · exact h1
  split
  · exact h1
  · exact spDo_ok h1

theorem pieceCorrections_ok {world ps} (h : memoryOk s) : memoryOk (pieceCorrections s world ps) :=
  foldl_ok (fun h1 => ite_ok (noteCorrection_ok h1) h1) h

theorem fillSector_ok {core world sec} (h : memoryOk s) : memoryOk (fillSector s core world sec) :=
  h

theorem fillL2_ok {line cls} (h : memoryOk s) : memoryOk (fillL2 s line cls) := by
  unfold fillL2
  dsimp only
  split
  · exact onDie_ok h
  split
  · refine onDie_ok ?_
    split
    · exact ite_ok (writeBack_ok h) h
    · exact h
  · exact h

theorem useL2_ok {core pa} (h : memoryOk s) : memoryOk (useL2 s core pa) :=
  ite_ok (fillL2_ok h) h

theorem touchL1_ok {core world cached pa n} (h : memoryOk s) : memoryOk (touchL1 s core world cached pa n) :=
  ite_ok h (ite_ok (fillSector_ok (useL2_ok (requestLines_ok (ite_ok h h)))) (requestLines_ok (ite_ok h h)))

theorem onFlight_ok {gid id f} (h : memoryOk s) : memoryOk (onFlight s gid id f) :=
  h

theorem performLane_ok {gid id l} (h : memoryOk s) : memoryOk (performLane s gid id l) := by
  unfold performLane
  split
  · exact h
  split
  · exact h
  · exact ite_ok (onFlight_ok (foldl_ok (fun h1 => touchL1_ok h1) h)) (onFlight_ok (foldl_ok (fun h1 => touchL1_ok h1) h))

theorem performUpTo_ok {gid id last} (h : memoryOk s) : memoryOk (performUpTo s gid id last) := by
  unfold performUpTo
  split
  · exact h
  · exact foldl_ok (fun h1 => performLane_ok h1) h

theorem atomicLane_ok {gid core x l} (h : memoryOk s) : memoryOk (atomicLane s gid core x l) := by
  unfold atomicLane
  split
  · exact h
  split
  · exact h
  split
  · exact h
  dsimp only
  split
  · exact onFlight_ok (foldl_ok (fun h1 => drain_ok h1) h)
  split
  · exact homeWrite_ok (onFlight_ok (foldl_ok (fun h1 => drain_ok h1) h))
  · exact onFlight_ok (foldl_ok (fun h1 => drain_ok h1) h)

theorem seeLatest_ok {core world ps} (h : memoryOk s) : memoryOk (seeLatest s core world ps) :=
  foldl_ok (fun h1 => h1) (foldl_ok (fun h1 => reach_ok h1) h)

theorem atomicAt_ok {gid id l} (h : memoryOk s) : memoryOk (atomicAt s gid id l) := by
  unfold atomicAt
  split
  · exact h
  split
  · exact h
  · exact atomicLane_ok (seeLatest_ok h)

theorem performAtomic_ok {gid id} (h : memoryOk s) : memoryOk (performAtomic s gid id) := by
  unfold performAtomic
  split
  · exact h
  next x _ =>
    have h1 : memoryOk (x.parts.foldl (fun s p => atomicAt s gid id p.lane) s) := foldl_ok (fun h => atomicAt_ok h) h
    exact ite_ok h h1

theorem performFlight_ok {gid id} (h : memoryOk s) : memoryOk (performFlight s gid id) := by
  unfold performFlight
  split
  · exact h
  split
  · exact onFlight_ok (performUpTo_ok h)
  · exact performAtomic_ok h

theorem performWhere_ok {gid p} (h : memoryOk s) : memoryOk (performWhere s gid p) := by
  unfold performWhere
  split
  · exact h
  · exact foldl_ok (fun h1 => performFlight_ok h1) h

theorem performOverlapping_ok {gid ps} (h : memoryOk s) : memoryOk (performOverlapping s gid ps) :=
  performWhere_ok h

theorem performAll_ok {gid} (h : memoryOk s) : memoryOk (performAll s gid) :=
  performWhere_ok h

theorem launchFlight_ok {gid x} (h : memoryOk s) : memoryOk (launchFlight s gid x) :=
  h

theorem checkedRead_ok {c t T parts inject k} (h : memoryOk s) (hk : ∀ {s}, memoryOk s → memoryOk (k s)) : memoryOk
    (checkedRead s c t T parts inject k) := by
  unfold checkedRead
  dsimp only
  split
  · exact consumeMemory_ok h
  · exact consumeMemory_ok h
  · split
    · split
      · split
        · exact consumeMemory_ok h
        · exact hk h
      · exact hk h
    · exact hk (foldl_ok (fun h1 => pieceCorrections_ok h1) h)

theorem checkedOnce_ok {c t cl ps k} (h : memoryOk s) (hk : ∀ {s}, memoryOk s → memoryOk (k s)) : memoryOk (checkedOnce s c t cl ps k) := by
  unfold checkedOnce
  split
  · exact hk (pieceCorrections_ok h)
  · exact consumeMemory_ok h

theorem captureCopies_ok {gid g t cl} (h : memoryOk s) : memoryOk (captureCopies s gid g t cl) :=
  ite_ok h h

theorem beforeRelease_ok {gid g t cl} (h : memoryOk s) : memoryOk (beforeRelease s gid g t cl) :=
  captureCopies_ok (performAll_ok h)

/-! ### Twin -/

theorem afterEntries_ok {c g t at_ k} (h : memoryOk s) (hk : memoryOk k) : memoryOk (afterEntries s c g t at_ k) :=
  ite_ok h hk

theorem pairOp_ok {c g t at_ records key k} (h : memoryOk s) (hk : ∀ {s x y}, memoryOk s → memoryOk (k s x y)) : memoryOk
    (pairOp s c g t at_ records key k) := by
  unfold pairOp
  split
  · exact hk h
  dsimp only
  split
  · exact ite_ok (hk h) h
  · exact h

/-! ### Memory -/

theorem loadScratch_ok {f acq n once d as c g t cl} (h : memoryOk s) : memoryOk (loadScratch f acq n once d as s c g t cl) := by
  unfold loadScratch
  refine ite_ok h (afterEntries_ok h (ite_ok (consumeScratch_ok h) ?_))
  split
  · exact consumeScratch_ok h
  · exact spRun_ok (endWord_ok h)

theorem loadWord_ok {f acq spc n} (h : memoryOk s) : memoryOk (loadWord f acq spc n s) :=
  issueWord_ok h fun h1 =>
    ite_ok (endWord_ok h1)
    (ite_ok (trapLowest_ok h1)
    (ite_ok (loadScratch_ok h1) (withPages_ok h1 fun h2 => afterEntries_ok h2 (checkedRead_ok h2 fun h3 => launchFlight_ok (endWord_ok h3)))))

theorem storeOne_ok {core world uncached pa bs after} (h : memoryOk s) : memoryOk (storeOne s core world uncached pa bs after) :=
  ite_ok (settle_ok (drain_ok (storeWrite_ok h))) (storeWrite_ok h)

theorem storePieces_ok {core world plain uncached after bs ps} (h : memoryOk s) : memoryOk (storePieces s core world plain uncached after bs ps) :=
  ite_ok (foldl_ok (fun h1 => h1) h) (foldl_fst_ok (fun h1 => storeOne_ok h1) h)

theorem mirrorStore_ok {gid g world ps} (h : memoryOk s) : memoryOk (mirrorStore s gid g world ps) :=
  foldl_ok (fun h1 => h1) (foldl_ok (fun h1 => reach_ok h1) (performOverlapping_ok h))

theorem storeWord_ok {f rel} (h : memoryOk s) : memoryOk (storeWord f rel s) := by
  unfold storeWord
  refine issueWord_ok h fun h1 => ite_ok (endWord_ok h1) (ite_ok (trapLowest_ok h1) (ite_ok ?_ ?_))
  · refine pairOp_ok h1 fun h2 => ?_
    split
    next s2 _ e =>
    have h3 : memoryOk s2 := by
      split at e
      · cases e; exact beforeRelease_ok h2
      · cases e; exact h2
    exact spRun_ok (endWord_ok h3)
  · refine withPages_ok h1 fun h2 => pairOp_ok h2 fun h3 => ite_ok (endWord_ok (ite_ok (mirrorStore_ok h3) (mirrorStore_ok h3))) ?_
    split
    next s2 _ e =>
    have h4 : memoryOk s2 := by
      split at e
      · cases e; exact beforeRelease_ok h3
      · cases e; exact performOverlapping_ok h3
    extract_lets g1 s3 s4
    have h5 : memoryOk s3 := foldl_ok (fun h => storePieces_ok h) h4
    have h6 : memoryOk s4 := ite_ok (keepResult_ok h5) h5
    exact endWord_ok (ite_ok h6 h6)

theorem placeAtomic_ok {gid core flight cached parts} (h : memoryOk s) : memoryOk (placeAtomic s gid core flight cached parts) :=
  foldl_ok (fun h1 => ite_ok (onCore_ok (requestLines_ok h1)) h1) h

theorem atomicWord_ok {f x noRes} (h : memoryOk s) : memoryOk (atomicWord f x noRes s) := by
  unfold atomicWord
  refine issueWord_ok h fun h1 => ite_ok (endWord_ok h1) (ite_ok (trapLowest_ok h1) (ite_ok ?_ ?_))
  · refine pairOp_ok h1 fun h2 => ite_ok (consumeScratch_ok h2) ?_
    split
    · exact consumeScratch_ok h2
    · split
      next s2 _ e =>
      have h3 : memoryOk s2 := fst_ok e (ite_fst_ok (beforeRelease_ok h2) h2)
      exact spRun_ok (escape_ok (endWord_ok h3))
  · refine withPages_ok h1 fun h2 => checkedRead_ok h2 fun h3 => pairOp_ok h3 fun h4 => ?_
    split
    next s2 _ e =>
    have h5 : memoryOk s2 := fst_ok e (ite_fst_ok (beforeRelease_ok h4) h4)
    extract_lets g1
    split
    extract_lets fl s3
    have h6 : memoryOk s3 := launchFlight_ok (escape_ok (endWord_ok h5))
    exact ite_ok h6 (placeAtomic_ok h6)

theorem fenceLanes_ok {gid cl before} (h : memoryOk s) : memoryOk (fenceLanes s gid cl before) :=
  h

theorem fenceWord_ok {c g t cl scope} (h : memoryOk s) : memoryOk (fenceWord s c g t cl scope) :=
  escape_ok (fenceLanes_ok (beforeRelease_ok h))

theorem execFence_ok {f} (h : memoryOk s) : outOk (execFence f s) := by
  refine issueWord_ok h fun h1 => ite_ok (endWord_ok h1) ?_
  extract_lets kind scope released fenced acquired escaped lanes
  have hr : memoryOk released := beforeRelease_ok h1
  have hf : memoryOk fenced := ite_ok (fenceFull_ok hr) hr
  have ha : memoryOk acquired := ite_ok hf (acquireAt_ok hf)
  have he : memoryOk escaped := ite_ok ha (escape_ok ha)
  exact endWord_ok (ite_ok he (fenceLanes_ok he))

theorem cctlWord_ok {f act} (h : memoryOk s) (hact : ∀ {s x y z}, memoryOk s → memoryOk (act s x y z)) : memoryOk (cctlWord f act s) :=
  issueWord_ok h fun h1 => ite_ok (trapLowest_ok h1) (withPages_ok h1 fun h2 => endWord_ok (hact h2))

theorem execCctlIvl1_ok {f} (h : memoryOk s) : outOk (execCctlIvl1 f s) :=
  cctlWord_ok h fun h1 => h1

theorem execCctlIvl1All_ok {f} (h : memoryOk s) : outOk (execCctlIvl1All f s) :=
  issueWord_ok h fun h1 => endWord_ok (ite_ok h1 h1)

theorem execCctlDemote_ok {f} (h : memoryOk s) : outOk (execCctlDemote f s) :=
  cctlWord_ok h fun h1 => foldl_ok (fun h2 => ite_ok h2 h2) h1

theorem fillLine_ok {core world line} (h : memoryOk s) : memoryOk (fillLine s core world line) :=
  foldl_ok (fun h1 => touchL1_ok h1) h

theorem execPrf_prefetch_ok {core world line attrs lvl} (h : memoryOk s) : memoryOk (execPrf.prefetch s core world line attrs lvl) :=
  ite_ok h (ite_ok (fillLine_ok (fillL2_ok h)) (fillL2_ok h))

theorem execPrf_ok {f} (h : memoryOk s) : outOk (execPrf f s) := by
  unfold execPrf
  dsimp only
  refine issueWord_ok h fun h1 => ?_
  refine endWord_ok ?_
  refine foldl_ok (fun h2 => ?_) h1
  split
  · exact h2
  split
  · exact execPrf_prefetch_ok h2
  · exact h2

theorem execIflush_ok {f} (h : memoryOk s) : outOk (execIflush f s) :=
  issueWord_ok h fun h1 => endWord_ok (foldl_ok (fun h2 => h2) h1)

theorem execIsync_ok {f} (h : memoryOk s) : outOk (execIsync f s) :=
  issueWord_ok h fun h1 => endWord_ok h1

theorem presWord_ok {f k} (h : memoryOk s) (hk : ∀ {s x y z u v}, memoryOk s → memoryOk (k s x y z u v)) : memoryOk (presWord f k s) :=
  issueWord_ok h fun h1 => ite_ok (trapLowest_ok h1) (hk h1)

theorem execPresTest_ok {f} (h : memoryOk s) : outOk (execPresTest f s) :=
  presWord_ok h fun h1 => endWord_ok (foldl_ok (fun h2 => seeBefore_ok h2) h1)

theorem execPresSet_ok {f} (h : memoryOk s) : outOk (execPresSet f s) :=
  presWord_ok h fun h1 => ite_ok (endWord_ok h1) (foldl_ok (fun h2 => ite_ok h2 (present_ok (addRel_ok h2))) (endWord_ok (beforeRelease_ok h1)))

theorem execPresClr_ok {f} (h : memoryOk s) : outOk (execPresClr f s) :=
  presWord_ok h fun h1 => endWord_ok (foldl_ok (fun h2 => ite_ok h2 (clearPresence_ok h2)) h1)

/-! ### Coherence -/

theorem onNougat_ok {y f} (h : memoryOk s) : memoryOk (onNougat s y f) :=
  h

theorem onAlm_ok {line f} (h : memoryOk s) : memoryOk (onAlm s line f) :=
  h

theorem freeAlm_ok {line} (h : memoryOk s) : memoryOk (freeAlm s line) :=
  h

theorem onL2For_ok {die line f} (h : memoryOk s) : memoryOk (onL2For s die line f) :=
  onDie_ok (ite_ok (fillL2_ok h) h)

theorem onL2_ok {line f} (h : memoryOk s) : memoryOk (onL2 s line f) :=
  onL2For_ok h

theorem sendMsg_ok {m} (h : memoryOk s) : memoryOk (sendMsg s m) :=
  h

theorem releaseHome_ok {line evict} (h : memoryOk s) : memoryOk (releaseHome s line evict) := by
  unfold releaseHome
  split
  · exact h
  · exact ite_ok (onDie_ok (ite_ok (writeBack_ok h) h)) (onL2_ok h)

theorem freeEntry_ok {line evict} (h : memoryOk s) : memoryOk (freeEntry s line evict) :=
  h

theorem sendInv_ok {line m} (h : memoryOk s) : memoryOk (sendInv s line m) :=
  foldl_ok (fun h1 => h1) h

theorem resolveCopy_ok {r e} (h : memoryOk s) : memoryOk (resolveCopy s r e) := by
  unfold resolveCopy
  dsimp only
  split
  · exact ite_ok (onL2_ok h) (ite_ok h h)
  split
  · exact h
  · exact ite_ok (sendInv_ok h) (sendInv_ok h)
  · exact h
  · exact ite_ok h h
  · exact h
  · exact ite_ok (sendInv_ok h) (sendInv_ok h)
  · exact h

theorem sendWak_ok {line src dst} (h : memoryOk s) : memoryOk (sendWak s line src dst) :=
  h

theorem resolveWbd_ok {r e} (h : memoryOk s) : memoryOk (resolveWbd s r e) := by
  unfold resolveWbd
  dsimp only
  split
  · exact ite_ok (ite_ok h h) h
  · exact h

theorem resolveEvc_ok {r e} (h : memoryOk s) : memoryOk (resolveEvc s r e) := by
  unfold resolveEvc
  dsimp only
  split
  · exact ite_ok h (ite_ok h h)
  · exact h

theorem startRecall_ok {a r} (h : memoryOk s) : memoryOk (startRecall s a r) :=
  foldl_ok (fun h1 => h1) h

theorem makeRoom_ok {line} (h : memoryOk s) : memoryOk (makeRoom s line) := by
  unfold makeRoom
  dsimp only
  split
  · exact h
  split
  · exact startRecall_ok h
  · exact h

theorem closeTxn_ok {line} (h : memoryOk s) : memoryOk (closeTxn s line) := by
  unfold closeTxn
  split
  · exact h
  split
  · exact h
  dsimp only
  split
  · refine freeEntry_ok ?_
    refine onAlm_ok ?_
    split
    · exact ite_ok (ite_ok (onL2_ok h) h) h
    · exact h
  · refine onAlm_ok ?_
    split
    · exact ite_ok (ite_ok (onL2_ok h) h) h
    · exact h

theorem resolve_ok {r} (h : memoryOk s) : memoryOk (resolve s r) := by
  unfold resolve
  dsimp only
  split
  · exact resolveCopy_ok h
  · exact resolveCopy_ok h
  · exact closeTxn_ok (resolveCopy_ok h)
  · exact resolveWbd_ok h
  · exact resolveEvc_ok h
  · split
    · exact startRecall_ok h
    · exact h

theorem serveWaiting_ok {y} (h : memoryOk s) : memoryOk (serveWaiting s y) :=
  foldl_ok (fun h1 => ite_ok h1 (ite_ok (ite_ok (makeRoom_ok h1) h1) (resolve_ok h1))) h

theorem arrive_ok {r} (h : memoryOk s) : memoryOk (arrive s r) :=
  ite_ok h (serveWaiting_ok h)

theorem finish_ok {line} (h : memoryOk s) : memoryOk (finish s line) :=
  serveWaiting_ok (closeTxn_ok h)

theorem cohRequest_ok {kind sends} (h : memoryOk s) : outOk (cohRequest kind sends s) := by
  unfold cohRequest
  split
  · exact ite_ok (arrive_ok h) h
  · exact h

theorem evict_ok {kind may} (h : memoryOk s) : outOk (evict kind may s) := by
  unfold evict
  split
  · split
    · exact ite_ok (arrive_ok h) h
    · exact h
  · exact h

theorem recordSpill_ok {line mask} (h : memoryOk s) : optOk (recordSpill s line mask) := by
  unfold recordSpill
  dsimp only
  split
  · exact h
  split
  · exact h
  · exact trivial

theorem retrySpills_ok {die} (h : memoryOk s) : memoryOk (retrySpills s die) := by
  refine foldl_ok (fun h1 => ?_) h
  split
  next e =>
    have h2 := some_ok e (recordSpill_ok h1)
    exact onL2_ok h2
  · exact h1

theorem unspill_ok {line} (h : memoryOk s) : memoryOk (unspill s line) :=
  retrySpills_ok (onL2_ok h)

theorem probe_ok {line} (h : memoryOk s) : memoryOk (probe s line) := by
  unfold probe
  split
  · exact h
  split
  · exact foldl_ok (fun h1 => h1) h
  · exact unspill_ok h

theorem onMsg_ok {kind k} (h : memoryOk s) (hk : ∀ {s x}, memoryOk s → memoryOk (k s x)) : outOk (onMsg kind k s) := by
  unfold onMsg
  split
  · split
    · exact ite_ok (hk h) h
    · exact h
  · exact h

theorem supply_ok {m dirty grant} (h : memoryOk s) : memoryOk (supply s m dirty grant) :=
  h

theorem execFws_ok (h : memoryOk s) : outOk (execFws s) := by
  unfold execFws
  refine onMsg_ok h fun h1 => ?_
  split
  · exact h1
  split <;> exact h1

theorem execFwx_ok (h : memoryOk s) : outOk (execFwx s) := by
  unfold execFwx
  refine onMsg_ok h fun h1 => ?_
  split
  · exact supply_ok (onL2_ok h1)
  split <;> exact h1

theorem execInv_ok (h : memoryOk s) : outOk (execInv s) :=
  onMsg_ok h fun h1 => sendMsg_ok (ite_ok (onL2_ok h1) h1)

theorem giveUp_ok {m} (h : memoryOk s) : memoryOk (giveUp s m) := by
  unfold giveUp
  dsimp only
  split
  · exact ite_ok h h
  · exact h

theorem execRcl_ok (h : memoryOk s) : outOk (execRcl s) :=
  onMsg_ok h fun h1 => ite_ok h1 (giveUp_ok h1)

theorem execPrb_ok (h : memoryOk s) : outOk (execPrb s) :=
  onMsg_ok h fun h1 => giveUp_ok h1

theorem homeSupply_ok {kind act} (h : memoryOk s) (hact : ∀ {s x}, memoryOk s → memoryOk (act s x)) : outOk (homeSupply kind act s) := by
  unfold homeSupply
  split
  · split
    · split
      · exact h
      split
      · exact probe_ok h
      · exact hact h
    · exact h
  · exact h

theorem execHrs_ok (h : memoryOk s) : outOk (execHrs s) :=
  homeSupply_ok h fun h1 => supply_ok (onL2For_ok h1)

theorem execHrx_ok (h : memoryOk s) : outOk (execHrx s) :=
  homeSupply_ok h fun h1 => supply_ok (onL2For_ok h1)

theorem execHwb_ok (h : memoryOk s) : outOk (execHwb s) :=
  onMsg_ok h fun h1 => sendWak_ok (onL2_ok h1)

theorem execRel_ok (h : memoryOk s) : outOk (execRel s) :=
  onMsg_ok h fun h1 => releaseHome_ok h1

theorem execSpl_ok (h : memoryOk s) : outOk (execSpl s) := by
  refine onMsg_ok h fun h1 => ?_
  split
  next e => exact onL2_ok (some_ok e (recordSpill_ok h1))
  · exact report_ok h1

theorem takeData_ok {m} (h : memoryOk s) : memoryOk (takeData s m) :=
  ite_ok (onL2_ok h) h

theorem execDat_ok (h : memoryOk s) : outOk (execDat s) :=
  onMsg_ok h fun h1 => sendMsg_ok (sendMsg_ok (takeData_ok h1))

theorem execDak_ok (h : memoryOk s) : outOk (execDak s) := by
  unfold execDak
  refine onMsg_ok h fun h1 => ?_
  split
  · split
    · exact ite_ok h1 h1
    · exact h1
  · exact finish_ok h1

theorem installIak_ok {m} (h : memoryOk s) : memoryOk (installIak s m) :=
  ite_ok (sendWak_ok (onL2_ok h)) h

theorem homeIak_ok {m} (h : memoryOk s) : memoryOk (homeIak s m) :=
  ite_ok (installIak_ok h) (ite_ok (unspill_ok (installIak_ok h)) (ite_ok (onL2_ok (onDie_ok (installIak_ok h))) (installIak_ok h)))

theorem execIak_ok (h : memoryOk s) : outOk (execIak s) := by
  unfold execIak
  refine onMsg_ok h fun h1 => ?_
  split
  · exact homeIak_ok h1
  split
  · exact ite_ok (ite_ok (serveWaiting_ok (freeEntry_ok (ite_ok h1 h1))) (ite_ok h1 h1)) (finish_ok h1)
  · exact h1

theorem execWak_ok (h : memoryOk s) : outOk (execWak s) := by
  unfold execWak
  refine onMsg_ok h fun h1 => ?_
  dsimp only
  refine finish_ok ?_
  refine onAlm_ok ?_
  split
  · exact ite_ok h1 h1
  · exact h1

theorem execHrc_ok (h : memoryOk s) : outOk (execHrc s) := by
  unfold execHrc
  split
  · exact ite_ok h (ite_ok (probe_ok h) (ite_ok h (arrive_ok h)))
  · exact h

theorem execRecallTimeout_ok (h : memoryOk s) : outOk (execRecallTimeout s) := by
  unfold execRecallTimeout
  split
  · split
    · split
      · exact serveWaiting_ok (sendMsg_ok (freeAlm_ok (report_ok h)))
      · exact h
    · exact h
  · exact h

theorem recoverHalf_ok {y} (h : memoryOk s) : memoryOk (recoverHalf s y) :=
  foldl_ok (fun h1 => fillL2_ok h1) (foldl_ok (fun h1 => onL2_ok h1) h)

theorem stopAll_ok {code} (h : memoryOk s) : memoryOk (stopAll s code) :=
  foldl_ok (fun h1 => foldl_ok (fun h2 => stopQueue_ok h2) h1) h

theorem coherenceFatal_ok (h : memoryOk s) : memoryOk (coherenceFatal s) :=
  stopAll_ok (report_ok h)

theorem execNougatLost_ok (h : memoryOk s) : outOk (execNougatLost s) := by
  unfold execNougatLost
  split
  · split
    · exact h
    · exact ite_ok (coherenceFatal_ok (onNougat_ok (report_ok h))) (report_ok (recoverHalf_ok (report_ok h)))
  · exact h

/-! ### Engine -/

theorem onWalker_ok {w f} (h : memoryOk s) : memoryOk (onWalker s w f) :=
  h

theorem cPut_ok {e n x} (h : memoryOk s) : memoryOk (cPut s e n x) := by
  unfold cPut
  split
  · exact h
  split <;> exact h

theorem releaseSlice_ok {k} (h : memoryOk s) : memoryOk (releaseSlice s k) :=
  h

theorem onInv_ok {x f} (h : memoryOk s) : memoryOk (onInv s x f) :=
  h

theorem engineError_ok {world kind index reason} (h : memoryOk s) : memoryOk (engineError s world kind index reason) :=
  report_ok h

theorem sliceFault_ok {k reason word} (h : memoryOk s) : memoryOk (sliceFault s k reason word) := by
  unfold sliceFault
  split
  · exact h
  · exact releaseSlice_ok (onInv_ok (ite_ok (engineError_ok h) h))

theorem routineWrite_ok {i buf} (h : memoryOk s) : memoryOk (routineWrite s i buf) :=
  settle_ok (homeWrite_ok h)

theorem sliceDone_ok {k} (h : memoryOk s) : memoryOk (sliceDone s k) := by
  unfold sliceDone
  split
  · exact h
  split
  · exact h
  · exact releaseSlice_ok (onInv_ok (ite_ok (onDie_ok (ite_ok h (routineWrite_ok h))) (fillL2_ok (ite_ok h (routineWrite_ok h)))))

theorem answerWalk_ok {r st} (h : memoryOk s) : memoryOk (answerWalk s r st) := by
  unfold answerWalk
  refine foldl_ok (fun h1 => ?_) h
  split <;> exact h1

theorem freeWalker_ok {w} (h : memoryOk s) : memoryOk (freeWalker s w) :=
  h

theorem requeue_ok {r} (h : memoryOk s) : memoryOk (requeue s r) :=
  ite_ok h h

theorem failWalk_ok {r c reason word tcode} (h : memoryOk s) : memoryOk (failWalk s r c reason word tcode) :=
  ite_ok (requeue_ok h) (answerWalk_ok h)

theorem walkerFault_ok {w c reason word tcode} (h : memoryOk s) : memoryOk (walkerFault s w c reason word tcode) := by
  unfold walkerFault
  split
  · exact h
  · exact failWalk_ok (freeWalker_ok (ite_ok (engineError_ok h) h))

theorem crumbFault_ok {e sliceReason walkReason} (h : memoryOk s) : memoryOk (crumbFault s e sliceReason walkReason) := by
  unfold crumbFault
  split
  · exact sliceFault_ok h
  · exact walkerFault_ok h

theorem goTo_ok {e i} (h : memoryOk s) : memoryOk (goTo s e i) := by
  unfold goTo
  split
  · exact ite_ok (sliceDone_ok h) h
  · exact ite_ok (walkerFault_ok h) h

theorem crumbNext_ok {e} (h : memoryOk s) : memoryOk (crumbNext s e) :=
  goTo_ok h

theorem mapWalk_ok {r frame lsize attrs} (h : memoryOk s) : memoryOk (mapWalk s r frame lsize attrs) := by
  unfold mapWalk
  dsimp only
  split
  · exact requeue_ok h
  refine answerWalk_ok ?_
  refine foldl_ok (fun h1 => ?_) h
  split
  · split <;> exact h1
  · exact h1

theorem settleVerdict_ok {r c5 c6 c7 word v} (h : memoryOk s) : memoryOk (settleVerdict s r c5 c6 c7 word v) := by
  unfold settleVerdict
  split
  · exact mapWalk_ok h
  · exact h
  · exact ite_ok (requeue_ok h) h
  · exact failWalk_ok h

theorem withCrumb_ok {k} (h : memoryOk s) (hk : ∀ {s x}, memoryOk s → memoryOk (k s x)) : outOk (withCrumb s k) := by
  unfold withCrumb
  split
  · exact hk h
  · exact h

theorem crumbAlu_ok {f op} (h : memoryOk s) : outOk (crumbAlu f op s) :=
  withCrumb_ok h fun h1 => crumbNext_ok (cPut_ok h1)

theorem onlySlice_ok {k} (h : memoryOk s) (hk : ∀ {s x}, memoryOk s → memoryOk (k s x)) : outOk (onlySlice s k) := by
  unfold onlySlice
  refine withCrumb_ok h fun h1 => ?_
  split
  · exact hk h1
  · exact crumbFault_ok h1

theorem onlyWalker_ok {k} (h : memoryOk s) (hk : ∀ {s x}, memoryOk s → memoryOk (k s x)) : outOk (onlyWalker s k) := by
  unfold onlyWalker
  refine withCrumb_ok h fun h1 => ?_
  split
  · exact crumbFault_ok h1
  · exact hk h1

/-! ### Copy -/

theorem execAcp_ok {f} (h : memoryOk s) : outOk (execAcp f s) :=
  issueWord_ok h fun h1 =>
    ite_ok h1 (ite_ok (trapLowest_ok h1)
    (withPagesOr_ok h1 fun h2 => endWord_ok (foldl_ok (fun h3 => clearPresence_ok h3) (performOverlapping_ok h2))))

theorem execAcpc_ok {f} (h : memoryOk s) : outOk (execAcpc f s) :=
  issueWord_ok h fun h1 => endWord_ok h1

theorem execAcpw_ok {f} (h : memoryOk s) : outOk (execAcpw f s) :=
  issueWord_ok h fun h1 => endWord_ok h1

theorem readRec_ok {core t va ps} (h : memoryOk s) : memoryOk (readRec s core t va ps).1 := by
  unfold readRec
  dsimp only
  split
  · split <;> exact h
  · exact h

theorem trapOnce_ok {c cl x addr} (h : memoryOk s) : memoryOk (trapOnce s c cl x addr) :=
  takeTrap_ok h

theorem fillBox_ok {r lines} (h : memoryOk s) : memoryOk (fillBox s r lines) :=
  foldl_ok (fun h1 => ite_ok h1 (fillL2_ok h1)) h

theorem startBulk_ok {f store r rec recVa off k c g t cl tr} (h : memoryOk s) : memoryOk (startBulk f store r rec recVa off k s c g t cl tr) := by
  unfold startBulk
  dsimp only
  split
  · exact endWord_ok (foldl_ok (fun h1 => clearPresence_ok h1) (fillBox_ok (performOverlapping_ok h)))
  split
  · exact blockOnce_ok h
  · exact pairOp_ok h fun h1 => endOnce_ok (escape_ok (ite_ok h1 (fillBox_ok (performOverlapping_ok h1))))

theorem bulkWord_ok {f store} (h : memoryOk s) : memoryOk (bulkWord f store s) := by
  unfold bulkWord
  refine issueWord_ok h fun h1 => ite_ok (endWord_ok h1) (ite_ok (trapOnce_ok h1) (ite_ok (trapOnce_ok h1) ?_))
  refine withPages_ok h1 fun h2 => checkedOnce_ok h2 fun h3 => ?_
  extract_lets s1
  split
  next e =>
    have h4 := fst_ok e (readRec_ok (performOverlapping_ok h3))
    refine ite_ok (trapOnce_ok h4) (ite_ok (trapOnce_ok h4) (ite_ok (trapOnce_ok h4) ?_))
    dsimp only
    split
    · exact trapOnce_ok h4
    · exact withPages_ok h4 fun h5 => startBulk_ok h5

theorem dropRecs_ok {core t va} (h : memoryOk s) : memoryOk (dropRecs s core t va) :=
  foldl_ok (fun h1 => h1) h

theorem execRfence_ok {f} (h : memoryOk s) : outOk (execRfence f s) :=
  issueWord_ok h fun h1 => endWord_ok (foldl_ok (fun h2 => dropRecs_ok h2) h1)

theorem execRfenceAll_ok {f} (h : memoryOk s) : outOk (execRfenceAll f s) :=
  issueWord_ok h fun h1 => endWord_ok (ite_ok h1 (dropRecs_ok h1))

theorem execBinit_ok {f} (h : memoryOk s) : outOk (execBinit f s) :=
  issueWord_ok h fun h1 => ite_ok (endWord_ok h1) (ite_ok (trapOnce_ok h1) (endWord_ok (onTeam_ok (logArea_ok h1))))

theorem execBarv_ok {f} (h : memoryOk s) : outOk (execBarv f s) :=
  issueWord_ok h fun h1 =>
    ite_ok (endWord_ok h1)
    (ite_ok (trapOnce_ok h1) (takeImages_ok (foldl_ok (fun h2 => updateObj_ok h2) (endResult_ok (ite_ok h1 (addRel_ok (beforeRelease_ok h1)))))))

theorem bwaitWord_ok {f tok k} (h : memoryOk s) (hk : ∀ {s x y z u}, memoryOk s → memoryOk (k s x y z u)) : memoryOk (bwaitWord f tok k s) :=
  issueWord_ok h fun h1 => ite_ok (endWord_ok h1) (ite_ok (trapOnce_ok h1) (hk h1))

theorem seePhase_ok {f g done} (h : memoryOk s) : memoryOk (seePhase s f g done) :=
  ite_ok (observe_ok h) h

theorem execBwait_ok {f} (h : memoryOk s) : outOk (execBwait f s) :=
  bwaitWord_ok h fun h1 => endWord_ok h1

theorem execBwaitToken_ok {f} (h : memoryOk s) : outOk (execBwaitToken f s) :=
  bwaitWord_ok h fun h1 => endWord_ok (seePhase_ok h1)

theorem execBwaitTest_ok {f} (h : memoryOk s) : outOk (execBwaitTest f s) :=
  bwaitWord_ok h fun h1 => endWord_ok (seePhase_ok h1)

theorem teamBarrier_arriveAndWait_ok {gid tid l} (h : memoryOk s) : memoryOk (teamBarrier.arriveAndWait s gid tid l) := by
  unfold teamBarrier.arriveAndWait
  split
  · exact h
  · exact updateObj_ok h

theorem teamBarrier_ok {f scope} (h : memoryOk s) : outOk (teamBarrier f scope s) :=
  issueWord_ok h fun h1 =>
    takeImages_ok (foldl_ok (fun h2 => teamBarrier_arriveAndWait_ok h2) (endWord_ok (ite_ok h1 (addRel_ok (beforeRelease_ok h1)))))

theorem landTag_ok {gid tag batch} (h : memoryOk s) : memoryOk (landTag s gid tag batch) := by
  unfold landTag
  split
  · exact h
  · exact ite_ok h (ite_ok (onGroup_ok (ite_ok h h)) h)

theorem noteLanding_ok {tid id c sec bytes gid tag obj} (h : memoryOk s) : memoryOk (noteLanding s tid id c sec bytes gid tag obj) :=
  h

theorem landPresence_ok {tid sec after} (h : memoryOk s) : memoryOk (landPresence s tid sec after) :=
  ite_ok (addRel_ok h) (present_ok (addRel_ok (addRel_ok h)))

theorem copyError_ok {gid c e pa} (h : memoryOk s) : memoryOk (copyError s gid c e pa) := by
  unfold copyError
  split
  · exact engineConsume_ok (ite_ok (reportConsumed_ok h) (reportConsumed_ok h))
  · exact engineConsume_ok (reportConsumed_ok h)
  · exact h

theorem landAcp_ok {id c t} (h : memoryOk s) : memoryOk (landAcp s id c t) := by
  unfold landAcp
  split
  · exact h
  · exact ite_ok h (ite_ok (copyError_ok h) (takeImages_ok (landPresence_ok (landTag_ok (noteLanding_ok (spLand_ok h))))))

theorem execTransferLands_ok (h : memoryOk s) : outOk (execTransferLands s) := by
  unfold execTransferLands
  split
  · split
    · exact h
    split
    · exact h
    · exact landAcp_ok h
  · exact h

theorem dropSector_ok {id sec} (h : memoryOk s) : memoryOk (dropSector s id sec) := by
  unfold dropSector
  split
  · split
    · exact ite_ok h h
    · exact h
  · exact h

theorem landBulk_ok {id sec c t} (h : memoryOk s) : memoryOk (landBulk s id sec c t) := by
  unfold landBulk
  split
  · split
    · exact h
    · exact ite_ok (copyError_ok (dropSector_ok h)) (takeImages_ok (updateObj_ok (landPresence_ok (noteLanding_ok (spLand_ok (dropSector_ok h))))))
  · exact h

theorem execBulkSectorLands_ok (h : memoryOk s) : outOk (execBulkSectorLands s) := by
  unfold execBulkSectorLands
  split
  · split
    · exact h
    split
    · exact h
    · exact landBulk_ok h
  · exact h

theorem creditSectors_ok {id sec c gid obj own empty} (h : memoryOk s) : memoryOk (creditSectors s id sec c gid obj own empty) :=
  ite_ok (foldl_ok (fun h1 => dropSector_ok h1) (dropSector_ok (foldl_ok (fun h1 => h1) h)))
    (takeImages_ok (updateObj_ok (foldl_ok (fun h1 => dropSector_ok h1) (dropSector_ok (foldl_ok (fun h1 => h1) h)))))

theorem creditStore_ok {id sec c t} (h : memoryOk s) : memoryOk (creditStore s id sec c t) := by
  unfold creditStore
  split
  · split
    · exact h
    · exact ite_ok (engineConsume_ok (reportConsumed_ok (creditSectors_ok h)))
        (ite_ok h (creditSectors_ok (engineWrite_ok (foldl_ok (fun h1 => correctScratch_ok h1) h))))
  · exact h

theorem execBulkStoreSectorCredit_ok (h : memoryOk s) : outOk (execBulkStoreSectorCredit s) := by
  unfold execBulkStoreSectorCredit
  split
  · split
    · exact h
    split
    · exact h
    dsimp only
    split
    · exact trivial
    · exact creditStore_ok h
  · exact h

/-! ### Pair -/

theorem beginPair_ok {i0 i1} (h : memoryOk s) : memoryOk (beginPair i0 i1 s) :=
  withWord_ok h fun h1 => ite_ok (takeTrap_ok h1) (ite_ok (takeTrap_ok h1) (readRegs_ok h1 fun h2 => ite_ok (diverge_ok h2) h2))

/-! ### Fetch -/

theorem onSubp_ok {core subp f} (h : memoryOk s) : memoryOk (onSubp s core subp f) :=
  h

theorem fetchAt_ok {gid g t pc pa} (h : memoryOk s) : memoryOk (fetchAt s gid g t pc pa) := by
  unfold fetchAt
  dsimp only
  split
  · exact h
  split
  · exact h
  · exact h
  · exact consumeMemory_ok h

theorem fetchNext_ok {gid} (h : memoryOk s) : memoryOk (fetchNext s gid) := by
  unfold fetchNext
  split
  · exact h
  split
  · exact h
  refine ite_ok h (ite_ok (takeTrap_ok h) ?_)
  split
  next e =>
    have h1 := fst_ok e (pageStates_ok h)
    split
    · split
      · exact h1
      · exact fetchAt_ok h1
      · exact takeTrap_ok h1
    · exact h1

theorem issueGroup_ok {core subp gid g} (h : memoryOk s) : memoryOk (issueGroup s core subp gid g) := by
  unfold issueGroup
  dsimp only
  split <;> exact h

theorem raisePending_ok {gid g} (h : memoryOk s) : memoryOk (raisePending s gid g) := by
  unfold raisePending
  split
  · exact consumeError_ok h
  · exact takeTrap_ok h
  · exact consumeError_ok (reportConsumed_ok h)
  · exact h

theorem cycle_ok {core subp} (h : memoryOk s) : memoryOk (cycle s core subp) := by
  unfold cycle
  dsimp only
  split
  · exact h
  split
  · exact h
  · exact ite_ok (raisePending_ok h) (issueGroup_ok h)

theorem execIssueCycle_ok (h : memoryOk s) : outOk (execIssueCycle s) := by
  unfold execIssueCycle
  split
  · split
    · exact h
    · exact ite_out_ok h (ite_out_ok h (cycle_ok (foldl_ok (fun h1 => fetchNext_ok h1) h)))
  · exact h

/-! ### EventCore -/

theorem performOlder_ok {gid g x} (h : memoryOk s) : memoryOk (performOlder s gid g x) := by
  unfold performOlder
  refine foldl_ok (fun h1 => ?_) h
  split
  · exact ite_ok h1 (performFlight_ok h1)
  · exact h1

theorem landFlight_keepAcquire_ok {gid g x} (h : memoryOk s) : memoryOk (landFlight.keepAcquire gid s g x) := by
  unfold landFlight.keepAcquire
  split
  · exact ite_ok h h
  · exact h

theorem landFlight_ok {gid x} (h : memoryOk s) : memoryOk (landFlight s gid x) := by
  unfold landFlight
  dsimp only
  split
  · exact onImage_ok h
  refine reapGroup_ok ?_
  refine tryGive_ok ?_
  refine landFlight_keepAcquire_ok ?_
  split
  · exact acquireAt_ok (onImage_ok h)
  · exact onImage_ok h

theorem settleFlight_ok {gid y} (h : memoryOk s) : memoryOk (settleFlight s gid y) := by
  unfold settleFlight
  split
  · exact reapGroup_ok (tryGive_ok (consumeMemory_ok h))
  · exact landFlight_ok h

theorem returnFlight_ok {gid g x} (h : memoryOk s) : memoryOk (returnFlight s gid g x) := by
  unfold returnFlight
  split
  · exact h
  split
  · exact settleFlight_ok h
  dsimp only
  split
  · exact settleFlight_ok (performFlight_ok (performOlder_ok h))
  · exact performFlight_ok (performOlder_ok h)

theorem execLoadReturn_ok (h : memoryOk s) : outOk (execLoadReturn s) := by
  unfold execLoadReturn
  split
  · split
    · exact h
    split
    · exact trivial
    split
    · split
      · exact h
      · exact performUpTo_ok (performOlder_ok h)
    · exact ite_ok h (returnFlight_ok h)
  · exact h

theorem execShippedAtomic_ok (h : memoryOk s) : outOk (execShippedAtomic s) := by
  unfold execShippedAtomic
  split
  · split
    · exact h
    split
    · exact h
    split
    · exact trivial
    split
    · exact h
    dsimp only
    split
    · exact ite_ok (performAtomic_ok (foldl_ok (fun h1 => atomicAt_ok h1) (performOlder_ok h)))
        (foldl_ok (fun h1 => atomicAt_ok h1) (performOlder_ok h))
    · exact foldl_ok (fun h1 => atomicAt_ok h1) (performOlder_ok h)
  · exact h

theorem execL1LineExpiry_ok (h : memoryOk s) : outOk (execL1LineExpiry s) := by
  unfold execL1LineExpiry
  split <;> exact h

theorem execClaimDeadlock_ok (h : memoryOk s) : outOk (execClaimDeadlock s) := by
  unfold execClaimDeadlock
  split
  · split
    · exact h
    dsimp only
    split
    · exact h
    split
    · refine foldl_ok (fun h1 => ?_) h
      split
      · exact takeTrap_ok h1
      · exact h1
    · exact h
  · exact h

theorem withdrawWaits_ok {gid g} (h : memoryOk s) : memoryOk (withdrawWaits s gid g) := by
  unfold withdrawWaits
  dsimp only
  refine onGroup_ok ?_
  refine foldl_ok (fun h1 => ?_) h
  split
  · exact updateObj_ok h1
  · exact h1

theorem execBarrierStarved_ok (h : memoryOk s) : outOk (execBarrierStarved s) := by
  unfold execBarrierStarved
  split
  · split
    · exact h
    split
    · exact h
    dsimp only
    refine foldl_ok (fun h1 => ?_) h
    split
    · exact withdrawWaits_ok h1
    · exact takeTrap_ok (onGroup_ok (withdrawWaits_ok h1))
  · exact h

/-! ### Routine -/

theorem completeLr_ok {gid job} (h : memoryOk s) : memoryOk (completeLr s gid job) := by
  unfold completeLr
  split
  · exact h
  extract_lets t all g1 s1 ok results s2 low sorted
  have h1 : memoryOk s1 := by
    unfold s1
    split
    · exact acquireAt_ok h
    · exact h
  split
  refine ite_ok (endWord_ok (onImage_ok h1)) ?_
  dsimp only
  split
  · exact takeTrap_ok (onImage_ok h1)
  · exact onImage_ok h1

theorem tryLr_ok {gid} (h : memoryOk s) : memoryOk (tryLr s gid) := by
  unfold tryLr
  split
  · exact ite_ok (completeLr_ok h) h
  · exact h

theorem answerLr_ok {gid lane va r} (h : memoryOk s) : memoryOk (answerLr s gid lane va r) :=
  h

theorem execLrinv_ok {f} (h : memoryOk s) : outOk (execLrinv f s) := by
  refine issueWord_ok h fun h1 => ite_ok (endWord_ok h1) (ite_ok (trapLowest_ok h1) (withPages_ok h1 fun h2 => pairOp_ok h2 fun h3 => ?_))
  extract_lets pieces job
  split
  next s2 _ e =>
  have h4 : memoryOk s2 := fst_ok e (ite_fst_ok (beforeRelease_ok h3) (performOverlapping_ok h3))
  extract_lets s3 got
  have h5 : memoryOk s3 := onGroup_ok (escape_ok h4)
  refine ite_ok (tryLr_ok (foldl_ok (fun h => answerLr_ok h) h5)) ?_
  exact onCore_ok (foldl_ok (fun h => h) h5)

theorem imageWord_ok {f headOk lenOf cause reason same k} (h : memoryOk s) (hk : ∀ {s x y z u v}, memoryOk s → memoryOk (k s x y z u v)) :
    memoryOk (imageWord f headOk lenOf cause reason same k s) := by
  unfold imageWord
  dsimp only
  refine issueWord_ok h fun h1 => ?_
  split
  · exact endWord_ok h1
  split
  · exact trapOnce_ok h1
  refine withPages_ok h1 fun h2 => ?_
  refine checkedOnce_ok h2 fun h3 => ?_
  split
  · exact takeTrap_ok (performOverlapping_ok h3)
  split
  · exact trapOnce_ok (performOverlapping_ok h3)
  refine withPages_ok (performOverlapping_ok h3) fun h4 => ?_
  refine checkedOnce_ok h4 fun h5 => ?_
  split
  · exact h5
  · exact hk (fenceWord_ok h5)

theorem sendDrop_ok {c g space routine units} (h : memoryOk s) : memoryOk (sendDrop s c g space routine units) :=
  endWord_ok h

theorem execLrload_ok {f} (h : memoryOk s) : outOk (execLrload f s) :=
  imageWord_ok h fun h1 => sendDrop_ok (deviceWrite_ok (deviceWrite_ok h1))

theorem execRoutineImageDrop_ok (h : memoryOk s) : outOk (execRoutineImageDrop s) := by
  unfold execRoutineImageDrop
  split
  · dsimp only
    split <;> exact h
  · exact h

theorem execInvocationArrival_ok (h : memoryOk s) : outOk (execInvocationArrival s) := by
  unfold execInvocationArrival
  split
  · split
    · exact h
    dsimp only
    split <;> exact h
  · exact h

theorem fetchImage_ok {k i} (h : memoryOk s) : memoryOk (fetchImage s k i).1 := by
  unfold fetchImage
  split
  · exact h
  dsimp only
  split
  · exact h
  split
  · exact h
  split <;> exact h

theorem takeLine_ok {line} (h : memoryOk s) : memoryOk (takeLine s line) :=
  h

theorem invFault_ok {k x i c reason} (h : memoryOk s) : memoryOk (invFault s k x i c reason) :=
  onInv_ok (ite_ok (engineError_ok h) h)

theorem runInv_ok {k x i} (h : memoryOk s) : memoryOk (runInv s k x i) := by
  unfold runInv
  refine ite_ok h ?_
  split
  next e => exact invFault_ok (fst_ok e (fetchImage_ok h))
  next s1 image e =>
    have h1 : memoryOk s1 := fst_ok e (fetchImage_ok h)
    extract_lets s2 s3 s4
    have h3 : memoryOk s3 := foldl_ok (fun h => drain_ok h) (takeLine_ok h1)
    have h4 : memoryOk s4 := seeLatest_ok h3
    split
    · exact invFault_ok h4
    · exact invFault_ok h4
    · exact ite_ok (sliceDone_ok h4) h4

theorem execInvocationRun_ok (h : memoryOk s) : outOk (execInvocationRun s) := by
  unfold execInvocationRun
  split
  · split
    · split
      · exact trivial
      split
      · exact h
      · exact runInv_ok h
    · exact h
  · exact h

theorem execInvocationReturn_ok (h : memoryOk s) : outOk (execInvocationReturn s) := by
  unfold execInvocationReturn
  split
  · split
    · exact h
    dsimp only
    split
    · exact reapGroup_ok (tryLr_ok h)
    · exact reapGroup_ok (tryLr_ok h)
    · exact h
  · exact h

/-! ### Walk -/

theorem formRequest_ok {who part space world n} (h : memoryOk s) : memoryOk (formRequest s who part space world n) :=
  requeue_ok h

theorem execWalkRequest_ok {who} (h : memoryOk s) : outOk (execWalkRequest who s) := by
  unfold execWalkRequest
  split
  · split
    · split
      · exact formRequest_ok h
      · exact h
    · exact h
  · split
    · split
      · exact formRequest_ok h
      · exact h
    · exact h

theorem walkerImage_ok {cluster space world} (h : memoryOk s) : memoryOk (walkerImage s cluster space world).1 := by
  unfold walkerImage
  dsimp only
  split
  · exact h
  split <;> exact h

theorem execWalkStart_ok (h : memoryOk s) : outOk (execWalkStart s) := by
  unfold execWalkStart
  split
  · split
    · dsimp only
      split
      next e => exact failWalk_ok (fst_ok e (walkerImage_ok h))
      next e =>
        have h1 := fst_ok e (walkerImage_ok h)
        exact ite_ok (failWalk_ok h1) h1
    · exact h
  · exact h

theorem execHeldWalkRecheck_ok (h : memoryOk s) : outOk (execHeldWalkRecheck s) := by
  unfold execHeldWalkRecheck
  split
  · split
    · exact h
    · exact ite_ok h (settleVerdict_ok h)
  · exact h

theorem execWrload_ok {f} (h : memoryOk s) : outOk (execWrload f s) :=
  imageWord_ok h fun h1 => sendDrop_ok (deviceWrite_ok h1)

theorem execWalkerStoreDrop_ok (h : memoryOk s) : outOk (execWalkerStoreDrop s) := by
  unfold execWalkerStoreDrop
  split
  · dsimp only
    split <;> exact h
  · exact h

theorem dropTrans_ok {space lo hi} (h : memoryOk s) : memoryOk (dropTrans s space lo hi) :=
  h

theorem forgetPages_ok {space lo hi} (h : memoryOk s) : memoryOk (forgetPages s space lo hi) :=
  h

theorem markWalks_ok {space lo hi} (h : memoryOk s) : memoryOk (markWalks s space lo hi) :=
  h

theorem tlbinvWord_ok {f regs range} (h : memoryOk s) : memoryOk (tlbinvWord f regs range s) :=
  issueWord_ok h fun h1 =>
    ite_ok (endWord_ok h1) (endWord_ok (ite_ok (markWalks_ok (forgetPages_ok (dropTrans_ok (fenceWord_ok h1)))) (fenceWord_ok h1)))

/-! ### Place -/

theorem seatGroups_ok {tid l gs num r} (e : seatGroups tid l gs num s = .ok r) (h : memoryOk s) : memoryOk r.2 := by
  induction gs generalizing s num r with
  | nil => cases e; exact h
  | cons x gs ih =>
    unfold seatGroups at e
    split at e
    · cases e
    · obtain ⟨r1, e1, rfl⟩ := except_map_ok e
      have h1 := ih e1 (onSubp_ok h)
      exact h1

theorem seatTeam_ok {fe slot packet sub part world l linear twin p r} (e : seatTeam fe slot packet sub part world l linear twin s p = .ok r)
    (h : memoryOk s) : memoryOk r.2 := by
  unfold seatTeam at e
  dsimp only at e
  split at e
  · cases e
  split at e
  · cases e
  next e1 =>
    have h1 := seatGroups_ok e1 h
    cases e
    exact newInterval_ok h1

theorem seatPlans_ok {fe slot packet sub part world l linear ps t} (e : seatPlans fe slot packet sub part world l linear s ps = .ok t)
    (h : memoryOk s) : memoryOk t := by
  unfold seatPlans at e
  split at e
  · obtain ⟨r, e1, rfl⟩ := except_map_ok e
    exact seatTeam_ok e1 h
  · split at e
    · cases e
    next e1 =>
      have h1 := seatTeam_ok e1 h
      obtain ⟨r, e2, rfl⟩ := except_map_ok e
      have h2 := seatTeam_ok e2 h1
      exact h2
  · cases e; exact h

theorem seatMany_ok {fe slot packet sub part world l pss linear t} (e : seatMany fe slot packet sub part world l pss linear s = .ok t)
    (h : memoryOk s) : memoryOk t := by
  induction pss generalizing s linear with
  | nil => cases e; exact h
  | cons ps pss ih =>
    unfold seatMany at e
    split at e
    · cases e
    next e1 => exact ih e (seatPlans_ok e1 h)

theorem onSub_ok {fe slot packet j f} (h : memoryOk s) : memoryOk (onSub s fe slot packet j f) :=
  h

theorem placeNext_ok {kind} (h : memoryOk s) : memoryOk (placeNext kind s) := by
  unfold placeNext
  split
  · split
    · split
      · refine ite_ok h ?_
        split
        · exact h
        split
        · exact h
        next e =>
          have h1 := seatMany_ok e h
          exact h1
      · exact h
    · exact h
  · exact h

theorem execGridEnd_ok (h : memoryOk s) : outOk (execGridEnd s) := by
  unfold execGridEnd
  split
  · split
    · split
      · exact ite_ok (onSub_ok (foldl_ok (fun h1 => reach_ok h1) h)) h
      · exact h
    · exact h
  · exact h

theorem holdMove_ok {gids n} (h : memoryOk s) : memoryOk (holdMove s gids n) :=
  foldl_ok (fun h1 => h1) h

theorem compactGroup_ok {kind gid g} (h : memoryOk s) : memoryOk (compactGroup s kind gid g) := by
  unfold compactGroup
  refine ite_ok h ?_
  split
  extract_lets may
  split
  · exact h
  · exact serveAll_ok (holdMove_ok h)

theorem execCompactorMove_ok {kind gid} (h : memoryOk s) : outOk (execCompactorMove kind gid s) := by
  unfold execCompactorMove
  split
  · exact h
  split
  · exact h
  split
  · split
    · split
      · exact holdMove_ok h
      · exact h
    · exact h
  · exact compactGroup_ok h

/-! ### Queue -/

theorem answer_ok {a r} (h : memoryOk s) : memoryOk (answer s a r) :=
  h

theorem asOwner_ok {a k} (h : memoryOk s) (hk : ∀ {s}, memoryOk s → memoryOk (k s)) : memoryOk (asOwner s a k) :=
  ite_ok h (ite_ok h (ite_ok (hk h) (ite_ok (hk h) h)))

theorem withFeKeep_ok {keep fe slot vas bad k} (h : memoryOk s) (hbad : ∀ {s}, memoryOk s → memoryOk (bad s))
    (hk : ∀ {s x y z}, memoryOk s → memoryOk (k s x y z)) : memoryOk (withFeKeep keep s fe slot vas bad k) := by
  unfold withFeKeep
  split
  · exact ite_ok (hbad h) (ite_ok h (ite_ok (hbad (ite_ok h h)) (hk (ite_ok h h))))
  · exact h

theorem withFe_ok {fe slot vas bad k} (h : memoryOk s) (hbad : ∀ {s}, memoryOk s → memoryOk (bad s))
    (hk : ∀ {s x y z}, memoryOk s → memoryOk (k s x y z)) : memoryOk (withFe s fe slot vas bad k) :=
  withFeKeep_ok h (fun h1 => hbad h1) fun h1 => hk h1

theorem feError_ok {fe slot q pa n sub index k} (h : memoryOk s) (hk : ∀ {s}, memoryOk s → memoryOk (k s)) : memoryOk
    (feError s fe slot q pa n sub index k) := by
  unfold feError
  split
  · exact stopQueue_ok (ite_ok (report_ok h) (report_ok h))
  · exact stopQueue_ok (report_ok h)
  · exact hk (noteCorrection_ok h)
  · exact hk h

theorem startQueue_ok {fe slot} (h : memoryOk s) : memoryOk (startQueue s fe slot) := by
  unfold startQueue
  split
  · exact h
  · exact ite_ok h (withFe_ok h (fun h1 => stopQueue_ok h1) fun h1 => feError_ok h1 fun h2 => deviceWrite_ok (fenceFull_ok h2))

theorem execQueueMap_ok {by_ fe slot q n world space fn} (h : memoryOk s) : outOk (execQueueMap by_ fe slot q n world space fn s) := by
  unfold execQueueMap
  refine asOwner_ok h fun h1 => ?_
  split
  · exact h1
  · exact ite_ok h1 (startQueue_ok h1)

theorem unmapQueue_ok {fe slot} (h : memoryOk s) : memoryOk (unmapQueue s fe slot) := by
  unfold unmapQueue
  split
  · exact h
  split <;> exact h

theorem unmapOrSave_ok {fe slot} (h : memoryOk s) : memoryOk (unmapOrSave s fe slot) :=
  ite_ok (unmapQueue_ok h) h

theorem execQueueUnmap_ok {by_ fe slot} (h : memoryOk s) : outOk (execQueueUnmap by_ fe slot s) := by
  unfold execQueueUnmap
  refine asOwner_ok h fun h1 => ?_
  split
  · exact h1
  · exact ite_ok (answer_ok (unmapOrSave_ok h1)) h1

theorem ring_ok {fe slot} (h : memoryOk s) : memoryOk (ring s fe slot) :=
  h

theorem execDoorbell_ok (h : memoryOk s) : outOk (execDoorbell s) := by
  unfold execDoorbell
  split
  · dsimp only
    split
    · exact startQueue_ok h
    · exact ite_ok (startQueue_ok h)
        (ite_ok (onQueue_ok (startQueue_ok h)) (withFe_ok (startQueue_ok h) (fun h1 => stopQueue_ok h1) fun h1 => feError_ok h1 fun h2 =>
        ite_ok (stopQueue_ok h2) h2))
  · exact h

theorem droppedWrite_ok {fn sub} (h : memoryOk s) : memoryOk (droppedWrite s fn sub) :=
  report_ok h

theorem execHostDoorbellWrite_ok (h : memoryOk s) : outOk (execHostDoorbellWrite s) := by
  unfold execHostDoorbellWrite
  split
  · split
    · exact h
    split
    · exact h
    · exact droppedWrite_ok h
  · exact h

theorem serveDoor_ok {x} (h : memoryOk s) : memoryOk (serveDoor s x) := by
  unfold serveDoor
  dsimp only
  split
  · exact report_ok h
  split
  · exact report_ok h
  split
  · split
    · exact ite_ok (ring_ok (foldl_ok (fun h1 => reach_ok h1) h)) (report_ok h)
    · exact report_ok h
  · exact report_ok h

theorem execDoorbellFrameStore_ok (h : memoryOk s) : outOk (execDoorbellFrameStore s) := by
  unfold execDoorbellFrameStore
  split
  · exact serveDoor_ok h
  · exact h

theorem withPacket_ok {fe slot typ k} (h : memoryOk s) (hk : ∀ {s x y z}, memoryOk s → memoryOk (k s x y z)) : memoryOk
    (withPacket s fe slot typ k) := by
  unfold withPacket
  split
  · exact h
  · exact ite_ok h (withFeKeep_ok h (fun h1 => stopQueue_ok h1) fun h1 => feError_ok h1 fun h2 => ite_ok (stopQueue_ok h2) (ite_ok (hk h2) h2))

theorem retire_ok {fe slot index sigk sigAddr sigVal} (h : memoryOk s) : memoryOk (retire s fe slot index sigk sigAddr sigVal) := by
  unfold retire
  split
  · exact h
  dsimp only
  refine withFe_ok h (fun h1 => stopQueue_ok h1) fun h1 => ?_
  refine onQueue_ok ?_
  refine deviceWrite_ok ?_
  split
  · exact deviceWrite_ok (fenceFull_ok h1)
  · exact deviceWrite_ok (flushBytes_ok (fenceFull_ok h1))
  · exact fenceFull_ok h1

theorem execNopPacket_ok (h : memoryOk s) : outOk (execNopPacket s) := by
  unfold execNopPacket
  split
  · split
    · exact retire_ok h
    · exact withPacket_ok h fun h1 => ite_ok (retire_ok h1) h1
  · exact h

theorem execWait_ok (h : memoryOk s) : outOk (execWait s) := by
  unfold execWait
  split
  · exact withPacket_ok h fun h1 => h1
  · exact h

theorem execWaitSatisfied_ok (h : memoryOk s) : outOk (execWaitSatisfied s) := by
  unfold execWaitSatisfied
  split
  · split
    · exact h
    · exact ite_ok h (withFe_ok h (fun h1 => stopQueue_ok h1) fun h1 => feError_ok h1 fun h2 => ite_ok h2 (ite_ok (retire_ok h2) h2))
  · exact h

theorem withRecords_ok {fe slot index l k} (h : memoryOk s) (hk : ∀ {s}, memoryOk s → memoryOk (k s)) : memoryOk
    (withRecords fe slot index l s k) := by
  induction l with
  | nil => exact hk h
  | cons x l ih =>
    unfold withRecords
    refine ite_ok (stopQueue_ok h) ?_
    split
    · exact h
    split
    · exact h
    · exact stopQueue_ok h
    · exact ih

theorem startBundle_ok {fe slot q0 p recs} (h : memoryOk s) : memoryOk (startBundle fe slot q0 p recs s) := by
  unfold startBundle
  refine withFeKeep_ok h (fun h1 => stopQueue_ok h1) fun h1 => ?_
  split
  · exact feError_ok h1 fun h2 => h2
  split
  · exact stopQueue_ok h1
  · exact h1

theorem execBundle_ok (h : memoryOk s) : outOk (execBundle s) := by
  unfold execBundle
  split
  · split
    · exact h
    · exact withPacket_ok h fun h1 => ite_ok h1 (withRecords_ok h1 fun h2 => startBundle_ok h2)
  · exact h

theorem execBundleRetire_ok (h : memoryOk s) : outOk (execBundleRetire s) := by
  unfold execBundleRetire
  split
  · split
    · exact retire_ok h
    · exact h
  · exact h

theorem writeSectors_ok {world pa bs} (h : memoryOk s) : memoryOk (writeSectors s world pa bs) :=
  ite_ok h (foldl_ok (fun h1 => deviceWrite_ok h1) h)

theorem execCopySublaunch_ok (h : memoryOk s) : outOk (execCopySublaunch s) := by
  unfold execCopySublaunch
  split
  · split
    · exact ite_ok h (withFe_ok h (fun h1 => stopQueue_ok h1) fun h1 => feError_ok h1 fun h2 => onSub_ok (writeSectors_ok h2))
    · exact h
  · exact h

theorem execFillSublaunch_ok (h : memoryOk s) : outOk (execFillSublaunch s) := by
  unfold execFillSublaunch
  split
  · split
    · exact ite_ok h (withFe_ok h (fun h1 => stopQueue_ok h1) fun h1 => onSub_ok (writeSectors_ok h1))
    · exact h
  · exact h

/-! ### Context -/

theorem dropAskers_ok {p} (h : memoryOk s) : memoryOk (dropAskers s p) :=
  h

theorem drainCores_ok {cores} (h : memoryOk s) : memoryOk (drainCores s cores) :=
  foldl_ok (fun h1 => drain_ok h1) h

theorem removeTeams_ok {tids} (h : memoryOk s) : memoryOk (removeTeams s tids) :=
  serveAll_ok h

theorem saveContext_ok {x fe slot q} (h : memoryOk s) : memoryOk (saveContext s x fe slot q) := by
  rw [saveContext]
  split
  · exact drainCores_ok h
  · exact onQueue_ok (removeTeams_ok (deviceWrite_ok (drainCores_ok h)))

theorem execPreempt_ok {by_ fe slot} (h : memoryOk s) : outOk (execPreempt by_ fe slot s) := by
  unfold execPreempt
  refine asOwner_ok h fun h1 => ?_
  split
  · exact h1
  · exact ite_ok h1 h1

theorem execEngineQuiesced_ok (h : memoryOk s) : outOk (execEngineQuiesced s) := by
  unfold execEngineQuiesced
  split
  · split
    · split
      · exact ite_ok h
          (ite_ok (ite_ok h (saveContext_ok h))
          (ite_ok (unmapQueue_ok (onQueue_ok (ite_ok h (saveContext_ok h)))) (onQueue_ok (ite_ok h (saveContext_ok h)))))
      · exact h
    · exact h
  · exact h

theorem reseatGroups_ok {gs ps s'} (e : reseatGroups gs ps s = .ok s') (h : memoryOk s) : memoryOk s' := by
  induction gs generalizing ps s with
  | nil => cases e; exact h
  | cons x gs ih =>
    cases ps with
    | nil => cases e; exact h
    | cons p ps =>
      unfold reseatGroups at e
      split at e
      · cases e
      · exact ih e (onSubp_ok h)

theorem reseatTeam_ok {sv fe slot tid t p s'} (e : reseatTeam sv fe slot s tid t p = .ok s') (h : memoryOk s) : memoryOk s' := by
  unfold reseatTeam at e
  split at e
  · cases e
  · obtain ⟨s2, e2, rfl⟩ := except_map_ok e
    have h2 : memoryOk s2 := reseatGroups_ok e2 h
    exact h2

theorem reseatAll_ok {sv fe slot l s'} (e : reseatAll sv fe slot l s = .ok s') (h : memoryOk s) : memoryOk s' := by
  induction l generalizing s with
  | nil => cases e; exact h
  | cons x l ih =>
    unfold reseatAll at e
    split at e
    · exact ih e h
    split at e
    · cases e
    next e1 => exact ih e (reseatTeam_ok e1 h)

theorem reseatConvs_ok {sv} (h : memoryOk s) : memoryOk (reseatConvs sv s) := by
  unfold reseatConvs
  dsimp only
  refine foldl_ok (fun h1 => ?_) h
  split <;> exact h1

theorem reissue_ok {c} (h : memoryOk s) : memoryOk (reissue s c) :=
  h

theorem reissueAtomics_ok {gid} (h : memoryOk s) : memoryOk (reissueAtomics s gid) := by
  unfold reissueAtomics
  split
  · exact h
  · exact foldl_ok (fun h1 => placeAtomic_ok h1) h

theorem reseen_ok {sv gid} (h : memoryOk s) : memoryOk (reseen sv s gid) := by
  unfold reseen
  split
  · exact h
  · exact foldl_ok (fun h1 => reach_ok h1) h

theorem refuseRestore_ok {fe slot world sv} (h : memoryOk s) : memoryOk (refuseRestore s fe slot world sv) :=
  stopQueue_ok (report_ok (onQueue_ok (fillRange_ok h)))

theorem restoreContext_ok {x fe slot sv} (h : memoryOk s) : memoryOk (restoreContext s x fe slot sv).1 := by
  unfold restoreContext
  split
  next s1 e =>
    obtain ⟨ps, -, e1⟩ := Option.map_eq_some_iff.mp e
    have h1 : memoryOk s1 := reseatAll_ok e1 h
    extract_lets s2 s3 s4 s5 s6
    have h2 : memoryOk s2 := reseatConvs_ok h1
    have h3 : memoryOk s3 := foldl_ok (fun h => reseen_ok h) h2
    have h4 : memoryOk s4 := foldl_ok (fun h => reissue_ok h) h3
    have h5 : memoryOk s5 := foldl_ok (fun h => reissueAtomics_ok h) h4
    have h6 : memoryOk s6 := foldl_ok (fun h => newInterval_ok h) h5
    exact serveAll_ok (onQueue_ok h6)
  · exact h

theorem restoreInOrder_ok {l} (h : memoryOk s) : memoryOk (restoreInOrder l s) := by
  induction l generalizing s with
  | nil => exact h
  | cons x l ih =>
    unfold restoreInOrder
    split
    · refine ite_ok (ih h) (ite_ok (ih (refuseRestore_ok h)) ?_)
      split
      next e => exact ih (fst_ok e (restoreContext_ok h))
      next e => exact fst_ok e (restoreContext_ok h)
    · exact ih h

theorem execRestore_ok {by_ fe slot} (h : memoryOk s) : outOk (execRestore by_ fe slot s) := by
  unfold execRestore
  refine asOwner_ok h fun h1 => ?_
  split
  · split
    · exact ite_ok h1 (ite_ok (answer_ok (restoreInOrder_ok h1)) (ite_ok (answer_ok (refuseRestore_ok h1)) (answer_ok (restoreContext_ok h1))))
    · exact h1
  · exact h1

theorem endReset_ok {fe slot q} (h : memoryOk s) : memoryOk (endReset s fe slot q) :=
  ite_ok (unmapQueue_ok (onQueue_ok (dropAskers_ok (report_ok (ite_ok (report_ok h) h)))))
    (onQueue_ok (dropAskers_ok (report_ok (ite_ok (report_ok h) h))))

theorem resetStep_ok {fe slot} (h : memoryOk s) : memoryOk (resetStep s fe slot) := by
  unfold resetStep
  split
  · exact h
  · exact ite_ok h
      (ite_ok h (withFe_ok (ite_ok h (removeTeams_ok (drainCores_ok h))) (fun h1 => endReset_ok h1) fun h1 =>
      ite_ok (endReset_ok h1) (endReset_ok (deviceWrite_ok (fenceFull_ok h1)))))

theorem execQueueReset_ok {by_ fe slot} (h : memoryOk s) : outOk (execQueueReset by_ fe slot s) := by
  unfold execQueueReset
  split
  · exact h
  · exact ite_ok (resetStep_ok h) (asOwner_ok h fun h1 => ite_ok h1 (answer_ok (resetStep_ok (stopQueue_ok h1))))

theorem execTokenBucketWrite_ok {by_ fn fld value} (h : memoryOk s) : outOk (execTokenBucketWrite by_ fn fld value s) :=
  asOwner_ok h fun h1 => ite_ok h1 h1

theorem runDry_ok {fn} (h : memoryOk s) : memoryOk (runDry s fn) := by
  unfold runDry
  dsimp only
  refine foldl_ok (fun h1 => ?_) h
  refine foldl_ok (fun h2 => ?_) h1
  split
  · exact h2
  split
  · exact unmapOrSave_ok h2
  · exact h2
  · exact h2

theorem remapFn_ok {fn} (h : memoryOk s) : memoryOk (remapFn s fn) := by
  unfold remapFn
  dsimp only
  refine restoreInOrder_ok ?_
  refine foldl_ok (fun h1 => ?_) h
  refine foldl_ok (fun h2 => ?_) h1
  split
  · exact h2
  split
  · split <;> exact h2
  · exact h2

theorem execBucketUpdate_ok (h : memoryOk s) : outOk (execBucketUpdate s) :=
  ite_ok h (foldl_ok (fun h1 => ite_ok h1 (ite_ok (runDry_ok h1) (ite_ok (remapFn_ok h1) (ite_ok h1 (remapFn_ok h1))))) h)

/-! ### Crumb -/

theorem execCrumbSel_ok {f} (h : memoryOk s) : outOk (execCrumbSel f s) :=
  withCrumb_ok h fun h1 => crumbNext_ok (cPut_ok h1)

theorem crumbFp_ok {f op} (h : memoryOk s) : outOk (crumbFp f op s) :=
  withCrumb_ok h fun h1 => ite_ok (crumbFault_ok h1) (crumbNext_ok (cPut_ok h1))

theorem execCrumbBf_ok {f} (h : memoryOk s) : outOk (execCrumbBf f s) :=
  withCrumb_ok h fun h1 => ite_ok (crumbFault_ok h1) (ite_ok (goTo_ok h1) (crumbNext_ok h1))

theorem bufAccess_ok {k f act} (h : memoryOk s) (hact : ∀ {x0}, memoryOk (act x0)) : memoryOk (bufAccess s k f act) :=
  ite_ok (sliceFault_ok h) (ite_ok (sliceFault_ok h) hact)

theorem execCrumbLdl_ok {f} (h : memoryOk s) : outOk (execCrumbLdl f s) :=
  onlySlice_ok h fun h1 => bufAccess_ok h1 (crumbNext_ok (cPut_ok h1))

theorem execCrumbStl_ok {f} (h : memoryOk s) : outOk (execCrumbStl f s) :=
  onlySlice_ok h fun h1 => bufAccess_ok h1 (ite_ok (sliceFault_ok h1) (crumbNext_ok h1))

theorem execCrumbRetv_ok {x} (h : memoryOk s) : outOk (execCrumbRetv x s) :=
  onlySlice_ok h fun h1 => sliceDone_ok h1

theorem walkRead_ok {r a} (h : memoryOk s) : memoryOk (walkRead s r a).1 := by
  unfold walkRead
  dsimp only
  refine foldl_ok (fun h1 => seeLatest_ok h1) ?_
  refine foldl_ok (fun h1 => drain_ok h1) ?_
  refine foldl_ok (fun h1 => ?_) h
  split
  · exact performOverlapping_ok h1
  · exact h1

theorem execCrumbLdp_ok {f} (h : memoryOk s) : outOk (execCrumbLdp f s) := by
  unfold execCrumbLdp
  refine onlyWalker_ok h fun h1 => ?_
  dsimp only
  split
  · exact h1
  · exact ite_ok (walkerFault_ok h1)
      (ite_ok (walkerFault_ok h1) (ite_ok (walkerFault_ok h1) (ite_ok (walkerFault_ok h1) (crumbNext_ok (cPut_ok (onWalker_ok (walkRead_ok h1)))))))

theorem execCrumbHash_ok {f} (h : memoryOk s) : outOk (execCrumbHash f s) :=
  onlyWalker_ok h fun h1 => crumbNext_ok (cPut_ok h1)

theorem execCrumbBr_ok {f} (h : memoryOk s) : outOk (execCrumbBr f s) :=
  onlyWalker_ok h fun h1 => ite_ok (goTo_ok h1) (crumbNext_ok h1)

theorem endWalk_ok {w k} (h : memoryOk s) (hk : ∀ {s x y z}, memoryOk s → memoryOk (k s x y z)) : memoryOk (endWalk s w k) := by
  unfold endWalk
  dsimp only
  split
  · exact h
  · exact hk h

theorem execCrumbMapok_ok {x} (h : memoryOk s) : outOk (execCrumbMapok x s) :=
  onlyWalker_ok h fun h1 => endWalk_ok h1 fun h2 => settleVerdict_ok h2

theorem execCrumbMapno_ok {x} (h : memoryOk s) : outOk (execCrumbMapno x s) :=
  onlyWalker_ok h fun h1 => endWalk_ok h1 fun h2 => ite_ok (ite_ok (requeue_ok h2) h2) (failWalk_ok h2)

theorem execCrumbMapflt_ok {x} (h : memoryOk s) : outOk (execCrumbMapflt x s) :=
  onlyWalker_ok h fun h1 => endWalk_ok h1 fun h2 => failWalk_ok h2

/-! ### Sealing -/

theorem onSession_ok {world slot f} (h : memoryOk s) : memoryOk (onSession s world slot f) :=
  h

theorem storeRaw_ok {core world ps bs after} (h : memoryOk s) : memoryOk (storeRaw s core world ps bs after) :=
  foldl_ok (fun h1 => storeWrite_ok h1) h

theorem endStatus_ok {f c st} (h : memoryOk s) : memoryOk (endStatus f s c st) := by
  unfold endStatus
  dsimp only
  split
  · exact h
  · exact endOnce_ok h

theorem openDeliver_ok {f c tid off run st p} (h : memoryOk s) : memoryOk (openDeliver f s c tid off run st p) :=
  endStatus_ok (foldl_ok (fun h1 => ite_ok h1 (present_ok h1)) (spLand_ok h))

theorem keepOpen_ok {gid key st p} (h : memoryOk s) : memoryOk (keepOpen s gid key st p) :=
  foldl_ok (fun h1 => keepResult_ok h1) (keepResult_ok h)

theorem openFinish_ok {f c g t slot ctr data off run} (h : memoryOk s) : memoryOk (openFinish f s c g t slot ctr data off run) := by
  unfold openFinish
  extract_lets x len
  split
  exact openDeliver_ok (keepOpen_ok (ite_ok h h))

theorem escapeTwin_ok {tid role} (h : memoryOk s) : memoryOk (escapeTwin s tid role) :=
  ite_ok h h

theorem openStart_ok {f c g t cl tr x8 len ctr va off run} (h : memoryOk s) : memoryOk (openStart f s c g t cl tr x8 len ctr va off run) := by
  unfold openStart
  dsimp only
  split
  · exact h
  refine pairOp_ok h fun h1 => ?_
  split
  · exact openDeliver_ok (escapeTwin_ok h1)
  split
  · exact openDeliver_ok (keepOpen_ok (performOverlapping_ok (escapeTwin_ok h1)))
  · exact checkedOnce_ok (performOverlapping_ok (escapeTwin_ok h1)) fun h2 => onGroup_ok (foldl_ok (fun h3 => clearPresence_ok h3) h2)

theorem sealFinish_ok {f c g t cl slot n data ps} (h : memoryOk s) : memoryOk (sealFinish f s c g t cl slot n data ps) :=
  ite_ok (endStatus_ok (keepResult_ok h)) (endStatus_ok (escape_ok (keepResult_ok (storeRaw_ok h))))

theorem sealStart_ok {f c g t cl tr x8 len va off} (h : memoryOk s) : memoryOk (sealStart f s c g t cl tr x8 len va off) := by
  unfold sealStart
  dsimp only
  split
  · exact blockOnce_ok h
  split
  · exact consumeScratch_ok h
  split
  · exact h
  refine pairOp_ok (seeBefore_ok (correctScratch_ok h)) fun h1 => ?_
  split
  · exact endStatus_ok (escapeTwin_ok h1)
  split
  · exact endStatus_ok (keepResult_ok (escapeTwin_ok h1))
  · exact ite_ok (endStatus_ok (keepResult_ok (escapeTwin_ok h1)))
      (ite_ok (endStatus_ok (keepResult_ok (escapeTwin_ok h1))) (onGroup_ok (performOverlapping_ok (onSession_ok (escapeTwin_ok h1)))))

theorem cryptWord_ok {f sealing} (h : memoryOk s) : memoryOk (cryptWord f sealing s) := by
  unfold cryptWord
  dsimp only
  refine issueWord_ok h fun h1 => ?_
  split
  · exact endWord_ok h1
  split
  · exact ite_ok (sealFinish_ok h1) (openFinish_ok h1)
  · exact ite_ok (trapOnce_ok h1)
      (ite_ok (trapOnce_ok h1)
      (ite_ok (trapOnce_ok h1)
      (ite_ok (trapOnce_ok h1) (ite_ok (trapOnce_ok h1) (withPages_ok h1 fun h2 => ite_ok (sealStart_ok h2) (openStart_ok h2))))))

/-! ### World -/

theorem bumpGen_ok (h : memoryOk s) : memoryOk (bumpGen s) :=
  h

theorem grant_ok {space idx e} (h : memoryOk s) : optOk (grant s space idx e) := by
  unfold grant
  split
  · exact trivial
  split
  · exact trivial
  · exact h

theorem execExtentGrant_ok {by_ space idx e} (h : memoryOk s) : outOk (execExtentGrant by_ space idx e s) := by
  refine asOwner_ok h fun h1 => ?_
  split
  next e =>
    have h2 := some_ok e (grant_ok h1)
    exact h2
  · exact h1

theorem execExtentFillDone_ok (h : memoryOk s) : outOk (execExtentFillDone s) := by
  unfold execExtentFillDone
  split
  · split
    · exact ite_ok h (fillRange_ok h)
    · exact h
  · exact h

theorem applyChange_ok {x} (h : memoryOk s) : memoryOk (applyChange s x) := by
  unfold applyChange
  split
  · exact ite_ok (bumpGen_ok (ite_ok h h)) h
  · exact h

theorem execExtentChange_ok {by_ space idx e} (h : memoryOk s) : outOk (execExtentChange by_ space idx e s) := by
  unfold execExtentChange
  split
  · exact ite_ok h (ite_ok (applyChange_ok h) h)
  refine asOwner_ok h fun h1 => ?_
  split
  · exact ite_ok h1 (ite_ok h1 (applyChange_ok h1))
  · exact h1

theorem grantAll_ok {l} (h : memoryOk s) : optOk (grantAll l s) := by
  induction l generalizing s with
  | nil => exact h
  | cons x l ih =>
    unfold grantAll
    cases e : grant s x.1 x.2.1 x.2.2 with
    | none => exact trivial
    | some t => exact ih (some_ok e (grant_ok h))

theorem execPageRequestResponse_ok {by_ part seq granted exts} (h : memoryOk s) : outOk (execPageRequestResponse by_ part seq granted exts s) := by
  unfold execPageRequestResponse
  refine asOwner_ok h fun h1 => ?_
  split
  · exact h1
  dsimp only
  split
  · exact h1
  split
  · exact h1
  next e => 
    have h2 := some_ok e (grantAll_ok h1)
    exact ite_ok (requeue_ok h2) (failWalk_ok h2)

theorem takeRequests_ok (h : memoryOk s) : memoryOk (takeRequests s) :=
  h

theorem execSpaceCreate_ok {by_ space world arenaPa walkerPa} (h : memoryOk s) : outOk (execSpaceCreate by_ space world arenaPa walkerPa s) :=
  asOwner_ok h fun h1 => ite_ok h1 (answer_ok (fillRange_ok (fillRange_ok h1)))

theorem execWorldCreate_ok {by_ world part test evFrame doorFrame} (h : memoryOk s) : outOk
    (execWorldCreate by_ world part test evFrame doorFrame s) :=
  asOwner_ok h fun h1 => ite_ok h1 h1

theorem dropColour_ok {part} (h : memoryOk s) : memoryOk (dropColour s part) :=
  foldl_ok (fun h1 => writeBack_ok h1) h

theorem relayout_ok {c} (h : memoryOk s) : optOk (relayout s c) := by
  unfold relayout
  split
  case h_2 => exact ite_some_ok (onPart_ok (dropColour_ok h))
  case h_3 | h_4 =>
    split
    · exact ite_some_ok h
    · exact trivial
  case h_10 =>
    split
    · exact trivial
    dsimp only
    split
    · exact trivial
    split
    · exact h
    · exact ite_some_ok h
  all_goals exact ite_some_ok h

theorem execLayoutChange_ok {by_ c} (h : memoryOk s) : outOk (execLayoutChange by_ c s) := by
  refine asOwner_ok h fun h1 => ?_
  split
  next e =>
    have h2 := some_ok e (relayout_ok h1)
    exact ite_ok h2 h2
  · exact h1

theorem execEvidenceRequest_ok {by_ world nonce} (h : memoryOk s) : outOk (execEvidenceRequest by_ world nonce s) := by
  unfold execEvidenceRequest
  refine asOwner_ok h fun h1 => ?_
  split <;> exact h1

theorem execKeyInstall_ok {by_ m} (h : memoryOk s) : outOk (execKeyInstall by_ m s) := by
  unfold execKeyInstall
  split
  · exact h
  refine asOwner_ok h fun h1 => ?_
  split
  · exact h1
  split
  · exact h1
  split <;> exact h1

theorem execMeasuredLoad_ok {by_ world space src len idx} (h : memoryOk s) : outOk (execMeasuredLoad by_ world space src len idx s) := by
  unfold execMeasuredLoad
  refine asOwner_ok h fun h1 => ?_
  split
  · exact ite_ok h1 (answer_ok (deviceWrite_ok (flushBytes_ok h1)))
  · exact h1

theorem setTdisp_ok {fn st} (h : memoryOk s) : memoryOk (setTdisp s fn st) := by
  unfold setTdisp
  dsimp only
  split
  · exact ite_ok (report_ok h) h
  · exact h

theorem execInterfaceUnlocked_ok {world err} (h : memoryOk s) : outOk (execInterfaceUnlocked world err s) := by
  unfold execInterfaceUnlocked
  split
  · exact setTdisp_ok h
  · exact h

theorem execTdispBind_ok {by_ world fn} (h : memoryOk s) : outOk (execTdispBind by_ world fn s) := by
  unfold execTdispBind
  refine asOwner_ok h fun h1 => ?_
  split
  · exact h1
  · exact ite_ok h1 h1

theorem beginRevoke_ok {w} (h : memoryOk s) : memoryOk (beginRevoke s w) := by
  unfold beginRevoke
  extract_lets s1 s2 tids s3 s4
  have h2 : memoryOk s2 := foldl_ok (fun h => stopQueue_ok h) h
  have h4 : memoryOk s4 := dropAskers_ok (stopIssue_ok h2)
  exact h4

theorem revokeQueue_ok {fe slot} (h : memoryOk s) : memoryOk (revokeQueue s fe slot) := by
  unfold revokeQueue
  dsimp only
  split
  · exact ite_ok (endReset_ok (dropAskers_ok (resetStep_ok h))) (resetStep_ok h)
  · exact resetStep_ok h

theorem endRevoke_ok {w} (h : memoryOk s) : memoryOk (endRevoke s w) :=
  report_ok h

theorem revokeStep_ok {w} (h : memoryOk s) : memoryOk (revokeStep s w) :=
  ite_ok (foldl_ok (fun h1 => revokeQueue_ok h1) h) (endRevoke_ok (foldl_ok (fun h1 => revokeQueue_ok h1) h))

theorem execRevocation_ok {by_ world} (h : memoryOk s) : outOk (execRevocation by_ world s) := by
  unfold execRevocation
  split
  · exact asOwner_ok h fun h1 => h1
  · exact ite_ok (revokeStep_ok h) (asOwner_ok h fun h1 => answer_ok (revokeStep_ok (beginRevoke_ok h1)))

/-! ### Reliability -/

theorem execScrub_ok (h : memoryOk s) : outOk (execScrub s) := by
  unfold execScrub
  split
  · split
    · exact h
    dsimp only
    split
    · exact report_ok h
    split
    · exact h
    · exact noteCorrection_ok h
    · exact report_ok h
  · exact h

theorem landAgain_ok {tid x} (h : memoryOk s) : memoryOk (landAgain s tid x) := by
  unfold landAgain
  dsimp only
  split
  · refine updateObj_ok ?_
    split
    · exact landTag_ok (ite_ok h (ite_ok (spLand_ok h) (present_ok (spLand_ok h))))
    · exact ite_ok h (ite_ok (spLand_ok h) (present_ok (spLand_ok h)))
  · split
    · exact landTag_ok (ite_ok h (ite_ok (spLand_ok h) (present_ok (spLand_ok h))))
    · exact ite_ok h (ite_ok (spLand_ok h) (present_ok (spLand_ok h)))

theorem rollTeam_ok {tid} (h : memoryOk s) : memoryOk (rollTeam s tid) := by
  unfold rollTeam
  split
  · exact h
  · exact foldl_ok (fun h1 => tryGive_ok h1) (onTeam_ok (newInterval_ok (foldl_ok (fun h1 => landAgain_ok h1) h)))

theorem correctImage_ok {tid} (h : memoryOk s) : memoryOk (correctImage s tid) := by
  unfold correctImage
  split
  · exact h
  · exact foldl_ok (fun h1 => noteCorrection_ok h1) h

theorem execRollback_ok (h : memoryOk s) : outOk (execRollback s) := by
  unfold execRollback
  split
  · split
    · exact h
    dsimp only
    split
    · exact h
    split
    · exact setAnswer_ok (report_ok (foldl_ok (fun h1 => correctImage_ok h1) h))
    · exact serveAll_ok (report_ok (foldl_ok (fun h1 => rollTeam_ok h1) (foldl_ok (fun h1 => correctImage_ok h1) h)))
  · exact h

theorem execBundleDiscarded_ok (h : memoryOk s) : outOk (execBundleDiscarded s) := by
  unfold execBundleDiscarded
  split
  · split
    · exact h
    · exact ite_ok h (stopQueue_ok (foldl_ok (fun h1 => h1) h))
  · exact h

theorem takeMismatch_ok {e} (h : memoryOk s) : memoryOk (takeMismatch s e) :=
  takeTrap_ok h

theorem mismatch_ok {a b} (h : memoryOk s) : memoryOk (mismatch s a b) := by
  unfold mismatch
  dsimp only
  split
  · exact foldl_ok (fun h1 => h1) h
  · exact ite_ok (setAnswer_ok (foldl_ok (fun h1 => h1) h))
      (ite_ok (setAnswer_ok (foldl_ok (fun h1 => h1) h)) (takeMismatch_ok (takeMismatch_ok (foldl_ok (fun h1 => h1) h))))

theorem execCompareEntry_ok (h : memoryOk s) : outOk (execCompareEntry s) := by
  unfold execCompareEntry
  split
  · split
    · exact h
    split
    · exact h
    · exact ite_ok h (mismatch_ok h)
  · exact h

/-! ### HostSide -/

theorem replyTo_ok {fn bs} (h : memoryOk s) : memoryOk (replyTo s fn bs) :=
  h

theorem execHostWindowAccess_ok {fn offset write bytes} (h : memoryOk s) : outOk (execHostWindowAccess fn offset write bytes s) := by
  unfold execHostWindowAccess
  split
  · exact h
  dsimp only
  split
  · refine foldl_ok (fun h1 => ?_) h
    split <;> exact h1
  · exact replyTo_ok (foldl_ok (fun h1 => noteCorrection_ok h1) h)

theorem endCommit_ok {fn} (h : memoryOk s) : memoryOk (endCommit s fn) :=
  h

theorem dropCommit_ok {fn e} (h : memoryOk s) : memoryOk (dropCommit s fn e) :=
  droppedWrite_ok h

theorem execSubmissionCommit_ok {fn e data target q} (h : memoryOk s) : outOk (execSubmissionCommit fn e data target q s) := by
  unfold execSubmissionCommit
  split
  · exact h
  split
  · exact h
  split
  · exact dropCommit_ok h
  · exact ite_ok (dropCommit_ok h) (withFe_ok h (fun h1 => dropCommit_ok h1) fun h1 => endCommit_ok (deviceWrite_ok (fenceFull_ok h1)))

theorem execDoeRequest_ok {by_ fn k} (h : memoryOk s) : outOk (execDoeRequest by_ fn k s) := by
  unfold execDoeRequest
  split
  · exact h
  split
  · exact h
  split
  · exact h
  · exact h
  · exact h
  · exact ite_ok (answer_ok (setTdisp_ok h)) h
  · exact ite_ok (answer_ok (setTdisp_ok h)) h
  · exact answer_ok (setTdisp_ok h)
  · exact answer_ok (ite_ok (takeRequests_ok (ite_ok h h)) (ite_ok h h))
  · exact ite_ok (asOwner_ok h fun h1 => h1) h

theorem becomeOwner_ok {a} (h : memoryOk s) : memoryOk (becomeOwner s a) :=
  report_ok h

theorem asMaster_ok {a k} (h : memoryOk s) (hk : ∀ {s}, memoryOk s → memoryOk (k s)) : memoryOk (asMaster s a k) :=
  ite_ok h (ite_ok h (hk h))

theorem execClaim_ok {by_} (h : memoryOk s) : outOk (execClaim by_ s) := by
  unfold execClaim
  refine asMaster_ok h fun h1 => ?_
  split
  · exact answer_ok (becomeOwner_ok h1)
  · exact h1

theorem execHandover_ok {by_ to_} (h : memoryOk s) : outOk (execHandover by_ to_ s) :=
  asMaster_ok h fun h1 => asOwner_ok h1 fun h2 => ite_ok h2 h2

theorem execAccept_ok {by_} (h : memoryOk s) : outOk (execAccept by_ s) := by
  unfold execAccept
  refine asMaster_ok h fun h1 => ?_
  split
  · exact ite_ok (answer_ok (becomeOwner_ok h1)) h1
  · exact h1

theorem execForce_ok {by_} (h : memoryOk s) : outOk (execForce by_ s) :=
  asMaster_ok h fun h1 => ite_ok (answer_ok (becomeOwner_ok h1)) h1

theorem execHandoverTimeout_ok (h : memoryOk s) : outOk (execHandoverTimeout s) := by
  unfold execHandoverTimeout
  split
  · exact ite_ok h h
  · exact h

theorem execCxlLinkFailure_ok (h : memoryOk s) : outOk (execCxlLinkFailure s) := by
  unfold execCxlLinkFailure
  split
  · exact ite_ok h (report_ok h)
  · exact h

theorem execPowerCapSet_ok {by_ watts} (h : memoryOk s) : outOk (execPowerCapSet by_ watts s) :=
  asMaster_ok h fun h1 => ite_ok h1 (ite_ok h1 (asOwner_ok h1 fun h2 => h2))

theorem execPowerAverage_ok (h : memoryOk s) : outOk (execPowerAverage s) := by
  unfold execPowerAverage
  split
  · exact ite_ok h (ite_ok (ite_ok (ite_ok (report_ok h) h) h) (ite_ok h h))
  · exact h

theorem powerLost_ok (h : memoryOk s) : memoryOk (powerLost s) :=
  fillRange_ok h

theorem execThermalLimit_ok {nougat unit celsius} (h : memoryOk s) : outOk (execThermalLimit nougat unit celsius s) :=
  ite_ok h (ite_ok (powerLost_ok (report_ok h)) (ite_ok (ite_ok h (report_ok h)) h))

/-! ### Matrix -/

theorem startConv_ok {key} (h : memoryOk s) : memoryOk (startConv s key) := by
  unfold startConv
  dsimp only
  split
  · exact h
  · exact ite_ok h h

theorem startTiled_ok (h : memoryOk s) : memoryOk (startTiled s) :=
  foldl_ok (fun h1 => startConv_ok h1) h

theorem execMma_ok {f} (h : memoryOk s) : outOk (execMma f s) := by
  unfold execMma
  refine issueWord_ok h fun h1 => ?_
  split
  · exact endWord_ok h1
  dsimp only
  split
  · exact takeTrap_ok h1
  · exact endWord_ok h1

theorem arm_ok {key t v} (h : memoryOk s) : memoryOk (arm s key t v) :=
  startTiled_ok h

theorem execMsg_ok {f} (h : memoryOk s) : outOk (execMsg f s) := by
  unfold execMsg
  refine issueWord_ok h fun h1 => ?_
  split
  · exact endWord_ok h1
  dsimp only
  split
  · exact takeTrap_ok h1
  split
  · exact takeTrap_ok h1
  · exact ite_ok (takeTrap_ok h1) (ite_ok (arm_ok (endWord_ok h1)) (endWord_ok h1))

theorem execMofn_ok {f} (h : memoryOk s) : outOk (execMofn f s) :=
  issueWord_ok h fun h1 => endWord_ok h1

theorem execMwt_ok {f} (h : memoryOk s) : outOk (execMwt f s) :=
  issueWord_ok h fun h1 => ite_ok (endWord_ok h1) (ite_ok (raiseDivergence_ok h1) (ite_ok (endWord_ok h1) (endWord_ok h1)))

theorem completeMember_ok {key v t lead diverged gid g} (h : memoryOk s) : memoryOk (completeMember s key v t lead diverged gid g) := by
  unfold completeMember
  cases g.hardErrs (unitReads v t lead) with
  | nil => exact onGroup_ok h
  | cons e es => exact engineConsume_ok (reportConsumed_ok (onGroup_ok h))

theorem correctOperands_ok {v t leadId ms} (h : memoryOk s) : memoryOk (correctOperands s v t leadId ms) :=
  foldl_ok (fun h1 => correctRegs_ok h1) (ite_ok (correctScratch_ok (correctScratch_ok h)) h)

theorem completeConv_ok {key v} (h : memoryOk s) : memoryOk (completeConv s key v) := by
  unfold completeConv
  split
  · extract_lets corrected errB lost done completed idle released consumed
    have hc : memoryOk completed := foldl_ok (fun h1 => completeMember_ok h1) (correctOperands_ok h)
    have hr : memoryOk released := releaseConv_ok hc
    have hi : memoryOk consumed := ite_ok (engineConsume_ok (reportConsumed_ok hr)) hr
    exact takeImages_ok (startTiled_ok (foldl_ok (fun h1 => tryGive_ok h1) hi))
  · exact h

theorem execMatrixArmedStart_ok (h : memoryOk s) : outOk (execMatrixArmedStart s) := by
  unfold execMatrixArmedStart
  split
  · exact startConv_ok h
  · exact h

theorem execMatrixComplete_ok (h : memoryOk s) : outOk (execMatrixComplete s) := by
  unfold execMatrixComplete
  split
  · exact ite_ok (completeConv_ok h) h
  · exact h

theorem spoilTiles_ok {gid g lo n} (h : memoryOk s) : memoryOk (spoilTiles s gid g lo n) :=
  ite_ok (onGroup_ok (foldl_ok (fun h1 => foldl_ok (fun h2 => h2) h1) h)) h

theorem execMldT_ok {f} (h : memoryOk s) : outOk (execMldT f s) := by
  unfold execMldT
  dsimp only
  refine issueWord_ok h fun h1 => ?_
  split
  · exact endWord_ok h1
  split
  · exact trapOnce_ok h1
  split
  · exact trapOnce_ok h1
  split
  · exact blockOnce_ok h1
  · exact ite_ok (consumeScratch_ok h1) (endOnce_ok (spoilTiles_ok (seeBefore_ok (correctScratch_ok h1))))

theorem execMldA_ok {f} (h : memoryOk s) : outOk (execMldA f s) :=
  issueWord_ok h fun h1 =>
    ite_ok (endWord_ok h1)
    (ite_ok (trapOnce_ok h1) (ite_ok (takeTrap_ok h1) (ite_ok (consumeScratch_ok h1) (ite_ok (consumeScratch_ok h1) (spRun_ok (endWord_ok h1))))))

theorem execMz_ok {f} (h : memoryOk s) : outOk (execMz f s) :=
  issueWord_ok h fun h1 => endWord_ok h1

theorem raiseMarked_ok {c g t cl as} (h : memoryOk s) : memoryOk (raiseMarked s c g t cl as) :=
  consumeError_ok (reportConsumed_ok h)

theorem execMdrGet_ok {f} (h : memoryOk s) : outOk (execMdrGet f s) :=
  issueWord_ok h fun h1 => ite_ok (endWord_ok h1) (ite_ok (raiseMarked_ok h1) (endWord_ok h1))

theorem execMdrPut_ok {f} (h : memoryOk s) : outOk (execMdrPut f s) :=
  issueWord_ok h fun h1 => ite_ok (endWord_ok h1) (endWord_ok h1)

theorem drainEffect_ok {d c g t cl k} (h : memoryOk s) (hk : ∀ {s x}, memoryOk s → memoryOk (k s x)) : memoryOk (drainEffect d s c g t cl k) :=
  ite_ok (diverge_ok h) (hk h)

theorem drainScratch_ok {d as ws record c g t cl} (h : memoryOk s) : memoryOk (drainScratch d as ws record s c g t cl) := by
  unfold drainScratch
  split
  · exact trapOnce_ok h
  split
  · exact raiseMarked_ok h
  split
  · exact blockOnce_ok h
  · exact pairOp_ok h fun h1 => drainEffect_ok h1 fun h2 => spRun_ok (ite_ok (endOnce_ok h2) (endWord_ok h2))

theorem drainGlobal_ok {d as ws record c t cl} (h : memoryOk s) : memoryOk (drainGlobal d as ws record s c t cl) := by
  unfold drainGlobal
  extract_lets bytes
  split
  · exact trapOnce_ok h
  refine withPages_ok h fun h1 => ite_ok (raiseMarked_ok h1) ?_
  refine pairOp_ok h1 fun h2 => drainEffect_ok h2 fun h3 => ite_ok (endWord_ok (mirrorStore_ok h3)) ?_
  extract_lets performed g after stored kept
  have hs : memoryOk stored := foldl_ok (fun h4 => storeOne_ok h4) (performOverlapping_ok h3)
  have hk : memoryOk kept := ite_ok (keepResult_ok hs) hs
  exact endWord_ok (ite_ok (escape_ok hk) hk)

theorem execMdrx_ok {f} (h : memoryOk s) : outOk (execMdrx f s) :=
  issueWord_ok h fun h1 => ite_ok (endWord_ok h1) (ite_ok (trapOnce_ok h1) (ite_ok (drainScratch_ok h1) (drainGlobal_ok h1)))

/-! ### Trap -/

theorem execTrap_ok {f} (h : memoryOk s) : outOk (execTrap f s) :=
  issueWord_ok h fun h1 => ite_ok (endWord_ok h1) (takeTrap_ok h1)

theorem execBkpt_ok {f} (h : memoryOk s) : outOk (execBkpt f s) :=
  issueWord_ok h fun h1 => ite_ok (endWord_ok h1) (takeTrap_ok h1)

theorem returnFrom_ok {f skip} (h : memoryOk s) : memoryOk (returnFrom f skip s) :=
  issueWord_ok h fun h1 => onGroup_ok (endWord_ok h1)

theorem execSrr_ok {f} (h : memoryOk s) : outOk (execSrr f s) :=
  issueWord_ok h fun h1 => endResult_ok h1

theorem execSrw_ok {f} (h : memoryOk s) : outOk (execSrw f s) :=
  issueWord_ok h fun h1 => ite_ok (endWord_ok h1) (endWord_ok h1)

/-! ### Todo -/

theorem crumbTodo_ok {e} (h : memoryOk s) : todoOk (crumbTodo s e) := by
  unfold crumbTodo
  dsimp only
  split
  · split
    · exact h
    split
    · exact h
    split
    · exact h
    · exact crumbFault_ok h
  · split
    · exact h
    split
    · exact walkerFault_ok h
    split
    · exact h
    split
    · exact h
    · exact crumbFault_ok h

theorem onUpset_ok {single world kind index sub hard} (h : memoryOk s) (hhard : ∀ {s}, memoryOk s → memoryOk (hard s)) : memoryOk
    (onUpset single s world kind index sub hard) :=
  ite_ok (noteCorrection_ok h) (hhard h)

theorem strike_loseWorld_ok {w} (h : memoryOk s) : memoryOk (strike.loseWorld s w) :=
  ite_ok h (revokeStep_ok (beginRevoke_ok h))

theorem strike_ok {u} (h : memoryOk s) : memoryOk (strike s u) := by
  unfold strike
  split
  · split
    · exact h
    split <;> exact h
  · split
    · exact h
    · exact ite_ok h (ite_ok h h)
  · exact h
  · exact h
  · exact h
  · split <;> exact h
  · split
    · exact onUpset_ok h fun h1 => ite_ok h1 h1
    · exact h
  · split
    · exact onUpset_ok h fun h1 => ite_ok h1 h1
    · exact h
  · exact ite_ok (onUpset_ok h fun h1 => coherenceFatal_ok h1) h
  · exact ite_ok h (onUpset_ok h fun h1 => coherenceFatal_ok h1)
  · exact h
  · exact ite_ok h (onUpset_ok h fun h1 => strike_loseWorld_ok (report_ok h1))
  · exact ite_ok h (onUpset_ok h fun h1 => strike_loseWorld_ok (report_ok h1))
  · exact h

theorem moveTodo_ok {y} (h : memoryOk s) : todoOk (moveTodo s y) := by
  unfold moveTodo
  split
  · exact h
  · exact crumbTodo_ok h
  · split
    · exact trivial
    · exact settle_ok (drain_ok h)
  · exact reach_ok h
  · exact strike_ok h
  · exact h

theorem todo_ok (h : memoryOk s) : todoOk (todo s) := by
  unfold todo
  split
  · split
    · exact h
    · dsimp only
      split <;> exact beginPair_ok h
    · exact withWord_ok h fun h1 => takeTrap_ok h1
  · split <;> exact h
  · split <;> exact h
  · split
    · exact h
    · exact moveTodo_ok h

theorem lineGuard_ok {o} (h : memoryOk s) (ho : outOk o) : outOk (lineGuard s o) := by
  unfold lineGuard
  split
  · split
    · exact ho
    split
    · exact h
    split <;> exact h
  · exact ho

theorem nextTodo_ok (h : memoryOk s) : todoOk (nextTodo s) := by
  unfold nextTodo
  split
  · split
    · exact h
    · exact todo_ok h
  · exact todo_ok h

/-- Every instruction and every event keeps global memory canonical. -/
theorem exec_ok {i} (h : memoryOk s) : outOk (exec i s) := by
  cases i <;> dsimp only [exec]
  case nop => exact execNop_ok h
  case iadd | isub | iadd3 | imul | imad | imulh | imin | imax | iabs | and | or | xor | tern | lea | shl | shr | fsh | bfx | bfi | popc | clz |
    brev | bsel | isetp | sel | mov | psetp | p2v | fadd | fmul | ffma | fmin | fmax | fsetp | fclass | frnd | frcp | frsq | fsqrt | fex2 | flg2 |
    fsin | fcos | ftanh | dadd | dmul | dfma | fscl | hadd2 | hmul2 | hfma2 | hmnmx2 | pdot4 | pdot8 | f2i | i2f | f2f => exact runAlu_ok h
  case movi | iaddi => exact runAluI_ok h
  case v2p => exact execV2p_ok h
  case pcvt | unpk => exact withSlot_ok h
  case ld | sld | lda => exact loadWord_ok h
  case st | strel => exact storeWord_ok h
  case atom | atomx | red => exact atomicWord_ok h
  case fence => exact execFence_ok h
  case cctlIvl1 => exact execCctlIvl1_ok h
  case cctlIvl1All => exact execCctlIvl1All_ok h
  case cctlDemote => exact execCctlDemote_ok h
  case prf => exact execPrf_ok h
  case iflush => exact execIflush_ok h
  case isync => exact execIsync_ok h
  case presTest => exact execPresTest_ok h
  case presSet => exact execPresSet_ok h
  case presClr => exact execPresClr_ok h
  case acp => exact execAcp_ok h
  case acpc => exact execAcpc_ok h
  case acpw => exact execAcpw_ok h
  case bcpLd | bcpSt => exact bulkWord_ok h
  case rfence => exact execRfence_ok h
  case rfenceAll => exact execRfenceAll_ok h
  case binit => exact execBinit_ok h
  case barv => exact execBarv_ok h
  case bwait => exact execBwait_ok h
  case bwaitToken => exact execBwaitToken_ok h
  case bwaitTest => exact execBwaitTest_ok h
  case mldT => exact execMldT_ok h
  case mldA => exact execMldA_ok h
  case mma => exact execMma_ok h
  case msg => exact execMsg_ok h
  case mofn => exact execMofn_ok h
  case mwt => exact execMwt_ok h
  case mz => exact execMz_ok h
  case mdrGet => exact execMdrGet_ok h
  case mdrPut => exact execMdrPut_ok h
  case mdrx => exact execMdrx_ok h
  case bra => exact execBra_ok h
  case brx | ret => exact indirect_ok h
  case call | callInd => exact callWith_ok h
  case meet | meetClr | meetReg => exact meetWith_ok h
  case exit => exact execExit_ok h
  case yield => exact execYield_ok h
  case voteAll | voteAny | voteSame => exact voteWith_ok h
  case voteBallot => exact execVoteBallot_ok h
  case shfl => exact execShfl_ok h
  case matchAny => exact execMatchAny_ok h
  case matchAll => exact execMatchAll_ok h
  case elect => exact execElect_ok h
  case gred => exact execGred_ok h
  case sread => exact execSread_ok h
  case tbar | rchk => exact teamBarrier_ok h
  case rgive => exact execRgive_ok h
  case rclaim => exact execRclaim_ok h
  case lrinv => exact execLrinv_ok h
  case lrload => exact execLrload_ok h
  case tlbinv | tlbinvAll => exact tlbinvWord_ok h
  case xopen | xseal => exact cryptWord_ok h
  case trap => exact execTrap_ok h
  case rtt | rttSkip => exact returnFrom_ok h
  case srr => exact execSrr_ok h
  case srw => exact execSrw_ok h
  case bkpt => exact execBkpt_ok h
  case wrload => exact execWrload_ok h
  case pairNop => exact runSlot_ok h
  case pairMov | pairIadd | pairIsub | pairAnd | pairOr | pairXor | pairShl | pairShr | pairImin | pairImax | pairImul | pairShli | pairShri |
    pairIaddi8 | pairMovi8 => exact runSlotOp_ok h
  case pairFadd | pairFmul | pairFmin | pairFmax | pairHadd2 | pairHmul2 => exact runSlotFp_ok h
  case crumbAdd | crumbSub | crumbMul | crumbAnd | crumbOr | crumbXor | crumbShl | crumbShr | crumbSar | crumbRotr | crumbMin | crumbMax |
    crumbMinz | crumbMaxz | crumbSeq | crumbSlt | crumbSltz | crumbAddi | crumbLi | crumbLih => exact crumbAlu_ok h
  case crumbSel => exact execCrumbSel_ok h
  case crumbFadd | crumbFmin | crumbFmax => exact crumbFp_ok h
  case crumbBf => exact execCrumbBf_ok h
  case crumbLdl => exact execCrumbLdl_ok h
  case crumbStl => exact execCrumbStl_ok h
  case crumbRetv => exact execCrumbRetv_ok h
  case crumbLdp => exact execCrumbLdp_ok h
  case crumbHash => exact execCrumbHash_ok h
  case crumbBr => exact execCrumbBr_ok h
  case crumbMapok => exact execCrumbMapok_ok h
  case crumbMapno => exact execCrumbMapno_ok h
  case crumbMapflt => exact execCrumbMapflt_ok h
  case leaseEnd | predictorDecay | configurationRequest => exact ite_ok h h
  case walkRequest => exact execWalkRequest_ok h
  case pageRequestResponse => exact execPageRequestResponse_ok h
  case queueMap => exact execQueueMap_ok h
  case queueUnmap => exact execQueueUnmap_ok h
  case compactorMove => exact execCompactorMove_ok h
  case tokenBucketWrite => exact execTokenBucketWrite_ok h
  case preempt => exact execPreempt_ok h
  case restore => exact execRestore_ok h
  case queueReset => exact execQueueReset_ok h
  case extentGrant => exact execExtentGrant_ok h
  case extentChange => exact execExtentChange_ok h
  case layoutChange => exact execLayoutChange_ok h
  case worldCreate => exact execWorldCreate_ok h
  case evidenceRequest => exact execEvidenceRequest_ok h
  case keyInstall => exact execKeyInstall_ok h
  case measuredLoad => exact execMeasuredLoad_ok h
  case revocation => exact execRevocation_ok h
  case interfaceUnlocked => exact execInterfaceUnlocked_ok h
  case tdispBind => exact execTdispBind_ok h
  case allowlistDenied => exact ite_ok h (ite_ok (ite_ok h h) (report_ok (ite_ok h h)))
  case hostWindowAccess => exact execHostWindowAccess_ok h
  case submissionCommit => exact execSubmissionCommit_ok h
  case doeRequest => exact execDoeRequest_ok h
  case claim => exact execClaim_ok h
  case handover => exact execHandover_ok h
  case accept => exact execAccept_ok h
  case force => exact execForce_ok h
  case deviceReset => exact h
  case powerCapSet => exact execPowerCapSet_ok h
  case thermalLimit => exact execThermalLimit_ok h
  case spaceCreate => exact execSpaceCreate_ok h
  case issueCycle => exact execIssueCycle_ok h
  case claimDeadlock => exact execClaimDeadlock_ok h
  case barrierStarved => exact execBarrierStarved_ok h
  case transferLands => exact execTransferLands_ok h
  case bulkSectorLands => exact execBulkSectorLands_ok h
  case bulkStoreSectorCredit => exact execBulkStoreSectorCredit_ok h
  case matrixArmedStart => exact execMatrixArmedStart_ok h
  case matrixComplete => exact execMatrixComplete_ok h
  case shippedAtomic => exact execShippedAtomic_ok h
  case l1LineExpiry => exact execL1LineExpiry_ok h
  case invocationArrival => exact execInvocationArrival_ok h
  case invocationRun => exact execInvocationRun_ok h
  case invocationReturn => exact execInvocationReturn_ok h
  case routineImageDrop => exact execRoutineImageDrop_ok h
  case walkStart => exact execWalkStart_ok h
  case heldWalkRecheck => exact execHeldWalkRecheck_ok h
  case rds | rdx | upg => exact cohRequest_ok h
  case wbd | evc => exact evict_ok h
  case fws => exact execFws_ok h
  case fwx => exact execFwx_ok h
  case inv => exact execInv_ok h
  case rcl => exact execRcl_ok h
  case hrc => exact execHrc_ok h
  case hrs => exact execHrs_ok h
  case hrx => exact execHrx_ok h
  case hwb => exact execHwb_ok h
  case rel => exact execRel_ok h
  case spl => exact execSpl_ok h
  case prb => exact execPrb_ok h
  case dat => exact execDat_ok h
  case dak => exact execDak_ok h
  case iak => exact execIak_ok h
  case wak => exact execWak_ok h
  case recallTimeout => exact execRecallTimeout_ok h
  case nougatLost => exact execNougatLost_ok h
  case doorbell => exact execDoorbell_ok h
  case nopPacket => exact execNopPacket_ok h
  case bundle => exact execBundle_ok h
  case wait => exact execWait_ok h
  case waitSatisfied => exact execWaitSatisfied_ok h
  case copySublaunch => exact execCopySublaunch_ok h
  case fillSublaunch => exact execFillSublaunch_ok h
  case gridEnd => exact execGridEnd_ok h
  case bundleRetire => exact execBundleRetire_ok h
  case teamPlacement | coresidentPlacement | twinPlacement => exact placeNext_ok h
  case bucketUpdate => exact execBucketUpdate_ok h
  case engineQuiesced => exact execEngineQuiesced_ok h
  case scrub => exact execScrub_ok h
  case rollback => exact execRollback_ok h
  case bundleDiscarded => exact execBundleDiscarded_ok h
  case compareEntry => exact execCompareEntry_ok h
  case extentFillDone => exact execExtentFillDone_ok h
  case hostDoorbellWrite => exact execHostDoorbellWrite_ok h
  case doorbellFrameStore => exact execDoorbellFrameStore_ok h
  case controlPairMismatch => exact ite_ok h (stopAll_ok (report_ok h))
  case handoverTimeout => exact execHandoverTimeout_ok h
  case cxlLinkFailure => exact execCxlLinkFailure_ok h
  case powerAverage => exact execPowerAverage_ok h
  case walkerStoreDrop => exact execWalkerStoreDrop_ok h
  case loadReturn => exact execLoadReturn_ok h

/-! ### Step -/

theorem step_ok (h : memoryOk s) : outOk (step s) := by
  unfold step
  refine lineGuard_ok h ?_
  have h1 := nextTodo_ok h
  split
  next e => rw [e] at h1; exact exec_ok h1
  next e => rw [e] at h1; exact h1

end

/-- Settles O60: the step's operations are instructions and events, and each keeps memory canonical (`exec_ok`). -/
theorem stepKeepsMemoryCanonical : Obligations.StepKeepsMemoryCanonical := by
  unfold Obligations.StepKeepsMemoryCanonical
  intro s s' h e
  have next : outOk (step s) := step_ok h
  rw [e] at next
  exact next

end Sys2Proof.Proofs.MemoryOk

namespace Sys2Proof.Proofs.HomeMemory

/-! What a world writes to home memory it reads back (O58). A byte of home memory, as a world reads it, is `plainByte`: a unit under another
key shows its bytes through that key and this one. A write first brings the units that it touches under the world's key (`setForms`), which
changes no `plainByte` of the world, and then stores plaintext. -/

open Sys2Proof Sys2Proof.Machine Sys2Proof.Laws

/-! ### The transform of a unit (R388) -/

theorem aesKeys_length {key : List Nat} (h : key.length = 32) {r : Nat} (hr : r < 15) : ((aesKeys key).getD r []).length = 16 := by
  obtain ⟨h60, hw⟩ := Tests.schedule_words key h
  have words : ∀ w ∈ ((aesSchedule key).reverse.drop (4 * r)).take 4, w.length = 4 := fun w hm =>
    hw w (List.mem_reverse.mp (List.mem_of_mem_drop (List.mem_of_mem_take hm)))
  simp only [aesKeys, List.getD_eq_getElem?_getD, List.getElem?_map, List.getElem?_range hr, Option.map_some, Option.getD_some]
  rw [Tests.length_flatten4 _ words, List.length_take, List.length_drop, List.length_reverse, h60]
  omega

theorem aesDec_length {key : List Nat} (blk : List Nat) (h : key.length = 32) : (aesDec key blk).length = 16 := by
  have mixed (s : List Nat) : ((aesUnshift s).map sboxInv).length = 16 := by simp [aesUnshift]
  unfold aesDec
  rw [Tests.length_xorL, mixed, aesKeys_length h (by omega)]
  rfl

/-- A unit stays 16 bytes long under the transform. -/
theorem xtsUnit_length (enc : Bool) (key : BitVec 512) (u : Nat) (blk : List Byte) : (xtsUnit enc key u blk).length = 16 := by
  have hk : (beBytes 64 key.toNat).length = 64 := by simp [beBytes]
  have hd : ((beBytes 64 key.toNat).drop 32).length = 32 := by simp [hk]
  have ht : ((beBytes 64 key.toNat).take 32).length = 32 := by simp [hk]
  unfold xtsUnit
  cases enc <;> simp [toBytes, Tests.length_xorL, Tests.length_aesEnc _ _ hd, Tests.length_aesEnc _ _ ht, aesDec_length _ ht]

/-! ### A byte of home memory as a world reads it -/

/-- The byte at an address as a world's key reveals it, wherever no doorbell frame lies. -/
def plainByte (s : State) (w a : Nat) : Byte :=
  if formOf s (a / 16) = .plain (keyOf s w) then memGet s.mem a else (unitPlain s w (a / 16)).getD (a % 16) 0#8

theorem homePlain_eq_plainByte {s : State} {pa : Nat} (h : inDoor s pa = false) (w n : Nat) :
    homePlain s w pa n = (List.range n).map (fun i => plainByte s w (pa + i)) := by
  simp [homePlain, h, plainByte]

theorem memGetBytes_congr {m m' : List Host.Cell} {a n : Nat} (h : ∀ i < n, memGet m (a + i) = memGet m' (a + i)) :
    memGetBytes m a n = memGetBytes m' a n := by
  induction n generalizing a with
  | zero => rfl
  | succ n ih =>
    have tail : ∀ i < n, memGet m (a + 1 + i) = memGet m' (a + 1 + i) := fun i hi => by
      have := h (i + 1) (by omega)
      rwa [Nat.add_comm i 1, ← Nat.add_assoc] at this
    simp only [memGetBytes, ih tail]
    exact congrArg (· :: _) (h 0 (by omega))

/-- What a world reads of a byte depends on its key, and on the form and the stored bytes of the byte's unit. -/
theorem plainByte_congr {s t : State} {w a : Nat} (hk : keyOf t w = keyOf s w) (hf : formOf t (a / 16) = formOf s (a / 16))
    (hm : ∀ b, b / 16 = a / 16 → memGet t.mem b = memGet s.mem b) : plainByte t w a = plainByte s w a := by
  have unit : memGetBytes t.mem (16 * (a / 16)) 16 = memGetBytes s.mem (16 * (a / 16)) 16 :=
    memGetBytes_congr fun i hi => hm _ (by omega)
  simp only [plainByte, unitPlain, unitRaw, worldXts, hk, hf, unit, hm a rfl]

/-- A byte of a unit under the world's own key is read as it is stored. -/
theorem plainByte_own {s : State} {w a : Nat} (h : formOf s (a / 16) = .plain (keyOf s w)) : plainByte s w a = memGet s.mem a :=
  if_pos h

/-! ### Units that take the world's key (R408, R409) -/

theorem formOf_setForm (s : State) (f : Form) (u v : Nat) : formOf (setForm s f u) v = if v = u then f else formOf s v := by
  unfold setForm
  split
  case isTrue h => split <;> simp_all
  case isFalse h =>
    show (match mget (mput s.forms u f) v with | some f => f | none => _) = _
    rw [mget_mput]
    by_cases hv : v = u
    · rw [if_pos hv, if_pos hv]
    · rw [if_neg hv, if_neg hv]; rfl

theorem keyOf_setForm (s : State) (f : Form) (u w : Nat) : keyOf (setForm s f u) w = keyOf s w := by
  unfold setForm; split <;> rfl

theorem mem_setForm_plain {s : State} {k u : Nat} (h : formOf s u ≠ .plain k) :
    (setForm s (.plain k) u).mem = memPutBytes s.mem (16 * u) (xtsUnit false (keyXts k) u (unitRaw s u)) := by
  simp only [setForm, if_neg h]

theorem memGet_setForm_plain {s : State} {k u : Nat} (h : formOf s u ≠ .plain k) (a : Nat) :
    memGet (setForm s (.plain k) u).mem a = if a / 16 = u then (xtsUnit false (keyXts k) u (unitRaw s u)).getD (a % 16) 0#8 else memGet s.mem a := by
  rw [mem_setForm_plain h, memGet_memPutBytes, xtsUnit_length]
  by_cases ha : a / 16 = u
  · rw [if_pos ha, if_pos (by omega), show a - 16 * u = a % 16 by omega]
  · rw [if_neg ha, if_neg (by omega)]

/-- A unit that takes a world's key is stored anew, and the world reads it and every other unit as before. -/
theorem plainByte_setForm (s : State) (w u a : Nat) : plainByte (setForm s (.plain (keyOf s w)) u) w a = plainByte s w a := by
  by_cases h : formOf s u = .plain (keyOf s w)
  · rw [setForm, if_pos h]
  by_cases ha : a / 16 = u
  · subst ha
    have form : formOf (setForm s (.plain (keyOf s w)) (a / 16)) (a / 16) = .plain (keyOf (setForm s (.plain (keyOf s w)) (a / 16)) w) := by
      rw [formOf_setForm, if_pos rfl, keyOf_setForm]
    rw [plainByte_own form, memGet_setForm_plain h, if_pos rfl, plainByte, if_neg h, unitPlain, if_neg h, worldXts]
  · refine plainByte_congr (keyOf_setForm _ _ _ _) (by rw [formOf_setForm, if_neg ha]) fun b hb => ?_
    rw [memGet_setForm_plain h, if_neg (by omega)]

/-- Several units take a form. -/
def setForms (s : State) (f : Form) (us : List Nat) : State := us.foldl (fun t u => setForm t f u) s

theorem keyOf_setForms (s : State) (f : Form) (us : List Nat) (w : Nat) : keyOf (setForms s f us) w = keyOf s w :=
  foldl_keeps (P := fun t => keyOf t w = keyOf s w) (fun t u h => (keyOf_setForm t f u w).trans h) us rfl

theorem formOf_setForms (s : State) (f : Form) (us : List Nat) (v : Nat) : formOf (setForms s f us) v = if v ∈ us then f else formOf s v := by
  induction us generalizing s with
  | nil => simp [setForms]
  | cons u us ih =>
    show formOf (setForms (setForm s f u) f us) v = _
    rw [ih, formOf_setForm]
    by_cases h1 : v ∈ us <;> by_cases h2 : v = u <;> simp [h1, h2]

theorem plainByte_setForms (s : State) (w a : Nat) (us : List Nat) : plainByte (setForms s (.plain (keyOf s w)) us) w a = plainByte s w a := by
  induction us generalizing s with
  | nil => rfl
  | cons u us ih =>
    show plainByte (setForms (setForm s (.plain (keyOf s w)) u) (.plain (keyOf s w)) us) w a = _
    have := ih (setForm s (.plain (keyOf s w)) u)
    rw [keyOf_setForm] at this
    rw [this, plainByte_setForm]

/-! ### A write to home memory -/

/-- What a write does to the error codes it does to the upsets and the poison alone. -/
def codesOnly (s t : State) : Prop := t = { s with upsets := t.upsets, poison := t.poison }

theorem codesOnly_refl (s : State) : codesOnly s s := rfl

theorem codesOnly_trans {s t u : State} (h1 : codesOnly s t) (h2 : codesOnly t u) : codesOnly s u := by
  unfold codesOnly at *; rw [h2, h1]

theorem mergeUnit_codesOnly (bad : Nat → Bool) (s : State) (u : Nat) : codesOnly s (mergeUnit bad s u) := by
  unfold mergeUnit
  split
  · rfl
  · rfl
  · split <;> rfl

theorem writeErrors_codesOnly (bad : Nat → Bool) (s : State) (pa n : Nat) : codesOnly s (writeErrors bad s pa n) := by
  unfold writeErrors
  refine codesOnly_trans (foldl_keeps (P := codesOnly s) (fun t u h => codesOnly_trans h ?_) (bigUnits pa n) (codesOnly_refl s)) rfl
  split
  · rfl
  · exact mergeUnit_codesOnly bad t u

theorem plainByte_writeErrors (bad : Nat → Bool) (s : State) (pa n w a : Nat) : plainByte (writeErrors bad s pa n) w a = plainByte s w a := by
  rw [writeErrors_codesOnly bad s pa n]; rfl

theorem keyOf_writeErrors (bad : Nat → Bool) (s : State) (pa n w : Nat) : keyOf (writeErrors bad s pa n) w = keyOf s w := by
  rw [writeErrors_codesOnly bad s pa n]; rfl

/-- The units that take a world's key when it writes bytes: those it touches, and all of a 64-byte unit of another key (R408). -/
def keyedUnits (s : State) (w pa n : Nat) : List Nat :=
  (bigUnits pa n).flatMap (fun u =>
    if foreign s w u then (List.range 4).map (· + 4 * u) else (unitsOf pa n).filter (fun x => x / 4 == u))

theorem mem_keyedUnits (s : State) (w : Nat) {pa n a : Nat} (h1 : pa ≤ a) (h2 : a < pa + n) : a / 16 ∈ keyedUnits s w pa n := by
  refine List.mem_flatMap.mpr ⟨a / 64, ?_, ?_⟩
  · exact List.mem_map.mpr ⟨a / 64 - pa / 64, List.mem_range.mpr (by omega), by omega⟩
  · split
    · exact List.mem_map.mpr ⟨a / 16 - 4 * (a / 64), List.mem_range.mpr (by omega), by omega⟩
    · refine List.mem_filter.mpr ⟨List.mem_map.mpr ⟨a / 16 - pa / 16, List.mem_range.mpr (by omega), by omega⟩, ?_⟩
      rw [beq_iff_eq]; omega

/-- Home memory when its units are ready for the bytes of a write. -/
def prepared (s : State) (w pa n : Nat) : State := setForms (writeErrors (foreign s w) s pa n) (.plain (keyOf s w)) (keyedUnits s w pa n)

theorem homePut_stores {s : State} {w pa : Nat} {bs : List Byte} (hb : bs ≠ []) (hd : inDoor s pa = false) (hl : cxlLost s pa = false) :
    homePut s w pa bs = { prepared s w pa bs.length with mem := memPutBytes (prepared s w pa bs.length).mem pa bs } := by
  unfold homePut
  rw [if_neg (by simp [hb, hd, hl])]
  rfl

theorem homePut_storesNothing {s : State} {w pa : Nat} {bs : List Byte} (h : inDoor s pa = true ∨ cxlLost s pa = true) : homePut s w pa bs = s := by
  unfold homePut
  exact if_pos (by rcases h with h | h <;> simp [h])

theorem keyOf_prepared (s : State) (w pa n : Nat) : keyOf (prepared s w pa n) w = keyOf s w := by
  rw [prepared, keyOf_setForms, keyOf_writeErrors]

theorem plainByte_prepared (s : State) (w pa n a : Nat) : plainByte (prepared s w pa n) w a = plainByte s w a := by
  have := plainByte_setForms (writeErrors (foreign s w) s pa n) w a (keyedUnits s w pa n)
  rwa [keyOf_writeErrors, plainByte_writeErrors] at this

/-- Every unit that the bytes touch is ready under the world's key. -/
theorem formOf_prepared (s : State) (w : Nat) {pa n a : Nat} (h1 : pa ≤ a) (h2 : a < pa + n) :
    formOf (prepared s w pa n) (a / 16) = .plain (keyOf s w) := by
  rw [prepared, formOf_setForms, if_pos (mem_keyedUnits s w h1 h2)]

/-- A world reads back what it wrote, and every other byte as before. -/
theorem plainByte_homePut {s : State} {w pa : Nat} {bs : List Byte} (hd : inDoor s pa = false) (hl : cxlLost s pa = false) (a : Nat) :
    plainByte (homePut s w pa bs) w a = if pa ≤ a ∧ a < pa + bs.length then bs.getD (a - pa) 0#8 else plainByte s w a := by
  by_cases hb : bs = []
  · subst hb
    rw [if_neg (by simp), homePut, if_pos (by simp)]
  rw [homePut_stores hb hd hl]
  set t := prepared s w pa bs.length with ht
  by_cases own : formOf t (a / 16) = .plain (keyOf t w)
  · have own' : formOf { t with mem := memPutBytes t.mem pa bs } (a / 16) = .plain (keyOf { t with mem := memPutBytes t.mem pa bs } w) := own
    rw [plainByte_own own', ← plainByte_prepared s w pa bs.length a, ← ht, plainByte_own own]
    exact memGet_memPutBytes _ _ _ _
  · -- no byte of a unit that has kept another form is written
    have outside : ∀ b, b / 16 = a / 16 → ¬ (pa ≤ b ∧ b < pa + bs.length) := fun b hb hr => by
      refine own ?_
      rw [← hb, ht, keyOf_prepared, formOf_prepared s w hr.1 hr.2]
    rw [if_neg (outside a rfl), ← plainByte_prepared s w pa bs.length a, ← ht]
    refine plainByte_congr rfl rfl fun b hb => ?_
    exact (memGet_memPutBytes _ _ _ _).trans (if_neg (outside b hb))

theorem inDoor_homePut (s : State) (w pa : Nat) (bs : List Byte) (a : Nat) : inDoor (homePut s w pa bs) a = inDoor s a := by
  rw [homePut_homeOnly s w pa bs]; rfl

/-- Settles O58: a write first brings the units that it touches under the world's key, which changes no byte that the world reads, and then
stores its bytes. -/
theorem homeMemoryKeepsWhatIsWritten : Obligations.HomeMemoryKeepsWhatIsWritten := by
  unfold Obligations.HomeMemoryKeepsWhatIsWritten
  refine fun s w pa bs _ => ⟨fun hd hl => ⟨?_, fun a ha => ?_⟩, homePut_storesNothing⟩
  · rw [homePlain_eq_plainByte ((inDoor_homePut ..).trans hd)]
    refine List.ext_getElem (by simp) fun i hi _ => ?_
    have hi' : i < bs.length := by simpa using hi
    simp only [List.getElem_map, List.getElem_range]
    rw [plainByte_homePut hd hl, if_pos (by omega), Nat.add_sub_cancel_left]
    simp [List.getD_eq_getElem?_getD, hi']
  · cases h : inDoor s a with
    | true => simp [homePlain, inDoor_homePut, h]
    | false =>
      rw [homePlain_eq_plainByte ((inDoor_homePut ..).trans h), homePlain_eq_plainByte h]
      simp only [List.range_one, List.map_cons, List.map_nil, Nat.add_zero]
      rw [plainByte_homePut hd hl, if_neg (by omega)]

end Sys2Proof.Proofs.HomeMemory

namespace Sys2Proof.Proofs.Facts

/-! Facts that several statements of the execution model need: maps and records with an entry at hand, and updates of barrier objects in a
team that keeps no barrier image. -/

open Sys2Proof Sys2Proof.Machine Sys2Proof.Laws

/-! ### Maps -/

section
variable {α β : Type}

theorem mem_of_mget {m : SMap α} {n : Nat} {x : α} (h : mget m n = some x) : (n, x) ∈ m := by
  induction m with
  | nil => cases h
  | cons p m ih =>
    obtain ⟨k, y⟩ := p
    simp only [mget] at h
    split at h
    · simp_all
    · exact List.mem_cons_of_mem _ (ih h)

theorem mupd_some {m : SMap α} {n : Nat} {x : α} (h : mget m n = some x) (f : α → α) : mupd m n f = mput m n (f x) := by
  simp [mupd, h]

@[simp] theorem mput_mput (m : SMap α) (n : Nat) (x y : α) : mput (mput m n x) n y = mput m n y := by
  induction m with
  | nil => simp [mput]
  | cons p m ih =>
    obtain ⟨k, z⟩ := p
    by_cases h1 : n < k
    · simp [mput, h1]
    · by_cases h2 : n = k
      · simp [mput, h2]
      · simp [mput, h1, h2, ih]

/-- An entry stands in a map after another entry is put there, or is the one replaced. -/
theorem mem_mput_of_mem {m : SMap α} {n : Nat} {x y : α} (h : mget m n = some x) {p : Nat × α} (hp : p ∈ m) : p ∈ mput m n y ∨ p = (n, x) := by
  induction m with
  | nil => cases hp
  | cons q m ih =>
    obtain ⟨k, z⟩ := q
    simp only [mget] at h
    simp only [mput]
    split
    · exact .inl (List.mem_cons_of_mem _ hp)
    · split
      · rcases List.mem_cons.mp hp with rfl | hp
        · exact .inr (by simp_all)
        · exact .inl (List.mem_cons_of_mem _ hp)
      · rcases List.mem_cons.mp hp with rfl | hp
        · exact .inl List.mem_cons_self
        · exact (ih (by simp_all [eq_comm]) hp).imp_left (List.mem_cons_of_mem _)

theorem mem_mput_self (m : SMap α) (n : Nat) (x : α) : (n, x) ∈ mput m n x := mem_of_mget (by simp)

/-- What some entry of a map satisfies, some entry does after one is replaced by its like. -/
theorem exists_mem_mput {m : SMap α} {n : Nat} {x y : α} (h : mget m n = some x) {Q : Nat × α → Prop} (hQ : Q (n, y) ↔ Q (n, x)) :
    (∃ p ∈ mput m n y, Q p) ↔ ∃ p ∈ m, Q p := by
  constructor
  · rintro ⟨p, hp, hq⟩
    rcases mem_mput hp with rfl | hp
    · exact ⟨_, mem_of_mget h, hQ.mp hq⟩
    · exact ⟨p, hp, hq⟩
  · rintro ⟨p, hp, hq⟩
    rcases mem_mput_of_mem h hp with hp | rfl
    · exact ⟨p, hp, hq⟩
    · exact ⟨_, mem_mput_self .., hQ.mpr hq⟩

theorem mget_filter_keys (m : SMap α) (q : Nat → Bool) (k : Nat) : mget (m.filter (fun p => q p.1)) k = if q k then mget m k else none := by
  induction m with
  | nil => simp
  | cons p m ih =>
    obtain ⟨j, x⟩ := p
    by_cases hj : q j = true <;> by_cases hk : j = k <;> simp_all [mget]

/-- Changing every entry of a map, each by its number. -/
theorem mget_map_entries (m : SMap α) (f : Nat → α → β) (k : Nat) : mget (m.map (fun p => (p.1, f p.1 p.2))) k = (mget m k).map (f k) := by
  induction m with
  | nil => rfl
  | cons p m ih =>
    obtain ⟨j, x⟩ := p
    simp only [List.map_cons, mget]
    split
    · simp_all
    · exact ih

theorem mget_map_values (m : SMap α) (f : α → β) (k : Nat) : mget (m.map (fun p => (p.1, f p.2))) k = (mget m k).map f :=
  mget_map_entries m (fun _ => f) k

end

/-! ### Groups and teams in place -/

/-- A state with a group, or a team, put in place. -/
def putGroup (s : State) (gid : Nat) (g : Group) : State := { s with groups := mput s.groups gid g }
def putTeam (s : State) (tid : Nat) (t : Team) : State := { s with teams := mput s.teams tid t }

theorem onGroup_some {s : State} {gid : Nat} {g : Group} (h : mget s.groups gid = some g) (f : Group → Group) :
    onGroup s gid f = putGroup s gid (f g) := by
  simp [onGroup, putGroup, mupd_some h]

theorem onTeam_some {s : State} {tid : Nat} {t : Team} (h : mget s.teams tid = some t) (f : Team → Team) :
    onTeam s tid f = putTeam s tid (f t) := by
  simp [onTeam, putTeam, mupd_some h]

@[simp] theorem putGroup_get (s : State) (gid k : Nat) (g : Group) :
    mget (putGroup s gid g).groups k = if k = gid then some g else mget s.groups k := mget_mput ..
@[simp] theorem putTeam_get (s : State) (tid k : Nat) (t : Team) :
    mget (putTeam s tid t).teams k = if k = tid then some t else mget s.teams k := mget_mput ..

@[simp] theorem putGroup_teams (s : State) (gid : Nat) (g : Group) : (putGroup s gid g).teams = s.teams := rfl
@[simp] theorem putTeam_groups (s : State) (tid : Nat) (t : Team) : (putTeam s tid t).groups = s.groups := rfl

@[simp] theorem putGroup_putGroup (s : State) (gid : Nat) (g h : Group) : putGroup (putGroup s gid g) gid h = putGroup s gid h := by
  simp [putGroup]
@[simp] theorem putTeam_putTeam (s : State) (tid : Nat) (t u : Team) : putTeam (putTeam s tid t) tid u = putTeam s tid u := by
  simp [putTeam]

/-! ### Lane sets -/

theorem mask_ext {a b : Mask} (h : ∀ l < 32, has a l = has b l) : a = b := BitVec.eq_of_getLsbD_eq h

theorem maskBy_congr {p q : Nat → Bool} (h : ∀ l < 32, p l = q l) : maskBy p = maskBy q :=
  mask_ext fun l hl => by rw [has_maskBy p l hl, has_maskBy q l hl, h l hl]

theorem has_lt {m : Mask} {l : Nat} (h : has m l = true) : l < 32 := lt_of_mem_lanesOf ((mem_lanesOf _ _).mpr h)

theorem has_maskBy_iff {p : Nat → Bool} {l : Nat} (hp : p l = true → l < 32) : has (maskBy p) l = true ↔ p l = true := by
  constructor
  · intro h
    rwa [has_maskBy p l (has_lt h)] at h
  · intro h
    rwa [has_maskBy p l (hp h)]

theorem lanesOf_eq_nil {m : Mask} : lanesOf m = [] ↔ m = 0#32 := by
  constructor
  · refine fun h => mask_ext fun l _ => ?_
    have : l ∉ lanesOf m := by simp [h]
    simpa [mem_lanesOf, has] using this
  · rintro rfl
    exact List.filter_eq_nil_iff.mpr fun l _ => by simp [has]

/-! ### The end of a word with no register result (R25, R60) -/

/-- A group at the end of a word that has no register result. -/
def finished (c : Ctx) (g : Group) : Group := advance (pushLatch { g with susp := [], resume := none } false []) c.mask

theorem endWord_finished {s : State} {c : Ctx} {g : Group} (hl : g.latchLost = false) (hi : ∀ p ∈ s.teams, p.2.imageWait = false) :
    endWord { s with cur := .idle } c g false [] = afterWord s c (finished c g) := endWord_eq hl hi

theorem finished_lanes (c : Ctx) (g : Group) : (finished c g).lanes.length = g.lanes.length ∧
    ∀ l, l < g.lanes.length → (finished c g).lane l = if has c.mask l then { g.lane l with pc := (g.lane l).pc + 8#64 } else g.lane l :=
  advance_lanes ..

theorem finished_advanced (c : Ctx) (g : Group) : advanced c g (finished c g) := finished_lanes c g

theorem finished_latches (c : Ctx) (g : Group) : plainLatches g (finished c g) := ⟨rfl, rfl⟩

/-- Lanes of ISSUE that block stay at the word (R32). -/
theorem finished_block {c : Ctx} {g : Group} {m : Mask} (hm : ∀ l, has m l = true → has c.mask l = true) (w : Wait) :
    Reading.waitsAt c g (finished c (block g m w)) m w := fun l hl => by
  have blocked : (block g m w).lane l = if has m l then { g.lane l with st := .blocked, wait := some w, pc := (g.lane l).pc - 8#64 } else g.lane l :=
    onLanes_lane g m (fun x => { x with st := .blocked, wait := some w, pc := x.pc - 8#64 }) l hl
  rw [(finished_lanes c (block g m w)).2 l (by simpa [block, Group.onLanes] using hl), blocked]
  cases h : has m l
  · rfl
  · simp [hm l h]

theorem finished_block_length (c : Ctx) (g : Group) (m : Mask) (w : Wait) : (finished c (block g m w)).lanes.length = g.lanes.length := by
  rw [(finished_lanes c _).1]
  simp [block, Group.onLanes]

theorem waitsAt_inHandler {c : Ctx} {g g' : Group} {m : Mask} {w : Wait} (hlen : g'.lanes.length = g.lanes.length)
    (h : Reading.waitsAt c g g' m w) : g'.inHandler = g.inHandler :=
  maskBy_congr fun l _ => by
    by_cases hl : l < g.lanes.length
    · rw [h l hl]
      split
      · rfl
      · split <;> rfl
    · simp [Group.lane, hl, hlen, List.getD_eq_getElem?_getD]

theorem clOf_issue {g : Group} {c : Ctx} {pg : BitVec 4} {pn : Bool} {l : Nat} (h : has (clOf g c pg pn) l = true) : has c.mask l = true := by
  rw [clOf, has_maskBy _ l (lt_of_mem_lanesOf ((mem_lanesOf _ _).mpr h)), Bool.and_eq_true] at h
  exact h.1

/-- A group that has taken a cause in its handler (R360). -/
def trapped (g : Group) (x : Cause) (T : Mask) (tpc taddr tinfo : W64) : Group :=
  { enterHandler g x T tpc taddr tinfo with susp := [], resume := none }

theorem trapped_enters (g : Group) (x : Cause) (T : Mask) (tpc taddr tinfo : W64) :
    EntersHandler g (trapped g x T tpc taddr tinfo) x T tpc taddr tinfo := enterHandler_enters ..

theorem takeTrap_trapped {s : State} {gid : Nat} {g : Group} (hg : mget s.groups gid = some g) (h : canTrap g) (x : Cause) (T : Mask)
    (tpc taddr tinfo : W64) : takeTrap s gid x T tpc taddr tinfo = putGroup s gid (trapped g x T tpc taddr tinfo) :=
  takeTrap_canTrap hg h ..

/-! ### Barrier objects of a team that keeps no barrier image (R210) -/

/-- A team with a barrier object put in place. -/
def putObj (t : Team) (o : Nat) (b : Barrier) : Team := { t with objs := t.objs.set o b }

@[simp] theorem putObj_length (t : Team) (o : Nat) (b : Barrier) : (putObj t o b).objs.length = t.objs.length := by simp [putObj]
@[simp] theorem putObj_rollbacks (t : Team) (o : Nat) (b : Barrier) : (putObj t o b).rollbacks = t.rollbacks := rfl
@[simp] theorem putObj_putObj (t : Team) (o : Nat) (b c : Barrier) : putObj (putObj t o b) o c = putObj t o c := by simp [putObj]

theorem objAt_putObj {t : Team} {o : Nat} (ho : o < t.objs.length) (b : Barrier) (k : Nat) :
    objAt (putObj t o b) k = if k = o then b else objAt t k := by
  simp only [objAt, putObj, List.getD_eq_getElem?_getD, List.getElem?_set]
  by_cases h : k = o
  · subst h; simp [ho]
  · simp [h, Ne.symm h]

@[simp] theorem objAt_putObj_self {t : Team} {o : Nat} (ho : o < t.objs.length) (b : Barrier) : objAt (putObj t o b) o = b := by
  simp [objAt_putObj ho]

theorem putObj_objAt {t : Team} {o : Nat} (ho : o < t.objs.length) : putObj t o (objAt t o) = t := by
  have : t.objs.set o (objAt t o) = t.objs := by simp [objAt, List.getD_eq_getElem?_getD, ho]
  simp [putObj, this]

theorem logArea_plain {s : State} {tid : Nat} {t : Team} (h : mget s.teams tid = some t) (hr : t.rollbacks = false) (o : Nat) :
    logArea s tid o = s := by
  simp only [logArea, h]
  split
  · rfl
  · simp [logEntry, h, hr]

/-- An update that completes no phase changes the object alone. -/
theorem updateObj_short {s : State} {tid o : Nat} {t : Team} {f : Barrier → Barrier} (h : mget s.teams tid = some t) (hr : t.rollbacks = false)
    (hc : (f (objAt t o)).complete = false) : updateObj s tid o f = putTeam s tid (putObj t o (f (objAt t o))) := by
  simp only [updateObj, logArea_plain h hr, h, hc]
  exact onTeam_some h _

end Sys2Proof.Proofs.Facts

namespace Sys2Proof.Proofs.Stepping

/-! A step runs the instruction that stands decoded at hand, or the oldest event (O4). With no line held neither guard of `step` bites: the
outcome passes (`lineGuard_free`), and no move waits at a slice (`heldMove_free`). -/

open Sys2Proof Sys2Proof.Machine Sys2Proof.Proofs.Facts

variable {s : State}

/-- With no line held every outcome passes. -/
theorem lineGuard_free (h : noLineHeld s) (o : Out) : lineGuard s o = o := by
  unfold noLineHeld at h
  cases o <;> simp [lineGuard, h]

theorem engines_free (h : noLineHeld s) : ∀ p ∈ s.slices, p.2.inv = none := fun p hp => by
  have := List.filterMap_eq_nil_iff.mp h p hp
  cases hi : p.2.inv <;> simp_all

theorem holderOf_free (h : noLineHeld s) (line : Nat) : holderOf s line = none := by
  simp only [holderOf, Option.map_eq_none_iff, List.find?_eq_none]
  exact fun p hp => by simp [engines_free h p hp]

theorem sliceAt_free (h : noLineHeld s) (k : Nat) : (sliceAt s k).inv = none := by
  unfold sliceAt mval
  cases hk : mget s.slices k with
  | none => rfl
  | some x => exact engines_free h _ (mem_of_mget hk)

/-- With no line held no move waits at a slice. -/
theorem heldMove_free (h : noLineHeld s) (m : Move) : heldMove s m = none := by
  unfold heldMove
  split
  · split <;> simp [holderOf_free h, sliceAt_free h]
  · rfl

/-- What a step does when no line is held. -/
theorem step_run (h : noLineHeld s) {i : Instr} {t : State} (e : nextTodo s = .run i t) : step s = exec i t := by
  rw [step, lineGuard_free h, e]

theorem stepRunsDecodedWord : Says.StepRunsDecodedWord := fun s c i hc h hd =>
  step_run h (by simp [nextTodo, todo, hc, hd])

theorem stepRunsDecodedSlotsAndCrumb : Says.StepRunsDecodedSlotsAndCrumb := by
  refine ⟨fun s c i j hc h hd c' k d hp => ?_, fun s c d i j hc h hd => ?_, fun s e w i hc h hd => ?_⟩
  · exact step_run h (by simp [nextTodo, todo, hc, hd, hp])
  · exact step_run h (by simp [nextTodo, todo, hc, hd])
  · exact step_run h (by simp [nextTodo, todo, hc, hd])

theorem stepRunsEvents : Says.StepRunsEvents := by
  refine ⟨fun s i args ms hc h ha => ?_, fun s hc h ha => ?_⟩
  · exact step_run h (by simp [nextTodo, todo, moveTodo, hc, ha, heldMove_free h])
  · rw [step, lineGuard_free h]
    simp [nextTodo, todo, hc, ha]

/-- Settles O4: with no line held the step is what `todo` finds at hand. -/
theorem stepRunsDecodedInstruction : Obligations.StepRunsDecodedInstruction :=
  ⟨stepRunsDecodedWord, stepRunsDecodedSlotsAndCrumb, stepRunsEvents⟩

end Sys2Proof.Proofs.Stepping

namespace Sys2Proof.Proofs.Time

open Sys2Proof Sys2Proof.Machine Sys2Proof.Laws Sys2Proof.Proofs.Facts

/-! ### Leases, predictors and L1 lines (R166, R174) -/

theorem predCount_raise (c : Core) (line : Nat) : predCount (predRaise c line) line = min 3 (predCount c line + 1) := by
  simp [predCount, predRaise]

/-- A request ends the core's lease of the line and raises its counter; a core without the lease stays as it is. -/
theorem yieldLease_spec (line : Nat) (c : Core) :
    (yieldLease line c).leases = c.leases.filter (fun x => x.line != line) ∧
      predCount (yieldLease line c) line = if c.leases.any (fun x => x.line == line) then min 3 (predCount c line + 1) else predCount c line := by
  unfold yieldLease
  split
  · exact ⟨rfl, predCount_raise _ line⟩
  next h =>
    refine ⟨(List.filter_eq_self.mpr fun x hx => ?_).symm, rfl⟩
    simp only [List.any_eq_true, not_exists, not_and] at h
    simpa using h x hx

theorem leasesEnd : Says.LeasesEnd := by
  rintro s line byRequest ⟨p, hp, x, hx, hl, hd⟩
  have due : s.cores.any (fun p => p.2.leases.any (fun x => x.line == line && (byRequest || decide (x.last + 512 ≤ 2 * s.clock)))) = true :=
    List.any_eq_true.mpr ⟨p, hp, List.any_eq_true.mpr ⟨x, hx, by simpa [hl] using hd⟩⟩
  refine ⟨(endLease s line byRequest).cores, congrArg Host.Outcome.next (if_pos due), fun k c hk => ?_⟩
  have step := mget_map_values s.cores
    (fun c => if byRequest then yieldLease line c else { c with leases := c.leases.filter (fun x => x.line != line) }) k
  rw [hk] at step
  refine ⟨_, step, ?_⟩
  cases byRequest with
  | true => simpa using yieldLease_spec line c
  | false => exact ⟨rfl, rfl⟩

/-- A core whose predictor has decayed once (R174). -/
def decayed (c : Core) : Core := { c with pred := c.pred.map (fun x => (x.1, x.2 - 1)) }

theorem predCount_decayed (c : Core) (line : Nat) : predCount (decayed c) line = predCount c line - 1 := by
  simp only [predCount, decayed, List.find?_map]
  cases h : c.pred.find? (fun p => p.1 == line) <;> simp [h]

theorem predictorsDecay : Says.PredictorsDecay := fun s h => by
  refine ⟨_, congrArg Host.Outcome.next (if_pos h), fun k c hk => ⟨decayed c, ?_, predCount_decayed c⟩⟩
  exact (mget_map_values s.cores decayed k).trans (by rw [hk]; rfl)

theorem cacheLinesExpire : Says.CacheLinesExpire := fun s core line h => by
  refine ⟨mput s.cores core { coreOf s core with
    l1 := (coreOf s core).l1.filter (fun x => !(x.line == line && decide (x.filled + 16384 ≤ s.clock))) }, ?_, fun y => ?_⟩
  · show execL1LineExpiry s = _
    simp only [execL1LineExpiry, h, onCore]
  · simp [imp_iff_not_or]

/-! ### Claims that can never be granted (R21) -/

theorem claimsDeadlock : Says.ClaimsDeadlock := by
  intro s tid gid n g t hargs ht hteam hg htrap hlen hlive hroll hclaims honly hclaim hfails
  have blocked : (s.groups.filter (fun p => p.2.team == tid && p.2.live != 0#32)).all (fun p => inClaim p.2) = true := by
    refine List.all_eq_true.mpr fun p hp => ?_
    obtain ⟨hp1, hp2⟩ := List.mem_filter.mp hp
    rw [honly p hp1 (by simp_all) (by simp_all)]
    exact hclaim
  have fails : claimFails s tid t ⟨gid, n, g.live⟩ = true := by
    unfold claimFails
    rcases hfails with h | h <;> simp [hg, h]
  have step : execClaimDeadlock s = .next (putGroup (putTeam s tid { t with claims := [] }) gid
      (trapped g .claimDeadlock g.live (g.lane ((lanesOf g.live).headD 0)).pc 0#64 0#64)) := by
    simp only [execClaimDeadlock, hargs, ht, hclaims, blocked, fails, Bool.and_self, if_true, onTeam_some ht, List.foldl_cons, List.foldl_nil,
      putTeam_groups, hg, BitVec.and_self]
    rw [takeTrap_trapped (by exact hg) htrap]
  exact ⟨_, step, trapped_enters ..⟩

/-! ### Barriers that starve (R33) -/

/-- The withdrawal of one lane's arrival at an object (R33). -/
def withdrawn (n : Nat) (b : Barrier) : Barrier := { b with arrived := b.arrived - n }

theorem withdrawn_incomplete {b : Barrier} (h : b.arrived ≤ b.expect) (he : 0 < b.expect) : (withdrawn 1 b).complete = false := by
  simp only [Barrier.complete, withdrawn, Bool.and_eq_false_iff]
  exact .inl (.inr (decide_eq_false (by omega)))

/-- A lane leaves its wait, with the arrival made at issue (R33). -/
def leaveWait (g : Group) (s : State) (l : Nat) : State :=
  match (g.lane l).wait with
  | some (.barrier o _ true) => updateObj s g.team o (fun b => { b with arrived := b.arrived - 1 })
  | _ => s

theorem withdrawWaits_eq (s : State) (gid : Nat) (g : Group) :
    withdrawWaits s gid g = onGroup ((lanesOf (g.inState .blocked)).foldl (leaveWait g) s) gid (fun x =>
      { (x.onLanes (g.inState .blocked) (fun y => { y with st := .active, wait := none })) with
        spWaits := dropWaits (g.inState .blocked) x.spWaits }) := rfl

/-- Lanes that leave the wait of object 0: the object loses an arrival for each, and completes no phase. -/
theorem leaveWaits {g : Group} {ph : Nat} (ls : List Nat) (hw : ∀ l ∈ ls, (g.lane l).wait = some (.barrier 0 ph true)) (s : State) (t : Team)
    (hr : t.rollbacks = false) (ho : 0 < t.objs.length) (ha : (objAt t 0).arrived ≤ (objAt t 0).expect) (he : 0 < (objAt t 0).expect) :
    ls.foldl (leaveWait g) (putTeam s g.team t) = putTeam s g.team (putObj t 0 (withdrawn ls.length (objAt t 0))) := by
  induction ls generalizing t with
  | nil => exact congrArg (putTeam s g.team) (putObj_objAt ho).symm
  | cons l ls ih =>
    have one : leaveWait g (putTeam s g.team t) l = putTeam s g.team (putObj t 0 (withdrawn 1 (objAt t 0))) := by
      rw [leaveWait, hw l (by simp)]
      refine (updateObj_short (t := t) (by simp) hr (withdrawn_incomplete ha he)).trans ?_
      exact putTeam_putTeam ..
    rw [List.foldl_cons, one, ih (fun k hk => hw k (by simp [hk])) (putObj t 0 (withdrawn 1 (objAt t 0))) hr (by simpa using ho)]
    · simp [ho, withdrawn, Nat.sub_sub, Nat.add_comm]
    · rw [objAt_putObj_self ho]
      exact Nat.le_trans (Nat.sub_le _ _) ha
    · rw [objAt_putObj_self ho]
      exact he

theorem eraseDups_constant {α : Type} [BEq α] [LawfulBEq α] {a : α} {l : List α} (hl : l ≠ []) (h : ∀ x ∈ l, x = a) : l.eraseDups = [a] := by
  cases l with
  | nil => exact absurd rfl hl
  | cons b l =>
    have : l.filter (fun x => !x == b) = [] := List.filter_eq_nil_iff.mpr fun x hx => by
      simp [h x (by simp [hx]), h b (by simp)]
    rw [List.eraseDups_cons, this, h b (by simp)]
    rfl

/-- Lanes that stand at one word. -/
theorem byPc_single {g : Group} {m : Mask} {pc : W64} (hm : m ≠ 0#32) (h : ∀ l, has m l = true → (g.lane l).pc = pc) : byPc g m = [(pc, m)] := by
  have one : ((lanesOf m).map (fun l => (g.lane l).pc)).eraseDups = [pc] :=
    eraseDups_constant (by simpa [lanesOf_eq_nil] using hm) (by simpa [mem_lanesOf] using h)
  have all : maskBy (fun l => has m l && (g.lane l).pc == pc) = m := mask_ext fun l hl => by
    rw [has_maskBy _ l hl]
    cases hl : has m l
    · rfl
    · simp [h l hl]
  simp [byPc, one, all]

/-- A group whose blocked lanes have left their waits (R33). -/
def unblocked (g : Group) : Group :=
  { (g.onLanes (g.inState .blocked) (fun y => { y with st := .active, wait := none })) with spWaits := dropWaits (g.inState .blocked) g.spWaits }

theorem unblocked_lane {g : Group} {l : Nat} (hl : l < g.lanes.length) (h32 : l < 32) :
    (unblocked g).lane l = if (g.lane l).st = .blocked then { g.lane l with st := .active, wait := none } else g.lane l := by
  refine (onLanes_lane g (g.inState .blocked) (fun y => { y with st := .active, wait := none }) l hl).trans ?_
  simp [Group.inState, has_maskBy _ _ h32]

theorem unblocked_inHandler {g : Group} (hlen : g.lanes.length = 32) : (unblocked g).inHandler = g.inHandler :=
  maskBy_congr fun l hl => by
    rw [unblocked_lane (by omega) hl]
    split <;> rfl

/-- A starved team whose waits are withdrawn (R33). -/
def unstarved (t : Team) : Team := { t with starved := 0, claims := [] }

theorem barriersStarve : Says.BarriersStarve := by
  intro s tid gid ph pc g t hargs ht hteam hg htrap hlen hlive hroll hstarved hfilter hobjs hpend hv harr hexp hlanes
  subst hteam
  set T := g.inState .blocked with hT
  have has_T : ∀ l < 32, has T l = decide ((g.lane l).st = .blocked) := fun l hl => has_maskBy _ l hl
  have waits : ∀ l, has T l = true → (g.lane l).pc = pc ∧ (g.lane l).wait = some (.barrier 0 ph true) := fun l h => by
    have hl : l < 32 := lt_of_mem_lanesOf ((mem_lanesOf T l).mpr h)
    rw [has_T l hl, decide_eq_true_iff] at h
    rcases hlanes l hl with hx | hx
    · rw [hx] at h; cases h
    · exact hx.2
  have T_ne : T ≠ 0#32 := fun h0 => hlive <| mask_ext fun l hl => by
    have notBlocked : (g.lane l).st ≠ .blocked := by
      have := has_T l hl
      rw [h0] at this
      simpa [has] using this
    rw [Group.live, has_maskBy _ _ hl, (hlanes l hl).resolve_right fun hx => notBlocked hx.1]
    simp [has]
  let t1 := unstarved t
  let t2 := putObj t1 0 (withdrawn (lanesOf T).length (objAt t 0))
  have leave : withdrawWaits (putTeam s g.team t1) gid g = putGroup (putTeam s g.team t2) gid (unblocked g) := by
    rw [withdrawWaits_eq, leaveWaits _ (fun l hl => (waits l ((mem_lanesOf T l).mp hl)).2) s t1 hroll hobjs harr hexp]
    exact onGroup_some (by simpa using hg) _
  have pend : { unblocked g with starvePend := (unblocked g).starvePend ++ [] } = unblocked g := by simp
  have canT : canTrap (unblocked g) := ⟨htrap.1, (unblocked_inHandler hlen).trans htrap.2⟩
  have step : execBarrierStarved s = .next (putGroup (putTeam s g.team t2) gid (trapped (unblocked g) .barrierStarved T pc 0#64 0#64)) := by
    have due : ¬ t.starved < 65536 := by omega
    simp only [execBarrierStarved, hargs, ht, due, if_false, onTeam_some ht, putTeam_groups, hfilter, List.foldl_cons, List.foldl_nil, ← hT,
      byPc_single T_ne fun l h => (waits l h).1]
    rw [show putTeam s g.team { t with starved := 0, claims := [] } = putTeam s g.team t1 from rfl, leave,
      onGroup_some (g := unblocked g) (by simp), pend, putGroup_putGroup, takeTrap_trapped (g := unblocked g) (by simp) canT, putGroup_putGroup]
  have enters := trapped_enters (unblocked g) .barrierStarved T pc 0#64 0#64
  refine ⟨_, t2, _, step, by simp, by simp, rfl, rfl, objAt_putObj_self hobjs _, enters.registers, fun l hl hb => ?_⟩
  have lane := enters.lanes l (by simpa [unblocked, Group.onLanes, hlen] using hl)
  rw [unblocked_lane (by omega) hl, if_pos hb, if_neg (by simp), if_pos (by simp [has_T l hl, hb])] at lane
  rw [lane]
  exact ⟨rfl, rfl, rfl⟩

/-- Settles O40, event by event; a starved team's one group traps at the one word at which its lanes wait. -/
theorem timePasses : Obligations.TimePasses :=
  ⟨leasesEnd, predictorsDecay, cacheLinesExpire, claimsDeadlock, barriersStarve⟩

end Sys2Proof.Proofs.Time

namespace Sys2Proof.Proofs.Pool

/-! Registers move through the team's pool (O27). What an allocation finds depends on which blocks are in use, not on their order
(`alloc_congr`), so a word's own end does not change what a claim finds (`claimBlocks_afterWord`). -/

open Sys2Proof Sys2Proof.Machine Sys2Proof.Laws Sys2Proof.Proofs.Facts

/-! ### Allocation (R350) -/

theorem any_congr {α : Type} {u v : List α} (h : ∀ b, b ∈ u ↔ b ∈ v) (p : α → Bool) : u.any p = v.any p := by
  rw [Bool.eq_iff_iff]
  simp [h]

theorem freeBlocks_congr {u v : List (Nat × Nat)} (h : ∀ b, b ∈ u ↔ b ∈ v) (size k base : Nat) :
    freeBlocks size u k base = freeBlocks size v k base := by
  induction k generalizing base with
  | zero => simp only [freeBlocks, any_congr h]
  | succ k ih => simp only [freeBlocks, any_congr h, ih]

theorem allocGo_congr (size fuel : Nat) {u v : List (Nat × Nat)} (h : ∀ b, b ∈ u ↔ b ∈ v) (m : Nat) :
    allocGo size fuel u m = allocGo size fuel v m := by
  induction fuel generalizing u v m with
  | zero => cases m <;> rfl
  | succ fuel ih =>
    cases m with
    | zero => rfl
    | succ m =>
      have free : poolFree size u = poolFree size v := freeBlocks_congr h size 9 0
      simp only [allocGo, free]
      split
      · rfl
      next b _ => rw [ih (u := b :: u) (v := b :: v) (fun x => by simp [h])]

/-- An allocation depends on which blocks are in use. -/
theorem alloc_congr {u v : List (Nat × Nat)} (h : ∀ b, b ∈ u ↔ b ∈ v) (size m : Nat) : alloc size u m = alloc size v m :=
  allocGo_congr size m h m

/-- The vector granules of a group stand where those of another do. -/
structure SamePlace (g h : Group) : Prop where
  core : h.core = g.core
  subp : h.subp = g.subp
  vmap : h.vmap = g.vmap

/-- A group and a team put in place of their like change no block in use, as the team sees it. -/
theorem mem_vectorUsed_put {s : State} {gid tid : Nat} {g h : Group} {t : Team} (hg : mget s.groups gid = some g) (ht : mget s.teams tid = some t)
    (hp : SamePlace g h) (u : Team) (core subp : Nat) (b : Nat × Nat) :
    b ∈ vectorUsed (putTeam (putGroup s gid h) tid u) core subp (some tid) ↔ b ∈ vectorUsed s core subp (some tid) := by
  simp only [vectorUsed, List.mem_append, List.mem_flatMap]
  refine or_congr ?_ ?_
  · exact exists_mem_mput hg (by simp only [hp.core, hp.subp, hp.vmap])
  · exact exists_mem_mput ht (by simp)

/-- What a claim finds is not changed by the end of a word of the team. -/
theorem claimBlocks_put {s : State} {gid tid : Nat} {g h : Group} {t u : Team} (hg : mget s.groups gid = some g) (ht : mget s.teams tid = some t)
    (hp : SamePlace g h) (hu : u.pool = t.pool) (cl : Claim) :
    claimBlocks (putTeam (putGroup s gid h) tid u) tid u cl = claimBlocks s tid t cl := by
  have used := fun x : Group => alloc_congr (mem_vectorUsed_put hg ht hp u x.core x.subp) 64 cl.gran
  by_cases hc : cl.gid = gid
  · subst hc
    have := used g
    simp only [claimBlocks, putTeam_groups, putGroup_get, hg, hu, hp.core, hp.subp, hp.vmap, if_true, this]
  · simp only [claimBlocks, putTeam_groups, putGroup_get, hc, if_false, hu, used]

/-! ### Claims served in order (R20) -/

theorem serveGo_nil {s : State} {tid : Nat} {t : Team} (ht : mget s.teams tid = some t) (hc : t.claims = []) (fuel : Nat) :
    serveGo fuel s tid = s := by
  cases fuel <;> simp [serveGo, ht, hc]

theorem serveGo_none {s : State} {tid : Nat} {t : Team} {cl : Claim} {rest : List Claim} (ht : mget s.teams tid = some t)
    (hc : t.claims = cl :: rest) (hb : claimBlocks s tid t cl = none) (fuel : Nat) : serveGo fuel s tid = s := by
  cases fuel <;> simp [serveGo, ht, hc, hb]

theorem serveAll_idle {s : State} (h : ∀ p ∈ s.teams, p.2.claims = []) : serveAll s = s := by
  have idle : ∀ l : List (Nat × Team), (∀ p ∈ l, p.2.claims = []) →
      l.foldl (fun s p => if p.2.claims.isEmpty then s else serveClaims s p.1) s = s := by
    intro l hl
    induction l with
    | nil => rfl
    | cons p l ih => simpa [hl p (by simp)] using ih fun q hq => hl q (by simp [hq])
  exact idle s.teams h

/-- A group with granted granules (R20). -/
def enlarged (g : Group) (cl : Claim) (bs : List (Nat × Nat)) (seed : Nat) : Group :=
  { g with
    vmap := g.vmap ++ bs, vcount := g.vcount + 8 * cl.gran, vEpochs := (g.vcount, seed) :: g.vEpochs
    v := g.v.filter (fun p => decide (p.1 < g.vcount)) }

/-- A group with granted granules, the lanes that wait for them released (R20). -/
def granted (g : Group) (cl : Claim) (bs : List (Nat × Nat)) (seed : Nat) : Group :=
  releaseWhere (enlarged g cl bs seed) (fun w => match w with
    | .pool _ => true
    | _ => false)

/-- A team that has one claim granted (R20). -/
def drawn (t : Team) (g : Group) (cl : Claim) (bs : List (Nat × Nat)) : Team :=
  useReserved { t with pool := t.pool - cl.gran, poolPhase := t.poolPhase + 1, claims := [] } g.core g.subp bs

/-- A claim that can be granted, the team's only one, is. -/
theorem serveClaims_grants {s : State} {tid : Nat} {t : Team} {g : Group} {cl : Claim} {bs : List (Nat × Nat)} (ht : mget s.teams tid = some t)
    (hg : mget s.groups cl.gid = some g) (hc : t.claims = [cl]) (hb : claimBlocks s tid t cl = some bs) :
    serveClaims s tid = putGroup (putTeam { s with fresh := s.fresh + 1 } tid (drawn t g cl bs)) cl.gid (granted g cl bs (s.fresh + 1)) := by
  have grant : grantTo (putTeam s tid (drawn t g cl bs)) cl bs =
      putGroup (putTeam { s with fresh := s.fresh + 1 } tid (drawn t g cl bs)) cl.gid (granted g cl bs (s.fresh + 1)) :=
    onGroup_some (s := putTeam { s with fresh := s.fresh + 1 } tid (drawn t g cl bs)) hg _
  rw [serveClaims, serveGo]
  simp only [ht, hc, hb, onTeam_some ht, putTeam_groups, hg]
  rw [onTeam_some (t := { t with pool := t.pool - cl.gran, poolPhase := t.poolPhase + 1, claims := [] }) (by simp), putTeam_putTeam]
  exact (congrArg (fun s => serveGo 127 s tid) grant).trans (serveGo_nil (t := drawn t g cl bs) (by simp) rfl 127)

/-! ### RGIVE and RCLAIM (R114 to R116) -/

theorem wholeIssue_whole {f : SForm} {c : Ctx} {g : Group} (h : wholeIssue f c g) : wholeGroup g c (clOf g c f.pg f.pn) = true := by
  obtain ⟨h1, h2, _⟩ := h
  simp [wholeGroup, h1, ← h2]

/-- A group that has given the registers from `r` up, `n` granules (R115). -/
def gave (g : Group) (r n : Nat) : Group :=
  { g with
    holds := g.holds.filter (fun h => match h with
      | .give _ _ => false
      | _ => true)
    vcount := r, vmap := trimMap g.vmap n, v := g.v.filter (fun p => decide (p.1 < r))
    vEpochs := g.vEpochs.filter (fun e => decide (e.1 < r))
    alatch := match g.alatch with
      | some (areg, na, sl, vals) => if r ≤ areg + na then none else some (areg, na, sl, vals)
      | none => none }

theorem vRaw_gave (g : Group) {r k : Nat} (n l : Nat) (hk : k < r) : vRaw (gave g r n) k l = vRaw g k l := by
  have row : mget (gave g r n).v k = mget g.v k := by
    simp only [gave, mget_filter_keys g.v (fun j => decide (j < r)), decide_eq_true hk, if_true]
  have epoch : (gave g r n).vEpochs.find? (fun p => decide (p.1 ≤ k)) = g.vEpochs.find? (fun p => decide (p.1 ≤ k)) := by
    simp only [gave, List.find?_filter]
    refine congrArg (fun p => g.vEpochs.find? p) (funext fun p => ?_)
    by_cases h : p.1 ≤ k
    · simp [h, Nat.lt_of_le_of_lt h hk]
    · simp [h]
  simp only [vRaw, freeVector, row, epoch]

/-- A group whose RGIVE waits for nothing gives its registers to the pool of its team, no team having a claim (R115). -/
theorem tryGive_gives {s : State} {gid : Nat} {g : Group} {t : Team} {r n : Nat} (hg : mget s.groups gid = some g) (ht : mget s.teams g.team = some t)
    (hr : t.rollbacks = false) (hh : g.holds = [.give r n]) (hl : loadTouches g r = false) (hc : convTouches s gid r = false)
    (hclaims : ∀ p ∈ s.teams, p.2.claims = []) :
    tryGive s gid = putTeam (putGroup s gid (gave g r n)) g.team { t with pool := t.pool + n } := by
  have idle : ∀ p ∈ mput s.teams g.team { t with pool := t.pool + n }, p.2.claims = [] := fun p hp => by
    rcases mem_mput hp with rfl | hp
    · exact hclaims (g.team, t) (mem_of_mget ht)
    · exact hclaims p hp
  have give : onTeam (onGroup s gid (fun g => gave g r n)) g.team (fun t =>
      { t with
        pool := t.pool + n
        reserved := if t.rollbacks then t.reserved ++ (trimmedBlocks g.vmap n).map (fun b => (g.core, g.subp, b)) else t.reserved }) =
      putTeam (putGroup s gid (gave g r n)) g.team { t with pool := t.pool + n } := by
    rw [onGroup_some hg, onTeam_some (s := putGroup s gid (gave g r n)) ht]
    simp [hr]
  simp only [tryGive, hg, hh, List.findSome?_cons, hl, hc, Bool.or_self, Bool.false_eq_true, if_false]
  exact (congrArg serveAll give).trans (serveAll_idle idle)

/-- RGIVE by the whole group asks for the give, and ends its word (R115). -/
theorem execRgive_whole {s : State} {c : Ctx} {g : Group} {t : Team} {f : SForm} {n : Nat} (hi : Issuing s c g t) (hq : Undisturbed s g)
    (hw : wholeIssue f c g) (hn : fnField f 0 5 = n) (hv : 8 * n + 8 ≤ g.vcount) :
    execRgive f s = .next (tryGive (afterWord s c (finished c { g with holds := .give (g.vcount - 8 * n) n :: g.holds })) c.gid) := by
  have enough : ¬ g.vcount < 8 * n + 8 := by omega
  have lanes : clOf g c f.pg f.pn ≠ 0#32 := hw.1 ▸ hw.2.2
  have ends := endWord_finished (s := s) (c := c) (g := { g with holds := .give (g.vcount - 8 * n) n :: g.holds }) hq.ownLatches hq.noImage
  simp only [execRgive, hn, withWord_issuing hi, enough, if_false, readRegs_clean hq.noError, wholeIssue_whole hw, lanes, Bool.not_true,
    Bool.false_eq_true, ends]

theorem registersAreGiven : Says.RegistersAreGiven := by
  intro s c g t f hi hq hroll hw n hv hholds hload hconv hclaims
  let g1 := finished c { g with holds := .give (g.vcount - 8 * n) n :: g.holds }
  have conv : convTouches (afterWord s c g1) c.gid (g.vcount - 8 * n) = false := by
    rw [← hconv]
    simp only [convTouches, afterWord, mget_mput, if_true, hi.group, hi.team, show g1.team = g.team from rfl]
    rfl
  have hholds1 : g1.holds = [.give (g.vcount - 8 * n) n] := by simp [g1, finished, hholds]
  have gives := tryGive_gives (s := afterWord s c g1) (g := g1) (t := t) (by simp [afterWord]) hi.team hroll hholds1 hload conv hclaims
  have step := (execRgive_whole hi hq hw rfl hv).trans (congrArg Host.Outcome.next gives)
  refine ⟨_, { t with pool := t.pool + n }, gave g1 (g.vcount - 8 * n) n, step, ?_, ?_, rfl, rfl, finished_advanced c _, finished_latches c _,
    fun k l hk _ => (vRaw_gave g1 n l hk).trans rfl, rfl, rfl⟩
  · exact (putTeam_get ..).trans (if_pos rfl)
  · exact (putGroup_get ..).trans (if_pos rfl)

theorem samePlace_finished_block (c : Ctx) (g : Group) (m : Mask) (w : Wait) : SamePlace g (finished c (block g m w)) := ⟨rfl, rfl, rfl⟩

/-- RCLAIM by the whole group blocks it and adds its claim to those of its team, which are then served (R20, R116). -/
theorem execRclaim_whole {s : State} {c : Ctx} {g : Group} {t : Team} {f : SForm} {n : Nat} (hi : Issuing s c g t) (hq : Undisturbed s g)
    (hw : wholeIssue f c g) (hn : fnField f 0 5 = n) (hv : g.vcount + 8 * n ≤ 256) :
    execRclaim f s = .next (serveClaims (putTeam (putGroup { s with cur := .idle } c.gid (finished c (block g c.mask (.pool t.poolPhase)))) g.team
      { t with claims := t.claims ++ [⟨c.gid, n, c.mask⟩] }) g.team) := by
  have enough : ¬ g.vcount + 8 * n > 256 := by omega
  have lanes : clOf g c f.pg f.pn ≠ 0#32 := hw.1 ▸ hw.2.2
  have ends := endWord_finished (s := s) (c := c) (g := block g c.mask (.pool t.poolPhase)) hq.ownLatches hq.noImage
  have adds := onTeam_some (s := afterWord s c (finished c (block g c.mask (.pool t.poolPhase)))) hi.team
    (fun t => { t with claims := t.claims ++ [⟨c.gid, n, c.mask⟩] })
  simp only [execRclaim, hn, withWord_issuing hi, enough, if_false, readRegs_clean hq.noError, wholeIssue_whole hw, lanes, Bool.not_true,
    Bool.false_eq_true, ends, adds]
  rfl

/-- Lanes that blocked for the claim that is granted go on at the next word (R32). -/
theorem granted_block_advanced {f : SForm} {c : Ctx} {g : Group} (hw : wholeIssue f c g) (hh : g.inHandler = 0#32) (hlen : g.lanes.length ≤ 32)
    (hlanes : ∀ l, has c.mask l = true → (g.lane l).st = .active ∧ (g.lane l).wait = none) (ph : Nat) (cl : Claim) (bs : List (Nat × Nat))
    (seed : Nat) : advanced c g (granted (finished c (block g c.mask (.pool ph))) cl bs seed) := by
  set g1 := finished c (block g c.mask (.pool ph)) with hg1
  have len1 : g1.lanes.length = g.lanes.length := finished_block_length ..
  have waits : Reading.waitsAt c g g1 c.mask (.pool ph) := finished_block (fun _ h => h) _
  refine ⟨(List.length_map _).trans len1, fun l hl => ?_⟩
  have noHandler : g1.inHandler = 0#32 := (waitsAt_inHandler len1 waits).trans hh
  have lane := releaseWhere_lane (enlarged g1 cl bs seed) (fun w => match w with
    | .pool _ => true
    | _ => false) l (by rw [← len1] at hl; exact hl)
  refine lane.trans ?_
  rw [show (enlarged g1 cl bs seed).lane l = g1.lane l from rfl, show (enlarged g1 cl bs seed).inHandler = g1.inHandler from rfl, noHandler,
    waits l hl]
  cases hm : has c.mask l with
  | true =>
    obtain ⟨hst, hwait⟩ := hlanes l hm
    have hx : g.lane l = { g.lane l with st := .active, wait := none } := by rw [← hst, ← hwait]
    simp only [if_true, true_and, Option.some.injEq, exists_eq_left', releaseLane, ne_eq, not_true_eq_false, decide_false, Bool.false_and,
      Bool.false_eq_true, if_false]
    rw [hx]
  | false =>
    have exited : (g.lane l).st = .exited := by
      rw [hw.2.1, Group.live, has_maskBy _ l (by omega)] at hm
      simpa using hm
    simp [exited]

theorem claimIsGranted : Says.ClaimIsGranted := by
  intro s c g t f bs hi hq hroll hw n hv hpool hclaims hh hlen hlanes hb
  let cl : Claim := ⟨c.gid, n, c.mask⟩
  let g1 := finished c (block g c.mask (.pool t.poolPhase))
  let t1 : Team := { t with claims := t.claims ++ [cl] }
  have hc : t1.claims = [cl] := by simp [t1, hclaims]
  have found := (claimBlocks_put (s := { s with cur := .idle }) (u := t1) hi.group hi.team (samePlace_finished_block c g c.mask (.pool t.poolPhase)) rfl
    cl).trans hb
  have serves := serveClaims_grants (s := putTeam (putGroup { s with cur := .idle } c.gid g1) g.team t1) (g := g1) (by simp) (by simp [cl]) hc found
  have step := (execRclaim_whole hi hq hw rfl hv).trans (congrArg Host.Outcome.next serves)
  refine ⟨_, drawn t1 g1 cl bs, granted g1 cl bs (s.fresh + 1), step, by simp, (putGroup_get ..).trans (if_pos rfl), rfl, rfl, rfl, rfl, ?_⟩
  exact granted_block_advanced hw hh hlen hlanes _ cl bs _

/-- Claims of a team that cannot be granted stand (R20). -/
theorem serveClaims_stands {s : State} {tid : Nat} {t : Team} {cl : Claim} (ht : mget s.teams tid = some t) (hc : t.claims.head? = some cl)
    (hb : claimBlocks s tid t cl = none) : serveClaims s tid = s := by
  obtain ⟨rest, hc⟩ := List.head?_eq_some_iff.mp hc
  exact serveGo_none ht hc hb 128

theorem claimWaits : Says.ClaimWaits := by
  intro s c g t f hi hq hroll hw n hv hcases
  let cl : Claim := ⟨c.gid, n, c.mask⟩
  let g1 := finished c (block g c.mask (.pool t.poolPhase))
  let t1 : Team := { t with claims := t.claims ++ [cl] }
  obtain ⟨x, hx, hb⟩ : ∃ x, t1.claims.head? = some x ∧ claimBlocks s g.team t x = none := by
    rcases hcases with ⟨h1, h2⟩ | ⟨h1, h2, -⟩
    · exact ⟨cl, by simp [t1, h1], by simp [claimBlocks, cl, hi.group, h2]⟩
    · obtain ⟨x, rest, h⟩ := List.exists_cons_of_ne_nil h1
      exact ⟨x, by simp [t1, h], by simpa [h] using h2⟩
  have found := (claimBlocks_put (s := { s with cur := .idle }) (u := t1) hi.group hi.team (samePlace_finished_block c g c.mask (.pool t.poolPhase)) rfl
    x).trans hb
  have stands := serveClaims_stands (s := putTeam (putGroup { s with cur := .idle } c.gid g1) g.team t1) (by simp) hx found
  have step := (execRclaim_whole hi hq hw rfl hv).trans (congrArg Host.Outcome.next stands)
  exact ⟨_, t1, g1, step, by simp, by simp, rfl, rfl, finished_block (fun _ h => h) _, rfl⟩

/-- Settles O27, word by word: a give, a claim granted, and a claim that stands. -/
theorem registersMoveThroughThePool : Obligations.RegistersMoveThroughThePool :=
  ⟨registersAreGiven, claimIsGranted, claimWaits⟩

end Sys2Proof.Proofs.Pool

namespace Sys2Proof.Proofs.Issuing

/-! Which lanes an issue takes (R24), and one issue cycle of a sub-partition with one group. -/

open Sys2Proof Sys2Proof.Machine Sys2Proof.Laws Sys2Proof.Proofs.Facts

/-! ### The issue set -/

theorem has_atPc {g : Group} {m : Mask} {pc l : Nat} : has (atPc g m pc) l = true ↔ has m l = true ∧ (g.lane l).pc.toNat = pc := by
  rw [atPc, has_maskBy_iff (fun h => has_lt (Bool.and_eq_true_iff.mp h).1)]
  simp

theorem exists_has {m : Mask} (h : m ≠ 0#32) : ∃ l, has m l = true := by
  obtain ⟨l, hl⟩ := List.exists_mem_of_ne_nil _ (mt lanesOf_eq_nil.mp h)
  exact ⟨l, (mem_lanesOf _ _).mp hl⟩

theorem ne_zero_of_has {m : Mask} {l : Nat} (h : has m l = true) : m ≠ 0#32 := by
  rintro rfl
  simp [has] at h

/-- The lowest PC of a set stands at a lane of it, and at or below every lane of it. -/
theorem minPc_least {g : Group} {m : Mask} (h : m ≠ 0#32) :
    (∃ l, has m l = true ∧ (g.lane l).pc.toNat = minPc g m) ∧ ∀ l, has m l = true → minPc g m ≤ (g.lane l).pc.toNat := by
  obtain ⟨l, hl⟩ := exists_has h
  have hmem := fun k (hk : has m k = true) => List.mem_map_of_mem (f := fun l => (g.lane l).pc.toNat) ((mem_lanesOf m k).mpr hk)
  obtain ⟨x, hx⟩ : ∃ x, ((lanesOf m).map (fun l => (g.lane l).pc.toNat)).min? = some x :=
    Option.ne_none_iff_exists'.mp (by simpa [List.min?_eq_none_iff] using mt lanesOf_eq_nil.mp h)
  obtain ⟨hin, hle⟩ := List.min?_eq_some_iff.mp hx
  rw [minPc, hx]
  obtain ⟨k, hk, rfl⟩ := List.mem_map.mp hin
  exact ⟨⟨k, (mem_lanesOf _ _).mp hk, rfl⟩, fun k hk => hle _ (hmem k hk)⟩

/-- The lanes at the lowest PC of a set. -/
theorem atPc_minPc_ne_zero {g : Group} {m : Mask} (h : m ≠ 0#32) : atPc g m (minPc g m) ≠ 0#32 := by
  obtain ⟨⟨l, hl, hpc⟩, -⟩ := minPc_least (g := g) h
  exact ne_zero_of_has (has_atPc.mpr ⟨hl, hpc⟩)

/-- Lane b is at least as starved as lane l: it has missed more issues, or as many and its PC is no higher (R24). -/
def starvedMore (g : Group) (b l : Nat) : Prop :=
  (g.lane l).w < (g.lane b).w ∨ (g.lane l).w = (g.lane b).w ∧ (g.lane b).pc.toNat ≤ (g.lane l).pc.toNat

/-- One step of the search for the most starved lane. -/
def starvedStep (g : Group) (best : Option Nat) (l : Nat) : Option Nat :=
  match best with
  | none => some l
  | some b =>
    if (g.lane b).w < (g.lane l).w || ((g.lane b).w = (g.lane l).w && (g.lane l).pc.toNat < (g.lane b).pc.toNat) then some l else best

theorem starvedMore_trans {g : Group} {a b c : Nat} (h1 : starvedMore g a b) (h2 : starvedMore g b c) : starvedMore g a c := by
  simp only [starvedMore] at *
  omega

theorem starvedStep_some (g : Group) (b l : Nat) : ∃ m, starvedStep g (some b) l = some m ∧ (m = b ∨ m = l) ∧ starvedMore g m b ∧ starvedMore g m l := by
  simp only [starvedStep, starvedMore]
  split
  case isTrue h => exact ⟨l, rfl, .inr rfl, by simp at h; omega, .inr ⟨rfl, le_refl _⟩⟩
  case isFalse h => exact ⟨b, rfl, .inl rfl, .inr ⟨rfl, le_refl _⟩, by simp at h; omega⟩

theorem starvedFold_some (g : Group) (ls : List Nat) (b : Nat) : ∃ m, ls.foldl (starvedStep g) (some b) = some m ∧ m ∈ b :: ls ∧
    ∀ l ∈ b :: ls, starvedMore g m l := by
  induction ls generalizing b with
  | nil => exact ⟨b, rfl, by simp, by simp [starvedMore]⟩
  | cons x ls ih =>
    obtain ⟨c, hc, hcin, hcb, hcx⟩ := starvedStep_some g b x
    obtain ⟨m, hm, hin, hall⟩ := ih c
    refine ⟨m, by rw [List.foldl_cons, hc, hm], ?_, ?_⟩
    · rcases List.mem_cons.mp hin with rfl | hin
      · rcases hcin with rfl | rfl <;> simp
      · simp [hin]
    · intro l hl
      rcases List.mem_cons.mp hl with rfl | hl
      · exact starvedMore_trans (hall c List.mem_cons_self) hcb
      · rcases List.mem_cons.mp hl with rfl | hl
        · exact starvedMore_trans (hall c List.mem_cons_self) hcx
        · exact hall l (List.mem_cons_of_mem _ hl)

/-- The search finds a lane of the set, the most starved one. -/
theorem starvedLane_some {g : Group} {e : Mask} (h : e ≠ 0#32) : ∃ m, starvedLane g e = some m ∧ has e m = true ∧
    ∀ l, has e l = true → starvedMore g m l := by
  have hs : starvedLane g e = (lanesOf e).foldl (starvedStep g) none := rfl
  have hmem := mem_lanesOf e
  rw [hs]
  match hl : lanesOf e, mt lanesOf_eq_nil.mp h with
  | b :: ls, _ =>
    obtain ⟨m, hm, hin, hall⟩ := starvedFold_some g ls b
    rw [← hl] at hin hall
    exact ⟨m, hm, (hmem m).mp hin, fun l hl => hall l ((hmem l).mpr hl)⟩

/-- The active lanes that do not wait at their meeting register (R24). -/
def freeLanes (g : Group) : Mask :=
  maskBy (fun l => has (g.inState .active) l && ((g.lane l).mr == 0#64 || (g.lane l).pc != (g.lane l).mr))

theorem has_freeLanes {g : Group} {l : Nat} : has (freeLanes g) l = true ↔
    has (g.inState .active) l = true ∧ ((g.lane l).mr = 0#64 ∨ (g.lane l).pc ≠ (g.lane l).mr) := by
  rw [freeLanes, has_maskBy_iff (fun h => has_lt (Bool.and_eq_true_iff.mp h).1)]
  simp

/-- A lane that has missed 256 issues leads the issue. -/
theorem issueSet_starved {g : Group} {l : Nat} (hl : has (g.inState .active) l = true) (hw : (g.lane l).w = 256) :
    ∃ m, has (g.inState .active) m = true ∧ (∀ l, has (g.inState .active) l = true → starvedMore g m l) ∧
      issueSet g = atPc g (g.inState .active) (g.lane m).pc.toNat := by
  obtain ⟨m, hm, hin, hall⟩ := starvedLane_some (g := g) (ne_zero_of_has hl)
  refine ⟨m, hin, hall, ?_⟩
  have : (lanesOf (g.inState .active)).any (fun l => (g.lane l).w == 256) = true :=
    List.any_eq_true.mpr ⟨l, (mem_lanesOf _ _).mpr hl, by simp [hw]⟩
  simp [issueSet, this, hm]

/-- With no such lane, the lowest PC leads: of the free lanes, or, when there is none, of all active lanes. -/
theorem issueSet_fair {g : Group} (h : ∀ l, has (g.inState .active) l = true → (g.lane l).w ≠ 256) :
    issueSet g = if freeLanes g ≠ 0#32 then atPc g (freeLanes g) (minPc g (freeLanes g))
      else atPc g (g.inState .active) (minPc g (g.inState .active)) := by
  have : (lanesOf (g.inState .active)).any (fun l => (g.lane l).w == 256) = false :=
    List.any_eq_false.mpr fun l hl => by simpa using h l ((mem_lanesOf _ _).mp hl)
  simp only [issueSet, this]
  rfl

/-- The issue set is the lanes of some set of active lanes at some PC. -/
theorem issueSet_atPc (g : Group) (h : g.inState .active ≠ 0#32) : ∃ u pc, issueSet g = atPc g u pc ∧ (∀ l, has u l = true → has (g.inState .active) l = true) ∧
    atPc g u pc ≠ 0#32 := by
  by_cases hw : ∃ l, has (g.inState .active) l = true ∧ (g.lane l).w = 256
  · obtain ⟨l, hl, hw⟩ := hw
    obtain ⟨m, hm, -, heq⟩ := issueSet_starved hl hw
    exact ⟨_, _, heq, fun _ => id, ne_zero_of_has (has_atPc.mpr ⟨hm, rfl⟩)⟩
  · have heq := issueSet_fair (g := g) (by simpa using hw)
    split at heq
    · next hu => exact ⟨_, _, heq, fun l hl => (has_freeLanes.mp hl).1, atPc_minPc_ne_zero hu⟩
    · exact ⟨_, _, heq, fun _ => id, atPc_minPc_ne_zero h⟩

theorem issueSet_inactive {g : Group} (h : g.inState .active = 0#32) : issueSet g = 0#32 := by
  have hno : ∀ l, has (g.inState .active) l = false := fun l => by simp [h, has]
  refine mask_ext fun l _ => ?_
  rw [issueSet_fair (fun l hl => by simp [hno] at hl)]
  split
  · next hu =>
    obtain ⟨k, hk⟩ := exists_has hu
    exact absurd (has_freeLanes.mp hk).1 (by simp [hno])
  · refine Bool.eq_iff_iff.mpr (iff_of_false (fun hh => ?_) (by simp [has]))
    exact absurd (has_atPc.mp hh).1 (by simp [hno])

theorem issueSet_ne_zero {g : Group} (h : g.inState .active ≠ 0#32) : issueSet g ≠ 0#32 := by
  obtain ⟨u, pc, heq, -, hne⟩ := issueSet_atPc g h
  rwa [heq]

/-- The lanes of ISSUE are active and stand at its PC. -/
theorem issueSet_lane {g : Group} {l : Nat} (h : has (issueSet g) l = true) : has (g.inState .active) l = true ∧ (g.lane l).pc = issuePc g := by
  by_cases ha : g.inState .active = 0#32
  · simp [issueSet_inactive ha, has] at h
  · obtain ⟨u, pc, heq, hu, hne⟩ := issueSet_atPc g ha
    have hhead : has (issueSet g) ((lanesOf (issueSet g)).headD 0) = true := by
      have := mem_lanesOf (issueSet g)
      match hl : lanesOf (issueSet g), mt lanesOf_eq_nil.mp (issueSet_ne_zero ha) with
      | b :: ls, _ => exact (this b).mp (by simp [hl])
    have h2 := hhead
    rw [heq] at h
    rw [heq, has_atPc, ← heq] at h2
    obtain ⟨hl, hpc⟩ := has_atPc.mp h
    exact ⟨hu l hl, BitVec.eq_of_toNat_eq (by rw [hpc, issuePc, h2.2])⟩

/-- The lowest PC of a set whose lanes at that PC are ISSUE. -/
theorem issuePc_minPc {g : Group} {u : Mask} (hu : u ≠ 0#32) (h : issueSet g = atPc g u (minPc g u)) : (issuePc g).toNat = minPc g u := by
  obtain ⟨l, hl⟩ := exists_has (atPc_minPc_ne_zero (g := g) hu)
  rw [← (issueSet_lane (h ▸ hl)).2, (has_atPc.mp hl).2]

theorem has_issueSet_minPc {g : Group} {u : Mask} (hu : u ≠ 0#32) (h : issueSet g = atPc g u (minPc g u)) (l : Nat) :
    has (issueSet g) l = true ↔ has u l = true ∧ (g.lane l).pc = issuePc g := by
  rw [h, has_atPc, ← issuePc_minPc hu h, BitVec.toNat_inj]

/-- What the issue does to a lane's MR and W (R24). -/
def issuedLane (g : Group) (l : Nat) : Lane :=
  if has (issueSet g) l then { g.lane l with mr := if (g.lane l).pc = (g.lane l).mr then 0#64 else (g.lane l).mr, w := 0 }
  else if (g.lane l).st = .active then { g.lane l with w := min ((g.lane l).w + 1) 256 } else g.lane l

theorem has_inState {g : Group} {x : LaneSt} {l : Nat} (hl : l < 32) : has (g.inState x) l = true ↔ (g.lane l).st = x := by
  rw [Group.inState, has_maskBy _ l hl, decide_eq_true_iff]

theorem afterIssue_lane (g : Group) (l : Nat) (hl : l < g.lanes.length) (h32 : l < 32) :
    (afterIssue g (issueSet g)).lane l = issuedLane g l := by
  have hact := has_inState (g := g) (x := .active) h32
  have hlen : ∀ m f, (g.onLanes m f).lanes.length = g.lanes.length := fun m f => by simp [Group.onLanes]
  simp only [afterIssue]
  rw [onLanes_lane _ _ _ l (by rw [hlen]; exact hl), onLanes_lane _ _ _ l hl, issuedLane]
  have hm : has (g.inState .active &&& ~~~issueSet g) l = (has (g.inState .active) l && !has (issueSet g) l) := by
    simp [has, h32]
  rw [hm]
  cases h : has (issueSet g) l
  · simp [← hact]
  · simp

theorem issueChoosesLanes : Says.IssueChoosesLanes := by
  intro g
  refine ⟨issueSet_ne_zero, fun l => issueSet_lane, ?_, ?_, afterIssue_lane g⟩
  · rintro ⟨l, hl, hw⟩
    obtain ⟨m, hm, hall, heq⟩ := issueSet_starved hl hw
    exact ⟨m, hm, hall, fun l => by rw [heq, has_atPc, BitVec.toNat_inj]⟩
  · intro hw
    have heq := issueSet_fair hw
    constructor
    · rintro ⟨k, hk, hfree⟩ l hl
      have hu := ne_zero_of_has (has_freeLanes.mpr ⟨hk, hfree⟩)
      rw [if_pos hu] at heq
      refine ⟨fun hf => ?_, ?_⟩
      · rw [issuePc_minPc hu heq]
        exact (minPc_least hu).2 l (has_freeLanes.mpr ⟨hl, hf⟩)
      · rw [has_issueSet_minPc hu heq, has_freeLanes]
        simp [hl]
    · intro hnone l hl
      have hu : freeLanes g = 0#32 := by
        by_contra hu
        obtain ⟨k, hk⟩ := exists_has hu
        exact hnone k (has_freeLanes.mp hk).1 (has_freeLanes.mp hk).2
      have he := ne_zero_of_has hl
      rw [if_neg (by simp [hu])] at heq
      refine ⟨?_, by rw [has_issueSet_minPc he heq]; simp [hl]⟩
      rw [issuePc_minPc he heq]
      exact (minPc_least he).2 l hl

/-! ### The fetch of a word that is at hand and current -/

/-- What a lookup of a translation, and the count of a sub-partition's cycles, may change. -/
def cachesOnly (s t : State) : Prop := t = { s with cores := t.cores, dies := t.dies }

theorem cachesOnly_trans {s t u : State} (h1 : cachesOnly s t) (h2 : cachesOnly t u) : cachesOnly s u := by
  unfold cachesOnly at *; rw [h2, h1]

theorem readWord_cachesOnly {s t : State} (h : cachesOnly s t) (core world pa : Nat) : readWord t core world pa = readWord s core world pa := by
  rw [h]; rfl

theorem coreOf_onCore (s : State) (k j : Nat) (f : Core → Core) : coreOf (onCore s k f) j = if j = k then f (coreOf s k) else coreOf s j := by
  simp [coreOf, onCore]

theorem subpAt_onSubp (s : State) (core subp k p : Nat) (f : SubPart → SubPart) :
    subpAt (onSubp s core subp f) k p = if k = core ∧ p = subp then f (subpAt s core subp) else subpAt s k p := by
  unfold subpAt onSubp
  rw [coreOf_onCore]
  by_cases hk : k = core
  · subst hk; simp
  · simp [hk]

theorem lookupTrans_cachesOnly (s : State) (core part space va kind : Nat) : cachesOnly s (lookupTrans s core part space va kind).1 := by
  unfold lookupTrans
  split
  · rfl
  · dsimp only; split <;> rfl

theorem lookupTrans_subps (s : State) (core part space va kind k : Nat) :
    (coreOf (lookupTrans s core part space va kind).1 k).subps = (coreOf s k).subps := by
  have tc (u : State) (d p : Nat) (f : List Trans → List Trans) : coreOf (onTc u d p f) = coreOf u := rfl
  unfold lookupTrans
  by_cases hk : k = core
  · subst hk
    split
    · simp [coreOf_onCore]
    · dsimp only
      split <;> simp [enterTrans, tc, coreOf_onCore]
  · split
    · simp [coreOf_onCore, hk]
    · dsimp only
      split <;> simp [enterTrans, tc, coreOf_onCore, hk]

/-- A lookup answers from the translation caches alone. -/
theorem lookupTrans_congr {s s' : State} {core : Nat} (ht : (coreOf s' core).tlb = (coreOf s core).tlb) (hd : s'.dies = s.dies)
    (part space va kind : Nat) : (lookupTrans s' core part space va kind).2 = (lookupTrans s core part space va kind).2 := by
  have tc : ∀ (u : State) (f : Core → Core) (d : Nat), tcOf (onCore u core f) d part = tcOf u d part := fun _ _ _ => rfl
  have hd' : ∀ d, tcOf s' d part = tcOf s d part := fun d => by simp [tcOf, dieOf, hd]
  unfold lookupTrans
  rw [ht]
  split
  · rfl
  · simp only [tc, hd']
    split <;> rfl

/-- The page of a word, with no walk of its group answered. -/
theorem pageStates_word {s : State} {g : Group} (t : Team) (va : Nat) (h : g.susp = []) :
    pageStates s g t 4 [va] = ((lookupTrans s g.core t.part t.space (4096 * (va / 4096)) 4).1,
      [⟨va, 4, ((lookupTrans s g.core t.part t.space (4096 * (va / 4096)) 4).2.map (fun tr => PageSt.mapped tr.frame tr.lsize tr.attrs)).getD .pending⟩]) := by
  simp only [pageStates, firstInPages, pageState, h, List.foldl_cons, List.foldl_nil, List.find?_nil, List.any_nil, List.nil_append, Bool.false_eq_true,
    if_false]
  rcases lookupTrans s g.core t.part t.space (4096 * (va / 4096)) 4 with ⟨u, _ | tr⟩ <;> rfl

/-- A group that holds the word at a PC, as its fetch leaves it. -/
def refetched (g : Group) (pc : Nat) (w : BitVec 64) : Group := { g with fetched := mput g.fetched pc w, susp := [] }

theorem fetchAt_current {s : State} {gid : Nat} {g : Group} {t : Team} {pc pa : Nat} {w : BitVec 64} (hg : mget s.groups gid = some g)
    (hw : mget g.fetched pc = some w) (hnow : readWord s g.core t.world pa = w) : fetchAt s gid g t pc pa = putGroup s gid (refetched g pc w) := by
  simp only [fetchAt, hnow, hw, Option.some_or, ne_eq, not_true_eq_false, decide_false, Bool.false_and, Bool.false_eq_true, if_false,
    Option.isSome_some, if_true]
  split <;> exact onGroup_some hg _

theorem badTarget_eq_false {a : W64} (h : goodTarget a) : badTarget a = false := by
  obtain ⟨h8, h56⟩ := h
  simpa [badTarget, h8] using h56

/-- A group is kept from issuing by nothing that a lookup, or the count of cycles, changes. -/
theorem canIssue_cachesOnly {s t : State} {g : Group} (h : cachesOnly s t) (hh : g.holds = [])
    (hs : (subpAt t g.core g.subp).held = (subpAt s g.core g.subp).held ∧ (subpAt t g.core g.subp).last = (subpAt s g.core g.subp).last) :
    canIssue t g = canIssue s g := by
  have hc : inChain t g = inChain s g := by
    simp only [inChain, hs]
    rw [h]
  have ht : trailsOn t g = trailsOn s g := by
    rw [h]; rfl
  have hteams : t.teams = s.teams := by rw [h]
  simp only [canIssue, hh, hc, ht, hteams, List.any_nil]

theorem canIssue_refetched {s : State} {gid pc : Nat} {g : Group} {w : BitVec 64} (hg : mget s.groups gid = some g) (hh : g.holds = [])
    (hsusp : g.susp = []) : canIssue (putGroup s gid (refetched g pc w)) (refetched g pc w) = canIssue s g := by
  have hc : inChain (putGroup s gid (refetched g pc w)) (refetched g pc w) = inChain s g := by
    simp only [inChain]
    show ((subpAt s g.core g.subp).held && _) = ((subpAt s g.core g.subp).held && _)
    congr 1
    show Option.any _ ((subpAt s g.core g.subp).last.bind _) = _
    rcases (subpAt s g.core g.subp).last with _ | k
    · rfl
    · by_cases hk : k = gid
      · subst hk
        simp [hg, refetched]
      · simp [hk, refetched]
  have hh' : (refetched g pc w).holds = [] := hh
  have hs' : (refetched g pc w).susp = g.susp := hsusp.symm
  simp only [canIssue, hc, hh, hh', hs', List.any_nil]
  rfl

theorem copyRoom_refetched {s t : State} (h : cachesOnly s t) (gid pc : Nat) (g : Group) (w w' : BitVec 64) :
    copyRoom (putGroup t gid (refetched g pc w)) gid (refetched g pc w) w' = copyRoom s gid g w' := by
  rw [h]; rfl

/-- The fetch of the next word of a group, where the group holds it, current and translated. -/
theorem fetchNext_current {s : State} {gid : Nat} {g : Group} {t : Team} {w : BitVec 64} {fr sz at_ : Nat} (hg : mget s.groups gid = some g)
    (ht : mget s.teams g.team = some t) (hc : canIssue s g = true) (hp : g.pends = false) (hgood : goodTarget (issuePc g))
    (hw : mget g.fetched (issuePc g).toNat = some w) (hsusp : g.susp = [])
    (hl : (lookupTrans s g.core t.part t.space (4096 * ((issuePc g).toNat / 4096)) 4).2.map (fun tr => PageSt.mapped tr.frame tr.lsize tr.attrs) =
      some (.mapped fr sz at_))
    (hnow : readWord s g.core t.world (fr + (issuePc g).toNat % 2 ^ sz) = w) :
    fetchNext s gid = putGroup (lookupTrans s g.core t.part t.space (4096 * ((issuePc g).toNat / 4096)) 4).1 gid (refetched g (issuePc g).toNat w) := by
  have hcaches := lookupTrans_cachesOnly s g.core t.part t.space (4096 * ((issuePc g).toNat / 4096)) 4
  simp only [fetchNext, hg, ht, hc, hp, Bool.not_true, Bool.or_self, Bool.false_eq_true, if_false, badTarget_eq_false hgood, pageStates_word t _ hsusp, hl,
    Option.getD_some]
  refine fetchAt_current ?_ hw ?_
  · rw [hcaches]; exact hg
  · rw [readWord_cachesOnly hcaches]; exact hnow

/-! ### The choice and the issue of a group (R24, R28) -/

/-- One step of the choice of a group. -/
def pickStep (best : Option (Nat × Group)) (p : Nat × Group) : Option (Nat × Group) :=
  match best with
  | none => some p
  | some b => if better p b then some p else best

theorem pickFold_mem (rs : List (Nat × Group)) (b : Nat × Group) : ∃ p ∈ b :: rs, rs.foldl pickStep (some b) = some p := by
  induction rs generalizing b with
  | nil => exact ⟨b, by simp, rfl⟩
  | cons r rs ih =>
    obtain ⟨c, hc, hcb⟩ : ∃ c, pickStep (some b) r = some c ∧ (c = b ∨ c = r) := by
      simp only [pickStep]
      split
      · exact ⟨r, rfl, .inr rfl⟩
      · exact ⟨b, rfl, .inl rfl⟩
    obtain ⟨p, hp, hf⟩ := ih c
    refine ⟨p, ?_, by rw [List.foldl_cons, hc, hf]⟩
    rcases List.mem_cons.mp hp with rfl | hp
    · rcases hcb with rfl | rfl <;> simp
    · simp [hp]

/-- With a group ready, one that is ready is chosen. -/
theorem pick_mem {rs : List (Nat × Group)} (h : rs ≠ []) : ∃ p ∈ rs, pick rs = some p := by
  have some_of_ne : ∀ l : List (Nat × Group), l ≠ [] → ∃ p ∈ l, l.foldl pickStep none = some p := fun l hl => by
    match l, hl with
    | b :: l, _ => exact pickFold_mem l b
  have hpick : pick rs = (if (rs.filter (fun p => !p.2.holds.any (fun h => h == .yielded))).isEmpty then rs
    else rs.filter (fun p => !p.2.holds.any (fun h => h == .yielded))).foldl pickStep none := rfl
  rw [hpick]
  split
  · exact some_of_ne rs h
  · next hne =>
    obtain ⟨p, hp, he⟩ := some_of_ne _ (mt List.isEmpty_iff.mpr hne)
    exact ⟨p, List.mem_of_mem_filter hp, he⟩

/-- A group as a cycle's count leaves it: what held it is over. -/
def counted (g : Group) (n : Nat) : Group := { g with waitCount := n, holds := [] }

/-- The group as its issue leaves it. -/
def issuedGroup (g : Group) : Group := { afterIssue g (issueSet g) with fetched := mdel g.fetched (issuePc g).toNat }

/-- A cycle in which one group alone can be chosen, and is ready, issues it. -/
theorem cycle_issues {s : State} {core subp gid : Nat} {g : Group} (hg : mget s.groups gid = some g) (hcore : g.core = core) (hsubp : g.subp = subp)
    (hall : ∀ p ∈ s.groups, p.2.core = core → p.2.subp = subp → p.1 = gid) (hr : ready s gid g = true) (hp : g.pends = false) (hh : g.holds = []) :
    ∃ gs f n, mget gs gid = some (counted g n) ∧
      cycle s core subp = issueGroup (onSubp { s with groups := gs } core subp f) core subp gid (counted g n) := by
  have hmem : (gid, g) ∈ (s.groups.filter (fun p => p.2.core == core && p.2.subp == subp)).filter (fun p => ready s p.1 p.2) := by
    simp [mem_of_mget hg, hcore, hsubp, hr]
  have hkey : ∀ p ∈ (s.groups.filter (fun p => p.2.core == core && p.2.subp == subp)).filter (fun p => ready s p.1 p.2), p.1 = gid := fun p hp => by
    simp only [List.mem_filter, Bool.and_eq_true, beq_iff_eq] at hp
    exact hall p hp.1.1 hp.1.2.1 hp.1.2.2
  obtain ⟨q, hq, hqp⟩ := pick_mem (List.ne_nil_of_mem hmem)
  unfold cycle
  extract_lets sp here rs kept chosen count s1
  obtain ⟨p, hchosen, hpk⟩ : ∃ p, chosen = some p ∧ p.1 = gid := by
    rcases hk : kept with _ | p
    · exact ⟨q, by simp only [chosen, hk]; exact hqp, hkey q hq⟩
    · refine ⟨p, by simp only [chosen, hk], hkey p ?_⟩
      simp only [kept] at hk
      split at hk
      · exact List.mem_of_find?_eq_some hk
      · cases hk
  have hcount : ∃ F : Nat → Group → Group, (∀ p, count p = (p.1, F p.1 p.2)) ∧ ∃ n, F gid g = counted g n := by
    refine ⟨fun k x => (count (k, x)).2, fun p => ?_, ?_⟩
    · simp only [count]; split <;> rfl
    · simp only [count]
      rw [if_pos (by simp [hcore, hsubp])]
      simp only [hh, List.filter_nil]
      exact ⟨_, rfl⟩
  obtain ⟨F, hF, n, hn⟩ := hcount
  have hget : mget s1.groups gid = some (counted g n) := by
    show mget (s.groups.map count) gid = _
    rw [funext hF, mget_map_entries, hg, Option.map_some, hn]
  have hpends : (counted g n).pends = false := hp
  obtain ⟨k, x⟩ := p
  obtain rfl : k = gid := hpk
  simp only [hchosen, hget, hpends, Bool.false_eq_true, if_false]
  exact ⟨_, _, n, hget, rfl⟩

/-- The word of ISSUE is at hand for the next step, and the group has issued it. -/
theorem issueGroup_spec {s : State} {core subp gid : Nat} {g : Group} {w : BitVec 64} (hw : mget g.fetched (issuePc g).toNat = some w) :
    ∃ gs, mget gs gid = some (issuedGroup g) ∧
      issueGroup s core subp gid g = { s with groups := gs, cur := .word ⟨gid, issueSet g, issuePc g, w⟩ } := by
  simp only [issueGroup, hw]
  refine ⟨_, ?_, rfl⟩
  have hmap : (fun p : Nat × Group => if (p.1 != gid && decide (p.2.core = core) && decide (p.2.subp = subp)) = true then (p.1, loseLatches p.2) else p) =
      fun p => (p.1, if (p.1 != gid && decide (p.2.core = core) && decide (p.2.subp = subp)) = true then loseLatches p.2 else p.2) := by
    funext p; split <;> rfl
  rw [hmap, mget_map_entries _ (fun k x => if (k != gid && decide (x.core = core) && decide (x.subp = subp)) = true then loseLatches x else x)]
  simp [issuedGroup]

/-- What a sub-partition has issued in the 64 core clocks that the clock is in. -/
def issuedNow (s : State) (sp : SubPart) : Nat :=
  if (match sp.cycleAt with
    | some k => decide (k / 64 ≠ s.clock / 64)
    | none => true) then 0 else sp.used

theorem issuedNow_lt {s : State} {sp : SubPart} (hn : 1 ≤ s.ctl.n) (h : sp.cycleAt.map (· / 64) ≠ some (s.clock / 64) ∨ sp.used < s.ctl.n) :
    issuedNow s sp < s.ctl.n := by
  rcases hc : sp.cycleAt with _ | k
  · simp only [issuedNow, hc, if_true]
    omega
  · simp only [issuedNow, hc, decide_eq_true_eq]
    split
    · omega
    · next hk => exact h.resolve_left (by simpa [hc] using hk)

/-- A sub-partition begins an issue cycle. -/
def cycleBegun (s : State) (core subp : Nat) : State :=
  onSubp s core subp (fun x => { x with cycleAt := some s.clock, used := issuedNow s (subpAt s core subp) })

theorem execIssueCycle_one {s : State} {core subp gid : Nat} {g : Group} (hargs : s.args = [core, subp])
    (hone : s.groups.filter (fun p => p.2.core == core && p.2.subp == subp) = [(gid, g)]) (hres : resumable s core subp = none)
    (hcyc : (subpAt s core subp).cycleAt ≠ some s.clock) (hused : issuedNow s (subpAt s core subp) < s.ctl.n) :
    execIssueCycle s = .next (cycle (fetchNext (cycleBegun s core subp) gid) core subp) := by
  have hfilter : (cycleBegun s core subp).groups.filter (fun p => p.2.core == core && p.2.subp == subp) = [(gid, g)] := hone
  unfold execIssueCycle
  simp only [hargs, hres, hcyc, if_false]
  refine (if_neg (Nat.not_le_of_lt hused)).trans ?_
  show Host.Outcome.next (cycle (((cycleBegun s core subp).groups.filter (fun p => p.2.core == core && p.2.subp == subp)).foldl
    (fun s p => fetchNext s p.1) (cycleBegun s core subp)) core subp) = _
  rw [hfilter, List.foldl_cons, List.foldl_nil]

/-- A group that holds its next word, and waits for nothing, is ready. -/
theorem ready_refetched {s u : State} {gid : Nat} {g : Group} {t : Team} {w : BitVec 64} (hu : cachesOnly s u) (hg : mget s.groups gid = some g)
    (ht : mget s.teams g.team = some t) (hc : canIssue u g = true) (hfl : g.flights = []) (hh : g.holds = []) (htwin : t.twin = 0)
    (hroom : copyRoom s gid g w = true) (hsusp : g.susp = []) :
    ready (putGroup u gid (refetched g (issuePc g).toNat w)) gid (refetched g (issuePc g).toNat w) = true := by
  have hgu : mget u.groups gid = some g := by rw [hu]; exact hg
  have htu : mget u.teams g.team = some t := by rw [hu]; exact ht
  have hget : mget (refetched g (issuePc g).toNat w).fetched (issuePc (refetched g (issuePc g).toNat w)).toNat = some w :=
    (mget_mput ..).trans (if_pos rfl)
  have hflights : (refetched g (issuePc g).toNat w).flights = [] := hfl
  have htwinRoom : twinRoom (putGroup u gid (refetched g (issuePc g).toNat w)) (refetched g (issuePc g).toNat w) w = true := by
    simp only [twinRoom]
    rw [show mget (putGroup u gid _).teams (refetched g (issuePc g).toNat w).team = some t from htu]
    simp [htwin]
  simp only [ready, canIssue_refetched hgu hh hsusp, hc, hget, hflights, htwinRoom, copyRoom_refetched hu, hroom, List.any_nil]
  simp

theorem subpAt_cycleBegun (s : State) (core subp : Nat) : (subpAt (cycleBegun s core subp) core subp).held = (subpAt s core subp).held ∧
    (subpAt (cycleBegun s core subp) core subp).last = (subpAt s core subp).last := by
  rw [cycleBegun, subpAt_onSubp, if_pos ⟨rfl, rfl⟩]
  exact ⟨rfl, rfl⟩

theorem tlb_cycleBegun (s : State) (core subp : Nat) : (coreOf (cycleBegun s core subp) core).tlb = (coreOf s core).tlb := by
  rw [cycleBegun, onSubp, coreOf_onCore, if_pos rfl]

/-- What the lookup for a word's page finds, given how the page stands. -/
theorem lookup_of_pageStates {s : State} {g : Group} {t : Team} {va fr sz at_ : Nat} (hsusp : g.susp = [])
    (h : (pageStates s g t 4 [va]).2 = [⟨va, 4, .mapped fr sz at_⟩]) :
    (lookupTrans s g.core t.part t.space (4096 * (va / 4096)) 4).2.map (fun tr => PageSt.mapped tr.frame tr.lsize tr.attrs) = some (.mapped fr sz at_) := by
  rw [pageStates_word t _ hsusp] at h
  rcases hl : (lookupTrans s g.core t.part t.space (4096 * (va / 4096)) 4).2 with _ | tr
  · simp [hl] at h
  · simpa [hl] using h

/-- The fetch of a cycle whose group holds its next word, current and translated: it leaves the group able to issue. -/
theorem fetchNext_begun {s : State} {gid : Nat} {g : Group} {t : Team} {w : BitVec 64} {fr sz at_ : Nat} (hg : mget s.groups gid = some g)
    (ht : mget s.teams g.team = some t) (hc : canIssue s g = true) (hp : g.pends = false) (hh : g.holds = []) (hgood : goodTarget (issuePc g))
    (hw : mget g.fetched (issuePc g).toNat = some w) (hsusp : g.susp = [])
    (hpage : (pageStates s g t 4 [(issuePc g).toNat]).2 = [⟨(issuePc g).toNat, 4, .mapped fr sz at_⟩])
    (hnow : readWord s g.core t.world (fr + (issuePc g).toNat % 2 ^ sz) = w) :
    ∃ u, cachesOnly s u ∧ canIssue u g = true ∧
      fetchNext (cycleBegun s g.core g.subp) gid = putGroup u gid (refetched g (issuePc g).toNat w) := by
  have hbegun : cachesOnly s (cycleBegun s g.core g.subp) := rfl
  have hlook := lookup_of_pageStates hsusp hpage
  rw [← lookupTrans_congr (tlb_cycleBegun s g.core g.subp) rfl] at hlook
  have hcan := (canIssue_cachesOnly hbegun hh (subpAt_cycleBegun s g.core g.subp)).trans hc
  refine ⟨_, cachesOnly_trans hbegun (lookupTrans_cachesOnly ..), (canIssue_cachesOnly (lookupTrans_cachesOnly ..) hh ?_).trans hcan,
    fetchNext_current hg ht hcan hp hgood hw hsusp hlook ((readWord_cachesOnly hbegun ..).trans hnow)⟩
  simp only [subpAt, lookupTrans_subps, and_self]

theorem issueCycleIssues : Says.IssueCycleIssues := by
  intro s core subp gid g t w fr sz at_ hargs hone hg ht hres hcyc hn hused hcan herr hstarve hdiv hfl hh htwin hroom hgood hw hsusp hpage hnow
  have hhere : (gid, g) ∈ s.groups.filter (fun p => p.2.core == core && p.2.subp == subp) := by simp [hone]
  obtain ⟨hcore, hsubp⟩ : g.core = core ∧ g.subp = subp := by simpa using (List.mem_filter.mp hhere).2
  have hpends : g.pends = false := by simp [Group.pends, herr, hstarve, hdiv]
  obtain ⟨u, hu, hcanu, hfetch⟩ := fetchNext_begun hg ht hcan hpends hh hgood hw hsusp hpage hnow
  rw [hcore, hsubp] at hfetch
  have hall : ∀ p ∈ (putGroup u gid (refetched g (issuePc g).toNat w)).groups, p.2.core = core → p.2.subp = subp → p.1 = gid := by
    intro p hp hc hs
    have hgroups : u.groups = s.groups := by rw [hu]
    rcases mem_mput hp with rfl | hp
    · rfl
    · have : p ∈ s.groups.filter (fun p => p.2.core == core && p.2.subp == subp) := by simp [← hgroups, hp, hc, hs]
      rw [hone] at this
      rw [List.mem_singleton.mp this]
  obtain ⟨gs, f, n, -, hcycle⟩ := cycle_issues (s := putGroup u gid (refetched g (issuePc g).toNat w)) ((putGroup_get ..).trans (if_pos rfl))
    hcore hsubp hall (ready_refetched hu hg ht hcanu hfl hh htwin hroom hsusp) hpends hh
  obtain ⟨gs', hget, hissue⟩ := issueGroup_spec (s := onSubp { putGroup u gid (refetched g (issuePc g).toNat w) with groups := gs } core subp f)
    (core := core) (subp := subp) (gid := gid) (g := counted (refetched g (issuePc g).toNat w) n) (w := w) ((mget_mput ..).trans (if_pos rfl))
  refine ⟨_, issuedGroup (counted (refetched g (issuePc g).toNat w) n),
    (execIssueCycle_one hargs hone hres hcyc (issuedNow_lt hn hused)).trans (by rw [hfetch, hcycle, hissue]), rfl, hget, afterIssue_lane g, rfl, rfl, rfl, ?_, ?_⟩
  · show u.mem = s.mem
    rw [hu]
  · show u.writes = s.writes
    rw [hu]

/-- Settles O38: the choice of ISSUE by the most starved lane, else by the lowest PC; and one cycle of a sub-partition, through its fetch, its
choice and its issue. -/
theorem issue : Obligations.Issue := ⟨issueChoosesLanes, issueCycleIssues⟩

end Sys2Proof.Proofs.Issuing

namespace Sys2Proof.Proofs.Seen

/-! What the memory side of a release and of an acquire leaves of teams and groups (R193 to R198): nothing, except that the loads and the
atomics of the releasing group are performed. -/

open Sys2Proof Sys2Proof.Machine Sys2Proof.Laws Sys2Proof.Proofs.Facts

/-! ### Memory and caches -/

theorem reachGo_homeOnly (fuel : Nat) (m : BitVec 193) (s : State) (id : Nat) : homeOnly s (reachGo fuel m s id) := by
  induction fuel generalizing m s id with
  | zero => rfl
  | succ fuel ih =>
    simp only [reachGo]
    split
    · rfl
    · next w _ =>
      split
      · rfl
      · exact homeOnly_trans (homeOnly_trans (drain_homeOnly s id) (homeOnly_writes ..)) (foldl_homeOnly (fun t p => ih (m &&& p.2) t p.1) w.after _)

theorem reachAll_homeOnly (s : State) (id : Nat) (m : BitVec 193) : homeOnly s (reachAll s id m) := reachGo_homeOnly ..

theorem reach_homeOnly (s : State) (id agent : Nat) : homeOnly s (reach s id agent) :=
  homeOnly_trans (reachAll_homeOnly ..) (settle_homeOnly _)

theorem seeBefore_homeOnly (s : State) (agent : Nat) (b : Before) : homeOnly s (seeBefore s agent b) := by
  unfold seeBefore
  split
  · rfl
  · refine homeOnly_trans (foldl_homeOnly (fun t p => ?_) b s) (settle_homeOnly _)
    split
    · exact reachAll_homeOnly ..
    · rfl

theorem writeBack_homeOnly (s : State) (line : Nat) : homeOnly s (writeBack s line) :=
  foldl_homeOnly (fun t u => by split <;> rfl) _ s

theorem fillL2_homeOnly (s : State) (line cls : Nat) : homeOnly s (fillL2 s line cls) := by
  have put (gone : Option L2Line) (d : Nat) (f : Die → Die) : homeOnly s (onDie (match gone with
      | some y => if y.dirty then writeBack s y.line else s
      | none => s) d f) := by
    rcases gone with _ | y
    · rfl
    · dsimp only
      split
      · exact homeOnly_trans (writeBack_homeOnly s y.line) rfl
      · rfl
  unfold fillL2
  dsimp only
  split
  · exact put none ..
  · split
    · exact put ..
    · rfl

theorem useL2_homeOnly (s : State) (core pa : Nat) : homeOnly s (useL2 s core pa) := by
  unfold useL2
  dsimp only
  split
  · exact fillL2_homeOnly ..
  · rfl

theorem dropLine_homeOnly (s : State) (core world line : Nat) : homeOnly s (dropLine s core world line) := rfl
theorem dropL1_homeOnly (s : State) (core world : Nat) : homeOnly s (dropL1 s core world) := rfl
theorem fillSector_homeOnly (s : State) (core world sec : Nat) : homeOnly s (fillSector s core world sec) := rfl

theorem touchL1_homeOnly (s : State) (core world : Nat) (cached : Bool) (pa n : Nat) : homeOnly s (touchL1 s core world cached pa n) := by
  unfold touchL1
  split
  · rfl
  · have h : homeOnly s (requestLines (if cached then s else dropLine s core world (pa / 128)) (some core) pa n) :=
      homeOnly_trans (by split <;> rfl) (requestLines_homeOnly ..)
    dsimp only
    generalize requestLines (if cached then s else dropLine s core world (pa / 128)) (some core) pa n = u at h ⊢
    split
    · exact homeOnly_trans (homeOnly_trans h (useL2_homeOnly ..)) (fillSector_homeOnly ..)
    · exact h

theorem seeLatest_homeOnly (s : State) (core world : Nat) (ps : List (Nat × Nat × Nat)) : homeOnly s (seeLatest s core world ps) :=
  homeOnly_trans (foldl_homeOnly (fun t (w : MWrite) => reach_homeOnly t w.id core) _ s) (foldl_homeOnly (fun t p => dropLine_homeOnly t core world (p.2.1 / 128)) ps _)

theorem observe_homeOnly (s : State) (tid lo n : Nat) (cores : List Nat) : homeOnly s (observe s tid lo n cores) := by
  unfold observe
  split
  · rfl
  · exact foldl_homeOnly (fun t k => homeOnly_trans (seeBefore_homeOnly ..) (dropL1_homeOnly ..)) cores s

/-- Nothing of a team or of a group has changed. -/
def sameSeats (s t : State) : Prop := t.teams = s.teams ∧ t.groups = s.groups

theorem sameSeats_of_homeOnly {s t : State} (h : homeOnly s t) : sameSeats s t := by
  rw [h]; exact ⟨rfl, rfl⟩

theorem sameSeats_trans {s t u : State} (h1 : sameSeats s t) (h2 : sameSeats t u) : sameSeats s u :=
  ⟨h2.1.trans h1.1, h2.2.trans h1.2⟩

theorem homeWrite_sameSeats (s : State) (core world pa : Nat) (bs : List Byte) (after : Before) : sameSeats s (homeWrite s core world pa bs after) := by
  unfold homeWrite homeWriteSkip
  split
  · exact ⟨rfl, rfl⟩
  · have h : homeOnly s ((s.writes.filter (fun w => !w.home && ((w.core == some core && w.overlaps pa bs.length) ||
        after.any (fun p => p.1 == w.id && beyondCore (some core) p.2)))).foldl (fun s w => drain s w.id) (requestLines s (some core) pa bs.length)) :=
      homeOnly_trans (requestLines_homeOnly ..) (foldl_homeOnly (fun t (w : MWrite) => drain_homeOnly t w.id) _ _)
    exact sameSeats_trans (sameSeats_of_homeOnly h) ⟨rfl, rfl⟩

/-! ### Loads and atomics that a release performs -/

/-- Of the groups and teams, the loads and atomics of one group alone have changed. -/
def flightsOnly (gid : Nat) (s t : State) : Prop :=
  t.teams = s.teams ∧ ∀ g, mget s.groups gid = some g → ∃ g', mget t.groups gid = some g' ∧ g' = { g with flights := g'.flights, acqVals := g'.acqVals }

theorem flightsOnly_of_sameSeats {gid : Nat} {s t : State} (h : sameSeats s t) : flightsOnly gid s t :=
  ⟨h.1, fun g hg => ⟨g, h.2 ▸ hg, rfl⟩⟩

theorem flightsOnly_refl (gid : Nat) (s : State) : flightsOnly gid s s := flightsOnly_of_sameSeats ⟨rfl, rfl⟩

theorem flightsOnly_of_homeOnly {gid : Nat} {s t : State} (h : homeOnly s t) : flightsOnly gid s t := flightsOnly_of_sameSeats (sameSeats_of_homeOnly h)

theorem flightsOnly_trans {gid : Nat} {s t u : State} (h1 : flightsOnly gid s t) (h2 : flightsOnly gid t u) : flightsOnly gid s u := by
  refine ⟨h2.1.trans h1.1, fun g hg => ?_⟩
  obtain ⟨g', hg', e1⟩ := h1.2 g hg
  obtain ⟨g'', hg'', e2⟩ := h2.2 g' hg'
  exact ⟨g'', hg'', by rw [e2, e1]⟩

theorem flightsOnly_foldl {gid : Nat} {β : Type} {f : State → β → State} (h : ∀ s b, flightsOnly gid s (f s b)) (l : List β) (s : State) :
    flightsOnly gid s (l.foldl f s) :=
  foldl_keeps (P := flightsOnly gid s) (fun t b ht => flightsOnly_trans ht (h t b)) l (flightsOnly_refl gid s)

theorem onGroup_flightsOnly {gid : Nat} {f : Group → Group} (hf : ∀ g, f g = { g with flights := (f g).flights, acqVals := (f g).acqVals }) (s : State) :
    flightsOnly gid s (onGroup s gid f) :=
  ⟨rfl, fun g hg => ⟨f g, by simp [onGroup, hg], hf g⟩⟩

theorem onFlight_flightsOnly (s : State) (gid id : Nat) (f : Flight → Flight) : flightsOnly gid s (onFlight s gid id f) :=
  onGroup_flightsOnly (fun _ => rfl) s

theorem performLane_flightsOnly (s : State) (gid id l : Nat) : flightsOnly gid s (performLane s gid id l) := by
  unfold performLane
  split
  · exact flightsOnly_refl ..
  · split
    · exact flightsOnly_refl ..
    · next g x _ _ p _ =>
      have touched := flightsOnly_of_homeOnly (gid := gid) (foldl_homeOnly (fun t (q : Nat × Nat × Nat) =>
        touchL1_homeOnly t g.core x.world (x.lines.contains (q.2.1 / 128)) q.2.1 q.2.2) p.pieces s)
      dsimp only
      split <;> exact flightsOnly_trans touched (onFlight_flightsOnly ..)

theorem atomicLane_flightsOnly (s : State) (gid core : Nat) (x : Flight) (l : Nat) : flightsOnly gid s (atomicLane s gid core x l) := by
  unfold atomicLane
  split
  · exact flightsOnly_refl ..
  · split
    · exact flightsOnly_refl ..
    · next pa n _ =>
      have drained := flightsOnly_of_homeOnly (gid := gid) (foldl_homeOnly (fun t (w : MWrite) => drain_homeOnly t w.id)
        (s.writes.filter (fun w => !w.home && w.core == some core && w.overlaps pa n)) s)
      split
      · exact flightsOnly_trans (onFlight_flightsOnly ..) (flightsOnly_of_sameSeats ⟨rfl, rfl⟩)
      · dsimp only
        split
        · exact flightsOnly_trans drained (onFlight_flightsOnly ..)
        · split
          · exact flightsOnly_trans (flightsOnly_trans drained (onFlight_flightsOnly ..)) (flightsOnly_of_sameSeats (homeWrite_sameSeats ..))
          · exact flightsOnly_trans drained (onFlight_flightsOnly ..)

theorem atomicAt_flightsOnly (s : State) (gid id l : Nat) : flightsOnly gid s (atomicAt s gid id l) := by
  unfold atomicAt
  split
  · exact flightsOnly_refl ..
  · split
    · exact flightsOnly_refl ..
    · exact flightsOnly_trans (flightsOnly_of_homeOnly (seeLatest_homeOnly ..)) (atomicLane_flightsOnly ..)

theorem performAtomic_flightsOnly (s : State) (gid id : Nat) : flightsOnly gid s (performAtomic s gid id) := by
  unfold performAtomic
  split
  · exact flightsOnly_refl ..
  · next x _ =>
    split
    · exact flightsOnly_refl ..
    · have lanes := flightsOnly_foldl (fun t (p : LanePart) => atomicAt_flightsOnly t gid id p.lane) x.parts s
      refine flightsOnly_trans (flightsOnly_trans (flightsOnly_trans lanes (onFlight_flightsOnly ..)) (flightsOnly_of_sameSeats ⟨rfl, rfl⟩))
        (onGroup_flightsOnly (fun g => ?_) _)
      split <;> rfl

theorem performUpTo_flightsOnly (s : State) (gid id last : Nat) : flightsOnly gid s (performUpTo s gid id last) := by
  unfold performUpTo
  split
  · exact flightsOnly_refl ..
  · exact flightsOnly_foldl (fun t (p : LanePart) => performLane_flightsOnly t gid id p.lane) _ s

theorem performFlight_flightsOnly (s : State) (gid id : Nat) : flightsOnly gid s (performFlight s gid id) := by
  unfold performFlight
  split
  · exact flightsOnly_refl ..
  · split
    · exact flightsOnly_trans (performUpTo_flightsOnly ..) (onFlight_flightsOnly ..)
    · exact performAtomic_flightsOnly ..

theorem performAll_flightsOnly (s : State) (gid : Nat) : flightsOnly gid s (performAll s gid) := by
  unfold performAll performWhere
  split
  · exact flightsOnly_refl ..
  · exact flightsOnly_foldl (fun t (x : Flight) => performFlight_flightsOnly t gid x.id) _ s

/-- A release leaves the teams as they are, and of its group all but loads and atomics (R196). -/
theorem releaseAt_flightsOnly (s : State) (c : Ctx) (g : Group) (t : Team) (cl : Mask) (scope : Nat) :
    flightsOnly c.gid s (releaseAt s c g t cl scope).1 := by
  refine flightsOnly_trans (performAll_flightsOnly s c.gid) (flightsOnly_of_sameSeats ?_)
  show sameSeats _ (captureCopies _ c.gid g t cl)
  unfold captureCopies
  split <;> exact ⟨rfl, rfl⟩

end Sys2Proof.Proofs.Seen

namespace Sys2Proof.Proofs.Barriers

/-! Words on barrier objects: BARV, BWAIT and its forms, TBAR and RCHK (R113, R210, R230 to R233, R423). -/

open Sys2Proof Sys2Proof.Machine Sys2Proof.Laws Sys2Proof.Proofs.Facts Sys2Proof.Proofs.Seen

/-! ### An update with its check (R210) -/

/-- No team is about to take a barrier image (R414). -/
def imageFree (s : State) : Prop := ∀ p ∈ s.teams, p.2.imageWait = false

theorem imageFree_teams {s u : State} (h : u.teams = s.teams) (hi : imageFree s) : imageFree u := fun p hp => hi p (h ▸ hp)

theorem imageFree_putTeam {s : State} (hi : imageFree s) {tid : Nat} {t : Team} (ht : t.imageWait = false) : imageFree (putTeam s tid t) := fun _ hp => by
  rcases mem_mput hp with rfl | hp
  · exact ht
  · exact hi _ hp

/-- Whether a wait is on a phase of an object. -/
def phaseWait (o ph : Nat) (w : Wait) : Bool :=
  match w with
  | .barrier n k _ => n == o && k == ph
  | _ => false

theorem checked_eq (b : Barrier) : Reading.checked b = if b.complete then b.next else b := by
  simp [Reading.checked, Barrier.complete, Barrier.next, and_assoc]

/-- An update that completes a phase: the waits on the phase are released, and what its arrivals released is seen. -/
theorem updateObj_complete {s : State} {tid o : Nat} {t : Team} {f : Barrier → Barrier} (h : mget s.teams tid = some t) (hr : t.rollbacks = false)
    (hc : (f (objAt t o)).complete = true) :
    ∃ u, homeOnly (putTeam s tid (putObj t o (f (objAt t o)).next)) u ∧
      updateObj s tid o f = releaseTeam u tid (phaseWait o (f (objAt t o)).phase) := by
  have hput : onTeam s tid (fun x => { x with
      objs := x.objs.set o (f (objAt t o)).next, imageWait := x.imageWait || (decide (o = 0) && x.rollbacks) }) =
      putTeam s tid (putObj t o (f (objAt t o)).next) := by
    rw [onTeam_some h]
    simp [putObj, hr]
  simp only [updateObj, logArea_plain h hr, h, hc, if_true, hput]
  exact ⟨_, observe_homeOnly .., rfl⟩

/-- A group whose active lanes are as they were, and of which nothing but lanes has changed. -/
def woken (g g' : Group) : Prop := g' = { g with lanes := g'.lanes } ∧ ∀ l, (g.lane l).st = .active → g'.lane l = g.lane l

theorem woken_refl (g : Group) : woken g g := ⟨rfl, fun _ _ => rfl⟩

theorem woken_trans {a b c : Group} (h1 : woken a b) (h2 : woken b c) : woken a c := by
  refine ⟨by rw [h2.1, h1.1], fun l hl => ?_⟩
  have hb := h1.2 l hl
  rw [h2.2 l (by rw [hb]; exact hl), hb]

theorem releaseWhere_woken (g : Group) (p : Wait → Bool) : woken g (releaseWhere g p) := by
  refine ⟨rfl, fun l hl => ?_⟩
  by_cases h : l < g.lanes.length
  · rw [releaseWhere_lane g p l h, if_neg (by simp [hl])]
  · simp [Group.lane, releaseWhere, List.getD_eq_getElem?_getD, h]

/-- An update leaves the object as its check does, and of the groups it wakes some lanes. -/
theorem updateObj_spec {s : State} {tid o : Nat} {t : Team} {f : Barrier → Barrier} (h : mget s.teams tid = some t) (hr : t.rollbacks = false)
    (hi : imageFree s) :
    mget (updateObj s tid o f).teams tid = some (putObj t o (Reading.checked (f (objAt t o)))) ∧ imageFree (updateObj s tid o f) ∧
      ∀ gid g, mget s.groups gid = some g → ∃ g', mget (updateObj s tid o f).groups gid = some g' ∧ woken g g' := by
  have ht : t.imageWait = false := hi _ (mem_of_mget h)
  rw [checked_eq]
  cases hc : (f (objAt t o)).complete
  · rw [updateObj_short h hr hc]
    exact ⟨(putTeam_get ..).trans (if_pos rfl), imageFree_putTeam hi ht, fun gid g hg => ⟨g, hg, woken_refl g⟩⟩
  · obtain ⟨u, hu, e⟩ := updateObj_complete h hr hc
    rw [e]
    have teams : (releaseTeam u tid (phaseWait o (f (objAt t o)).phase)).teams = (putTeam s tid (putObj t o (f (objAt t o)).next)).teams :=
      (sameSeats_of_homeOnly hu).1
    refine ⟨by rw [teams]; exact (putTeam_get ..).trans (if_pos rfl), imageFree_teams teams (imageFree_putTeam hi ht), fun gid g hg => ?_⟩
    have hgu : mget u.groups gid = some g := (sameSeats_of_homeOnly hu).2 ▸ hg
    rw [releaseTeam_group, hgu]
    refine ⟨_, rfl, ?_⟩
    dsimp only
    split
    · exact releaseWhere_woken ..
    · exact woken_refl g

/-! ### What a release does before its effect -/

/-- The state after a group's release at a scope, which marks the place of an object (R196, R198). -/
def released (s : State) (c : Ctx) (g : Group) (t : Team) (cl : Mask) (scope lo : Nat) : State :=
  addRel (releaseAt s c g t cl scope).1 g.team lo 1 (releaseAt s c g t cl scope).2

/-- The team and the group of a word after the release of its group. -/
theorem released_spec {s : State} {c : Ctx} {g : Group} {t : Team} (hg : mget s.groups c.gid = some g) (ht : mget s.teams g.team = some t)
    (hi : imageFree s) (cl : Mask) (scope lo : Nat) :
    ∃ rels g1, mget (released s c g t cl scope lo).teams g.team = some { t with rels := rels } ∧
      mget (released s c g t cl scope lo).groups c.gid = some g1 ∧ imageFree (released s c g t cl scope lo) ∧
      g1 = { g with flights := g1.flights, acqVals := g1.acqVals } := by
  obtain ⟨hteams, hgroup⟩ := releaseAt_flightsOnly s c g t cl scope
  obtain ⟨g1, hg1, e⟩ := hgroup g hg
  have ht1 : mget (releaseAt s c g t cl scope).1.teams g.team = some t := hteams ▸ ht
  have hi1 := imageFree_teams hteams hi
  unfold released
  generalize (releaseAt s c g t cl scope).1 = u at *
  unfold addRel
  dsimp only
  split
  · rw [onTeam_some ht1]
    exact ⟨_, g1, (putTeam_get ..).trans (if_pos rfl), hg1, imageFree_putTeam hi1 (hi1 _ (mem_of_mget ht1)), e⟩
  · exact ⟨t.rels, g1, ht1, hg1, hi1, e⟩

/-- The end of a word in any state of the machine: its group at the next word, and nothing else changed. -/
theorem endWord_put {s : State} {c : Ctx} {g : Group} (hl : g.latchLost = false) (hi : imageFree s) (full : Bool) (vals : SMap W64) :
    endWord s c g full vals = putGroup s c.gid (advance (pushLatch { g with susp := [], resume := none } full vals) c.mask) := by
  have : settleLatches (pushLatch { g with susp := [], resume := none } full vals) = pushLatch { g with susp := [], resume := none } full vals := by
    simp [settleLatches, hl, pushLatch]
  unfold endWord
  rw [this]
  exact takeImages_none hi

/-! ### BWAIT and its forms (R212, R233) -/

/-- A word of BWAIT on a valid object goes on to its waits. -/
theorem bwaitWord_valid {s : State} {c : Ctx} {g : Group} {t : Team} {f : SForm} {tok : Opnd} (h : Issuing s c g t) (hq : Undisturbed s g)
    (hcl : clOf g c f.pg f.pn ≠ 0#32) (hv : (objAt t (objOf f)).v = true) (htok : canRead g [tok] .none)
    (k : State → Ctx → Group → Nat → Mask → State) :
    bwaitWord f tok k s = k { s with cur := .idle } c g (objAt t (objOf f)).phase (clOf g c f.pg f.pn) := by
  unfold bwaitWord
  rw [issueWord_issuing h hq.noError]
  · simp [hcl, hv]
  · exact issueCause_none rfl rfl (htok.1 tok (by simp)) (htok.2.1 tok (by simp)) (Nat.zero_le _) (Nat.zero_le _) (Nat.zero_le _)

theorem seePhase_homeOnly (s : State) (f : SForm) (g : Group) (done : Bool) : homeOnly s (seePhase s f g done) := by
  unfold seePhase
  split
  · exact observe_homeOnly ..
  · rfl

/-- The end of a word of BWAIT, after what it has acquired. -/
theorem endWord_seePhase {s : State} {c : Ctx} {g g1 : Group} (f : SForm) (done : Bool) (hq : Undisturbed s g) (hl : g1.latchLost = g.latchLost) :
    ∃ u, endWord (seePhase { s with cur := .idle } f g done) c g1 false [] = u ∧ u.teams = s.teams ∧ mget u.groups c.gid = some (finished c g1) := by
  have hseats := sameSeats_of_homeOnly (seePhase_homeOnly { s with cur := .idle } f g done)
  refine ⟨_, endWord_put (hl.trans hq.ownLatches) (imageFree_teams hseats.1 hq.noImage) .., hseats.1, (putGroup_get ..).trans (if_pos rfl)⟩

theorem phaseIsWaitedFor : Says.PhaseIsWaitedFor := by
  intro s c g t f h hq hcl hv
  have hword := bwaitWord_valid (tok := .none) h hq hcl hv (by simp [canRead, Opnd.latches, Opnd.vtop, Dest.vtop])
    (fun s c g ph cl => endWord s c (block g cl (.barrier (objOf f) ph false)) false [])
  have hend := endWord_finished (c := c) (g := block g (clOf g c f.pg f.pn) (.barrier (objOf f) (objAt t (objOf f)).phase false)) hq.ownLatches hq.noImage
  exact ⟨_, congrArg _ (hword.trans hend), finished_block (fun _ => clOf_issue) _, finished_latches _ _, rfl, rfl, rfl⟩

theorem tokenIsWaitedFor : Says.TokenIsWaitedFor := by
  intro s c g t f h hq hcl hv tok ph htok
  have hword := bwaitWord_valid h hq hcl hv htok (fun s c g ph cl =>
    endWord (seePhase s f g (maskBy (fun l => has cl l && (bwaitTok f).read g l == ph) != cl)) c
      (block g (maskBy (fun l => has cl l && (bwaitTok f).read g l == ph)) (.barrier (objOf f) ph false)) false [])
  obtain ⟨u, hu, hteams, hgroup⟩ := endWord_seePhase (c := c)
    (g1 := block g (maskBy (fun l => has (clOf g c f.pg f.pn) l && (bwaitTok f).read g l == ph)) (.barrier (objOf f) ph false)) f
    (maskBy (fun l => has (clOf g c f.pg f.pn) l && (bwaitTok f).read g l == ph) != clOf g c f.pg f.pn) hq rfl
  refine ⟨u, _, congrArg _ (hword.trans hu), hgroup, hteams, finished_latches _ _, finished_block (fun l hl => ?_) _, rfl, rfl, rfl⟩
  have hand : has (clOf g c f.pg f.pn) l = true ∧ _ :=
    Bool.and_eq_true_iff.mp ((has_maskBy_iff fun hp => has_lt (Bool.and_eq_true_iff.mp hp).1).mp hl)
  exact clOf_issue hand.1

/-- Writes of a predicate change predicates alone. -/
theorem foldl_pWrite (g : Group) (he : g.regErrs = []) (n : Nat) (ls : List Nat) (b : Nat → Bool) :
    ls.foldl (fun x l => pWrite x n l (b l)) g = { g with p := (ls.foldl (fun x l => pWrite x n l (b l)) g).p } :=
  foldl_keeps (P := fun x : Group => x = { g with p := x.p }) (fun x l hx => by
    rw [pWrite_plain (by rw [hx]; exact he), hx]) ls rfl

/-- The group in which BWAIT.TEST has written its predicate. -/
def testedGroup (f : SForm) (g : Group) (ph : Nat) (cl : Mask) : Group :=
  (lanesOf cl).foldl (fun x l => pWrite x f.d.toNat l ((bwaitTok f).read g l != ph)) g

theorem testedGroup_rest (f : SForm) {g : Group} (he : g.regErrs = []) (ph : Nat) (cl : Mask) :
    testedGroup f g ph cl = { g with p := (testedGroup f g ph cl).p } := foldl_pWrite g he ..

theorem testedGroup_pred (f : SForm) (g : Group) (ph : Nat) (cl : Mask) (n l : Nat) (hl : l < 32) :
    pRead (testedGroup f g ph cl) n l = if n = f.d.toNat ∧ has cl l = true then decide ((bwaitTok f).read g l ≠ ph) else pRead g n l := by
  rw [testedGroup, pRead_fold g _ _ (fun _ => lt_of_mem_lanesOf) (fun l => (bwaitTok f).read g l != ph) n l hl]
  simp only [mem_lanesOf]
  split
  · exact Bool.eq_iff_iff.mpr (by simp)
  · rfl

theorem phaseIsTested : Says.PhaseIsTested := by
  intro s c g t f h hq hcl hv tok htok
  have hword := bwaitWord_valid h hq hcl hv htok (fun s c g ph cl =>
    endWord (seePhase s f g ((lanesOf cl).any (fun l => (bwaitTok f).read g l != ph))) c (testedGroup f g ph cl) false [])
  have hrest := testedGroup_rest f hq.noError (objAt t (objOf f)).phase (clOf g c f.pg f.pn)
  have hpred := testedGroup_pred f g (objAt t (objOf f)).phase (clOf g c f.pg f.pn)
  obtain ⟨u, hu, hteams, hgroup⟩ := endWord_seePhase (c := c) (g1 := testedGroup f g (objAt t (objOf f)).phase (clOf g c f.pg f.pn)) f
    ((lanesOf (clOf g c f.pg f.pn)).any (fun l => (bwaitTok f).read g l != (objAt t (objOf f)).phase)) hq (by rw [hrest])
  refine ⟨u, _, congrArg _ (hword.trans hu), hgroup, hteams, ?_, ?_, hpred, ?_, ?_⟩
  · rw [hrest]; exact finished_advanced c _
  · rw [hrest]; exact finished_latches c _
  · rw [hrest]; rfl
  · rw [hrest]; rfl

/-! ### Arrivals of BARV (R232) -/

/-- An object after the updates of some lanes, each with its check. -/
def updated (step : Nat → Barrier → Barrier) (ls : List Nat) (b : Barrier) : Barrier := ls.foldl (fun b l => Reading.checked (step l b)) b

theorem foldl_updateObj {tid o : Nat} (step : Nat → Barrier → Barrier) (ls : List Nat) : ∀ {s : State} {t : Team}, mget s.teams tid = some t →
    t.rollbacks = false → o < t.objs.length → imageFree s →
    mget (ls.foldl (fun s l => updateObj s tid o (step l)) s).teams tid = some (putObj t o (updated step ls (objAt t o))) ∧
    imageFree (ls.foldl (fun s l => updateObj s tid o (step l)) s) ∧
      ∀ gid g, mget s.groups gid = some g → ∃ g', mget (ls.foldl (fun s l => updateObj s tid o (step l)) s).groups gid = some g' ∧ woken g g' := by
  induction ls with
  | nil => exact fun ht _ ho hi => ⟨by rw [updated, List.foldl_nil, List.foldl_nil, putObj_objAt ho]; exact ht, hi, fun gid g hg => ⟨g, hg, woken_refl g⟩⟩
  | cons l ls ih =>
    intro s t ht hr ho hi
    obtain ⟨ht1, hi1, hg1⟩ := updateObj_spec (f := step l) ht hr hi
    obtain ⟨ht2, hi2, hg2⟩ := ih ht1 hr (by simpa using ho) hi1
    rw [objAt_putObj_self ho, putObj_putObj] at ht2
    refine ⟨ht2, hi2, fun gid g hg => ?_⟩
    obtain ⟨g', hg', hw'⟩ := hg1 gid g hg
    obtain ⟨g'', hg'', hw''⟩ := hg2 gid g' hg'
    exact ⟨g'', hg'', woken_trans hw' hw''⟩

/-- The model's step of a lane, with its check, is the lane of BARV. -/
theorem barvStep_lane (exp na : Bool) (bytes : Nat) (b : Barrier) : (b.phase, Reading.checked (barvStep exp na bytes b)) = Reading.barvLane exp na bytes b := rfl

theorem updated_barv (exp na : Bool) (bytes : Nat → Nat) (ls : List Nat) (b : Barrier) :
    updated (fun l => barvStep exp na (bytes l)) ls b = (Reading.barvLanes exp na bytes ls b).2 := by
  induction ls generalizing b with
  | nil => rfl
  | cons l ls ih =>
    have hl := congrArg Prod.snd (barvStep_lane exp na (bytes l) b)
    simp only [Reading.barvLanes, ← ih, ← hl]
    rfl

theorem barvPhases_lanes (exp na : Bool) (bytes : Nat → Nat) (ls : List Nat) (b : Barrier) :
    barvPhases (fun l => barvStep exp na (bytes l)) ls b = (Reading.barvLanes exp na bytes ls b).1 := by
  have gen : ∀ (ls : List Nat) (acc : SMap Nat) (b : Barrier), (ls.foldl (fun (x : SMap Nat × Barrier) l =>
      (x.1 ++ [(l, x.2.phase)], if (barvStep exp na (bytes l) x.2).complete then (barvStep exp na (bytes l) x.2).next else barvStep exp na (bytes l) x.2))
      (acc, b)).1 = acc ++ (Reading.barvLanes exp na bytes ls b).1 := by
    intro ls
    induction ls with
    | nil => simp [Reading.barvLanes]
    | cons l ls ih =>
      intro acc b
      have hl := barvStep_lane exp na (bytes l) b
      rw [checked_eq] at hl
      rw [List.foldl_cons, ih, Reading.barvLanes, ← hl]
      simp
  exact (gen ls [] b).trans (List.nil_append _)

/-- What a word writes into a vector register, lane by lane. -/
def putLanes (g : Group) (m : Nat) (ls : List Nat) (x : Nat → Nat) : Group := ls.foldl (fun g l => putLane g (.v m false) l (x l)) g

theorem putLanes_rest {g : Group} (hp : plainRegs g) (m : Nat) (ls : List Nat) (x : Nat → Nat) : putLanes g m ls x = { g with v := (putLanes g m ls x).v } :=
  foldl_keeps (P := fun y : Group => y = { g with v := y.v }) (fun y l hy => by
    have hy1 : plainRegs y := by rw [hy]; exact hp
    show vWrite y m l _ = { g with v := (vWrite y m l _).v }
    rw [vWrite_closed hy1.1 hy1.2, hy]) ls rfl

theorem putLanes_vector {g : Group} (hp : plainRegs g) (m : Nat) (ls : List Nat) (x : Nat → Nat) (hls : ∀ l ∈ ls, l < 32) (n j : Nat) (hj : j < 32) :
    vRaw (putLanes g m ls x) n j = if j ∈ ls ∧ n = m then BitVec.ofNat 32 (x j) else vRaw g n j := by
  induction ls generalizing g with
  | nil => simp [putLanes]
  | cons l ls ih =>
    have hregs := putLane_regs hp (.v m false) l (x l)
    have hstep := putLane_vector hp (.v m false) l (x l) n j (hls l (by simp)) hj
    refine (ih (plainRegs_of hregs hp) fun k hk => hls k (by simp [hk])).trans ?_
    rw [hstep]
    by_cases hm : n = m <;> by_cases hjl : j = l <;> by_cases hin : j ∈ ls <;> simp [vpart, hm, hjl, hin]

/-- The end of a word whose result goes to a vector register. -/
theorem endResult_vector {s : State} {c : Ctx} {g : Group} {cl : Mask} (hcl : cl ≠ 0#32) (hinj : slice g.fij.toNat 0 4 = 0) (m : Nat) (nw : Bool)
    (x : Nat → Nat) :
    ∃ vals, endResult s c g cl (.v m false) false nw x = endWord s c (if nw then g else putLanes g m (lanesOf cl) x) true vals := by
  have hfij : (if (!nw && Dest.isReg (.v m false) && !Dest.uniform (.v m false)) = true then fijEvent g 2 else (g, false)) = (g, false) := by
    rw [fijEvent_quiet hinj 2 (by decide)]
    exact ite_self _
  simp only [endResult, hcl, if_false, hfij, Bool.false_eq_true]
  exact ⟨_, rfl⟩

/-- The state in which the arrivals of a BARV count: its release has been made (R198). -/
def barvReleased (s : State) (c : Ctx) (g : Group) (t : Team) (cl : Mask) (f : SForm) : State :=
  if fnBit f 2 then s else released s c g t cl 1 (objPlace (objOf f))

theorem barvReleased_spec {s : State} {c : Ctx} {g : Group} {t : Team} (hg : mget s.groups c.gid = some g) (ht : mget s.teams g.team = some t)
    (hi : imageFree s) (cl : Mask) (f : SForm) :
    ∃ rels g1, mget (barvReleased s c g t cl f).teams g.team = some { t with rels := rels } ∧ mget (barvReleased s c g t cl f).groups c.gid = some g1 ∧
      imageFree (barvReleased s c g t cl f) ∧ g1 = { g with flights := g1.flights, acqVals := g1.acqVals } := by
  unfold barvReleased
  split
  · exact ⟨t.rels, g, ht, hg, hi, rfl⟩
  · exact released_spec hg ht hi ..

/-- The words of BARV on a valid object: the release, the tokens, and the updates with their checks. -/
theorem execBarv_valid {s : State} {c : Ctx} {g : Group} {t : Team} {f : SForm} (h : Issuing s c g t) (hq : Undisturbed s g)
    (hcl : clOf g c f.pg f.pn ≠ 0#32) (hv : (objAt t (objOf f)).v = true) {b : Opnd} (hb : (if fnBit f 3 then opnd f f.b (fnBit f 10) (lqB f) false else .none) = b)
    (hr : canRead g [b] (.v f.d.toNat false)) {g1 : Group}
    (hg1 : mget (barvReleased { s with cur := .idle } c g t (clOf g c f.pg f.pn) f).groups c.gid = some g1) :
    execBarv f s = .next (takeImages ((lanesOf (clOf g c f.pg f.pn)).foldl
      (fun s l => updateObj s g1.team (objOf f) (barvStep (fnBit f 3) (fnBit f 2) (b.read g l)))
      (endResult (barvReleased { s with cur := .idle } c g t (clOf g c f.pg f.pn) f) c g1 (clOf g c f.pg f.pn) (.v f.d.toNat false) false f.nw
        (fun l => mval (Reading.barvLanes (fnBit f 3) (fnBit f 2) (b.read g) (lanesOf (clOf g c f.pg f.pn)) (objAt t (objOf f))).1 0 l)))) := by
  unfold execBarv
  simp only [hb]
  rw [issueWord_issuing h hq.noError]
  · rw [← barvPhases_lanes]
    unfold barvReleased released at hg1 ⊢
    simp only [hcl, if_false, hv, Bool.not_true, Bool.false_eq_true, hg1, Option.getD_some]
  · refine issueCause_none rfl rfl ?_ ?_ (Nat.zero_le _) (Nat.zero_le _) (Nat.zero_le _)
    · simpa [Needs.and, Dest.needs, Opnd.needs] using hr.1 b (by simp)
    · exact max_le (hr.2.1 b (by simp)) hr.2.2

/-- A group after BARV: its token register written, at the next word, some of its waiting lanes woken. -/
theorem barv_group {c : Ctx} {g g1 g' : Group} {cl : Mask} (hq : plainRegs g) (hlive : Reading.lanesLive g c)
    (h1 : g1 = { g with flights := g1.flights, acqVals := g1.acqVals }) (m : Nat) (nw : Bool) (x : Nat → Nat) (vals : SMap W64)
    (hw : woken (advance (pushLatch { (if nw then g1 else putLanes g1 m (lanesOf cl) x) with susp := [], resume := none } true vals) c.mask) g') :
    (∀ n l, l < 32 → vRaw g' n l = if has cl l && !nw && n == m then BitVec.ofNat 32 (x l) else vRaw g n l) ∧ g'.u = g.u ∧ g'.p = g.p ∧
      ∀ l, has c.mask l = true → l < g.lanes.length → (g'.lane l).pc = (g.lane l).pc + 8#64 ∧ (g'.lane l).st = .active := by
  have hp1 : plainRegs g1 := by rw [h1]; exact hq
  obtain ⟨hrest, hactive⟩ := hw
  generalize hg2 : (if nw then g1 else putLanes g1 m (lanesOf cl) x) = g2 at hrest hactive
  have hv2 : g2 = { g1 with v := g2.v } := by
    rw [← hg2]
    split
    · rfl
    · exact putLanes_rest hp1 ..
  refine ⟨fun n l hl => ?_, ?_, ?_, fun l hm hl => ?_⟩
  · have hv' : vRaw g' n l = vRaw g2 n l := by rw [hrest]; rfl
    have hv1 : vRaw g1 n l = vRaw g n l := by rw [h1]; rfl
    rw [hv', ← hg2]
    cases nw
    · simp [putLanes_vector hp1 m _ x (fun _ => lt_of_mem_lanesOf) n l hl, mem_lanesOf, hv1]
    · simp [hv1]
  · rw [hrest]; show g2.u = g.u; rw [hv2, h1]
  · rw [hrest]; show g2.p = g.p; rw [hv2, h1]
  · have hlanes : g2.lanes = g.lanes := by rw [hv2, h1]
    have hadv := (advance_lanes (pushLatch { g2 with susp := [], resume := none } true vals) c.mask).2 l (by
      show l < g2.lanes.length; rw [hlanes]; exact hl)
    rw [if_pos hm] at hadv
    have hlane : (pushLatch { g2 with susp := [], resume := none } true vals).lane l = g.lane l := by
      show g2.lanes.getD l _ = _; rw [hlanes]; rfl
    rw [hlane] at hadv
    rw [hactive l (by rw [hadv]; exact hlive l hm), hadv]
    exact ⟨rfl, hlive l hm⟩

theorem barrierObjectsCount : Says.BarrierObjectsCount := by
  intro s c g t f h hq hr cl o b r hcl ho hread hv hlive
  obtain ⟨rels, g1, ht1, hg1, hi1, h1⟩ := barvReleased_spec (s := { s with cur := .idle }) h.group h.team hq.noImage cl f
  have hexec := execBarv_valid h hq hcl hv rfl hread hg1
  have hteam : g1.team = g.team := by rw [h1]
  have hplain : plainRegs g1 := by rw [h1]; exact ⟨hq.noWindow, hq.noError⟩
  have hlatch : (if f.nw then g1 else putLanes g1 f.d.toNat (lanesOf cl) (fun l => mval r.1 0 l)).latchLost = false := by
    have hown : g1.latchLost = false := by rw [h1]; exact hq.ownLatches
    split
    · exact hown
    · rw [putLanes_rest hplain]; exact hown
  obtain ⟨vals, hend⟩ := endResult_vector (s := barvReleased { s with cur := .idle } c g t cl f) (c := c) (g := g1) hcl
    (by rw [h1]; exact hq.noInjection) f.d.toNat f.nw (fun l => mval r.1 0 l)
  have hput := endWord_put (s := barvReleased { s with cur := .idle } c g t cl f) (c := c) (g := if f.nw then g1 else putLanes g1 f.d.toNat (lanesOf cl)
    (fun l => mval r.1 0 l)) hlatch hi1 true vals
  obtain ⟨ht2, hi2, hg2⟩ := foldl_updateObj (tid := g.team) (o := o) (fun l => barvStep (fnBit f 3) (fnBit f 2) (b.read g l)) (lanesOf cl)
    (s := putGroup (barvReleased { s with cur := .idle } c g t cl f) c.gid _) ht1 hr ho hi1
  obtain ⟨g', hg', hw⟩ := hg2 c.gid _ ((putGroup_get ..).trans (if_pos rfl))
  rw [updated_barv] at ht2
  have hu := hexec.trans (by rw [hteam, hend, hput, takeImages_none hi2])
  refine ⟨_, _, g', hu, ht2, hg', fun k => objAt_putObj ho _ k, barv_group ⟨hq.noWindow, hq.noError⟩ hlive h1 _ _ _ _ hw⟩

/-! ### TBAR and RCHK (R31, R113, R423) -/

/-- A group each of whose lanes of a list has blocked. -/
def blockEach (g : Group) (ls : List Nat) (w : Wait) : Group := ls.foldl (fun g l => block g (maskOf [l]) w) g

theorem blockEach_rest (g : Group) (ls : List Nat) (w : Wait) : blockEach g ls w = { g with lanes := (blockEach g ls w).lanes } :=
  foldl_keeps (P := fun y : Group => y = { g with lanes := y.lanes }) (fun y l hy => by rw [block, Group.onLanes, hy]) ls rfl

theorem has_maskOf_singleton {k : Nat} (hk : k < 32) (l : Nat) : has (maskOf [k]) l = decide (l = k) := by
  by_cases hl : l < 32
  · rw [maskOf, has_maskOf_aux _ _ _ hl]
    simp [has]
  · rw [has_ge _ _ (Nat.le_of_not_lt hl), decide_eq_false (by omega)]

theorem block_lane (g : Group) (k : Nat) (hk : k < 32) (w : Wait) (l : Nat) (hl : l < g.lanes.length) :
    (block g (maskOf [k]) w).lane l =
      if l = k then { g.lane l with st := .blocked, wait := some w, pc := (g.lane l).pc - 8#64 } else g.lane l := by
  refine (onLanes_lane g (maskOf [k]) (fun x => { x with st := .blocked, wait := some w, pc := x.pc - 8#64 }) l hl).trans ?_
  simp [has_maskOf_singleton hk]

theorem block_length (g : Group) (m : Mask) (w : Wait) : (block g m w).lanes.length = g.lanes.length := by simp [block, Group.onLanes]

theorem blockEach_lane (ls : List Nat) (w : Wait) : ∀ (g : Group), (∀ l ∈ ls, l < 32) → ls.Nodup → ∀ l, l < g.lanes.length →
    (blockEach g ls w).lane l =
      if l ∈ ls then { g.lane l with st := .blocked, wait := some w, pc := (g.lane l).pc - 8#64 } else g.lane l := by
  induction ls with
  | nil => intro g _ _ l _; simp [blockEach]
  | cons k ls ih =>
    intro g hls hnd l hl
    obtain ⟨hk, hnd'⟩ := List.nodup_cons.mp hnd
    refine (ih (block g (maskOf [k]) w) (fun x hx => hls x (by simp [hx])) hnd' l (by rwa [block_length])).trans ?_
    rw [block_lane g k (hls k (by simp)) w l hl]
    by_cases hlk : l = k
    · subst hlk; simp [hk]
    · simp [hlk]

/-- One lane's arrival, short of EXPECT: the lane waits. -/
theorem arriveAndWait_short {s : State} {gid l : Nat} {g : Group} {t : Team} (hg : mget s.groups gid = some g) (ht : mget s.teams g.team = some t)
    (hr : t.rollbacks = false) (hc : (objAt t 0).arrive.complete = false) :
    teamBarrier.arriveAndWait s gid g.team l =
      putTeam (putGroup s gid (block g (maskOf [l]) (.barrier 0 (objAt t 0).phase true))) g.team (putObj t 0 (objAt t 0).arrive) := by
  simp only [teamBarrier.arriveAndWait, ht]
  rw [onGroup_some hg]
  exact updateObj_short ht hr hc

/-- An object with n arrivals more. -/
def arrivedBy (b : Barrier) (n : Nat) : Barrier := { b with arrived := b.arrived + n }

theorem arrive_eq {b : Barrier} (h : b.arrived + 1 ≤ 8191) : b.arrive = arrivedBy b 1 := by
  rw [Barrier.arrive, Nat.min_eq_left h, arrivedBy]

/-- The arrivals of some lanes, short of EXPECT: the lanes wait. -/
theorem arrivals_short {gid : Nat} (ls : List Nat) : ∀ {s : State} {g : Group} {t : Team}, mget s.groups gid = some g → mget s.teams g.team = some t →
    t.rollbacks = false → 0 < t.objs.length → imageFree s → (objAt t 0).expect ≤ 8191 → (objAt t 0).arrived + ls.length < (objAt t 0).expect →
    mget (ls.foldl (fun s l => teamBarrier.arriveAndWait s gid g.team l) s).teams g.team = some (putObj t 0 (arrivedBy (objAt t 0) ls.length)) ∧
      mget (ls.foldl (fun s l => teamBarrier.arriveAndWait s gid g.team l) s).groups gid = some (blockEach g ls (.barrier 0 (objAt t 0).phase true)) ∧
      imageFree (ls.foldl (fun s l => teamBarrier.arriveAndWait s gid g.team l) s) := by
  induction ls with
  | nil => exact fun hg ht _ ho hi _ _ => ⟨ht.trans (congrArg some (putObj_objAt ho).symm), hg, hi⟩
  | cons l ls ih =>
    intro s g t hg ht hr ho hi h81 hlt
    rw [List.length_cons] at hlt
    have harr : (objAt t 0).arrive = arrivedBy (objAt t 0) 1 := arrive_eq (by omega)
    have hc : (objAt t 0).arrive.complete = false := by
      have : ¬ (objAt t 0).expect ≤ (objAt t 0).arrived + 1 := by omega
      simp [Barrier.complete, harr, arrivedBy, this]
    have hobj : objAt (putObj t 0 (objAt t 0).arrive) 0 = arrivedBy (objAt t 0) 1 := by rw [objAt_putObj_self ho, harr]
    rw [List.foldl_cons, arriveAndWait_short (l := l) hg ht hr hc]
    obtain ⟨h1, h2, h3⟩ := ih (s := putTeam (putGroup s gid (block g (maskOf [l]) (.barrier 0 (objAt t 0).phase true))) g.team (putObj t 0 (objAt t 0).arrive))
      (g := block g (maskOf [l]) (.barrier 0 (objAt t 0).phase true)) (t := putObj t 0 (objAt t 0).arrive) ((putGroup_get ..).trans (if_pos rfl))
      ((putTeam_get ..).trans (if_pos rfl)) hr (by simpa using ho) (imageFree_putTeam hi (hi _ (mem_of_mget ht)))
      (by rw [hobj]; exact h81) (by rw [hobj]; simp only [arrivedBy]; omega)
    refine ⟨h1.trans ?_, h2.trans ?_, h3⟩
    · rw [hobj, putObj_putObj, List.length_cons]
      simp [arrivedBy, Nat.add_assoc, Nat.add_comm 1]
    · rw [hobj]
      rfl

/-- The arrival that completes the phase: the waits on it are released. -/
theorem arriveAndWait_last {s : State} {gid l : Nat} {g : Group} {t : Team} (hg : mget s.groups gid = some g) (ht : mget s.teams g.team = some t)
    (hr : t.rollbacks = false) (hi : imageFree s) (hc : (objAt t 0).arrive.complete = true) :
    mget (teamBarrier.arriveAndWait s gid g.team l).teams g.team = some (putObj t 0 (objAt t 0).arrive.next) ∧
      mget (teamBarrier.arriveAndWait s gid g.team l).groups gid =
        some (releaseWhere (block g (maskOf [l]) (.barrier 0 (objAt t 0).phase true)) (phaseWait 0 (objAt t 0).phase)) ∧
      imageFree (teamBarrier.arriveAndWait s gid g.team l) := by
  have hstep : teamBarrier.arriveAndWait s gid g.team l =
      updateObj (putGroup s gid (block g (maskOf [l]) (.barrier 0 (objAt t 0).phase true))) g.team 0 Barrier.arrive := by
    simp only [teamBarrier.arriveAndWait, ht]
    rw [onGroup_some hg]
  obtain ⟨u, hu, e⟩ := updateObj_complete (s := putGroup s gid (block g (maskOf [l]) (.barrier 0 (objAt t 0).phase true))) (o := 0) ht hr hc
  obtain ⟨hteams, hgroups⟩ := sameSeats_of_homeOnly hu
  rw [hstep, e]
  refine ⟨?_, ?_, imageFree_teams hteams (imageFree_putTeam hi (hi _ (mem_of_mget ht)))⟩
  · show mget u.teams g.team = _
    rw [hteams]
    exact (putTeam_get ..).trans (if_pos rfl)
  · rw [releaseTeam_group, hgroups, putTeam_groups, putGroup_get, if_pos rfl, Option.map_some]
    exact congrArg some (if_pos rfl)

/-- TBAR or RCHK with its object valid: the release, the word's end, and the arrivals one by one. -/
theorem teamBarrier_valid {s : State} {c : Ctx} {g : Group} {t : Team} {f : SForm} {scope : Nat} (h : Issuing s c g t) (hq : Undisturbed s g)
    (hcl : clOf g c f.pg f.pn ≠ 0#32) :
    ∃ rels g1 u, mget u.teams g.team = some { t with rels := rels } ∧ mget u.groups c.gid = some (finished c g1) ∧ imageFree u ∧
      g1 = { g with flights := g1.flights, acqVals := g1.acqVals } ∧
      teamBarrier f scope s =
        .next (takeImages ((lanesOf (clOf g c f.pg f.pn)).foldl (fun s l => teamBarrier.arriveAndWait s c.gid g.team l) u)) := by
  obtain ⟨rels, g1, ht1, hg1, hi1, h1⟩ := released_spec (s := { s with cur := .idle }) h.group h.team hq.noImage (clOf g c f.pg f.pn) scope (objPlace 0)
  have hlatch : g1.latchLost = false := by rw [h1]; exact hq.ownLatches
  refine ⟨rels, g1, putGroup (released { s with cur := .idle } c g t (clOf g c f.pg f.pn) scope (objPlace 0)) c.gid (finished c g1), ht1,
    (putGroup_get ..).trans (if_pos rfl), hi1, h1, ?_⟩
  have hend : endWord (released { s with cur := .idle } c g t (clOf g c f.pg f.pn) scope (objPlace 0)) c g1 false [] = _ := endWord_put hlatch hi1 ..
  unfold teamBarrier
  rw [issueWord_issuing h hq.noError (issueCause_none rfl rfl (by simp) (Nat.zero_le _) (Nat.zero_le _) (Nat.zero_le _) (Nat.zero_le _))]
  unfold released at hend hg1 ⊢
  simp only [hcl, if_false, hg1, Option.getD_some, hend]
  rfl

/-- The lanes that have arrived at TBAR or RCHK wait at the word. -/
theorem blockEach_waits {c : Ctx} {g g1 : Group} {m : Mask} (h1 : g1 = { g with flights := g1.flights, acqVals := g1.acqVals })
    (hm : ∀ l, has m l = true → has c.mask l = true) (w : Wait) : Reading.waitsAt c g (blockEach (finished c g1) (lanesOf m) w) m w := fun l hl => by
  have hlanes : g1.lanes = g.lanes := by rw [h1]
  have hlen : l < g1.lanes.length := by rw [hlanes]; exact hl
  rw [blockEach_lane _ _ _ (fun _ => lt_of_mem_lanesOf) (nodup_lanesOf m) l (by rw [(finished_lanes c g1).1]; exact hlen), (finished_lanes c g1).2 l hlen]
  rw [show g1.lane l = g.lane l by simp only [Group.lane, hlanes]]
  simp only [mem_lanesOf]
  cases h : has m l
  · rfl
  · simp [hm l h]

theorem exec_teamBarrier {i : Instr} {f : SForm} (hi : i = .tbar f ∨ i = .rchk f) : ∃ scope, ∀ s, exec i s = teamBarrier f scope s := by
  rcases hi with rfl | rfl
  · exact ⟨1, fun _ => rfl⟩
  · exact ⟨4, fun _ => rfl⟩

theorem teamBarrierWaits : Says.TeamBarrierWaits := by
  intro s c g t f i h hq hr hi hcl hready b m hlt
  obtain ⟨ho, -, -, h81, -⟩ := hready
  obtain ⟨scope, hexec⟩ := exec_teamBarrier hi
  obtain ⟨rels, g1, u, ht1, hg1, hi1, h1, hword⟩ := teamBarrier_valid (scope := scope) h hq hcl
  have hteam : (finished c g1).team = g.team := by show g1.team = g.team; rw [h1]
  obtain ⟨ht2, hg2, hi2⟩ := arrivals_short (lanesOf (clOf g c f.pg f.pn)) (s := u) (g := finished c g1) (t := { t with rels := rels }) hg1 (hteam ▸ ht1) hr ho hi1 h81 hlt
  rw [hteam] at ht2 hg2 hi2
  refine ⟨_, _, _, (hexec s).trans hword, ?_, ?_, objAt_putObj_self (t := { t with rels := rels }) ho _, blockEach_waits h1 (fun _ => clOf_issue) _⟩
  · rw [takeImages_none hi2]; exact ht2
  · rw [takeImages_none hi2]; exact hg2

theorem blockEach_length (ls : List Nat) (w : Wait) (g : Group) : (blockEach g ls w).lanes.length = g.lanes.length :=
  foldl_keeps (P := fun y : Group => y.lanes.length = g.lanes.length) (fun y _ hy => (block_length y _ w).trans hy) ls rfl

/-- A lane that arrived with the rest goes on when the phase completes. -/
theorem blockEach_released {c : Ctx} {g g1 : Group} {m : Mask} (h1 : g1 = { g with flights := g1.flights, acqVals := g1.acqVals })
    (hm : ∀ l, has m l = true → has c.mask l = true) (hh : g.inHandler = 0#32) (ph l : Nat) (hl : l < g.lanes.length) (hml : has m l = true)
    (hact : (g.lane l).st = .active) (hwait : (g.lane l).wait = none) :
    (releaseWhere (blockEach (finished c g1) (lanesOf m) (.barrier 0 ph true)) (phaseWait 0 ph)).lane l =
      { g.lane l with pc := (g.lane l).pc + 8#64 } := by
  have hwaits := blockEach_waits h1 hm (.barrier 0 ph true)
  have hlen : (blockEach (finished c g1) (lanesOf m) (.barrier 0 ph true)).lanes.length = g.lanes.length := by
    rw [blockEach_length, (finished_lanes c g1).1, h1]
  rw [releaseWhere_lane _ _ l (by rw [hlen]; exact hl), hwaits l hl, if_pos hml, waitsAt_inHandler hlen hwaits, hh,
    if_pos ⟨rfl, _, rfl, by simp [phaseWait]⟩]
  simp [releaseLane, ← hact, ← hwait]

/-- The arrivals of some lanes that reach EXPECT: the phase completes and releases them. -/
theorem arrivals_complete {gid : Nat} {ls : List Nat} (hls : ls ≠ []) {s : State} {g : Group} {t : Team} (hg : mget s.groups gid = some g)
    (ht : mget s.teams g.team = some t) (hr : t.rollbacks = false) (ho : 0 < t.objs.length) (hi : imageFree s) (h81 : (objAt t 0).expect ≤ 8191)
    (hv : (objAt t 0).v = true) (hb : (objAt t 0).landed = (objAt t 0).xbytes) (hsum : (objAt t 0).arrived + ls.length = (objAt t 0).expect) :
    mget (ls.foldl (fun s l => teamBarrier.arriveAndWait s gid g.team l) s).teams g.team = some (putObj t 0 (objAt t 0).next) ∧
      mget (ls.foldl (fun s l => teamBarrier.arriveAndWait s gid g.team l) s).groups gid =
        some (releaseWhere (blockEach g ls (.barrier 0 (objAt t 0).phase true)) (phaseWait 0 (objAt t 0).phase)) ∧
      imageFree (ls.foldl (fun s l => teamBarrier.arriveAndWait s gid g.team l) s) := by
  obtain ⟨init, l, rfl⟩ := (List.eq_nil_or_concat' ls).resolve_left hls
  rw [List.length_append, List.length_singleton] at hsum
  obtain ⟨ht1, hg1, hi1⟩ := arrivals_short init hg ht hr ho hi h81 (by omega)
  have hteam : (blockEach g init (.barrier 0 (objAt t 0).phase true)).team = g.team := by rw [blockEach_rest]
  have hobj : objAt (putObj t 0 (arrivedBy (objAt t 0) init.length)) 0 = arrivedBy (objAt t 0) init.length := objAt_putObj_self ho _
  have harr : (arrivedBy (objAt t 0) init.length).arrive = arrivedBy (objAt t 0) (init.length + 1) := by
    rw [arrive_eq (by simp only [arrivedBy]; omega)]
    simp [arrivedBy, Nat.add_assoc]
  have hc : (objAt (putObj t 0 (arrivedBy (objAt t 0) init.length)) 0).arrive.complete = true := by
    rw [hobj, harr]
    simp [Barrier.complete, arrivedBy, hv, hb, hsum]
  obtain ⟨ht2, hg2, hi2⟩ := arriveAndWait_last (l := l) (t := putObj t 0 (arrivedBy (objAt t 0) init.length)) hg1 (by rw [hteam]; exact ht1) hr hi1 hc
  rw [hteam] at ht2 hg2 hi2
  rw [hobj, harr, putObj_putObj] at ht2
  rw [hobj] at hg2
  simp only [List.foldl_append, List.foldl_cons, List.foldl_nil]
  refine ⟨ht2, hg2.trans ?_, hi2⟩
  simp [blockEach, arrivedBy]

theorem teamBarrierCompletes : Says.TeamBarrierCompletes := by
  intro s c g t f i h hq hr hi hcl hready hh b hsum hbytes
  obtain ⟨ho, hv, hlive, h81, hnowait⟩ := hready
  obtain ⟨scope, hexec⟩ := exec_teamBarrier hi
  obtain ⟨rels, g1, u, ht1, hg1, hi1, h1, hword⟩ := teamBarrier_valid (scope := scope) h hq hcl
  have hteam : (finished c g1).team = g.team := by show g1.team = g.team; rw [h1]
  obtain ⟨ht2, hg2, hi2⟩ := arrivals_complete (mt lanesOf_eq_nil.mp hcl) (s := u) (g := finished c g1) (t := { t with rels := rels }) hg1
    (hteam ▸ ht1) hr ho hi1 h81 hv hbytes hsum
  rw [hteam] at ht2 hg2 hi2
  refine ⟨_, _, _, (hexec s).trans hword, ?_, ?_, objAt_putObj_self (t := { t with rels := rels }) ho _, fun l hm hl =>
    blockEach_released h1 (fun _ => clOf_issue) hh b.phase l hl hm (hlive l (clOf_issue hm)) (hnowait l (clOf_issue hm))⟩
  · rw [takeImages_none hi2]; exact ht2
  · rw [takeImages_none hi2]; exact hg2

/-- Settles O26: each update of an object with its check, lane by lane, after a release that leaves teams and groups but for loads and atomics. -/
theorem barriers : Obligations.Barriers :=
  ⟨barrierObjectsCount, phaseIsWaitedFor, tokenIsWaitedFor, phaseIsTested, teamBarrierCompletes, teamBarrierWaits⟩

end Sys2Proof.Proofs.Barriers

namespace Sys2Proof.Proofs.Placing

/-! Teams become resident (R17, R18, R344 to R350): groups and teams take numbers that rise, so that each seat leaves the earlier ones as they
are (`grown`), and a team stands as its plan says (`seated`) from its own seat on. -/

open Sys2Proof Sys2Proof.Machine Sys2Proof.Laws Sys2Proof.Proofs.Facts

/-! ### Blocks (R350) -/

theorem pieceSize_le {free : List (Nat × Nat)} {m p : Nat} (h : pieceSize free m = some p) : p ≤ m := by
  have := List.find?_some h
  simp only [Bool.and_eq_true, decide_eq_true_eq] at this
  exact this.1

/-- The blocks of an allocation hold the granules that it asks for. -/
theorem allocGo_granules (size : Nat) : ∀ (fuel : Nat) {used : List (Nat × Nat)} {m : Nat} {bs : List (Nat × Nat)},
    allocGo size fuel used m = some bs → granules bs = m := by
  intro fuel
  induction fuel with
  | zero =>
    intro used m bs h
    cases m with
    | zero => simp only [allocGo, Option.some.injEq] at h; subst h; rfl
    | succ m => cases h
  | succ fuel ih =>
    intro used m bs h
    cases m with
    | zero => simp only [allocGo, Option.some.injEq] at h; subst h; rfl
    | succ m =>
      simp only [allocGo] at h
      split at h
      · cases h
      · next b hb =>
        obtain ⟨bs', hbs, rfl⟩ := Option.map_eq_some_iff.mp h
        obtain ⟨p, hp, ha⟩ := Option.bind_eq_some_iff.mp hb
        obtain ⟨a, -, rfl⟩ := Option.map_eq_some_iff.mp ha
        have hle := pieceSize_le hp
        have hrest := ih hbs
        simp only [granules, List.map_cons, List.sum_cons] at hrest ⊢
        omega

theorem alloc_granules {size m : Nat} {used bs : List (Nat × Nat)} (h : alloc size used m = some bs) : granules bs = m := allocGo_granules size m h

theorem groupBlocks_vector {s : State} {core subp : Nat} {n : Need} {b : List (Nat × Nat) × List (Nat × Nat) × List (Nat × Nat)}
    (h : groupBlocks s core subp n = .ok b) : granules b.1 = n.v := by
  unfold groupBlocks at h
  split at h
  · cases h
  · next vm hvm =>
    repeat' split at h
    all_goals cases h
    exact alloc_granules hvm

/-! ### A state that has grown -/

/-- Groups and teams have been added under new numbers; memory and the queues are as they were. -/
def grown (s s' : State) : Prop :=
  s.fresh ≤ s'.fresh ∧ s'.mem = s.mem ∧ s'.frontEnds = s.frontEnds ∧
    ∀ k, k < s.fresh → mget s'.teams k = mget s.teams k ∧ mget s'.groups k = mget s.groups k

theorem grown_refl (s : State) : grown s s := ⟨le_refl _, rfl, rfl, fun _ _ => ⟨rfl, rfl⟩⟩

theorem grown_trans {s t u : State} (h1 : grown s t) (h2 : grown t u) : grown s u := by
  obtain ⟨f1, m1, q1, k1⟩ := h1
  obtain ⟨f2, m2, q2, k2⟩ := h2
  refine ⟨f1.trans f2, m2.trans m1, q2.trans q1, fun k hk => ?_⟩
  have hk' := k2 k (hk.trans_le f1)
  exact ⟨hk'.1.trans (k1 k hk).1, hk'.2.trans (k1 k hk).2⟩

/-! ### The groups of a team (R17, R41, R347) -/

/-- The group of a plan as it becomes resident. -/
def newGroup (tid : Nat) (l : Launch) (num gid age core subp : Nat) (n : Need) (b : List (Nat × Nat) × List (Nat × Nat) × List (Nat × Nat)) : Group :=
  { Group.blank tid core subp (8 * n.v) gid l.entry with
    num := num, role := n.role, age := age, tgran := n.t, agran := n.a, vmap := b.1, tmap := b.2.1, amap := b.2.2
    u := l.preload.zipIdx.map (fun p => (p.2, p.1))
    lanes := (List.range nLanes).map (fun i => ⟨l.entry, 0#64, 0, if 32 * num + i < l.threads then .active else .exited, false, none, [], 0⟩)
    trap := ⟨0#8, 0#32, 0#64, 0#64, 0#64, l.handler⟩ }

/-- The age that the next group of a sub-partition takes. -/
def nextAge (s : State) (core subp : Nat) : Nat := ((mget (coreOf s core).subps subp).map (·.nextAge)).getD 0

/-- The state with one more group resident. -/
def withGroup (s : State) (tid : Nat) (l : Launch) (num core subp : Nat) (n : Need) (b : List (Nat × Nat) × List (Nat × Nat) × List (Nat × Nat)) : State :=
  onSubp { s with fresh := s.fresh + 1, groups := mput s.groups s.fresh (newGroup tid l num s.fresh (nextAge s core subp) core subp n b) } core subp
    (fun x => { x with nextAge := nextAge s core subp + 1 })

/-- A group of a team stands as its plan says, as `placed` asks of each group. -/
def groupPlaced (s : State) (tid : Nat) (l : Launch) (k gid core subp : Nat) (need : Need) : Prop :=
  ∃ g, mget s.groups gid = some g ∧
    g.team = tid ∧ g.num = k ∧ g.core = core ∧ g.subp = subp ∧ g.role = need.role ∧ g.vcount = 8 * need.v ∧ granules g.vmap = need.v ∧
    g.trap.handler = l.handler ∧ (∀ i, i < 32 → i < l.preload.length → uRead g i = l.preload.getD i 0#32) ∧
    ∀ i, i < 32 → (g.lane i).pc = l.entry ∧ (g.lane i).st = (if 32 * k + i < l.threads then .active else .exited)

theorem mget_zipIdx {α : Type} (xs : List α) (n i : Nat) : mget ((xs.zipIdx n).map (fun p => (p.2, p.1))) (n + i) = xs[i]? := by
  induction xs generalizing n i with
  | nil => rfl
  | cons x xs ih =>
    cases i with
    | zero => simp [mget]
    | succ i =>
      have := ih (n + 1) i
      simp only [List.zipIdx_cons, List.map_cons, mget, List.getElem?_cons_succ]
      rw [if_neg (by omega), ← this]
      congr 1
      omega

theorem newGroup_uRead (tid : Nat) (l : Launch) (num gid age core subp : Nat) (n : Need) (b) (i : Nat) :
    uRead (newGroup tid l num gid age core subp n b) i = l.preload.getD i 0#32 := by
  have := mget_zipIdx l.preload 0 i
  rw [Nat.zero_add] at this
  simp [uRead, mval, newGroup, this, List.getD_eq_getElem?_getD]

theorem newGroup_lane (tid : Nat) (l : Launch) (num gid age core subp : Nat) (n : Need) (b) {i : Nat} (hi : i < 32) :
    (newGroup tid l num gid age core subp n b).lane i =
      ⟨l.entry, 0#64, 0, if 32 * num + i < l.threads then .active else .exited, false, none, [], 0⟩ := by
  simp [Group.lane, newGroup, List.getD_eq_getElem?_getD, nLanes, hi]

theorem withGroup_grown (s : State) (tid : Nat) (l : Launch) (num core subp : Nat) (n : Need) (b) : grown s (withGroup s tid l num core subp n b) :=
  ⟨Nat.le_succ _, rfl, rfl, fun _ hk => ⟨rfl, (mget_mput ..).trans (if_neg (Nat.ne_of_lt hk))⟩⟩

theorem withGroup_placed {s : State} (tid : Nat) (l : Launch) (num core subp : Nat) (n : Need) {b} (hb : granules b.1 = n.v) :
    groupPlaced (withGroup s tid l num core subp n b) tid l num s.fresh core subp n :=
  ⟨_, (mget_mput ..).trans (if_pos rfl), rfl, rfl, rfl, rfl, rfl, rfl, hb, rfl, fun i _ _ => newGroup_uRead ..,
    fun i hi => by rw [newGroup_lane _ _ _ _ _ _ _ _ _ hi]; exact ⟨rfl, rfl⟩⟩

theorem groupPlaced_grown {s s' : State} (h : grown s s') {tid k gid core subp : Nat} {l : Launch} {need : Need} (hgid : gid < s.fresh)
    (hp : groupPlaced s tid l k gid core subp need) : groupPlaced s' tid l k gid core subp need := by
  obtain ⟨g, hg, rest⟩ := hp
  exact ⟨g, ((h.2.2.2 gid hgid).2).trans hg, rest⟩

theorem except_map_ok {ε α β : Type} {f : α → β} {x : Except ε α} {r : β} (h : x.map f = .ok r) : ∃ a, x = .ok a ∧ r = f a := by
  cases x with
  | error e => cases h
  | ok a => cases h; exact ⟨a, rfl, rfl⟩

/-- The first group of a plan has blocks, and the others follow it. -/
theorem seatGroups_cons {tid : Nat} {l : Launch} {core subp : Nat} {n : Need} {ps : List (Nat × Nat × Need)} {num : Nat} {s : State} {r : List Nat × State}
    (h : seatGroups tid l ((core, subp, n) :: ps) num s = .ok r) :
    ∃ b r', granules b.1 = n.v ∧ seatGroups tid l ps (num + 1) (withGroup s tid l num core subp n b) = .ok r' ∧ r = (s.fresh :: r'.1, r'.2) := by
  simp only [seatGroups] at h
  split at h
  · cases h
  · next vm tm am hb =>
    obtain ⟨r', hr', rfl⟩ := except_map_ok h
    exact ⟨(vm, tm, am), r', groupBlocks_vector hb, hr', rfl⟩

/-- What the groups of a plan stand as once they are resident. -/
structure GroupsSeated (tid : Nat) (l : Launch) (ps : List (Nat × Nat × Need)) (num : Nat) (s : State) (r : List Nat × State) : Prop where
  grown : grown s r.2
  teams : r.2.teams = s.teams
  length : r.1.length = ps.length
  fresh : ∀ gid ∈ r.1, s.fresh ≤ gid ∧ gid < r.2.fresh
  placed : ∀ k gid need core subp, r.1[k]? = some gid → ps[k]? = some (core, subp, need) → groupPlaced r.2 tid l (num + k) gid core subp need

theorem seatGroups_seated {tid : Nat} {l : Launch} (ps : List (Nat × Nat × Need)) : ∀ {num : Nat} {s : State} {r : List Nat × State},
    seatGroups tid l ps num s = .ok r → GroupsSeated tid l ps num s r := by
  induction ps with
  | nil =>
    intro num s r h
    cases h
    exact ⟨grown_refl s, rfl, rfl, by simp, by simp⟩
  | cons p ps ih =>
    obtain ⟨core, subp, n⟩ := p
    intro num s r h
    obtain ⟨b, r', hb, hr', rfl⟩ := seatGroups_cons h
    obtain ⟨hgrown, hteams, hlen, hfresh, hplaced⟩ := ih hr'
    have hfirst : (withGroup s tid l num core subp n b).fresh = s.fresh + 1 := rfl
    rw [hfirst] at hfresh
    have hle : s.fresh + 1 ≤ r'.2.fresh := hgrown.1
    refine ⟨grown_trans (withGroup_grown ..) hgrown, hteams, by simp [hlen], fun gid hgid => ?_, fun k gid need core' subp' hk hp => ?_⟩
    · rcases List.mem_cons.mp hgid with rfl | hgid
      · exact ⟨le_refl _, hle⟩
      · have := hfresh gid hgid
        exact ⟨by omega, this.2⟩
    · cases k with
      | zero =>
        simp only [List.getElem?_cons_zero, Option.some.injEq, Prod.mk.injEq] at hk hp
        obtain ⟨rfl, rfl, rfl⟩ := hp
        subst hk
        exact groupPlaced_grown hgrown (Nat.lt_succ_self _) (withGroup_placed tid l num _ _ _ hb)
      | succ k =>
        have := hplaced k gid need core' subp' hk hp
        rwa [Nat.add_assoc, Nat.add_comm 1] at this

/-! ### One team (R18, R208, R211, R347) -/

/-- A team stands as its plan says, and its numbers are taken. -/
def seated (s : State) (tid : Nat) (l : Launch) (n : Nat) (p : Plan) : Prop :=
  placed s tid l n p ∧ tid < s.fresh ∧ ∀ t, mget s.teams tid = some t → ∀ gid ∈ t.groups, gid < s.fresh

theorem seated_grown {s s' : State} (h : grown s s') {tid n : Nat} {l : Launch} {p : Plan} (hs : seated s tid l n p) : seated s' tid l n p := by
  obtain ⟨⟨t, ht, hcore, hx, hy, hz, hscratch, hfs, harg, hspace, hsp, habs, hpool, hobj, hlen, hgroups⟩, hfresh, hgids⟩ := hs
  have ht' : mget s'.teams tid = some t := ((h.2.2.2 tid hfresh).1).trans ht
  refine ⟨⟨t, ht', hcore, hx, hy, hz, hscratch, hfs, harg, hspace, hsp, habs, hpool, hobj, hlen, fun k gid need core subp hk hp => ?_⟩,
    hfresh.trans_le h.1, fun u hu gid hgid => ?_⟩
  · exact groupPlaced_grown h (hgids t ht gid (List.mem_of_getElem? hk)) (hgroups k gid need core subp hk hp)
  · obtain rfl : t = u := Option.some.inj (ht'.symm.trans hu)
    exact (hgids t ht gid hgid).trans_le h.1

/-- The team of a grid's place as it becomes resident. -/
def newTeam (fe slot packet sub part world : Nat) (l : Launch) (linear twin slotNo : Nat) (p : Plan) (gids : List Nat) (sm : List (Nat × Nat)) : Team :=
  { Team.blank world l.space part p.core gids with
    fe := fe, slot := slot, packet := packet, sub := sub, recAddr := l.addr, recPa := l.pa
    x := linear % l.gx, y := linear / l.gx % l.gy, z := linear / l.gx / l.gy, nx := l.gx, ny := l.gy, nz := l.gz
    dx := l.tx, dy := l.ty, dz := l.tz, flags := l.flags, argPtr := l.argPtr, argSize := l.argSize, scratch := l.scratch, fs := l.fs
    twin := twin, smap := sm, slotNo := slotNo, objs := newObjs l.threads }

theorem seatTeam_ok_iff {fe slot packet sub part world : Nat} {l : Launch} {linear twin : Nat} {s : State} {p : Plan} {u : Nat × State}
    (h : seatTeam fe slot packet sub part world l linear twin s p = .ok u) :
    ∃ sm r no, seatGroups s.fresh l p.groups 0 { s with fresh := s.fresh + 1 } = .ok r ∧
      u = (s.fresh, newInterval (trimL1 (putTeam r.2 s.fresh (newTeam fe slot packet sub part world l linear twin no p r.1 sm)) p.core world) s.fresh) := by
  simp only [seatTeam] at h
  split at h
  · cases h
  · split at h
    · cases h
    · next sm _ _ gids s1 hr =>
      cases h
      exact ⟨sm, (gids, s1), _, hr, rfl⟩

/-- A team in another interval: what the interval has logged, and its image, have changed. -/
def intervalOnly (t t' : Team) : Prop :=
  t' = { t with interval := t'.interval, escaped := t'.escaped, undo := t'.undo, imageErrs := t'.imageErrs, landings := t'.landings, reserved := t'.reserved
                imageWait := t'.imageWait, imageGroups := t'.imageGroups, imagePool := t'.imagePool, imageClaims := t'.imageClaims, imageConvs := t'.imageConvs }

theorem newInterval_eq (s : State) (tid : Nat) : ∃ F : Team → Team, newInterval s tid = onTeam s tid F ∧ ∀ t, intervalOnly t (F t) :=
  ⟨_, rfl, fun _ => rfl⟩

/-- A new team begins its first interval. -/
theorem newInterval_new {s : State} {tid : Nat} (t : Team) (core world : Nat) :
    ∃ t', (∀ k, mget (newInterval (trimL1 (putTeam s tid t) core world) tid).teams k = if k = tid then some t' else mget s.teams k) ∧ intervalOnly t t' := by
  have ht : mget (trimL1 (putTeam s tid t) core world).teams tid = some t := (putTeam_get ..).trans (if_pos rfl)
  obtain ⟨F, e, hF⟩ := newInterval_eq (trimL1 (putTeam s tid t) core world) tid
  refine ⟨F t, fun k => ?_, hF t⟩
  rw [e, onTeam_some ht, putTeam_get]
  split
  · rfl
  · next hk => exact (putTeam_get ..).trans (if_neg hk)

/-- A team becomes resident as its plan says, and nothing older changes. -/
theorem seatTeam_seated {fe slot packet sub part world : Nat} {l : Launch} {linear twin : Nat} {s : State} {p : Plan} {u : Nat × State}
    (h : seatTeam fe slot packet sub part world l linear twin s p = .ok u) :
    u.1 = s.fresh ∧ grown s u.2 ∧ s.fresh < u.2.fresh ∧ seated u.2 s.fresh l linear p ∧ ∃ t, mget u.2.teams s.fresh = some t ∧ t.twin = twin := by
  obtain ⟨sm, r, no, hr, rfl⟩ := seatTeam_ok_iff h
  obtain ⟨hgrown, hteams, hlen, hfresh, hplaced⟩ := seatGroups_seated _ hr
  obtain ⟨hle, hmem, hqueues, hkeep⟩ := hgrown
  obtain ⟨t, hget, e⟩ := newInterval_new (s := r.2) (tid := s.fresh) (newTeam fe slot packet sub part world l linear twin no p r.1 sm) p.core world
  have ht := (hget s.fresh).trans (if_pos rfl)
  have hgids : t.groups = r.1 := by rw [e]; rfl
  have hnew : s.fresh < r.2.fresh := hle
  refine ⟨rfl, ⟨hnew.le, hmem, hqueues, fun k hk => ⟨?_, (hkeep k (Nat.lt_succ_of_lt hk)).2⟩⟩, hnew, ⟨⟨t, ht, ?_⟩, hnew, ?_⟩, t, ht, by rw [e]; rfl⟩
  · rw [hget, if_neg (Nat.ne_of_lt hk), hteams]
  · refine ⟨?_, ?_, ?_, ?_, ?_, ?_, ?_, ?_, ?_, ?_, ?_, ?_, by rw [hgids]; exact hlen, fun k gid need core subp hk hp => ?_⟩
    on_goal 13 =>
      have := hplaced k gid need core subp (hgids ▸ hk) hp
      rwa [Nat.zero_add] at this
    all_goals rw [e]; rfl
  · intro v hv gid hgid
    obtain rfl : t = v := Option.some.inj (ht.symm.trans hv)
    exact (hfresh gid (hgids ▸ hgid)).2

/-! ### Pairs and grids (R347 to R349) -/

/-- The teams of a pair name each other. -/
def mated (s : State) (tid mate : Nat) : State := onTeam s tid (fun t => { t with mate := some mate })

theorem mated_get {s : State} (tid mate k : Nat) : mget (mated s tid mate).teams k =
    if k = tid then (mget s.teams tid).map (fun t => { t with mate := some mate }) else mget s.teams k := mget_mupd ..

theorem mated_seated {s : State} {tid mate k n : Nat} {l : Launch} {p : Plan} (h : seated s k l n p) : seated (mated s tid mate) k l n p := by
  obtain ⟨⟨t, ht, rest⟩, hfresh, hgids⟩ := h
  by_cases hk : k = tid
  · subst hk
    have ht' := (mated_get (s := s) k mate k).trans (if_pos rfl)
    rw [ht] at ht'
    refine ⟨⟨_, ht', rest⟩, hfresh, fun u hu => ?_⟩
    obtain rfl := Option.some.inj (ht'.symm.trans hu)
    exact hgids t ht
  · have ht' := (mated_get (s := s) tid mate k).trans (if_neg hk)
    exact ⟨⟨t, ht'.trans ht, rest⟩, hfresh, fun u hu => hgids u (ht'.symm.trans hu)⟩

theorem mated_grown {s : State} {tid mate : Nat} (u : State) (h : grown u s) (ht : u.fresh ≤ tid) : grown u (mated s tid mate) := by
  obtain ⟨hle, hmem, hqueues, hkeep⟩ := h
  exact ⟨hle, hmem, hqueues, fun k hk => ⟨((mated_get ..).trans (if_neg (Nat.ne_of_lt (hk.trans_le ht)))).trans (hkeep k hk).1, (hkeep k hk).2⟩⟩

/-- A single team of a grid's place. -/
theorem seatPlans_single {fe slot packet sub part world : Nat} {l : Launch} {linear : Nat} {s u : State} {p : Plan}
    (h : seatPlans fe slot packet sub part world l linear s [p] = .ok u) : grown s u ∧ seated u s.fresh l linear p := by
  obtain ⟨r, hr, rfl⟩ := except_map_ok h
  obtain ⟨-, hgrown, -, hseated, -⟩ := seatTeam_seated hr
  exact ⟨hgrown, hseated⟩

/-- A pair of teams of a grid's place. -/
theorem seatPlans_pair {fe slot packet sub part world : Nat} {l : Launch} {linear : Nat} {s u : State} {p q : Plan}
    (h : seatPlans fe slot packet sub part world l linear s [p, q] = .ok u) :
    grown s u ∧ seated u s.fresh l linear p ∧ ∃ tid v, seated u tid l linear q ∧ tid ≠ s.fresh ∧ mget u.teams tid = some v ∧ v.mate = some s.fresh ∧ v.twin = 2 := by
  simp only [seatPlans] at h
  split at h
  · cases h
  · next a s1 h1 =>
    obtain ⟨r, hr, rfl⟩ := except_map_ok h
    obtain ⟨rfl, hgrown1, hlt1, hseated1, -⟩ := seatTeam_seated h1
    obtain ⟨h2, hgrown2, -, hseated2, v, hv, htwin⟩ := seatTeam_seated hr
    dsimp only at hgrown1 hlt1 hseated1
    rw [h2]
    have hne : s1.fresh ≠ s.fresh := Nat.ne_of_gt hlt1
    refine ⟨mated_grown s (mated_grown s (grown_trans hgrown1 hgrown2) (le_refl _)) hlt1.le, mated_seated (mated_seated (seated_grown hgrown2 hseated1)),
      s1.fresh, { v with mate := some s.fresh }, mated_seated (mated_seated hseated2), hne, ?_, rfl, htwin⟩
    show mget (mated (mated r.2 s.fresh s1.fresh) s1.fresh s.fresh).teams s1.fresh = _
    rw [mated_get, if_pos rfl, mated_get, if_neg hne, hv]
    rfl

theorem seatPlans_grown {fe slot packet sub part world : Nat} {l : Launch} {linear : Nat} {s u : State} {ps : List Plan}
    (h : seatPlans fe slot packet sub part world l linear s ps = .ok u) : grown s u := by
  match ps, h with
  | [], h => cases h; exact grown_refl s
  | [p], h => exact (seatPlans_single h).1
  | [p, q], h => exact (seatPlans_pair h).1
  | _ :: _ :: _ :: _, h => cases h; exact grown_refl s

/-- The places of a grid, one after another. -/
theorem seatMany_seated {fe slot packet sub part world : Nat} {l : Launch} (ps : List (List Plan)) : ∀ {n : Nat} {s u : State},
    seatMany fe slot packet sub part world l ps n s = .ok u →
    grown s u ∧ ∀ i p, ps[i]? = some [p] → ∃ tid, seated u tid l (n + i) p := by
  induction ps with
  | nil =>
    intro n s u h
    cases h
    exact ⟨grown_refl s, by simp⟩
  | cons q ps ih =>
    intro n s u h
    simp only [seatMany] at h
    split at h
    · cases h
    · next s1 h1 =>
      obtain ⟨hgrown, hrest⟩ := ih h
      refine ⟨grown_trans (seatPlans_grown h1) hgrown, fun i p hp => ?_⟩
      cases i with
      | zero =>
        obtain rfl : q = [p] := Option.some.inj hp
        exact ⟨s.fresh, seated_grown hgrown (seatPlans_single h1).2⟩
      | succ i =>
        obtain ⟨tid, ht⟩ := hrest i p hp
        exact ⟨tid, by rwa [Nat.add_assoc, Nat.add_comm 1] at ht⟩

/-! ### The events of placement -/

theorem getElem?_lupd {α : Type} (l : List α) (j : Nat) (f : α → α) : (lupd l j f)[j]? = l[j]?.map f := by
  induction l generalizing j with
  | nil => rfl
  | cons x l ih =>
    cases j with
    | zero => rfl
    | succ j => exact ih j

/-- A bundle with one sub-launch changed, if it is the packet's. -/
def onBundle (packet j : Nat) (f : Sub → Sub) (b : Bundle) : Bundle := if b.index = packet then { b with subs := lupd b.subs j f } else b

theorem subAt_onBundle (q : Queue) (packet j : Nat) (f : Sub → Sub) :
    subAt { q with bundles := q.bundles.map (onBundle packet j f) } packet j = (subAt q packet j).map f := by
  have hindex : ((fun b : Bundle => b.index == packet) ∘ onBundle packet j f) = fun b => b.index == packet := by
    funext b
    simp only [Function.comp, onBundle]
    split <;> rfl
  simp only [subAt, List.find?_map, hindex]
  rcases hb : q.bundles.find? (fun b => b.index == packet) with _ | b
  · simp only [hb]
    rfl
  · have hi : b.index = packet := by simpa using List.find?_some hb
    simp only [hb, Option.map_some, Option.bind_some, onBundle, hi, if_true]
    exact getElem?_lupd ..

/-- A sub-launch of a grid with more teams placed. -/
def morePlaced (k : Nat) (y : Sub) : Sub :=
  match y with
  | .grid l placed ended done => .grid l (placed + k) ended done
  | z => z

/-- The placement of what a plan gives a grid: the places are counted. -/
theorem placeNext_seats {s : State} {fe slot packet j : Nat} {x : FrontEnd} {q : Queue} {l : Launch} {n ended : Nat} {done : Bool}
    (h : GridWaits s fe slot packet j x q l n ended done) {kind : Launch → Bool} (hk : kind l = true) {ps : List (List Plan)}
    (hplan : nextPlan s x q l n = some ps) {u : State} (hseat : seatMany fe slot packet j x.part q.world l ps n s = .ok u) (hgrown : grown s u) :
    placeNext kind s = onSub u fe slot packet j (morePlaced ps.length) ∧
      counted (onSub u fe slot packet j (morePlaced ps.length)) fe slot packet j l (n + ps.length) ended done := by
  obtain ⟨hx, hq⟩ := h.mapped
  have hqueue : queueAt s fe slot = some q := by simp [queueAt, hx, hq]
  constructor
  · simp only [placeNext, h.args, hx, hqueue, h.grid, hk, h.works, h.noHalt, hplan, hseat]
    rfl
  · refine ⟨{ q with bundles := q.bundles.map (onBundle packet j (morePlaced ps.length)) }, ?_, ?_⟩
    · have : queueAt u fe slot = some q := by rw [← hqueue, queueAt, queueAt, hgrown.2.2.1]
      rw [onSub, queueAt_onQueue, if_pos ⟨rfl, rfl⟩, this]
      rfl
    · rw [subAt_onBundle, h.grid]
      rfl

theorem nextPlan_one {s : State} {fe slot packet j : Nat} {x : FrontEnd} {q : Queue} {l : Launch} {n ended : Nat} {done : Bool}
    (h : GridWaits s fe slot packet j x q l n ended done) (hl : l.coresident = false) {ps : List Plan} {r : Room}
    (hp : planLaunch l (roomOf s x.part q.world false) = some (ps, r)) : nextPlan s x q l n = some [ps] := by
  simp [nextPlan, Nat.not_le_of_lt h.more, Launch.atOnce, hl, planMany, hp]

/-- One place of a grid is filled by the seats of its teams. -/
theorem seatMany_one {fe slot packet sub part world : Nat} {l : Launch} {n : Nat} {s u : State} {ps : List Plan}
    (h : seatPlans fe slot packet sub part world l n s ps = .ok u) : seatMany fe slot packet sub part world l [ps] n s = .ok u := by
  simp only [seatMany, h]

theorem teamsBecomeResident : Says.TeamsBecomeResident := by
  intro s fe slot packet j x q l n ended done p r u h htwin hcore hplan hseat
  have hplans : seatPlans fe slot packet j x.part q.world l n s [p] = .ok u.2 := by
    simp only [seatPlans, hseat]
    rfl
  obtain ⟨hgrown, hseated⟩ := seatPlans_single hplans
  obtain ⟨hplace, hcounted⟩ := placeNext_seats h (kind := fun l => !l.twin && !l.coresident) (by simp [htwin, hcore]) (nextPlan_one h hcore hplan)
    (seatMany_one hplans) hgrown
  exact ⟨_, congrArg Host.Outcome.next hplace, hseated.1, hcounted, hgrown.2.1⟩

theorem twinsBecomeResident : Says.TwinsBecomeResident := by
  intro s fe slot packet j x q l n ended done p p2 r u h htwin hcore hplan hseat
  obtain ⟨hgrown, hfirst, tid, v, hsecond, hne, hv, hmate, htw⟩ := seatPlans_pair hseat
  obtain ⟨hplace, hcounted⟩ := placeNext_seats h (kind := fun l => l.twin && !l.coresident) (by simp [htwin, hcore]) (nextPlan_one h hcore hplan)
    (seatMany_one hseat) hgrown
  exact ⟨_, tid, v, congrArg Host.Outcome.next hplace, hfirst.1, hsecond.1, hne, hv, hmate, htw, hcounted⟩

theorem gridsBecomeResident : Says.GridsBecomeResident := by
  intro s fe slot packet j x q l n ended done ps u h hcore hplan hseat
  obtain ⟨hgrown, hseats⟩ := seatMany_seated ps hseat
  obtain ⟨hplace, hcounted⟩ := placeNext_seats h (kind := fun l => l.coresident) hcore hplan hseat hgrown
  refine ⟨_, congrArg Host.Outcome.next hplace, hcounted, fun i p hp => ?_⟩
  obtain ⟨tid, hs⟩ := hseats i p hp
  exact ⟨tid, hs.1⟩

/-- Settles O48: seats take rising numbers, so that every team stands as its plan says once all have been placed. -/
theorem teamsArePlaced : Obligations.TeamsArePlaced := ⟨teamsBecomeResident, twinsBecomeResident, gridsBecomeResident⟩

end Sys2Proof.Proofs.Placing

namespace Sys2Proof.Proofs.Encoding

/-! Words and instructions (O1, O2, O3). A word's fields, put back at their places, are the word (`encodeS_sformOf` and its like), and
the tables of decoder and encoder name the same operations (`encode_singleOp` and its like), so a word that decodes is its
instruction's word. The other direction is the round trip of each constructor (`Laws.RoundTrip`). -/

open Sys2Proof Sys2Proof.Machine Sys2Proof.Laws

/-- Settles O1, constructor by constructor. -/
theorem roundTrip : Obligations.RoundTrip
  | .issueCycle => RoundTrip.issueCycle | .claimDeadlock => RoundTrip.claimDeadlock | .barrierStarved => RoundTrip.barrierStarved
  | .transferLands => RoundTrip.transferLands | .bulkSectorLands => RoundTrip.bulkSectorLands
  | .bulkStoreSectorCredit => RoundTrip.bulkStoreSectorCredit | .matrixArmedStart => RoundTrip.matrixArmedStart
  | .matrixComplete => RoundTrip.matrixComplete | .leaseEnd a b => RoundTrip.leaseEnd a b | .predictorDecay => RoundTrip.predictorDecay
  | .shippedAtomic => RoundTrip.shippedAtomic | .l1LineExpiry => RoundTrip.l1LineExpiry | .invocationArrival => RoundTrip.invocationArrival
  | .invocationRun => RoundTrip.invocationRun | .invocationReturn => RoundTrip.invocationReturn | .routineImageDrop => RoundTrip.routineImageDrop
  | .walkRequest a => RoundTrip.walkRequest a | .walkStart => RoundTrip.walkStart | .heldWalkRecheck => RoundTrip.heldWalkRecheck
  | .pageRequestResponse a b c d e => RoundTrip.pageRequestResponse a b c d e | .rds => RoundTrip.rds | .rdx => RoundTrip.rdx | .upg => RoundTrip.upg
  | .wbd => RoundTrip.wbd | .evc => RoundTrip.evc | .fws => RoundTrip.fws | .fwx => RoundTrip.fwx | .inv => RoundTrip.inv | .rcl => RoundTrip.rcl
  | .hrc => RoundTrip.hrc | .hrs => RoundTrip.hrs | .hrx => RoundTrip.hrx | .hwb => RoundTrip.hwb | .rel => RoundTrip.rel | .spl => RoundTrip.spl
  | .prb => RoundTrip.prb | .dat => RoundTrip.dat | .dak => RoundTrip.dak | .iak => RoundTrip.iak | .wak => RoundTrip.wak
  | .recallTimeout => RoundTrip.recallTimeout | .nougatLost => RoundTrip.nougatLost | .queueMap a b c d e f g h => RoundTrip.queueMap a b c d e f g h
  | .queueUnmap a b c => RoundTrip.queueUnmap a b c | .doorbell => RoundTrip.doorbell | .nopPacket => RoundTrip.nopPacket
  | .bundle => RoundTrip.bundle | .wait => RoundTrip.wait | .waitSatisfied => RoundTrip.waitSatisfied | .copySublaunch => RoundTrip.copySublaunch
  | .fillSublaunch => RoundTrip.fillSublaunch | .gridEnd => RoundTrip.gridEnd | .bundleRetire => RoundTrip.bundleRetire
  | .teamPlacement => RoundTrip.teamPlacement | .coresidentPlacement => RoundTrip.coresidentPlacement | .twinPlacement => RoundTrip.twinPlacement
  | .compactorMove a b => RoundTrip.compactorMove a b | .tokenBucketWrite a b c d => RoundTrip.tokenBucketWrite a b c d
  | .bucketUpdate => RoundTrip.bucketUpdate | .preempt a b c => RoundTrip.preempt a b c | .engineQuiesced => RoundTrip.engineQuiesced
  | .restore a b c => RoundTrip.restore a b c | .queueReset a b c => RoundTrip.queueReset a b c | .scrub => RoundTrip.scrub
  | .rollback => RoundTrip.rollback | .bundleDiscarded => RoundTrip.bundleDiscarded | .compareEntry => RoundTrip.compareEntry
  | .extentGrant a b c d => RoundTrip.extentGrant a b c d | .extentFillDone => RoundTrip.extentFillDone
  | .extentChange a b c d => RoundTrip.extentChange a b c d | .layoutChange a b => RoundTrip.layoutChange a b
  | .worldCreate a b c d e f => RoundTrip.worldCreate a b c d e f | .evidenceRequest a b c => RoundTrip.evidenceRequest a b c
  | .keyInstall a b => RoundTrip.keyInstall a b | .measuredLoad a b c d e f => RoundTrip.measuredLoad a b c d e f
  | .revocation a b => RoundTrip.revocation a b | .interfaceUnlocked a b => RoundTrip.interfaceUnlocked a b
  | .tdispBind a b c => RoundTrip.tdispBind a b c | .allowlistDenied a b c d => RoundTrip.allowlistDenied a b c d
  | .hostWindowAccess a b c d => RoundTrip.hostWindowAccess a b c d | .hostDoorbellWrite => RoundTrip.hostDoorbellWrite
  | .submissionCommit a b c d e => RoundTrip.submissionCommit a b c d e | .doorbellFrameStore => RoundTrip.doorbellFrameStore
  | .doeRequest a b c => RoundTrip.doeRequest a b c | .controlPairMismatch => RoundTrip.controlPairMismatch | .claim a => RoundTrip.claim a
  | .handover a b => RoundTrip.handover a b | .accept a => RoundTrip.accept a | .handoverTimeout => RoundTrip.handoverTimeout
  | .force a => RoundTrip.force a | .deviceReset a => RoundTrip.deviceReset a | .cxlLinkFailure => RoundTrip.cxlLinkFailure
  | .powerCapSet a b => RoundTrip.powerCapSet a b | .powerAverage => RoundTrip.powerAverage | .thermalLimit a b c => RoundTrip.thermalLimit a b c
  | .nop f => RoundTrip.nop f | .iadd f => RoundTrip.iadd f | .isub f => RoundTrip.isub f | .iadd3 f => RoundTrip.iadd3 f
  | .imul f => RoundTrip.imul f | .imad f => RoundTrip.imad f | .imulh f => RoundTrip.imulh f | .imin f => RoundTrip.imin f
  | .imax f => RoundTrip.imax f | .iabs f => RoundTrip.iabs f | .and f => RoundTrip.and f | .or f => RoundTrip.or f | .xor f => RoundTrip.xor f
  | .tern f => RoundTrip.tern f | .lea f => RoundTrip.lea f | .movi f => RoundTrip.movi f | .iaddi f => RoundTrip.iaddi f | .shl f => RoundTrip.shl f
  | .shr f => RoundTrip.shr f | .fsh f => RoundTrip.fsh f | .bfx f => RoundTrip.bfx f | .bfi f => RoundTrip.bfi f | .popc f => RoundTrip.popc f
  | .clz f => RoundTrip.clz f | .brev f => RoundTrip.brev f | .bsel f => RoundTrip.bsel f | .isetp f => RoundTrip.isetp f | .sel f => RoundTrip.sel f
  | .mov f => RoundTrip.mov f | .psetp f => RoundTrip.psetp f | .p2v f => RoundTrip.p2v f | .v2p f => RoundTrip.v2p f | .fadd f => RoundTrip.fadd f
  | .fmul f => RoundTrip.fmul f | .ffma f => RoundTrip.ffma f | .fmin f => RoundTrip.fmin f | .fmax f => RoundTrip.fmax f
  | .fsetp f => RoundTrip.fsetp f | .fclass f => RoundTrip.fclass f | .frnd f => RoundTrip.frnd f | .frcp f => RoundTrip.frcp f
  | .frsq f => RoundTrip.frsq f | .fsqrt f => RoundTrip.fsqrt f | .fex2 f => RoundTrip.fex2 f | .flg2 f => RoundTrip.flg2 f
  | .fsin f => RoundTrip.fsin f | .fcos f => RoundTrip.fcos f | .ftanh f => RoundTrip.ftanh f | .dadd f => RoundTrip.dadd f
  | .dmul f => RoundTrip.dmul f | .dfma f => RoundTrip.dfma f | .fscl f => RoundTrip.fscl f | .hadd2 f => RoundTrip.hadd2 f
  | .hmul2 f => RoundTrip.hmul2 f | .hfma2 f => RoundTrip.hfma2 f | .hmnmx2 f => RoundTrip.hmnmx2 f | .pdot4 f => RoundTrip.pdot4 f
  | .pdot8 f => RoundTrip.pdot8 f | .f2i f => RoundTrip.f2i f | .i2f f => RoundTrip.i2f f | .f2f f => RoundTrip.f2f f | .pcvt f => RoundTrip.pcvt f
  | .unpk f => RoundTrip.unpk f | .ld f => RoundTrip.ld f | .st f => RoundTrip.st f | .sld f => RoundTrip.sld f | .lda f => RoundTrip.lda f
  | .strel f => RoundTrip.strel f | .atom f => RoundTrip.atom f | .atomx f => RoundTrip.atomx f | .red f => RoundTrip.red f
  | .fence f => RoundTrip.fence f | .cctlIvl1 f => RoundTrip.cctlIvl1 f | .cctlIvl1All f => RoundTrip.cctlIvl1All f
  | .cctlDemote f => RoundTrip.cctlDemote f | .prf f => RoundTrip.prf f | .iflush f => RoundTrip.iflush f | .isync f => RoundTrip.isync f
  | .presTest f => RoundTrip.presTest f | .presSet f => RoundTrip.presSet f | .presClr f => RoundTrip.presClr f | .acp f => RoundTrip.acp f
  | .acpc f => RoundTrip.acpc f | .acpw f => RoundTrip.acpw f | .bcpLd f => RoundTrip.bcpLd f | .bcpSt f => RoundTrip.bcpSt f
  | .rfence f => RoundTrip.rfence f | .rfenceAll f => RoundTrip.rfenceAll f | .binit f => RoundTrip.binit f | .barv f => RoundTrip.barv f
  | .bwait f => RoundTrip.bwait f | .bwaitToken f => RoundTrip.bwaitToken f | .bwaitTest f => RoundTrip.bwaitTest f | .mldT f => RoundTrip.mldT f
  | .mldA f => RoundTrip.mldA f | .mma f => RoundTrip.mma f | .msg f => RoundTrip.msg f | .mofn f => RoundTrip.mofn f | .mwt f => RoundTrip.mwt f
  | .mz f => RoundTrip.mz f | .mdrGet f => RoundTrip.mdrGet f | .mdrPut f => RoundTrip.mdrPut f | .mdrx f => RoundTrip.mdrx f
  | .bra f => RoundTrip.bra f | .brx f => RoundTrip.brx f | .call f => RoundTrip.call f | .callInd f => RoundTrip.callInd f
  | .ret f => RoundTrip.ret f | .meet f => RoundTrip.meet f | .meetClr f => RoundTrip.meetClr f | .meetReg f => RoundTrip.meetReg f
  | .exit f => RoundTrip.exit f | .yield f => RoundTrip.yield f | .voteAll f => RoundTrip.voteAll f | .voteAny f => RoundTrip.voteAny f
  | .voteSame f => RoundTrip.voteSame f | .voteBallot f => RoundTrip.voteBallot f | .shfl f => RoundTrip.shfl f | .matchAny f => RoundTrip.matchAny f
  | .matchAll f => RoundTrip.matchAll f | .elect f => RoundTrip.elect f | .gred f => RoundTrip.gred f | .sread f => RoundTrip.sread f
  | .tbar f => RoundTrip.tbar f | .rgive f => RoundTrip.rgive f | .rclaim f => RoundTrip.rclaim f | .lrinv f => RoundTrip.lrinv f
  | .lrload f => RoundTrip.lrload f | .tlbinv f => RoundTrip.tlbinv f | .tlbinvAll f => RoundTrip.tlbinvAll f | .xopen f => RoundTrip.xopen f
  | .xseal f => RoundTrip.xseal f | .rchk f => RoundTrip.rchk f | .trap f => RoundTrip.trap f | .rtt f => RoundTrip.rtt f
  | .rttSkip f => RoundTrip.rttSkip f | .srr f => RoundTrip.srr f | .srw f => RoundTrip.srw f | .bkpt f => RoundTrip.bkpt f
  | .wrload f => RoundTrip.wrload f | .pairNop f => RoundTrip.pairNop f | .pairMov f => RoundTrip.pairMov f | .pairIadd f => RoundTrip.pairIadd f
  | .pairIsub f => RoundTrip.pairIsub f | .pairAnd f => RoundTrip.pairAnd f | .pairOr f => RoundTrip.pairOr f | .pairXor f => RoundTrip.pairXor f
  | .pairShl f => RoundTrip.pairShl f | .pairShr f => RoundTrip.pairShr f | .pairImin f => RoundTrip.pairImin f | .pairImax f => RoundTrip.pairImax f
  | .pairImul f => RoundTrip.pairImul f | .pairFadd f => RoundTrip.pairFadd f | .pairFmul f => RoundTrip.pairFmul f
  | .pairFmin f => RoundTrip.pairFmin f | .pairFmax f => RoundTrip.pairFmax f | .pairHadd2 f => RoundTrip.pairHadd2 f
  | .pairHmul2 f => RoundTrip.pairHmul2 f | .pairShli f => RoundTrip.pairShli f | .pairShri f => RoundTrip.pairShri f
  | .pairIaddi8 f => RoundTrip.pairIaddi8 f | .pairMovi8 f => RoundTrip.pairMovi8 f | .crumbAdd f => RoundTrip.crumbAdd f
  | .crumbSub f => RoundTrip.crumbSub f | .crumbMul f => RoundTrip.crumbMul f | .crumbAnd f => RoundTrip.crumbAnd f
  | .crumbOr f => RoundTrip.crumbOr f | .crumbXor f => RoundTrip.crumbXor f | .crumbShl f => RoundTrip.crumbShl f
  | .crumbShr f => RoundTrip.crumbShr f | .crumbSar f => RoundTrip.crumbSar f | .crumbRotr f => RoundTrip.crumbRotr f
  | .crumbMin f => RoundTrip.crumbMin f | .crumbMax f => RoundTrip.crumbMax f | .crumbMinz f => RoundTrip.crumbMinz f
  | .crumbMaxz f => RoundTrip.crumbMaxz f | .crumbSeq f => RoundTrip.crumbSeq f | .crumbSlt f => RoundTrip.crumbSlt f
  | .crumbSltz f => RoundTrip.crumbSltz f | .crumbSel f => RoundTrip.crumbSel f | .crumbAddi f => RoundTrip.crumbAddi f
  | .crumbLi f => RoundTrip.crumbLi f | .crumbLih f => RoundTrip.crumbLih f | .crumbFadd f => RoundTrip.crumbFadd f
  | .crumbFmin f => RoundTrip.crumbFmin f | .crumbFmax f => RoundTrip.crumbFmax f | .crumbBf f => RoundTrip.crumbBf f
  | .crumbLdl f => RoundTrip.crumbLdl f | .crumbStl f => RoundTrip.crumbStl f | .crumbRetv f => RoundTrip.crumbRetv f
  | .crumbLdp f => RoundTrip.crumbLdp f | .crumbHash f => RoundTrip.crumbHash f | .crumbBr f => RoundTrip.crumbBr f
  | .crumbMapok f => RoundTrip.crumbMapok f | .crumbMapno f => RoundTrip.crumbMapno f | .crumbMapflt f => RoundTrip.crumbMapflt f
  | .spaceCreate a b c d e => RoundTrip.spaceCreate a b c d e | .walkerStoreDrop => RoundTrip.walkerStoreDrop | .loadReturn => RoundTrip.loadReturn
  | .configurationRequest => RoundTrip.configurationRequest

/-! ### The fields of a word, joined -/

theorem ofBool_getLsbD {n : Nat} (w : BitVec n) (k : Nat) : BitVec.ofBool (w.getLsbD k) = w.extractLsb' k 1 := by
  ext j hj
  simp [Nat.lt_one_iff.mp hj]

section
variable {w : BitVec 64} (hk : w.getLsbD 63 = false)
include hk

theorem kBit_zero : 0#1 = w.extractLsb' 63 1 := by
  rw [← ofBool_getLsbD, hk]
  rfl

theorem encodeS_sformOf : encodeS (w.extractLsb' 56 7).toNat (sformOf w) = w := by
  simp only [encodeS, sformOf, kBit_zero hk, ofBool_getLsbD, BitVec.ofNat_toNat, BitVec.setWidth_eq,
    BitVec.extractLsb'_append_extractLsb'_eq_extractLsb', BitVec.extractLsb'_eq_self]

theorem encodeSI_siformOf : encodeSI (w.extractLsb' 56 7).toNat (siformOf w) = w := by
  simp only [encodeSI, siformOf, kBit_zero hk, ofBool_getLsbD, BitVec.ofNat_toNat, BitVec.setWidth_eq,
    BitVec.extractLsb'_append_extractLsb'_eq_extractLsb', BitVec.extractLsb'_eq_self]

end

theorem encodeP_pslotOf (w : BitVec 31) : encodeP (w.extractLsb' 25 6).toNat (pslotOf w) = w := by
  simp only [encodeP, pslotOf, BitVec.ofNat_toNat, BitVec.setWidth_eq, BitVec.extractLsb'_append_extractLsb'_eq_extractLsb',
    BitVec.extractLsb'_eq_self]

theorem encodeC_cformOf (w : BitVec 32) : encodeC (w.extractLsb' 26 6).toNat (cformOf w) = w := by
  simp only [encodeC, cformOf, BitVec.ofNat_toNat, BitVec.setWidth_eq, BitVec.extractLsb'_append_extractLsb'_eq_extractLsb',
    BitVec.extractLsb'_eq_self]

/-! ### The tables of decoder and encoder -/

/-- What a major and the selecting bits of FN name is encoded under that major, with the fields of the single form or of the immediate form. -/
theorem encode_singleOp {maj : Nat} {f : SForm} {w : BitVec 64} {i : Instr} (h : singleOp maj f w = some i) :
    encode i = .fjodo (encodeS maj f) ∨ encode i = .fjodo (encodeSI maj (siformOf w)) := by
  unfold singleOp at h
  split at h
  -- MOVI and IADDI have the immediate form
  case h_16 | h_32 =>
    cases h
    exact .inr rfl
  -- the other majors: some name one operation, and with some the bits of FN choose
  all_goals
    try split at h
    all_goals cases h <;> exact .inl rfl

theorem encode_slotOp {pop : Nat} {f : PSlot} {i : Instr} (h : slotOp pop f = some i) : encode i = .slot (encodeP pop f) := by
  unfold slotOp at h
  split at h <;> cases h <;> rfl

theorem encode_crumbOp {op : Nat} {f : CForm} {i : Instr} (h : crumbOp op f = some i) : encode i = .crumb (encodeC op f) := by
  unfold crumbOp at h
  split at h <;> cases h <;> rfl

/-! ### Words that decode -/

theorem accept_eq_ok {o : Option Instr} {i : Instr} : Sys2Proof.accept o = .ok i ↔ o = some i ∧ i.wellFormed = true := by
  cases o with
  | none => simp [Sys2Proof.accept]
  | some j =>
    cases h : j.wellFormed with
    | true => simpa [Sys2Proof.accept, h] using fun e => e ▸ h
    | false => simpa [Sys2Proof.accept, h] using fun e => e ▸ h

theorem decode_eq_one {w : BitVec 64} {i : Instr} (h : decode w = .ok (.one i)) : w.getLsbD 63 = false ∧ decodeSingle w = .ok i := by
  unfold decode at h
  split at h
  · split at h
    · cases h
    · split at h <;> cases h
  · next hk =>
    split at h
    · next e =>
      cases h
      exact ⟨by simpa using hk, e⟩
    · cases h

theorem oneWordPerInstruction : Says.OneWordPerInstruction := by
  refine ⟨fun w i h => ?_, fun w i h => ?_, fun w i h => ?_⟩
  · obtain ⟨hk, h⟩ := decode_eq_one h
    have := encode_singleOp (accept_eq_ok.mp h).1
    rwa [encodeS_sformOf hk, encodeSI_siformOf hk, or_self] at this
  · rw [encode_slotOp (accept_eq_ok.mp h).1, encodeP_pslotOf]
  · rw [encode_crumbOp (accept_eq_ok.mp h).1, encodeC_cformOf]

/-! ### Pair words -/

theorem decodeSlot_encode {i : Instr} {a : BitVec 31} (hi : i.wellFormed = true) (h : encode i = .slot a) : decodeSlot a = .ok i := by
  have : (encode i).decoded = some i := (roundTrip i hi).resolve_left (by simp [h])
  rw [h] at this
  cases hd : decodeSlot a with
  | error e => simp [Word.decoded, hd, Except.toOption] at this
  | ok j => simpa [Word.decoded, hd, Except.toOption] using this

section
variable (a b : BitVec 31) (z : BitVec 1)

theorem pairWord_slot0 : (1#1 ++ a ++ b ++ z).extractLsb' 32 31 = a := by
  rw [BitVec.extractLsb'_append_eq_of_le (by decide), BitVec.extractLsb'_append_eq_of_le (by decide),
    BitVec.extractLsb'_append_eq_of_add_le (by decide), BitVec.extractLsb'_eq_self]

theorem pairWord_slot1 : (1#1 ++ a ++ b ++ z).extractLsb' 1 31 = b := by
  rw [BitVec.extractLsb'_append_eq_of_le (by decide), BitVec.extractLsb'_append_eq_of_add_le (by decide), BitVec.extractLsb'_eq_self]

theorem pairWord_k : (1#1 ++ a ++ b ++ z).getLsbD 63 = true := by simp only [BitVec.getLsbD_append]; rfl

theorem pairWord_bit0 : (1#1 ++ a ++ b ++ z).getLsbD 0 = z.getLsbD 0 := by simp only [BitVec.getLsbD_append]; rfl

end

theorem pairWordRoundTrip : Says.PairWordRoundTrip := by
  intro i j a b hi hj ha hb
  simp only [decode, pairWord_k, pairWord_bit0, pairWord_slot0, pairWord_slot1, decodeSlot_encode hi ha, decodeSlot_encode hj hb]
  exact ⟨rfl, rfl⟩

/-- Settles O2. -/
theorem wordsAndInstructionsMatch : Obligations.WordsAndInstructionsMatch := ⟨oneWordPerInstruction, pairWordRoundTrip⟩

/-- Settles O3: the decoder evaluated on each word. -/
theorem decodedWords : Obligations.DecodedWords := by
  unfold Obligations.DecodedWords
  decide

end Sys2Proof.Proofs.Encoding

namespace Sys2Proof.Proofs.CausesAtIssue

/-! Words that take a cause where they issue: an undefined word (`step_undefined`), a word that meets a cause of R66 (`issueWord_cause`),
and a branch to a bad target (O9). In a group that can trap each leaves the group `trapped` and nothing else (`takeTrap_issuing`). -/

open Sys2Proof Sys2Proof.Machine Sys2Proof.Laws Sys2Proof.Proofs.Facts Sys2Proof.Proofs.Stepping Sys2Proof.Proofs.Issuing

section
variable {s : State} {c : Ctx} {g : Group} {t : Team} (h : Issuing s c g t)
include h

/-- A cause taken by a word of a group that can trap: the group enters its handler, and nothing else changes. -/
theorem takeTrap_issuing (ht : canTrap g) (x : Cause) (T : Mask) (tpc taddr tinfo : W64) :
    takeTrap { s with cur := .idle } c.gid x T tpc taddr tinfo = afterWord s c (trapped g x T tpc taddr tinfo) :=
  takeTrap_trapped (s := { s with cur := .idle }) h.group ht ..

/-- A cause met at issue is taken in every lane of ISSUE (R66). -/
theorem issueWord_cause {pg : BitVec 4} {pn : Bool} {n : Needs} {regs : List (Nat × Nat)} {k : State → Ctx → Group → Team → Mask → State}
    {x : Cause} (hn : issueCause { s with cur := .idle } g t n = some x) :
    issueWord s pg pn n regs k = takeTrap { s with cur := .idle } c.gid x c.mask c.pc 0#64 0#64 := by
  simp only [issueWord, withWord_issuing h, hn]

/-- A word that is no instruction takes ILLEGAL in every lane of ISSUE (R65). -/
theorem step_undefined (hl : noLineHeld s) {e : Reject} (hd : decode c.word = .error e) (ht : canTrap g) :
    step s = .next (afterWord s c (trapped g .illegal c.mask c.pc 0#64 0#64)) := by
  rw [step, lineGuard_free hl]
  simp only [nextTodo, todo, h.cur, hd, withWord_issuing h, takeTrap_issuing h ht]

end

theorem undefinedWordIsIllegal : Says.UndefinedWordIsIllegal := by
  intro s c g t e h hl hd hh hin
  have enters := trapped_enters g .illegal c.mask c.pc 0#64 0#64
  refine ⟨_, step_undefined h hl hd ⟨hh, hin⟩, rfl, rfl, rfl, fun l hlen hm hex => ?_⟩
  rw [enters.lanes l hlen, if_neg hex, if_pos hm]
  exact ⟨rfl, rfl, rfl⟩

/-! ### Bad targets (R100) -/

theorem badTarget_iff {a : W64} : badTarget a = true ↔ ¬ goodTarget a := by
  simp only [badTarget, goodTarget, Bool.or_eq_true, bne_iff_ne, decide_eq_true_eq]
  omega

theorem maskBy_has (m : Mask) : maskBy (has m) = m := mask_ext fun l hl => has_maskBy _ l hl

theorem relTarget_off32 (pc : W64) (f : SForm) : relTarget pc 32 (off32 f).toNat = pc + (off32 f).signExtend 64 * 8#64 := by
  simp [relTarget, sext, BitVec.mul_comm]

/-- A transfer of all lanes of CL to one bad target raises ADDRESS in them. -/
theorem transfer_bad {s : State} {c : Ctx} {g : Group} {cl : Mask} {tgt : W64} {k : Group → State} (hcl : cl ≠ 0#32) (h : ¬ goodTarget tgt) :
    transfer s c g cl (fun _ => tgt) k = takeTrap s c.gid .address cl c.pc tgt 0#64 := by
  simp only [transfer, badTarget_iff.mpr h, Bool.and_true, maskBy_has]
  rw [if_pos hcl]

theorem badTargetRaisesAddress : Says.BadTargetRaisesAddress := by
  intro s c g t f h hu tgt hcl hbad
  have meets : issueCause { s with cur := .idle } g t {} = none :=
    issueCause_none rfl rfl (by simp) (Nat.zero_le _) (Nat.zero_le _) (Nat.zero_le _) (Nat.zero_le _)
  calc exec (.bra f) s
      = .next (transfer { s with cur := .idle } c g (clOf g c f.pg f.pn) (fun _ => relTarget c.pc 32 (off32 f).toNat) _) :=
        congrArg Host.Outcome.next (issueWord_issuing h hu.noError meets)
    _ = .next (takeTrap { s with cur := .idle } c.gid .address (clOf g c f.pg f.pn) c.pc tgt 0#64) := by
        rw [relTarget_off32, transfer_bad hcl hbad]

/-- Settles O9. -/
theorem undefinedWordsAndBadTargetsTrap : Obligations.UndefinedWordsAndBadTargetsTrap := ⟨undefinedWordIsIllegal, badTargetRaisesAddress⟩

end Sys2Proof.Proofs.CausesAtIssue

namespace Sys2Proof.Proofs.SystemRegisters

/-! The system registers (O16): the table of their values and writes, SRW as a word with no register result, the indices that are no
operand, and the words that lack privilege. -/

open Sys2Proof Sys2Proof.Machine Sys2Proof.Laws Sys2Proof.Proofs.Facts Sys2Proof.Proofs.CausesAtIssue Sys2Proof.Proofs.Stepping

/-! ### Values and writes -/

theorem and_not_seven (v : W64) : v &&& ~~~7#64 = v >>> 3 <<< 3 := by
  have mask : ~~~7#64 = BitVec.allOnes 64 <<< 3 := by decide
  rw [mask]
  ext k hk
  simp only [BitVec.getElem_and, BitVec.getElem_shiftLeft, BitVec.getElem_allOnes, BitVec.getElem_ushiftRight]
  by_cases h : k < 3
  · simp [h]
  · simp [h, show 3 + (k - 3) = k by omega, BitVec.getLsbD_eq_getElem hk]

theorem clearLow3_toNat (v : W64) : (v &&& ~~~7#64).toNat = v.toNat / 8 * 8 := by
  rw [and_not_seven, BitVec.toNat_shiftLeft, BitVec.toNat_ushiftRight, Nat.shiftLeft_eq, Nat.shiftRight_eq_div_pow]
  omega

theorem sysregWrite_rest (g : Group) (x : Nat) (v : W64) :
    sysregWrite g x v = { g with trap := (sysregWrite g x v).trap, fij := (sysregWrite g x v).fij, fijCount := (sysregWrite g x v).fijCount } := by
  unfold sysregWrite
  split <;> rfl

section
variable (g : Group) (x : Nat) (v : W64)

theorem sysregWrite_latches : (sysregWrite g x v).latches = g.latches := by rw [sysregWrite_rest]
theorem sysregWrite_latchId : (sysregWrite g x v).latchId = g.latchId := by rw [sysregWrite_rest]
theorem sysregWrite_latchLost : (sysregWrite g x v).latchLost = g.latchLost := by rw [sysregWrite_rest]

end

theorem systemRegisterValues : Says.SystemRegisterValues := by
  intro s g t v
  refine ⟨rfl, ?_, clearLow3_toNat v, clearLow3_toNat v, rfl, rfl, ?_, fun x => sysregWrite_rest g x v⟩
  · rfl
  · simp [sysregWrite]

/-! ### SRW -/

/-- The end of a word with no register result that changes its group by `h`, but none of its latches. -/
theorem endWord_plain {s : State} {c : Ctx} {g g' : Group} {h : Group → Group} (hu : Undisturbed s g) (hg : h g = g')
    (hl : g'.latches = g.latches) (hi : g'.latchId = g.latchId) (hlost : g'.latchLost = g.latchLost) :
    endWord { s with cur := .idle } c g' false [] = PlainWord s c g h := by
  subst hg
  rw [endWord_eq (hlost.trans hu.ownLatches) hu.noImage, PlainWord, pushLatch, hl, hi]

theorem srwWritesSystemRegisters : Says.SrwWritesSystemRegisters := by
  intro s c g t f h hu hp b hb hcl
  obtain ⟨hlatch, hv, -⟩ := hb
  have meets : issueCause { s with cur := .idle } g t (b.needs.and { priv := sysregPriv s f.a.toNat }) = none :=
    issueCause_none rfl hp (by simpa [Needs.and, Opnd.needs] using hlatch b (by simp)) (by simpa [Needs.and, Opnd.needs] using hv b (by simp))
      (Nat.zero_le _) (Nat.zero_le _) (Nat.zero_le _)
  calc exec (.srw f) s
      = .next (issueWord s f.pg f.pn (b.needs.and { priv := sysregPriv s f.a.toNat }) b.regs _) := rfl
    _ = .next (endWord { s with cur := .idle } c (sysregWrite g f.a.toNat _) false []) := by rw [issueWord_issuing h hu.noError meets, if_neg hcl]
    _ = .next (PlainWord s c g fun g => sysregWrite g f.a.toNat _) :=
      congrArg Host.Outcome.next (endWord_plain hu rfl (sysregWrite_latches ..) (sysregWrite_latchId ..) (sysregWrite_latchLost ..))

/-! ### Indices that R47 does not list -/

section
variable {f : SForm} (h : f.a.toNat ∉ [0x00, 0x01, 0x02, 0x03, 0x04, 0x08, 0x10, 0x11, 0x12, 0x20])
include h

theorem srr_unlisted : (Instr.srr f).wellFormed = false := by
  have : sysregIndex f.a.toNat = false := decide_eq_false h
  simp [Instr.wellFormed, legal, this]

theorem srw_unlisted : (Instr.srw f).wellFormed = false := by
  have : sysregIndex f.a.toNat = false := decide_eq_false h
  simp [Instr.wellFormed, legal, this]

end

/-- A single-form word is rejected if the instruction that its major names is not well-formed (R65). -/
theorem decode_illFormed {w : BitVec 64} {maj : BitVec 8} (h : w.extractLsb' 56 8 = maj) (hk : maj.getLsbD 7 = false) {i : Instr}
    (found : singleOp (maj.extractLsb' 0 7).toNat (sformOf w) w = some i) (hi : i.wellFormed = false) : decode w = .error .field := by
  subst h
  have k : w.getLsbD 63 = false := by simpa using hk
  have m : (w.extractLsb' 56 8).extractLsb' 0 7 = w.extractLsb' 56 7 := by
    ext j hj
    simp
    omega
  rw [m] at found
  simp only [decode, k, decodeSingle, found, Sys2Proof.accept, hi, Bool.false_eq_true, if_false]

theorem decode_unlisted {w : BitVec 64} (hw : w.extractLsb' 56 8 = 0x7A#8 ∨ w.extractLsb' 56 8 = 0x7B#8)
    (h : (sformOf w).a.toNat ∉ [0x00, 0x01, 0x02, 0x03, 0x04, 0x08, 0x10, 0x11, 0x12, 0x20]) : decode w = .error .field := by
  rcases hw with hw | hw
  · exact decode_illFormed hw rfl rfl (srr_unlisted h)
  · exact decode_illFormed hw rfl rfl (srw_unlisted h)

theorem unlistedSystemRegisters : Says.UnlistedSystemRegisters :=
  ⟨fun _ h => ⟨srr_unlisted h, srw_unlisted h⟩, fun _ _ _ _ h hl ht hw hx =>
    ⟨_, step_undefined h hl (decode_unlisted hw hx) ht, trapped_enters ..⟩⟩

/-! ### Privilege -/

section
variable {s : State} {c : Ctx} {g : Group} {t : Team} (h : Issuing s c g t)
include h

/-- A word that needs a privilege which it lacks takes PRIVILEGE. -/
theorem traps_privilege (ht : canTrap g) {i : Instr} {pg : BitVec 4} {pn : Bool} {n : Needs} {regs : List (Nat × Nat)}
    {k : State → Ctx → Group → Team → Mask → State} (e : exec i s = .next (issueWord s pg pn n regs k)) (hi : n.illegal = false)
    (hp : n.priv = true) : traps i s c g .privilege c.mask 0#64 0#64 := by
  have meets : issueCause { s with cur := .idle } g t n = some .privilege := by simp [issueCause, hi, hp]
  exact ⟨_, by rw [e, issueWord_cause h meets, takeTrap_issuing h ht], trapped_enters ..⟩

theorem outsideHandler_issuing (ht : canTrap g) (hm : c.mask ≠ 0#32) : outsideHandler s = true := by
  have all : c.mask &&& ~~~0#32 = c.mask := by rw [BitVec.not_zero, BitVec.and_allOnes]
  simp only [outsideHandler, h.cur, h.group, ht.2, all, Option.map_some, Option.getD_some, bne_iff_ne, ne_eq, hm, not_false_eq_true]

theorem sysregPriv_handler (ht : canTrap g) (hm : c.mask ≠ 0#32) {x : Nat} (hx : x ≤ 4) : sysregPriv s x = true := by
  rw [sysregPriv, if_pos hx, outsideHandler_issuing h ht hm]

theorem sysregPriv_test (hw : ∀ w, mget s.worlds t.world = some w → w.test = false) : sysregPriv s 0x20 = true := by
  cases hworld : mget s.worlds t.world with
  | none => simp [sysregPriv, h.cur, h.group, h.team, hworld]
  | some w => simp [sysregPriv, h.cur, h.group, h.team, hworld, hw w hworld]

theorem traps_sysreg (ht : canTrap g) {f : SForm} (hp : sysregPriv s f.a.toNat = true) :
    ∀ i ∈ [Instr.srr f, .srw f], traps i s c g .privilege c.mask 0#64 0#64 := by
  simp only [List.forall_mem_cons, List.not_mem_nil, false_imp_iff, implies_true, and_true]
  exact ⟨traps_privilege h ht rfl rfl hp, traps_privilege h ht rfl rfl hp⟩

end

theorem privilegeOfSystemRegisters : Says.PrivilegeOfSystemRegisters := by
  intro s c g t f h ht
  refine ⟨fun hx hm => traps_sysreg h ht (sysregPriv_handler h ht hm hx), fun hm => ?_, fun hx hw => traps_sysreg h ht ?_⟩
  · have outside := outsideHandler_issuing h ht hm
    simp only [List.forall_mem_cons, List.not_mem_nil, false_imp_iff, implies_true, and_true]
    exact ⟨traps_privilege h ht rfl rfl outside, traps_privilege h ht rfl rfl outside⟩
  · rw [hx, sysregPriv_test h hw]

/-- Settles O16. -/
theorem systemRegisters : Obligations.SystemRegisters :=
  ⟨systemRegisterValues, srwWritesSystemRegisters, unlistedSystemRegisters, privilegeOfSystemRegisters⟩

end Sys2Proof.Proofs.SystemRegisters

namespace Sys2Proof.Proofs.PairWords

/-! Pair words (O32). The model computes a slot's result in numbers, the statement in bit vectors: `computes` ties the two, operation by
operation, and `runsAs` finds for each slot instruction the operation that it runs. Two slots then write their results in turn
(`vRaw_putSlot`) and push their latches. -/

open Sys2Proof Sys2Proof.Machine Sys2Proof.Laws Sys2Proof.Proofs.Facts Sys2Proof.Proofs.CausesAtIssue

/-! ### Integers as numbers and as bit vectors (R85) -/

/-- A function on numbers gives, cut to a register, what an operation gives on registers. -/
def computes (fn : Nat → Nat → Nat) (op : W32 → W32 → W32) : Prop := ∀ d a : W32, BitVec.ofNat 32 (fn d.toNat a.toNat) = op d a

theorem ofNat_wrap (w : Nat) (v : Int) : BitVec.ofNat w (wrap w v) = BitVec.ofInt w v := by
  apply BitVec.eq_of_toNat_eq
  have nonneg : 0 ≤ v % 2 ^ w := Int.emod_nonneg v (by positivity)
  have lt : v % 2 ^ w < 2 ^ w := Int.emod_lt_of_pos v (by positivity)
  rw [BitVec.toNat_ofNat, BitVec.toNat_ofInt, wrap, Nat.mod_eq_of_lt]
  · simp
  · exact (Int.toNat_lt nonneg).mpr (by simpa using lt)

theorem ofInt_natCast {w : Nat} (n : Nat) : BitVec.ofInt w (n : Int) = BitVec.ofNat w n := by simp

theorem extInt_unsigned {w : Nat} (x : BitVec w) : extInt false w x.toNat = x.toNat := by
  simp [extInt, Nat.mod_eq_of_lt x.isLt]

theorem extInt_signed {w : Nat} (hw : 0 < w) (x : BitVec w) : extInt true w x.toNat = x.toInt := by
  obtain ⟨k, rfl⟩ := Nat.exists_eq_succ_of_ne_zero hw.ne'
  have lt := x.isLt
  have double : 2 ^ (k + 1) = 2 * 2 ^ k := Nat.pow_succ'
  simp only [extInt, Nat.mod_eq_of_lt lt, BitVec.toInt_eq_toNat_cond, Bool.true_and, decide_eq_true_eq, Nat.succ_eq_add_one, Nat.add_sub_cancel]
  push_cast
  split <;> split <;> omega

theorem computes_add : computes (fun d a => (d + a) % 2 ^ 32) (fun d a => d + a) := fun d a => by
  apply BitVec.eq_of_toNat_eq
  simp

theorem computes_sub : computes (fun d a => wrap 32 ((d : Int) - a)) (fun d a => d - a) := fun d a => by
  apply BitVec.eq_of_toNat_eq
  rw [ofNat_wrap, BitVec.toNat_ofInt, BitVec.toNat_sub]
  omega

theorem computes_mul : computes (opImul 32) (fun d a => d * a) := fun d a => by
  apply BitVec.eq_of_toNat_eq
  simp [opImul]

theorem ofNat_opShl {w : Nat} (x : BitVec w) (n : Nat) : BitVec.ofNat w (opShl w x.toNat n) = x <<< n := by
  apply BitVec.eq_of_toNat_eq
  by_cases h : n < w
  · simp [opShl, h, Nat.shiftLeft_eq]
  · rw [BitVec.shiftLeft_eq_zero (by omega)]
    simp [opShl, h]

/-- A shift by the width or more leaves the sign alone, as one by the width does. -/
theorem sshiftRight_min {w : Nat} (x : BitVec w) (n : Nat) : x.sshiftRight (min n w) = x.sshiftRight n := by
  rcases Nat.le_total n w with h | h
  · rw [Nat.min_eq_left h]
  · rw [Nat.min_eq_right h]
    ext k hk
    rw [BitVec.getElem_sshiftRight, BitVec.getElem_sshiftRight, dif_neg (by omega), dif_neg (by omega)]

theorem ofNat_opShr {w : Nat} (hw : 0 < w) (ari : Bool) (x : BitVec w) (n : Nat) :
    BitVec.ofNat w (opShr w ari x.toNat n) = if ari then x.sshiftRight n else x >>> n := by
  cases ari with
  | true =>
    simp only [opShr, if_true]
    rw [ofNat_wrap, extInt_signed hw, ← sshiftRight_min, BitVec.sshiftRight, Int.shiftRight_eq_div_pow]
    norm_cast
  | false =>
    apply BitVec.eq_of_toNat_eq
    by_cases h : n < w
    · have lt : x.toNat / 2 ^ n < 2 ^ w := (Nat.div_le_self ..).trans_lt x.isLt
      simp [opShr, h, Nat.shiftRight_eq_div_pow, Nat.mod_eq_of_lt, lt]
    · have zero : x >>> n = 0#w := BitVec.ushiftRight_eq_zero (by omega)
      simp [opShr, h, zero]

theorem extInt_le {w : Nat} (hw : 0 < w) (s : Bool) (x y : BitVec w) :
    extInt s w x.toNat ≤ extInt s w y.toNat ↔ (if s then x.sle y else x.ule y) = true := by
  cases s with
  | true => simp [extInt_signed hw, BitVec.sle_eq_decide]
  | false => simp [extInt_unsigned, BitVec.ule_eq_decide]

theorem computes_imin (s : Bool) : computes (opImin 32 s) (fun d a => if (if s then d.sle a else d.ule a) then d else a) := fun d a => by
  simp only [opImin, extInt_le (by decide : 0 < 32) s]
  rw [apply_ite (BitVec.ofNat 32), BitVec.ofNat_toNat, BitVec.ofNat_toNat, BitVec.setWidth_eq, BitVec.setWidth_eq]

theorem computes_imax (s : Bool) : computes (opImax 32 s) (fun d a => if (if s then a.sle d else a.ule d) then d else a) := fun d a => by
  simp only [opImax, ge_iff_le, extInt_le (by decide : 0 < 32) s]
  rw [apply_ite (BitVec.ofNat 32), BitVec.ofNat_toNat, BitVec.ofNat_toNat, BitVec.setWidth_eq, BitVec.setWidth_eq]

theorem computes_and : computes (fun d a => d &&& a) (fun d a => d &&& a) := fun d a => by simp
theorem computes_or : computes (fun d a => d ||| a) (fun d a => d ||| a) := fun d a => by simp
theorem computes_xor : computes (fun d a => d ^^^ a) (fun d a => d ^^^ a) := fun d a => by simp

theorem computes_addImm (k : BitVec 8) : computes (fun d _ => wrap 32 (d + extInt true 8 k.toNat)) (fun d _ => d + k.signExtend 32) := fun d a => by
  rw [ofNat_wrap, extInt_signed (by decide), BitVec.ofInt_add, ofInt_natCast, BitVec.ofNat_toNat, BitVec.setWidth_eq]
  rfl

theorem computes_movImm (u : Bool) (k : BitVec 8) :
    computes (fun _ _ => wrap 32 (extInt (!u) 8 k.toNat)) (fun _ _ => if u then k.setWidth 32 else k.signExtend 32) := fun d a => by
  cases u with
  | true =>
    show BitVec.ofNat 32 (wrap 32 (extInt false 8 k.toNat)) = k.setWidth 32
    rw [extInt_unsigned, ofNat_wrap, ofInt_natCast, BitVec.ofNat_toNat]
  | false =>
    show BitVec.ofNat 32 (wrap 32 (extInt true 8 k.toNat)) = k.signExtend 32
    rw [extInt_signed (by decide), ofNat_wrap]
    rfl

/-! ### Results on both halves of a register (R146) -/

/-- What rounding gives fits in a format whose special values do. -/
theorem round_lt {f : Fmt} (hi : f.infBits < f.signBit) (hn : f.nanBits < f.signBit) (hm : f.maxBits < f.signBit) (rm : Nat) (ftz : Bool) (v : FV) :
    f.round rm ftz v < 2 * f.signBit := by
  have signed : ∀ {s mag}, mag < f.signBit → f.withSign s mag < 2 * f.signBit := by
    intro s mag h
    unfold Fmt.withSign
    split <;> omega
  have zero : 0 < f.signBit := by omega
  cases v with
  | nan => exact hn.trans (by omega)
  | inf s => exact signed hi
  | fin s m e =>
    simp only [Fmt.round]
    split
    · exact signed zero
    · split
      · split
        · exact signed hm
        · exact signed hi
      · split
        · exact signed zero
        · exact signed (by omega)

theorem half_round_lt (b : Bool) (rm : Nat) (ftz : Bool) (v : FV) : (halfFmt b).round rm ftz v < 2 ^ 16 := by
  cases b
  · exact round_lt (f := fp16) (by decide) (by decide) (by decide) rm ftz v
  · exact round_lt (f := bf16) (by decide) (by decide) (by decide) rm ftz v

theorem b16_eq {x : Nat} (hx : x < 2 ^ 32) (k : Nat) : Reading.onHalves.b16 x k = x / 2 ^ (16 * k) % 2 ^ 16 := by
  simp only [Reading.onHalves.b16, Reading.bits, BitVec.extractLsb'_toNat, BitVec.toNat_ofNat, Nat.mod_eq_of_lt hx, Nat.shiftRight_eq_div_pow]

theorem append_halves {lo hi : Nat} (hlo : lo < 2 ^ 16) (hhi : hi < 2 ^ 16) : (BitVec.ofNat 16 hi ++ BitVec.ofNat 16 lo).toNat = lo + 2 ^ 16 * hi := by
  rw [BitVec.toNat_append, BitVec.toNat_ofNat, BitVec.toNat_ofNat, Nat.mod_eq_of_lt hlo, Nat.mod_eq_of_lt hhi,
    ← Nat.shiftLeft_add_eq_or_of_lt hlo, Nat.shiftLeft_eq]
  ring

/-- Two results that fit their halves make one register. -/
theorem computes_halves {fn : Nat → Nat → Nat → Nat} (h : ∀ x y z, fn x y z < 2 ^ 16) :
    computes (fun d a => halves fn d a 0) (fun d a => Reading.reg32 (Reading.onHalves fn d.toNat a.toNat 0)) := fun d a => by
  simp only [halves, Reading.reg32, Reading.onHalves, append_halves (h ..) (h ..), b16_eq d.isLt, b16_eq a.isLt, b16_eq (by decide : 0 < 2 ^ 32),
    Nat.mul_zero, Nat.mul_one, pow_zero, Nat.div_one]

/-! ### What a slot computes (R56, R59) -/

/-- The result of a slot: its register, its lanes, and in each lane the operation on the registers before the word. -/
def slotOut (x : Reading.SlotOp) (g : Group) (c : Ctx) : Option (Nat × Mask × SMap W32) :=
  if x.writes then
    some (x.f.d.toNat, maskBy (Reading.slotCl x g c),
      (lanesOf (maskBy (Reading.slotCl x g c))).map (fun l => (l, x.fn (vRaw g x.f.d.toNat l) (vRaw g x.f.a.toNat l))))
  else none

/-- A slot instruction runs as an operation. -/
def RunsAs (i : Instr) (x : Reading.SlotOp) : Prop :=
  ∃ check r, (∀ s, exec i s = runSlot check r s) ∧ ∀ g c, g.windows = [] → r g c = slotOut x g c

theorem runsAs_of_computes {i : Instr} {f : PSlot} {fn : Nat → Nat → Nat} {op : W32 → W32 → W32} {check : Check}
    (e : ∀ s, exec i s = runSlot check (fun g c => some (slotResult f fn g c)) s) (h : computes fn op) : RunsAs i { f := f, fn := op } := by
  refine ⟨check, _, e, fun g c hw => ?_⟩
  simp only [slotResult, slotOut, vRead_closed hw, h _ _, if_true]
  rfl

/-- Every slot instruction runs as the operation of R59. -/
theorem runsAs {i : Instr} {x : Reading.SlotOp} (h : Reading.slotOp i = some x) : RunsAs i x := by
  cases i with
  | pairNop f => cases h; exact ⟨.none, _, fun _ => rfl, fun _ _ _ => rfl⟩
  | pairMov f => cases h; exact runsAs_of_computes (fun _ => rfl) fun d a => by simp
  | pairIadd f => cases h; exact runsAs_of_computes (fun _ => rfl) computes_add
  | pairIsub f => cases h; exact runsAs_of_computes (fun _ => rfl) computes_sub
  | pairAnd f => cases h; exact runsAs_of_computes (fun _ => rfl) computes_and
  | pairOr f => cases h; exact runsAs_of_computes (fun _ => rfl) computes_or
  | pairXor f => cases h; exact runsAs_of_computes (fun _ => rfl) computes_xor
  | pairShl f => cases h; exact runsAs_of_computes (fun _ => rfl) fun d a => ofNat_opShl d _
  | pairShr f => cases h; exact runsAs_of_computes (fun _ => rfl) fun d a => ofNat_opShr (by decide) _ d _
  | pairImin f => cases h; exact runsAs_of_computes (fun _ => rfl) (computes_imin _)
  | pairImax f => cases h; exact runsAs_of_computes (fun _ => rfl) (computes_imax _)
  | pairImul f => cases h; exact runsAs_of_computes (fun _ => rfl) computes_mul
  | pairFadd f => cases h; exact runsAs_of_computes (fun _ => rfl) fun _ _ => rfl
  | pairFmul f => cases h; exact runsAs_of_computes (fun _ => rfl) fun _ _ => rfl
  | pairFmin f => cases h; exact runsAs_of_computes (fun _ => rfl) fun _ _ => rfl
  | pairFmax f => cases h; exact runsAs_of_computes (fun _ => rfl) fun _ _ => rfl
  | pairHadd2 f => cases h; exact runsAs_of_computes (fun _ => rfl) (computes_halves fun _ _ _ => half_round_lt ..)
  | pairHmul2 f => cases h; exact runsAs_of_computes (fun _ => rfl) (computes_halves fun _ _ _ => half_round_lt ..)
  | pairShli f => cases h; exact runsAs_of_computes (fun _ => rfl) fun d _ => ofNat_opShl d _
  | pairShri f => cases h; exact runsAs_of_computes (fun _ => rfl) fun d _ => ofNat_opShr (by decide) _ d _
  | pairIaddi8 f => cases h; exact runsAs_of_computes (fun _ => rfl) (computes_addImm _)
  | pairMovi8 f => cases h; exact runsAs_of_computes (fun _ => rfl) (computes_movImm _ _)
  | _ => cases h

/-! ### The two results written (R57) -/

/-- Nothing but vector registers differs. -/
def vectorsOnly (g g' : Group) : Prop := g' = { g with v := g'.v }

theorem vectorsOnly_trans {a b c : Group} (h1 : vectorsOnly a b) (h2 : vectorsOnly b c) : vectorsOnly a c := by
  unfold vectorsOnly at *
  rw [h2, h1]

theorem plainRegs_vectorsOnly {g g' : Group} (h : vectorsOnly g g') (hp : plainRegs g) : plainRegs g' := by
  unfold vectorsOnly at h
  rw [h]
  exact hp

/-- Writes of one register, lane by lane. -/
theorem putSlot_lanes (n : Nat) (m : Mask) (x : Nat → W32) (ls : List Nat) {g : Group} (hp : plainRegs g) (hls : ∀ l ∈ ls, l < 32) :
    vectorsOnly g (putSlot g (some (n, m, ls.map (fun l => (l, x l))))) ∧ ∀ k j, j < 32 →
      vRaw (putSlot g (some (n, m, ls.map (fun l => (l, x l))))) k j = if k = n ∧ j ∈ ls then x j else vRaw g k j := by
  induction ls generalizing g with
  | nil => exact ⟨rfl, fun k j _ => by simp [putSlot]⟩
  | cons l ls ih =>
    have first : vectorsOnly g (vWrite g n l (x l)) := by
      rw [vWrite_closed hp.1 hp.2]
      rfl
    have write : putSlot g (some (n, m, (l :: ls).map (fun l => (l, x l)))) =
        putSlot (vWrite g n l (x l)) (some (n, m, ls.map (fun l => (l, x l)))) := rfl
    obtain ⟨rest, reads⟩ := ih (plainRegs_vectorsOnly first hp) (fun k hk => hls k (List.mem_cons_of_mem _ hk))
    rw [write]
    refine ⟨vectorsOnly_trans first rest, fun k j hj => ?_⟩
    rw [reads k j hj, vWrite_closed hp.1 hp.2, vRaw_write _ _ _ _ _ _ (hls l List.mem_cons_self) hj]
    by_cases hjl : j = l
    · subst hjl
      by_cases hk : k = n <;> simp [hk]
    · simp [hjl]

theorem slotCl_writes {x : Reading.SlotOp} {g : Group} {c : Ctx} {l : Nat} (h : Reading.slotCl x g c l = true) : x.writes = true := by
  simp only [Reading.slotCl, Bool.and_eq_true] at h
  exact h.1.1

/-- A slot writes its result in its lanes, and nothing else of a group. -/
theorem putSlot_slotOut (x : Reading.SlotOp) (g0 : Group) (c : Ctx) {g : Group} (hp : plainRegs g) :
    vectorsOnly g (putSlot g (slotOut x g0 c)) ∧ ∀ n l, l < 32 → vRaw (putSlot g (slotOut x g0 c)) n l =
      if Reading.slotCl x g0 c l && n == x.f.d.toNat then x.fn (vRaw g0 x.f.d.toNat l) (vRaw g0 x.f.a.toNat l) else vRaw g n l := by
  cases hw : x.writes with
  | false =>
    have out : slotOut x g0 c = none := by simp [slotOut, hw]
    rw [out]
    exact ⟨rfl, fun n l _ => by simp [putSlot, Reading.slotCl, hw]⟩
  | true =>
    obtain ⟨only, reads⟩ := putSlot_lanes x.f.d.toNat (maskBy (Reading.slotCl x g0 c)) (fun l => x.fn (vRaw g0 x.f.d.toNat l) (vRaw g0 x.f.a.toNat l))
      (lanesOf (maskBy (Reading.slotCl x g0 c))) hp (fun l hl => lt_of_mem_lanesOf hl)
    simp only [slotOut, hw, if_true]
    refine ⟨only, fun n l hl => ?_⟩
    rw [reads n l hl]
    simp [mem_lanesOf, has_maskBy _ l hl, and_comm]

/-- Both slots write their results, with no fault injected. -/
theorem putPair_quiet {g : Group} (h : slice g.fij.toNat 0 4 = 0) (r0 r1 : Option (Nat × Mask × SMap W32)) :
    putPair g r0 r1 = putSlot (putSlot g r0) r1 := by
  have event : (if slotMask r0 ||| slotMask r1 = 0#32 then (g, false) else fijEvent g 2) = (g, false) := by
    rw [fijEvent_quiet h 2 (by decide), ite_self]
  simp only [putPair, event]
  split <;> rfl

/-- The latch values of a slot: its result in its lanes. -/
theorem mval_slotVals (x : Reading.SlotOp) (g : Group) (c : Ctx) (l : Nat) (hl : l < 32) : mval (slotVals (slotOut x g c)) 0#64 l =
    if Reading.slotCl x g c l then (x.fn (vRaw g x.f.d.toNat l) (vRaw g x.f.a.toNat l)).setWidth 64 else 0#64 := by
  cases hw : x.writes with
  | false => simp [slotOut, slotVals, hw, Reading.slotCl, mval]
  | true =>
    simp only [slotOut, hw, if_true, slotVals, List.map_map, Function.comp_def, mval, mget_map, mem_lanesOf, has_maskBy _ l hl]
    split <;> rfl

theorem slotOut_isSome (x : Reading.SlotOp) (g : Group) (c : Ctx) : (slotOut x g c).isSome = x.writes := by
  cases hw : x.writes <;> simp [slotOut, hw]

/-! ### The two slots run -/

/-- With no upset at hand a slot keeps its result, or both are written. -/
theorem runSlot_quiet {s : State} {c : Ctx} {k : Nat} {r0 : Option (Nat × Mask × SMap W32)} {g : Group} (hc : s.cur = .pair c k r0)
    (hg : mget s.groups c.gid = some g) (hs : g.strikes = []) (check : Check) (r : Group → Ctx → Option (Nat × Mask × SMap W32)) :
    runSlot check r s = .next (runSlot.finish { s with cur := .idle } c k r0 g (r g c)) := by
  simp [runSlot, hc, hg, hs]

section
variable (c : Ctx) (g : Group) (x y : Reading.SlotOp)

/-- A group with both slots' results written. -/
def pairWritten : Group := putSlot (putSlot g (slotOut x g c)) (slotOut y g c)

/-- With both latch entries pushed as well, slot 0's first. -/
def pairLatched : Group :=
  pushLatch { pushLatch (pairWritten c g x y) x.writes (slotVals (slotOut x g c)) with susp := [], resume := none } y.writes
    (slotVals (slotOut y g c))

/-- And with ISSUE advanced. -/
def pairFinished : Group := advance (pairLatched c g x y) c.mask

end

theorem vRaw_pairFinished (c : Ctx) (g : Group) (x y : Reading.SlotOp) (n l : Nat) :
    vRaw (pairFinished c g x y) n l = vRaw (pairWritten c g x y) n l := by
  simp only [vRaw, freeVector, pairFinished, pairLatched, advance_v, advance_vEpochs, pushLatch_v, pushLatch_vEpochs]

section
variable {c : Ctx} {g : Group} {x y : Reading.SlotOp} (hp : plainRegs g)
include hp

theorem pairWritten_only : vectorsOnly g (pairWritten c g x y) :=
  have first := (putSlot_slotOut x g c hp).1
  vectorsOnly_trans first (putSlot_slotOut y g c (plainRegs_vectorsOnly first hp)).1

theorem pairWritten_kept : (pairWritten c g x y).lanes = g.lanes ∧ (pairWritten c g x y).latches = g.latches ∧
    (pairWritten c g x y).latchId = g.latchId ∧ (pairWritten c g x y).latchLost = g.latchLost := by
  have only := pairWritten_only (c := c) (x := x) (y := y) hp
  unfold vectorsOnly at only
  rw [only]
  exact ⟨rfl, rfl, rfl, rfl⟩

/-- Slots that do not both write one register leave both results. -/
theorem vRaw_pairWritten (hd : x.writes = true → y.writes = true → x.f.d ≠ y.f.d) (n l : Nat) (hl : l < 32) :
    vRaw (pairWritten c g x y) n l =
      if Reading.slotCl x g c l && n == x.f.d.toNat then x.fn (vRaw g x.f.d.toNat l) (vRaw g x.f.a.toNat l)
      else if Reading.slotCl y g c l && n == y.f.d.toNat then y.fn (vRaw g y.f.d.toNat l) (vRaw g y.f.a.toNat l) else vRaw g n l := by
  obtain ⟨first, reads0⟩ := putSlot_slotOut x g c hp
  obtain ⟨-, reads1⟩ := putSlot_slotOut y g c (plainRegs_vectorsOnly first hp)
  rw [pairWritten, reads1 n l hl, reads0 n l hl]
  by_cases h0 : (Reading.slotCl x g c l && n == x.f.d.toNat) = true
  · have h1 : (Reading.slotCl y g c l && n == y.f.d.toNat) = false := by
      by_contra h1
      simp only [Bool.and_eq_true, Bool.not_eq_false, beq_iff_eq] at h0 h1
      exact hd (slotCl_writes h0.1) (slotCl_writes h1.1) (BitVec.eq_of_toNat_eq (h0.2.symm.trans h1.2))
    simp only [h0, h1, Bool.false_eq_true, if_true, if_false]
  · rw [if_neg h0, if_neg h0]

theorem pairFinished_advanced : advanced c g (pairFinished c g x y) := by
  have lanes : (pairLatched c g x y).lanes = g.lanes := (pairWritten_kept hp).1
  have := advance_lanes (pairLatched c g x y) c.mask
  simp only [Group.lane, lanes] at this
  exact this

theorem pairFinished_latches : (pairFinished c g x y).latches =
    (⟨g.latchId + 1, y.writes, slotVals (slotOut y g c)⟩ :: ⟨g.latchId, x.writes, slotVals (slotOut x g c)⟩ :: g.latches).take 4 := by
  obtain ⟨-, queue, id, -⟩ := pairWritten_kept (c := c) (x := x) (y := y) hp
  simp [pairFinished, pairLatched, pushLatch, id, queue, List.take_take]

theorem pairFinished_rest : pairFinished c g x y = { g with
    v := (pairFinished c g x y).v, lanes := (pairFinished c g x y).lanes, latches := (pairFinished c g x y).latches
    latchId := g.latchId + 2, susp := [], resume := none } := by
  have only := pairWritten_only (c := c) (x := x) (y := y) hp
  unfold vectorsOnly at only
  unfold pairFinished pairLatched
  rw [only]
  rfl

end

theorem pairWordsComplete : Says.PairWordsComplete := by
  intro s c g t i j x y hc hg ht hu hi hj hd
  have hp : plainRegs g := ⟨hu.noWindow, hu.noError⟩
  obtain ⟨check0, r0, exec0, out0⟩ := runsAs hi
  obtain ⟨check1, r1, exec1, out1⟩ := runsAs hj
  refine ⟨{ s with cur := .pair c 1 (slotOut x g c) }, pairFinished c g x y, ?_, ?_, rfl, ?_, ?_, ?_, ?_⟩
  · rw [exec0, runSlot_quiet hc hg hu.noStrike, out0 g c hu.noWindow]
    rfl
  · obtain ⟨-, -, -, lost⟩ := pairWritten_kept (c := c) (x := x) (y := y) hp
    rw [exec1, runSlot_quiet (s := { s with cur := .pair c 1 (slotOut x g c) }) rfl hg hu.noStrike, out1 g c hu.noWindow]
    simp only [runSlot.finish, putPair_quiet hu.noInjection, slotOut_isSome]
    exact congrArg Host.Outcome.next (endWord_eq (s := s) (lost.trans hu.ownLatches) hu.noImage)
  · exact pairFinished_advanced hp
  · intro n l hl
    rw [vRaw_pairFinished, vRaw_pairWritten hp hd n l hl]
  · exact ⟨_, _, pairFinished_latches hp, fun l hl => ⟨mval_slotVals x g c l hl, mval_slotVals y g c l hl⟩⟩
  · exact pairFinished_rest hp

/-! ### BANKPAIR (R58) -/

theorem length_eraseDups_le {α : Type} [BEq α] (l : List α) : l.eraseDups.length ≤ l.length := by
  cases l with
  | nil => simp
  | cons a l =>
    have shorter := List.length_filter_le (fun b => !b == a) l
    have rest := length_eraseDups_le (l.filter (fun b => !b == a))
    rw [List.eraseDups_cons, List.length_cons, List.length_cons]
    omega
termination_by l.length

/-- A list that loses nothing with its duplicates has none. -/
theorem nodup_of_length_eraseDups {α : Type} [BEq α] [LawfulBEq α] {l : List α} (h : l.eraseDups.length = l.length) : l.Nodup := by
  induction l with
  | nil => exact List.nodup_nil
  | cons a l ih =>
    have shorter := List.length_filter_le (fun b => !b == a) l
    have rest := length_eraseDups_le (l.filter (fun b => !b == a))
    rw [List.eraseDups_cons, List.length_cons, List.length_cons] at h
    have same : l.filter (fun b => !b == a) = l := List.filter_sublist.eq_of_length (by omega)
    refine List.nodup_cons.mpr ⟨fun ha => ?_, ih (by rw [same] at h; omega)⟩
    simpa using List.filter_eq_self.mp same a ha

theorem slotWrites_slotOp {i : Instr} {x : Reading.SlotOp} (h : Reading.slotOp i = some x) :
    slotWrites i = if x.writes then some x.f.d.toNat else none := by
  cases i <;> cases h <;> rfl

theorem bankClash_sameRegister {i j : Instr} {x y : Reading.SlotOp} (hi : Reading.slotOp i = some x) (hj : Reading.slotOp j = some y)
    (hx : x.writes = true) (hy : y.writes = true) (hd : x.f.d = y.f.d) : bankClash i j = true := by
  simp [bankClash, slotWrites_slotOp hi, slotWrites_slotOp hj, hx, hy, hd]

theorem bankClash_sameBank {i j : Instr} {m n : Nat} (hm : m ∈ pairReads i j) (hn : n ∈ pairReads i j) (hne : m ≠ n) (hb : m % 4 = n % 4) :
    bankClash i j = true := by
  have clash : ((pairReads i j).map (· % 4)).eraseDups.length ≠ (pairReads i j).length := fun h =>
    hne (List.inj_on_of_nodup_map (nodup_of_length_eraseDups (h.trans (List.length_map _).symm)) hm hn hb)
  simp [bankClash, clash]

theorem bankPairTraps : Says.BankPairTraps := by
  intro s c g t i j x y h ht hi hj hbad
  have clash : bankClash i j = true := by
    rcases hbad with ⟨hx, hy, hd⟩ | ⟨m, n, hm, hn, hne, hb⟩
    · exact bankClash_sameRegister hi hj hx hy hd
    · exact bankClash_sameBank hm hn hne hb
  refine ⟨trapped g .bankpair c.mask c.pc 0#64 0#64, ?_, trapped_enters ..⟩
  rw [beginPair, withWord_issuing h, if_pos clash, takeTrap_issuing h ht]

/-- Settles O32: both slots compute from the registers before the word, and a clash of R58 is found before either runs. -/
theorem pairWordsCompute : Obligations.PairWordsCompute := ⟨pairWordsComplete, bankPairTraps⟩

end Sys2Proof.Proofs.PairWords

namespace Sys2Proof.Proofs.Rounding

/-! Rounding is exact (O57). The magnitudes of a format are counted in units of its smallest subnormal: `gridMag` gives them by their bits,
the exponent field unbounded, and rises strictly. A value lies in one cell of that grid, from the bits at or below it (`cellBits`) to the next,
and both roundings take an end of the cell: the lower one, or the near one (`exists_roundings`). The statement is then about the two ends
of a cell and any other point of the grid. -/

open Sys2Proof Sys2Proof.Machine

/-! ### The grid of magnitudes (R118) -/

/-- The magnitude of bits without a sign in units of the smallest subnormal, as if the exponent field had no upper limit. -/
def gridMag (mb x : Nat) : Nat := if x / 2 ^ mb = 0 then x else (2 ^ mb + x % 2 ^ mb) * 2 ^ (x / 2 ^ mb - 1)

/-- A significand at a binade counts its cells: the normal ones have their hidden bit at the exponent's place. -/
theorem gridMag_significand {mb r E : Nat} (hr : r ≤ 2 ^ (mb + 1)) (hE : r < 2 ^ mb → E = 0) : gridMag mb (E * 2 ^ mb + r) = r * 2 ^ E := by
  have pos : 0 < 2 ^ mb := by positivity
  have double : 2 ^ (mb + 1) = 2 * 2 ^ mb := Nat.pow_succ'
  have fields (d x : Nat) (hx : x < 2 ^ mb) (e : E * 2 ^ mb + r = x + 2 ^ mb * d) :
      (E * 2 ^ mb + r) / 2 ^ mb = d ∧ (E * 2 ^ mb + r) % 2 ^ mb = x := by
    rw [e, Nat.add_mul_div_left _ _ pos, Nat.add_mul_mod_self_left, Nat.div_eq_of_lt hx, Nat.mod_eq_of_lt hx, Nat.zero_add]
    exact ⟨rfl, rfl⟩
  unfold gridMag
  rcases Nat.lt_or_ge r (2 ^ mb) with h | h
  · simp [hE h, Nat.div_eq_of_lt h]
  · rcases Nat.lt_or_ge r (2 ^ (mb + 1)) with h' | h'
    · obtain ⟨hd, hm⟩ := fields (E + 1) (r - 2 ^ mb) (by omega) (by rw [Nat.mul_succ, Nat.mul_comm]; omega)
      rw [hd, hm, if_neg (by omega), Nat.add_sub_cancel, Nat.add_sub_cancel' h]
    · obtain ⟨hd, hm⟩ := fields (E + 2) 0 pos (by rw [Nat.mul_add, Nat.mul_comm]; omega)
      rw [hd, hm, if_neg (by omega), show r = 2 * 2 ^ mb by omega, show E + 2 - 1 = E + 1 by omega, pow_succ]
      ring

/-- Bits of a magnitude are a binade and a significand in it. -/
theorem exists_significand (mb x : Nat) : ∃ E r, x = E * 2 ^ mb + r ∧ r < 2 ^ (mb + 1) ∧ (r < 2 ^ mb → E = 0) ∧ E = x / 2 ^ mb - 1 := by
  have pos : 0 < 2 ^ mb := by positivity
  have double : 2 ^ (mb + 1) = 2 * 2 ^ mb := Nat.pow_succ'
  have lt := Nat.mod_lt x pos
  have eq := Nat.div_add_mod' x (2 ^ mb)
  cases hd : x / 2 ^ mb with
  | zero => exact ⟨0, x % 2 ^ mb, by rw [hd] at eq; omega, by omega, fun _ => rfl, rfl⟩
  | succ E => exact ⟨E, 2 ^ mb + x % 2 ^ mb, by rw [hd, Nat.succ_mul] at eq; omega, by omega, fun h => by omega, rfl⟩

/-- From one magnitude to the next is one cell of the binade. -/
theorem gridMag_succ (mb x : Nat) : gridMag mb (x + 1) = gridMag mb x + 2 ^ (x / 2 ^ mb - 1) := by
  obtain ⟨E, r, hx, hr, hE, hd⟩ := exists_significand mb x
  rw [← hd, hx, Nat.add_assoc, gridMag_significand hr.le hE, gridMag_significand hr (fun h => hE (by omega)), Nat.succ_mul]

theorem gridMag_strictMono (mb : Nat) : StrictMono (gridMag mb) :=
  strictMono_nat_of_lt_succ fun x => by
    have : 0 < 2 ^ (x / 2 ^ mb - 1) := by positivity
    rw [gridMag_succ]
    omega

/-! ### The values of a format's bits -/

/-- The formats at hand: an all-ones exponent means infinity or NaN, and there are bits of mantissa and of exponent. -/
def Plain (f : Fmt) : Prop := f.top = .ieee ∧ 0 < f.mbits ∧ 0 < f.ebits

theorem plain_of_mem {f : Fmt} (h : f ∈ [fp64, fp32, fp16, bf16]) : Plain f := by
  simp only [List.mem_cons, List.not_mem_nil, or_false] at h
  rcases h with rfl | rfl | rfl | rfl <;> exact ⟨rfl, by decide, by decide⟩

/-- A sign as a factor. -/
def signInt (s : Bool) : Int := if s then -1 else 1

/-- The smallest subnormal of a format in units of 2^(−k). -/
def quantum (f : Fmt) (k : Nat) : Nat := 2 ^ (1 - f.bias - f.mbits + k).toNat

/-- The magnitude of bits without a sign in units of 2^(−k). -/
def magUnits (f : Fmt) (k x : Nat) : Nat := gridMag f.mbits x * quantum f k

theorem magUnits_strictMono (f : Fmt) (k : Nat) : StrictMono (magUnits f k) := fun _ _ h =>
  Nat.mul_lt_mul_of_pos_right (gridMag_strictMono f.mbits h) (by unfold quantum; positivity)

theorem magUnits_mono (f : Fmt) (k : Nat) : Monotone (magUnits f k) := (magUnits_strictMono f k).monotone

theorem magUnits_succ (f : Fmt) (k x : Nat) : magUnits f k (x + 1) = magUnits f k x + 2 ^ (x / 2 ^ f.mbits - 1) * quantum f k := by
  rw [magUnits, gridMag_succ, Nat.add_mul, magUnits]

section
variable {f : Fmt}

theorem infBits_add : f.infBits + 2 ^ f.mbits = f.signBit := by
  have pos : 0 < 2 ^ f.ebits := by positivity
  rw [Fmt.infBits, Fmt.signBit, pow_add, ← Nat.succ_mul, Nat.succ_eq_add_one, Nat.sub_add_cancel pos]

theorem infBits_lt_signBit : f.infBits < f.signBit := by
  have pos : 0 < 2 ^ f.mbits := by positivity
  have add := infBits_add (f := f)
  omega

/-- The exponent field of bits below the infinity is not all ones. -/
theorem exponent_lt {x : Nat} (hx : x < f.infBits) : x / 2 ^ f.mbits < 2 ^ f.ebits - 1 := Nat.div_lt_of_lt_mul (by rwa [Nat.mul_comm])

/-- Bits of the format's width are a sign and a magnitude. -/
theorem exists_withSign {y : Nat} (h : y < 2 ^ f.width) : ∃ t x, x < f.signBit ∧ y = f.withSign t x := by
  have width : 2 ^ f.width = 2 * f.signBit := by rw [Fmt.width, Fmt.signBit, Nat.add_assoc, Nat.pow_add, pow_one]
  rcases Nat.lt_or_ge y f.signBit with hy | hy
  · exact ⟨false, y, hy, rfl⟩
  · exact ⟨true, y - f.signBit, by omega, by simp [Fmt.withSign]; omega⟩

end

section
variable {f : Fmt} (hf : Plain f)
include hf

theorem maxBits_eq : f.maxBits = f.infBits - 1 := by rw [Fmt.maxBits, hf.1]

theorem two_le_infBits : 2 ≤ f.infBits := by
  obtain ⟨-, hm, he⟩ := hf
  have mant := Nat.pow_le_pow_right (by decide : 0 < 2) (Nat.succ_le_of_lt hm)
  have expo := Nat.pow_le_pow_right (by decide : 0 < 2) (Nat.succ_le_of_lt he)
  calc 2 = 1 * 2 := rfl
    _ ≤ f.infBits := Nat.mul_le_mul (by omega) (by omega)

theorem signBit_even : f.signBit % 2 = 0 := by
  obtain ⟨-, hm, -⟩ := hf
  obtain ⟨n, hn⟩ := Nat.exists_eq_succ_of_ne_zero (show f.ebits + f.mbits ≠ 0 by omega)
  rw [Fmt.signBit, hn, Nat.pow_succ]
  omega

theorem min_lt_infBits (x : Nat) : min x f.maxBits < f.infBits := by
  have two := two_le_infBits hf
  have maxBits := maxBits_eq hf
  omega

/-- The two largest finite magnitudes lie in one binade. -/
theorem maxBits_binade : (f.maxBits - 1) / 2 ^ f.mbits = f.maxBits / 2 ^ f.mbits := by
  have mant : 2 ≤ 2 ^ f.mbits := Nat.le_self_pow hf.2.1.ne' 2
  have expo : 2 ≤ 2 ^ f.ebits := Nat.le_self_pow hf.2.2.ne' 2
  have last : f.maxBits = 2 ^ f.mbits * (2 ^ f.ebits - 2) + (2 ^ f.mbits - 1) := by
    rw [maxBits_eq hf, Fmt.infBits, show 2 ^ f.ebits - 1 = 2 ^ f.ebits - 2 + 1 by omega, Nat.succ_mul, Nat.mul_comm]
    omega
  rw [last, Nat.add_sub_assoc (by omega), Nat.mul_add_div (by omega), Nat.mul_add_div (by omega), Nat.div_eq_of_lt (by omega),
    Nat.div_eq_of_lt (by omega)]

theorem value_withSign {x : Nat} (hx : x < f.signBit) (s : Bool) : f.value (f.withSign s x) =
    if x / 2 ^ f.mbits = 2 ^ f.ebits - 1 then (if x % 2 ^ f.mbits = 0 then .inf s else .nan)
    else if x / 2 ^ f.mbits = 0 then .fin s (x % 2 ^ f.mbits) (1 - f.bias - f.mbits)
    else .fin s (2 ^ f.mbits + x % 2 ^ f.mbits) ((x / 2 ^ f.mbits : Nat) - f.bias - f.mbits) := by
  have pos : 0 < f.signBit := by omega
  have mant : 0 < 2 ^ f.mbits := by positivity
  have expo : x / 2 ^ f.mbits < 2 ^ f.ebits := Nat.div_lt_of_lt_mul (by rwa [Nat.mul_comm, ← pow_add])
  have sign : (f.withSign s x / f.signBit % 2 == 1) = s := by
    cases s with
    | false => simp [Fmt.withSign, Nat.div_eq_of_lt hx]
    | true => simp [Fmt.withSign, Nat.add_div_left _ pos, Nat.div_eq_of_lt hx]
  have field : f.withSign s x / 2 ^ f.mbits % 2 ^ f.ebits = x / 2 ^ f.mbits := by
    cases s with
    | false => exact Nat.mod_eq_of_lt expo
    | true =>
      rw [Fmt.withSign, if_pos rfl, Fmt.signBit, pow_add, Nat.mul_comm, Nat.mul_add_div mant, Nat.add_mod_left, Nat.mod_eq_of_lt expo]
  have low : f.withSign s x % 2 ^ f.mbits = x % 2 ^ f.mbits := by
    cases s with
    | false => rfl
    | true => rw [Fmt.withSign, if_pos rfl, Fmt.signBit, pow_add, Nat.mul_comm, Nat.mul_add_mod]
  simp only [Fmt.value, hf.1, sign, field, low, beq_iff_eq]

theorem value_infBits (s : Bool) : f.value (f.withSign s f.infBits) = .inf s := by
  rw [value_withSign hf infBits_lt_signBit]
  simp [Fmt.infBits]

/-- Bits below the infinity are finite. -/
theorem value_finite {x : Nat} (hx : x < f.infBits) (s : Bool) : ∃ r q, f.value (f.withSign s x) = .fin s r q := by
  rw [value_withSign hf (hx.trans infBits_lt_signBit), if_neg (exponent_lt hx).ne]
  split
  · exact ⟨_, _, rfl⟩
  · exact ⟨_, _, rfl⟩

/-- Bits of a finite value are below the infinity. -/
theorem finite_bits {y : Nat} (hy : y < 2 ^ f.width) {t : Bool} {n : Nat} {g : Int} (h : f.value y = .fin t n g) :
    ∃ t x, x < f.infBits ∧ y = f.withSign t x := by
  obtain ⟨t', x, hx, rfl⟩ := exists_withSign hy
  refine ⟨t', x, ?_, rfl⟩
  by_contra hge
  have pos : 0 < 2 ^ f.mbits := by positivity
  have ones : x / 2 ^ f.mbits = 2 ^ f.ebits - 1 := by
    have low : 2 ^ f.ebits - 1 ≤ x / 2 ^ f.mbits := (Nat.le_div_iff_mul_le pos).mpr (by simpa [Fmt.infBits] using hge)
    have high : x / 2 ^ f.mbits < 2 ^ f.ebits := Nat.div_lt_of_lt_mul (by rwa [Nat.mul_comm, ← pow_add])
    omega
  rw [value_withSign hf hx, if_pos ones] at h
  split at h <;> cases h

/-- A finite value stands on the grid. -/
theorem unitsAt_withSign {k : Nat} (hk : f.bias + f.mbits ≤ k) {x : Nat} (hx : x < f.infBits) (s : Bool) :
    unitsAt k (f.value (f.withSign s x)) = signInt s * magUnits f k x := by
  rw [value_withSign hf (hx.trans infBits_lt_signBit), if_neg (exponent_lt hx).ne]
  unfold magUnits gridMag quantum
  split
  case isTrue h =>
    have low : x % 2 ^ f.mbits = x := Nat.mod_eq_of_lt ((Nat.div_eq_zero_iff_lt (by positivity)).mp h)
    simp [unitsAt, signInt, low]
  case isFalse h =>
    have expo : 0 < x / 2 ^ f.mbits := Nat.pos_of_ne_zero h
    have shift : ((x / 2 ^ f.mbits : Nat) - f.bias - f.mbits + k).toNat = (x / 2 ^ f.mbits - 1) + (1 - f.bias - f.mbits + k).toNat := by omega
    simp only [unitsAt, signInt, shift, pow_add]
    push_cast
    ring

end

/-! ### The cell that holds a value (R124) -/

/-- Truncation. -/
theorem roundShift_truncates (s : Bool) (m k : Nat) : roundShift 1 s m k = m / 2 ^ k := by
  simp [roundShift, towardZero]

/-- To nearest: the near end of the cell, at its middle the even one. -/
theorem roundShift_nearest (s : Bool) (m k : Nat) :
    roundShift 0 s m k = m / 2 ^ k ∧ 2 * (m % 2 ^ k) ≤ 2 ^ k ∧ (2 * (m % 2 ^ k) = 2 ^ k → m / 2 ^ k % 2 = 0) ∨
    roundShift 0 s m k = m / 2 ^ k + 1 ∧ 2 ^ k ≤ 2 * (m % 2 ^ k) ∧ (2 * (m % 2 ^ k) = 2 ^ k → (m / 2 ^ k + 1) % 2 = 0) := by
  have pos : 0 < 2 ^ k := by positivity
  simp only [roundShift]
  split
  case isTrue h => exact .inl ⟨rfl, by omega, by omega⟩
  case isFalse h =>
    simp only [if_true]
    split
    case isTrue h' =>
      simp only [gt_iff_lt, Bool.or_eq_true, decide_eq_true_eq, Bool.and_eq_true, beq_iff_eq] at h'
      exact .inr ⟨rfl, by omega, by omega⟩
    case isFalse h' =>
      simp only [gt_iff_lt, Bool.or_eq_true, decide_eq_true_eq, Bool.and_eq_true, beq_iff_eq] at h'
      exact .inl ⟨rfl, by omega, by omega⟩

/-- Rounding does not depend on the unit in which the value is counted. -/
theorem roundShift_scale (rm : Nat) (s : Bool) (m a k : Nat) : roundShift rm s (m * 2 ^ a) (k + a) = roundShift rm s m k := by
  have pos : 0 < 2 ^ a := by positivity
  have low : m * 2 ^ a % (2 ^ k * 2 ^ a) = m % 2 ^ k * 2 ^ a := Nat.mul_mod_mul_right ..
  have high : m * 2 ^ a / (2 ^ k * 2 ^ a) = m / 2 ^ k := Nat.mul_div_mul_right _ _ pos
  have less : 2 * (m % 2 ^ k * 2 ^ a) > 2 ^ k * 2 ^ a ↔ 2 * (m % 2 ^ k) > 2 ^ k := by
    rw [← Nat.mul_assoc, gt_iff_lt, Nat.mul_lt_mul_right pos]
  have same : 2 * (m % 2 ^ k * 2 ^ a) = 2 ^ k * 2 ^ a ↔ 2 * (m % 2 ^ k) = 2 ^ k := by
    rw [← Nat.mul_assoc, Nat.mul_left_inj pos.ne']
  simp only [roundShift, low, high, Nat.mul_eq_zero, pos.ne', or_false, pow_add, less, same, beq_eq_decide]

theorem roundShift_exact (rm : Nat) (s : Bool) (m k : Nat) : roundShift rm s (m * 2 ^ k) k = m := by
  have pos : 0 < 2 ^ k := by positivity
  simp [roundShift]

theorem roundShift_bounds (rm : Nat) (s : Bool) (m k : Nat) : m / 2 ^ k ≤ roundShift rm s m k ∧ roundShift rm s m k ≤ m / 2 ^ k + 1 := by
  simp only [roundShift]
  split
  · omega
  · split
    · split <;> omega
    · split <;> omega

/-- The exponent of the quantum to which a value is rounded. -/
def quantumExp (f : Fmt) (m : Nat) (e : Int) : Int := max (e + Nat.log2 m - f.mbits) (1 - f.bias - f.mbits)

/-- How many places of a value in units of 2^(−k) lie below the cells of a binade. -/
def places (f : Fmt) (k E : Nat) : Nat := (1 - f.bias - f.mbits + E + k).toNat

/-- A binade of the grid holds a value: the value's cell is one of the binade's, below its end and, but in the lowest, not below its start. -/
structure Binade (f : Fmt) (k V E : Nat) : Prop where
  below : V / 2 ^ places f k E < 2 ^ (f.mbits + 1)
  above : V / 2 ^ places f k E < 2 ^ f.mbits → E = 0

/-- The magnitude bits at or below a value in a binade. -/
def cellBits (f : Fmt) (k V E : Nat) : Nat := E * 2 ^ f.mbits + V / 2 ^ places f k E

theorem magBits_eq {f : Fmt} {r E : Nat} (hr : r < 2 ^ f.mbits → E = 0) : f.magBits r (1 - f.bias - f.mbits + E) = E * 2 ^ f.mbits + r := by
  unfold Fmt.magBits
  split
  case isTrue h => simp [hr h]
  case isFalse h => rw [show (1 - f.bias - f.mbits + E + f.mbits + f.bias).toNat - 1 = E by omega]

section
variable {f : Fmt} {k : Nat} (hk : f.bias + f.mbits ≤ k)
include hk

theorem two_pow_places (E : Nat) : 2 ^ places f k E = 2 ^ E * quantum f k := by
  rw [places, quantum, ← pow_add]
  congr 1
  omega

section
variable {m : Nat} {e : Int} (he : 0 ≤ e + k)
include he

/-- The binade in which a value is rounded. -/
theorem exists_binade (hm : 0 < m) : ∃ E : Nat, quantumExp f m e = 1 - f.bias - f.mbits + E ∧ Binade f k (m * 2 ^ (e + k).toNat) E := by
  have least : 1 - f.bias - f.mbits ≤ quantumExp f m e := le_max_right ..
  have top : e + Nat.log2 m - f.mbits ≤ quantumExp f m e := le_max_left ..
  obtain ⟨E, hE⟩ := Int.eq_ofNat_of_zero_le (sub_nonneg.mpr least)
  have pos : 0 < 2 ^ (e + k).toNat := by positivity
  refine ⟨E, by omega, ?_, fun h => ?_⟩
  · rw [Nat.div_lt_iff_lt_mul (by positivity), ← pow_add]
    calc m * 2 ^ (e + k).toNat < 2 ^ (Nat.log2 m + 1) * 2 ^ (e + k).toNat := Nat.mul_lt_mul_of_pos_right Nat.lt_log2_self pos
      _ = 2 ^ (Nat.log2 m + 1 + (e + k).toNat) := (pow_add ..).symm
      _ ≤ _ := Nat.pow_le_pow_right (by decide) (by unfold places; omega)
  · by_contra hne
    have exact : quantumExp f m e = e + Nat.log2 m - f.mbits := by unfold quantumExp at hE ⊢; omega
    rw [Nat.div_lt_iff_lt_mul (by positivity), ← pow_add] at h
    refine absurd h (Nat.not_lt.mpr ?_)
    calc 2 ^ (f.mbits + places f k E) ≤ 2 ^ (Nat.log2 m + (e + k).toNat) := Nat.pow_le_pow_right (by decide) (by unfold places; omega)
      _ = 2 ^ Nat.log2 m * 2 ^ (e + k).toNat := pow_add ..
      _ ≤ _ := Nat.mul_le_mul_right _ (Nat.log2_self_le hm.ne')

/-- Rounding a magnitude is rounding its count of units to cells of the binade. -/
theorem roundMag_eq {E : Nat} (hE : quantumExp f m e = 1 - f.bias - f.mbits + E) (rm : Nat) (s : Bool) :
    f.roundMag rm s m e = (roundShift rm s (m * 2 ^ (e + k).toNat) (places f k E), quantumExp f m e) := by
  have form : f.roundMag rm s m e = if quantumExp f m e ≤ e then (m * 2 ^ (e - quantumExp f m e).toNat, quantumExp f m e)
    else (roundShift rm s m (quantumExp f m e - e).toNat, quantumExp f m e) := rfl
  rw [form]
  split
  case isTrue h =>
    have exponents : (e + k).toNat = (e - quantumExp f m e).toNat + places f k E := by unfold places; omega
    rw [exponents, pow_add, ← Nat.mul_assoc, roundShift_exact]
  case isFalse h =>
    have exponents : places f k E = (quantumExp f m e - e).toNat + (e + k).toNat := by unfold places; omega
    rw [exponents, roundShift_scale]

/-- Rounding a value gives the bits of its rounded count of cells, up to the largest finite ones. -/
theorem round_fin {E : Nat} (hE : quantumExp f m e = 1 - f.bias - f.mbits + E) (hB : Binade f k (m * 2 ^ (e + k).toNat) E) (hm : 0 < m) (rm : Nat)
    (s : Bool) :
    let x := E * 2 ^ f.mbits + roundShift rm s (m * 2 ^ (e + k).toNat) (places f k E)
    f.round rm false (.fin s m e) = f.withSign s (if x > f.maxBits then (if towardZero rm s then f.maxBits else f.infBits) else x) := by
  have bounds := roundShift_bounds rm s (m * 2 ^ (e + k).toNat) (places f k E)
  have bits := magBits_eq (f := f) (E := E) (r := roundShift rm s (m * 2 ^ (e + k).toNat) (places f k E)) (fun h => hB.above (by omega))
  simp only [Fmt.round, hm.ne', if_false, roundMag_eq hk he hE, hE, bits, Bool.false_and, Bool.false_eq_true]
  split <;> rfl

end

/-! ### A value between two magnitudes -/

/-- A value, in units of 2^(−k), lies in the cell from the magnitude bits x to the next. -/
structure Cell (f : Fmt) (k V x : Nat) : Prop where
  low : magUnits f k x ≤ V
  high : V < magUnits f k (x + 1)

/-- Of the ends of the cell from `x`, `y` is the one nearer to the value, or the even one. -/
def NearEnd (f : Fmt) (k V x y : Nat) : Prop :=
  let twiceMiddle := magUnits f k x + magUnits f k (x + 1)
  (2 * V = twiceMiddle → y % 2 = 0) ∧ (y = x ∧ 2 * V ≤ twiceMiddle ∨ y = x + 1 ∧ twiceMiddle ≤ 2 * V)

section
variable {V E : Nat} (hB : Binade f k V E)
include hB

/-- The ends of the value's cell. -/
theorem magUnits_cellBits : magUnits f k (cellBits f k V E) = V / 2 ^ places f k E * 2 ^ places f k E ∧
    magUnits f k (cellBits f k V E + 1) = V / 2 ^ places f k E * 2 ^ places f k E + 2 ^ places f k E := by
  have below := hB.below
  have above := hB.above
  rw [magUnits, magUnits, cellBits, Nat.add_assoc, gridMag_significand below.le above, gridMag_significand below (fun h => above (by omega)),
    two_pow_places hk]
  exact ⟨Nat.mul_assoc .., by rw [Nat.mul_assoc, Nat.succ_mul]⟩

theorem cell_cellBits : Cell f k V (cellBits f k V E) := by
  obtain ⟨low, high⟩ := magUnits_cellBits hk hB
  have eq := Nat.div_add_mod' V (2 ^ places f k E)
  have lt := Nat.mod_lt V (show 0 < 2 ^ places f k E by positivity)
  exact ⟨by omega, by omega⟩

/-- Rounding to nearest chooses the near end. -/
theorem nearEnd_roundShift (hf : 0 < f.mbits) (s : Bool) :
    NearEnd f k V (cellBits f k V E) (E * 2 ^ f.mbits + roundShift 0 s V (places f k E)) := by
  obtain ⟨low, high⟩ := magUnits_cellBits hk hB
  have eq := Nat.div_add_mod' V (2 ^ places f k E)
  have even : E * 2 ^ f.mbits % 2 = 0 := by
    obtain ⟨n, hn⟩ := Nat.exists_eq_succ_of_ne_zero hf.ne'
    rw [hn, Nat.pow_succ, ← Nat.mul_assoc]
    omega
  simp only [NearEnd, low, high]
  rcases roundShift_nearest s V (places f k E) with ⟨h, near, tie⟩ | ⟨h, near, tie⟩
  · rw [h]
    exact ⟨fun h => by have := tie (by omega); omega, .inl ⟨rfl, by omega⟩⟩
  · rw [h]
    exact ⟨fun h => by have := tie (by omega); omega, .inr ⟨rfl, by omega⟩⟩

end

/-- The two roundings of a value: both by its cell. -/
theorem exists_roundings {m : Nat} {e : Int} (hf : Plain f) (he : 0 ≤ e + k) (hm : 0 < m) (s : Bool) :
    ∃ x y, Cell f k (m * 2 ^ (e + k).toNat) x ∧ NearEnd f k (m * 2 ^ (e + k).toNat) x y ∧
      f.round 1 false (.fin s m e) = f.withSign s (min x f.maxBits) ∧
      f.round 0 false (.fin s m e) = f.withSign s (if y > f.maxBits then f.infBits else y) := by
  obtain ⟨E, hE, hB⟩ := exists_binade hk he hm
  refine ⟨cellBits f k _ E, E * 2 ^ f.mbits + roundShift 0 s _ (places f k E), cell_cellBits hk hB, nearEnd_roundShift hk hB hf.2.1 s, ?_, ?_⟩
  · rw [round_fin hk he hE hB hm, roundShift_truncates, ← cellBits]
    simp only [towardZero, beq_self_eq_true, Bool.true_or, if_true]
    congr 1
    split <;> omega
  · rw [round_fin hk he hE hB hm]
    simp [towardZero]

end

/-! ### Distances on the grid -/

theorem natAbs_signInt_mul (s : Bool) (n : Int) : (signInt s * n).natAbs = n.natAbs := by cases s <;> simp [signInt]

/-- A point of the grid with either sign, seen from a value of sign s: it lies at or below a cell, or at or above it. -/
theorem beside_cell (f : Fmt) (k x : Nat) (s t : Bool) (z : Nat) :
    signInt s * (signInt t * magUnits f k z) ≤ magUnits f k x ∨
    magUnits f k (x + 1) ≤ signInt s * (signInt t * magUnits f k z) := by
  have mono := magUnits_mono f k
  by_cases hs : s = t
  · have same (n : Int) : signInt s * (signInt t * n) = n := by subst hs; cases s <;> simp [signInt]
    rw [same]
    rcases Nat.lt_or_ge x z with hz | hz
    · exact .inr (by exact_mod_cast mono hz)
    · exact .inl (by exact_mod_cast mono hz)
  · have flip (n : Int) : signInt s * (signInt t * n) = -n := by cases s <;> cases t <;> simp_all [signInt]
    rw [flip]
    exact .inl (by omega)

/-- Nothing beside a cell is nearer to a value in it than the near end, and only at the middle is another point as near. -/
theorem nearest_of_beside {A B V n y : Int} (hA : A ≤ V) (hB : V < B) (hn : n = A ∧ 2 * V ≤ A + B ∨ n = B ∧ A + B ≤ 2 * V)
    (hy : y ≤ A ∨ B ≤ y) :
    (V - n).natAbs ≤ (V - y).natAbs ∧ ((V - n).natAbs = (V - y).natAbs → n ≠ y → 2 * V = A + B) := by
  omega

theorem sub_signInt (s : Bool) (V y : Int) : (signInt s * V - y).natAbs = (V - signInt s * y).natAbs := by
  cases s <;> simp [signInt]
  omega

theorem signInt_signInt (s : Bool) (n : Int) : signInt s * (signInt s * n) = n := by cases s <;> simp [signInt]

/-! ### The two roundings (R124) -/

section
variable {f : Fmt} {k V x : Nat} (hf : Plain f) (hk : f.bias + f.mbits ≤ k) (cell : Cell f k V x)
include hf hk cell

/-- No finite value is nearer than the near end, and one as near leaves it the even one. -/
theorem nearEnd_nearest {y z : Nat} (hn : NearEnd f k V x y) (hy : y < f.infBits) (hz : z < f.infBits) (s t : Bool) :
    let near := f.withSign s y
    let other := f.withSign t z
    let dist (b : Nat) : Nat := (signInt s * V - unitsAt k (f.value b)).natAbs
    dist near ≤ dist other ∧ (dist near = dist other → unitsAt k (f.value near) ≠ unitsAt k (f.value other) → near % 2 = 0) := by
  obtain ⟨even, ends⟩ := hn
  have parity : f.withSign s y % 2 = y % 2 := by
    have := signBit_even hf
    cases s <;> simp [Fmt.withSign]
    omega
  obtain ⟨least, tie⟩ := nearest_of_beside (n := magUnits f k y) (Int.ofNat_le.mpr cell.low) (Int.ofNat_lt.mpr cell.high)
    (ends.imp (fun ⟨h, h'⟩ => ⟨by rw [h], by exact_mod_cast h'⟩) (fun ⟨h, h'⟩ => ⟨by rw [h], by exact_mod_cast h'⟩))
    (beside_cell f k x s t z)
  simp only [unitsAt_withSign hf hk hy, unitsAt_withSign hf hk hz, sub_signInt, signInt_signInt, parity]
  refine ⟨least, fun same differ => even ?_⟩
  have middle : (2 * V : Int) = magUnits f k x + magUnits f k (x + 1) := tie same (fun h => differ (by rw [h, signInt_signInt]))
  exact_mod_cast middle

/-- A near end above the largest finite value lies beyond the midpoint above it. -/
theorem nearEnd_overflow {y : Nat} (hn : NearEnd f k V x y) (hy : f.maxBits < y) :
    let u (b : Nat) : Int := unitsAt k (f.value b)
    (u f.maxBits + u f.maxBits - u (f.maxBits - 1)).natAbs + (u f.maxBits).natAbs ≤ 2 * V := by
  have two := two_le_infBits hf
  have maxBits := maxBits_eq hf
  have units {b : Nat} (hb : b < f.infBits) : unitsAt k (f.value b) = magUnits f k b := by
    simpa [signInt, Fmt.withSign] using unitsAt_withSign hf hk hb false
  -- the magnitudes up to the infinity's are a cell apart
  have step0 := magUnits_succ f k (f.maxBits - 1)
  have step1 := magUnits_succ f k f.maxBits
  rw [Nat.sub_add_cancel (by omega), maxBits_binade hf] at step0
  have beyond : magUnits f k f.maxBits + magUnits f k (f.maxBits + 1) ≤ 2 * V := by
    have mono := magUnits_mono f k
    have low := cell.low
    rcases hn.2 with ⟨rfl, -⟩ | ⟨rfl, middle⟩
    · have := mono hy.le
      have := mono (show f.maxBits + 1 ≤ y from hy)
      omega
    · have := mono (Nat.lt_succ_iff.mp hy)
      have := mono (show f.maxBits + 1 ≤ x + 1 from hy)
      omega
  simp only [units (show f.maxBits < f.infBits by omega), units (show f.maxBits - 1 < f.infBits by omega)]
  omega

/-- The largest magnitude at or below the value is not beyond it. -/
theorem truncation_le (s : Bool) : (unitsAt k (f.value (f.withSign s (min x f.maxBits)))).natAbs ≤ V := by
  rw [unitsAt_withSign hf hk (min_lt_infBits hf x), natAbs_signInt_mul, Int.natAbs_natCast]
  exact (magUnits_mono f k (Nat.min_le_left ..)).trans cell.low

/-- It is the greatest finite one that is not. -/
theorem truncation_greatest {z : Nat} (hz : z < f.infBits) (s t : Bool) (h : (unitsAt k (f.value (f.withSign t z))).natAbs ≤ V) :
    (unitsAt k (f.value (f.withSign t z))).natAbs ≤ (unitsAt k (f.value (f.withSign s (min x f.maxBits)))).natAbs := by
  rw [unitsAt_withSign hf hk hz, natAbs_signInt_mul, Int.natAbs_natCast] at h ⊢
  rw [unitsAt_withSign hf hk (min_lt_infBits hf x), natAbs_signInt_mul, Int.natAbs_natCast]
  have below : z < x + 1 := (magUnits_strictMono f k).lt_iff_lt.mp (h.trans_lt cell.high)
  have maxBits := maxBits_eq hf
  exact magUnits_mono f k (by omega)

end

/-- Settles O57: a value lies in a cell of the format's grid; truncation takes its lower end, rounding to nearest its near end. -/
theorem roundingIsExact : Obligations.RoundingIsExact := by
  intro f s m e k hmem hm he hk
  have hf := plain_of_mem hmem
  have two := two_le_infBits hf
  have maxBits := maxBits_eq hf
  obtain ⟨x, y, cell, ends, hcut, hnear⟩ := exists_roundings hk hf he hm s
  have units : unitsAt k (.fin s m e) = signInt s * (m * 2 ^ (e + k).toNat : Nat) := by simp [unitsAt, signInt]
  simp only [hcut, hnear, units, natAbs_signInt_mul, Int.natAbs_natCast]
  refine ⟨?_, ?_, ?_, value_finite hf (by omega) s, truncation_le hf hk cell s, ?_⟩
  · split
    · exact .inl (value_infBits hf s)
    · exact .inr (value_finite hf (by omega) s)
  · intro r q hr b t n g hb hbv
    split at hr
    case isTrue => rw [value_infBits hf] at hr; cases hr
    case isFalse hy =>
      obtain ⟨t, z, hz, rfl⟩ := finite_bits hf hb hbv
      rw [if_neg hy]
      exact nearEnd_nearest hf hk cell ends (by omega) hz s t
  · intro hinf
    by_cases hy : y > f.maxBits
    · exact nearEnd_overflow hf hk cell ends hy
    · obtain ⟨r, q, hr⟩ := value_finite hf (x := y) (by omega) s
      rw [if_neg hy, hr] at hinf
      cases hinf
  · intro b t n g hb hbv
    obtain ⟨t, z, hz, rfl⟩ := finite_bits hf hb hbv
    exact truncation_greatest hf hk cell hz s t

end Sys2Proof.Proofs.Rounding

namespace Sys2Proof.Proofs.FloatingPoint

/-! The floating-point, packed and conversion instructions (O7). Each runs one ALU operation (`exec` to `runAlu`); an operation that has the
operands, the destination and the values of a `LaneOp` completes as it (`completes_of_fits`). What is left for an instruction is that the
model's value is the one that R136 to R153 give. -/

open Sys2Proof Sys2Proof.Machine Sys2Proof.Laws Sys2Proof.Proofs.Facts Sys2Proof.Proofs.PairWords

/-! ### An ALU operation that is a lane operation -/

/-- An ALU operation reads the operands of a lane operation, writes its destination and computes its results. -/
structure Fits (o : Alu) (x : LaneOp) : Prop where
  legal : o.illegal = false
  reads : ∀ r ∈ [o.a, o.b, o.c], r ∈ x.ops ∨ r = .none
  dst : o.dst = x.d
  pred : Alu.predDest o = x.pd
  once : (∀ n w, x.d = .v n w → ud x.f = false) ∧ ∀ n w, x.d = .u n w → ud x.f = true
  eval : ∀ g l, o.eval g l = (x.val g l, x.pv g l)

theorem canRead_of_fits {o : Alu} {x : LaneOp} (h : Fits o x) {g : Group} (hr : canRead g x.ops x.d) : canRead g [o.a, o.b, o.c] o.dst := by
  obtain ⟨latches, top, dtop⟩ := hr
  refine ⟨fun r hr => ?_, fun r hr => ?_, by rw [h.dst]; exact dtop⟩
  · rcases h.reads r hr with hr | rfl
    · exact latches r hr
    · exact fun q hq => by cases hq
  · rcases h.reads r hr with hr | rfl
    · exact top r hr
    · exact Nat.zero_le _

/-- An instruction that runs such an operation completes. -/
theorem completes_of_fits {s : State} {c : Ctx} {g : Group} {t : Team} {i : Instr} {x : LaneOp} (h : Executes s c g t i x) {o : Alu}
    (e : exec i s = runAlu x.f o s) (ho : Fits o x) : x.completes i s c g := by
  obtain ⟨issuing, quiet, -, reads⟩ := h
  have once := ho.once
  rw [← ho.dst] at once
  obtain ⟨g', hg, post⟩ := runAlu_completes issuing quiet x.f o ho.legal (canRead_of_fits ho reads) once.1 once.2
  refine ⟨g', e.trans hg, ?_⟩
  simpa only [ho.dst, ho.pred, ho.eval] using post

theorem dstD_once (f : SForm) (w : Bool) : (∀ n v, dstD f w = .v n v → ud f = false) ∧ ∀ n v, dstD f w = .u n v → ud f = true := by
  cases h : ud f <;> simp [dstD, h]

theorem predDest_dstD {o : Alu} {f : SForm} {w : Bool} (h : o.dst = dstD f w) : Alu.predDest o = o.pd := by
  cases hf : ud f <;> simp [Alu.predDest, h, dstD, hf]

/-! Operations of one, two and three operands that write D and no predicate fit if their values do. -/

section
variable {f : SForm} {w : Bool} {val : Group → Nat → Nat} {a b c : Opnd} {check : Check} {fn : Nat → Nat → Nat → Nat}

theorem fits_three (h : ∀ g l, fn (a.read g l) (b.read g l) (c.read g l) = val g l) :
    Fits { a := a, b := b, c := c, dst := dstD f w, check := check, fn := plain fn } { f := f, ops := [a, b, c], d := dstD f w, val := val } :=
  ⟨rfl, fun _ hr => .inl hr, rfl, predDest_dstD rfl, dstD_once f w, fun g l => congrArg (·, false) (h g l)⟩

theorem fits_two (h : ∀ g l, fn (a.read g l) (b.read g l) 0 = val g l) :
    Fits { a := a, b := b, dst := dstD f w, check := check, fn := plain fn } { f := f, ops := [a, b], d := dstD f w, val := val } :=
  ⟨rfl, by simp, rfl, predDest_dstD rfl, dstD_once f w, fun g l => congrArg (·, false) (h g l)⟩

theorem fits_one (h : ∀ g l, fn (a.read g l) 0 0 = val g l) :
    Fits { a := a, dst := dstD f w, check := check, fn := plain fn } { f := f, ops := [a], d := dstD f w, val := val } :=
  ⟨rfl, by simp, rfl, predDest_dstD rfl, dstD_once f w, fun g l => congrArg (·, false) (h g l)⟩

end

/-- Whether an operation is legal is found apart from what it computes. -/
theorem fits_of_legal {o : Alu} {x : LaneOp} (legal : o.illegal = false) (h : Fits { o with illegal := false } x) : Fits o x :=
  ⟨legal, h.reads, h.dst, h.pred, h.once, h.eval⟩

/-! ### Values -/

/-- An infinity has all ones in its exponent field. -/
theorem exponent_of_inf {f : Fmt} {x : Nat} {s : Bool} (h : f.value x = .inf s) : x / 2 ^ f.mbits % 2 ^ f.ebits = 2 ^ f.ebits - 1 := by
  simp only [Fmt.value] at h
  split at h
  · split at h
    case isTrue special => exact beq_iff_eq.mp special
    case isFalse => split at h <;> cases h
  · split at h
    · cases h
    · split at h <;> cases h
  · split at h <;> cases h

/-- SAT of R136. -/
theorem satOf_eq (f : SForm) (x : Nat) : satOf f x = Reading.sat01 (fnBit f 6) x := by
  have inf (s : Bool) (h : fp32.value x = .inf s) : x > 0x3F800000 := by
    have ones : x / 2 ^ 23 % 2 ^ 8 = 255 := exponent_of_inf h
    omega
  cases on : fnBit f 6 with
  | false => simp [satOf, opx, Reading.sat01, on]
  | true =>
    simp only [satOf, opx, fpSat, Reading.sat01, on, if_true]
    cases hv : fp32.value x with
    | nan => rfl
    | inf s => simp [FV.sign, inf s hv]
    | fin s m e =>
      have clamp : min x 0x3F800000 = if x > 0x3F800000 then 0x3F800000 else x := by split <;> omega
      simp [FV.sign, clamp]

theorem combine_eq (f : SForm) (x y : Bool) :
    combine (cmb f) x y = if fnField f 5 2 = 0 then x else Reading.both (fnField f 5 2 - 1) x y := by
  have predOp_eq (n : Nat) : predOp n x y = Reading.both n x y := by
    match n with
    | 0 => rfl
    | 1 => rfl
    | n + 2 => cases x <;> cases y <;> rfl
  rw [combine, cmb, predOp_eq]

theorem wrap_eq_modw (w : Nat) (v : Int) : wrap w v = Reading.modw w v := by
  rw [wrap, Reading.modw, BitVec.toNat_ofInt]
  norm_cast

theorem extInt_eq_int {w : Nat} (hw : 0 < w) (s : Bool) (x : Nat) : extInt s w x = Reading.int w s x := by
  have low : extInt s w x = extInt s w (BitVec.ofNat w x).toNat := by simp [extInt]
  rw [low, Reading.int, Reading.bits]
  cases s with
  | true => exact extInt_signed hw _
  | false => exact extInt_unsigned _

theorem intWidth_pos (n : Nat) : 0 < intWidth n := by unfold intWidth; split <;> decide

/-- A single operand is a 32-bit number. -/
theorem read_lt {f : SForm} (field : BitVec 8) (u q : Bool) (g : Group) (l : Nat) : (opnd f field u q false).read g l < 2 ^ 32 := by
  cases q <;> cases u <;> exact BitVec.isLt _

theorem read_ite (p : Bool) (a b : Opnd) (g : Group) (l : Nat) : (if p then a else b).read g l = if p then a.read g l else b.read g l :=
  apply_ite (Opnd.read · g l) ..

/-- An operation on both halves of registers (R146). -/
theorem halves_eq {fn : Nat → Nat → Nat → Nat} {a b c : Nat} (ha : a < 2 ^ 32) (hb : b < 2 ^ 32) (hc : c < 2 ^ 32)
    (h : ∀ x y z, x < 2 ^ 16 → y < 2 ^ 16 → fn x y z < 2 ^ 16) : halves fn a b c = Reading.onHalves fn a b c := by
  have fits (x y z : Nat) : fn (x % 2 ^ 16) (y % 2 ^ 16) z < 2 ^ 16 := h _ _ _ (Nat.mod_lt _ (by decide)) (Nat.mod_lt _ (by decide))
  simp only [halves, Reading.onHalves, b16_eq ha, b16_eq hb, b16_eq hc, append_halves (fits ..) (fits ..), Nat.mul_zero, Nat.mul_one, pow_zero,
    Nat.div_one]

/-- Flushing keeps bits within their format. -/
theorem flushIn_lt {f : Fmt} {n : Nat} (hs : 2 * f.signBit ≤ n) (ftz : Bool) {x : Nat} (hx : x < n) : f.flushIn ftz x < n := by
  unfold Fmt.flushIn
  split
  · have : x / f.signBit % 2 * f.signBit ≤ 1 * f.signBit := Nat.mul_le_mul_right _ (by omega)
    have : 0 < f.signBit := by unfold Fmt.signBit; positivity
    omega
  · exact hx

/-- What FMIN and FMAX give: the canonical NaN or an operand, flushed. -/
theorem fpMinMax_cases (f : Fmt) (isMax nanp ftz : Bool) (x y : Nat) : fpMinMax f isMax nanp ftz x y = f.nanBits ∨
    fpMinMax f isMax nanp ftz x y = f.flushIn ftz x ∨ fpMinMax f isMax nanp ftz x y = f.flushIn ftz y := by
  simp only [fpMinMax]
  repeat' split
  all_goals simp

theorem half_minMax_lt (b isMax nanp ftz : Bool) {x y : Nat} (hx : x < 2 ^ 16) (hy : y < 2 ^ 16) :
    fpMinMax (halfFmt b) isMax nanp ftz x y < 2 ^ 16 := by
  have sign : 2 * (halfFmt b).signBit ≤ 2 ^ 16 := by cases b <;> decide
  rcases fpMinMax_cases (halfFmt b) isMax nanp ftz x y with h | h | h
  · rw [h]
    cases b <;> decide
  · rw [h]
    exact flushIn_lt sign ftz hx
  · rw [h]
    exact flushIn_lt sign ftz hy

/-! ### The instructions (R135 to R153) -/

theorem floatingPoint : Says.FloatingPoint := by
  intro s c g t i x hx h
  cases i with
  | fadd f | fmul f => cases hx; exact completes_of_fits h rfl (fits_two fun _ _ => satOf_eq ..)
  | ffma f => cases hx; exact completes_of_fits h rfl (fits_three fun _ _ => satOf_eq ..)
  | fmin f | fmax f | dadd f | dmul f => cases hx; exact completes_of_fits h rfl (fits_two fun _ _ => rfl)
  | fsetp f =>
    cases hx
    exact completes_of_fits h rfl ⟨rfl, by simp [opx], rfl, rfl, by simp, fun g l => Prod.ext rfl (combine_eq ..)⟩
  | fclass f | frnd f | frcp f | frsq f | fsqrt f | fex2 f | flg2 f | fsin f | fcos f | ftanh f =>
    cases hx; exact completes_of_fits h rfl (fits_one fun _ _ => rfl)
  | dfma f => cases hx; exact completes_of_fits h rfl (fits_three fun _ _ => rfl)
  | fscl f => cases hx; exact completes_of_fits h rfl (fits_three fun _ _ => congrArg (fsclOp f _ _) (read_ite ..))
  | _ => cases hx

/-! PCVT and UNPK are operations once the format slot is at hand (R152, R153). -/

def pcvtAlu (f : SForm) (fs : BitVec 32) : Alu :=
  { a := srcA f false, b := srcB f false, c := if opx f 5 then .imm 0 else srcC f false, dst := dstD f false, check := pcvtCheck fs (fnField f 3 2)
    illegal := fsFmt fs == 0 || decide (2 * fnField f 3 2 + 1 ≥ slotCount (fsFmt fs))
    fn := plain (pcvtOp fs (fnField f 3 2)) }

def unpkAlu (f : SForm) (fs : BitVec 32) : Alu :=
  { a := srcA f false, dst := dstD f false, check := .duplicate
    illegal := fsFmt fs == 0 || decide (fnField f 3 3 ≥ slotCount (fsFmt fs))
    fn := plain (fun a _ _ => unpkOp fs (fnField f 3 3) a) }

section
variable {s : State} {c : Ctx} {g : Group} {t : Team} (h : Issuing s c g t) (f : SForm)
include h

/-- A word that reads a format slot runs with the slot of its team. -/
theorem withSlot_issuing (n : Nat) (mk : BitVec 32 → Alu) : withSlot f n mk s = runAlu f (mk (t.fs.getD n 0#32)) s := by
  simp [withSlot, h.cur, h.group, h.team]

theorem exec_pcvt : exec (.pcvt f) s = runAlu f (pcvtAlu f (t.fs.getD (fnField f 0 3) 0#32)) s := withSlot_issuing h f _ (pcvtAlu f)
theorem exec_unpk : exec (.unpk f) s = runAlu f (unpkAlu f (t.fs.getD (fnField f 0 3) 0#32)) s := withSlot_issuing h f _ (unpkAlu f)

end

theorem slot_legal {fmt n : Nat} (hf : fmt ≠ 0) (hn : n < slotCount fmt) : (fmt == 0 || decide (n ≥ slotCount fmt)) = false := by
  simp [hf, hn]

theorem packedAndConversions : Says.PackedAndConversions := by
  intro s c g t i x hx h takes
  cases i with
  | hadd2 f | hmul2 f =>
    cases hx
    exact completes_of_fits h rfl (fits_two fun _ _ => halves_eq (read_lt ..) (read_lt ..) (by decide) fun _ _ _ _ _ => half_round_lt ..)
  | hfma2 f =>
    cases hx
    exact completes_of_fits h rfl (fits_three fun _ _ => halves_eq (read_lt ..) (read_lt ..) (read_lt ..) fun _ _ _ _ _ => half_round_lt ..)
  | hmnmx2 f =>
    cases hx
    exact completes_of_fits h rfl (fits_two fun _ _ => halves_eq (read_lt ..) (read_lt ..) (by decide) fun _ _ _ => half_minMax_lt _ _ _ _)
  | pdot4 f | pdot8 f => cases hx; exact completes_of_fits h rfl (fits_three fun _ _ => rfl)
  | f2i f => cases hx; exact completes_of_fits h rfl (fits_one fun _ _ => wrap_eq_modw ..)
  | i2f f =>
    cases hx
    exact completes_of_fits h rfl (fits_one fun _ _ => congrArg (fun n => Fmt.round _ _ _ (FV.ofInt n)) (extInt_eq_int (intWidth_pos _) ..))
  | f2f f => cases hx; exact completes_of_fits h rfl (fits_one fun _ _ => rfl)
  | pcvt f =>
    cases hx
    obtain ⟨fmt, count⟩ := takes
    exact completes_of_fits h (exec_pcvt h.1 f) (fits_of_legal (slot_legal fmt count) (fits_three fun g l =>
      congrArg (pcvtOp (t.fs.getD (fnField f 0 3) 0#32) (fnField f 3 2) (Reading.rdA f false g l) (Reading.rdB f false g l)) (read_ite ..)))
  | unpk f =>
    cases hx
    obtain ⟨fmt, count⟩ := takes
    exact completes_of_fits h (exec_unpk h.1 f) (fits_of_legal (slot_legal fmt count) (fits_one fun _ _ => rfl))
  | _ => cases hx

/-- Settles O7: every instruction runs an ALU operation that fits its reading. -/
theorem floatingPointInstructions : Obligations.FloatingPointInstructions := ⟨floatingPoint, packedAndConversions⟩

end Sys2Proof.Proofs.FloatingPoint

namespace Sys2Proof.Proofs.MatrixEngine

/-! The matrix operation (O31). With one member group and no error or upset at hand its completion reduces, agent by agent, to the group
with its tiles computed and the register idle (`completeConv_clean`); the elements that the unit computes are those of R234 to R238
(`accElem_eq`). -/

open Sys2Proof Sys2Proof.Machine Sys2Proof.Laws Sys2Proof.Proofs.Facts

theorem matrixStarts : Says.MatrixStarts := by
  intro s key t hargs ht hst hfree hops
  simp only [exec, execMatrixArmedStart, hargs, startConv, ht, hst, hfree, hops]
  rfl

/-! ### Groups found by their numbers -/

/-- A search that finds an entry, or nothing, finds the same when the entry is put in place again. -/
theorem find_mput_same {α : Type} {m : SMap α} {n : Nat} {x : α} (h : mget m n = some x) {p : Nat × α → Bool} {o : Option (Nat × α)}
    (hf : m.find? p = o) (ho : o = none ∨ o = some (n, x)) : (mput m n x).find? p = o := by
  rcases ho with rfl | rfl
  · rw [List.find?_eq_none] at hf ⊢
    intro q hq
    rcases mem_mput hq with rfl | hq
    · exact hf _ (mem_of_mget h)
    · exact hf _ hq
  · induction m with
    | nil => cases h
    | cons q m ih =>
      obtain ⟨k, y⟩ := q
      have holds : p (n, x) = true := List.find?_some hf
      simp only [mget] at h
      simp only [mput]
      split
      · simp [holds]
      · split
        · simp [holds]
        · next hlt hne =>
          rw [if_neg (Ne.symm hne)] at h
          cases hp : p (k, y) with
          | true =>
            rw [List.find?_cons, hp] at hf
            simp only [Option.some.injEq, Prod.mk.injEq] at hf
            exact absurd hf.1.symm hne
          | false =>
            rw [List.find?_cons, hp] at hf ⊢
            exact ih h hf

/-- The only member group is the member group still when it is put in place again. -/
theorem memberGroups_putGroup {s : State} {v : Conv} {gid : Nat} {g : Group} (h : memberGroups s v = [(gid, g)]) (hg : mget s.groups gid = some g) :
    memberGroups (putGroup s gid g) v = [(gid, g)] := by
  refine (List.filterMap_congr fun num hnum => ?_).trans h
  refine find_mput_same hg rfl ?_
  cases hf : s.groups.find? (fun p => p.2.team == v.team && p.2.num == num) with
  | none => exact .inl rfl
  | some q =>
    have mem : q ∈ memberGroups s v := List.mem_filterMap.mpr ⟨num, hnum, hf⟩
    rw [h, List.mem_singleton] at mem
    exact .inr (congrArg some mem)

/-! ### Agents with nothing to do -/

theorem correctScratch_clean {s : State} {tid : Nat} {t : Team} (h : mget s.teams tid = some t) (hs : t.spSingle = []) (o n : Nat) :
    correctScratch s tid o n = s := by
  simp [correctScratch, h, hs]

theorem correctRegs_clean {g : Group} (h : g.regErrs = []) (s : State) (gid world : Nat) (reads : List (Mask × List (Nat × Nat))) :
    correctRegs s gid g world reads = (putGroup s gid g, g) := by
  have same : { g with regErrs := [] } = g := by rw [← h]
  simp [correctRegs, h, putGroup, same]

theorem hardErrs_clean {g : Group} (h : g.regErrs = []) (reads : List (Mask × List (Nat × Nat))) : g.hardErrs reads = [] := by
  simp [Group.hardErrs, h]

/-- No window of an operation under way is spoilt. -/
theorem no_spoilt {ws : List Window} {key : Nat} {p : Window → Bool} (h : ∀ w ∈ ws, w.cv = key → w.done = false → p w = false) :
    ws.any (fun w => w.cv == key && !w.done && p w) = false := by
  rw [List.any_eq_false]
  intro w hw
  have kept := h w hw
  cases hd : w.done <;> simp_all

/-- A register's return to IDLE releases nobody where no lane is blocked. -/
theorem releaseConv_unblocked {s : State} (h : ∀ p ∈ s.groups, ∀ l, (p.2.lane l).st ≠ .blocked) (key : Nat) : releaseConv s key = s := by
  have none_waits (g : Group) (hg : ∀ l, (g.lane l).st ≠ .blocked) (e : Bool) : maskBy (fun l =>
      match (g.lane l).wait with
      | some (.conv k _ x) => k == key && x == e && decide ((g.lane l).st = .blocked)
      | _ => false) = 0#32 := by
    refine mask_ext fun l hl => ?_
    rw [has_maskBy _ l hl]
    split <;> simp [hg l, has]
  refine List.foldl_fixed' (fun p => ?_) s.groups
  cases hp : mget s.groups p.1 with
  | none => rfl
  | some g =>
    have idle := none_waits g (h _ (mem_of_mget hp))
    exact if_pos (congrArg₂ (· ||| ·) (idle false) (idle true))

theorem startTiled_idle {s : State} {key : Nat} {v : Conv} (h : s.convs = [(key, v)]) (hv : v.st ≠ .armed) : startTiled s = s := by
  have : (v.st == .armed) = false := by simpa using hv
  simp [startTiled, h, this]

theorem tryGive_none {s : State} {gid : Nat} {g : Group} (h : mget s.groups gid = some g) (hg : g.holds = []) : tryGive s gid = s := by
  simp [tryGive, h, hg]

/-! ### The operation in its member group -/

/-- The A registers of a member group, row by row. -/
def rowsA (g : Group) (v : Conv) (t : Team) : List (List W32) := (List.range (v.na t)).map (fun r => vRow g (v.areg + r))

/-- A member group after its operation, with no error or upset at hand (R234). -/
def computed (n key : Nat) (v : Conv) (t : Team) (lead g : Group) : Group :=
  { g with
    marks := if v.za then (List.range v.nt).foldl (fun m i => m &&& ~~~(1#32 <<< (v.acc + i))) g.marks else g.marks
    accs := (List.range v.nt).foldl (fun m i => mput m (v.acc + i) (accTile n t v lead g (rowsA g v t) i)) g.accs
    alatch := none, accStrikes := []
    windows := g.windows.map (fun w => if w.cv = key && !w.done then { w with done := true } else w) }

theorem foldl_zipIdx_map_range {α β : Type} (f : Nat → α) (k : β → α × Nat → β) (n : Nat) (b : β) :
    ((List.range n).map f).zipIdx.foldl k b = (List.range n).foldl (fun b i => k b (f i, i)) b := by
  have pairs : ((List.range n).map f).zipIdx = (List.range n).map (fun i => (f i, i)) := by
    apply List.ext_getElem
    · simp
    · intro i h1 h2
      simp
  rw [pairs, List.foldl_map]

theorem computeMember_clean {s : State} {key : Nat} {v : Conv} {t : Team} {lead g : Group} (hru : v.ru = false) (herr : g.regErrs = [])
    (hstrike : g.accStrikes = []) (hwin : ∀ w ∈ g.windows, w.cv = key → w.done = false → w.spoilt = false) (gid : Nat) :
    computeMember s key v t lead false gid g = (computed s.free key v t lead g, true) := by
  simp only [computeMember, operandA, hru, hardErrs_clean herr, no_spoilt (p := Window.spoilt) hwin, checkTiles, hstrike, List.isEmpty_nil,
    Bool.not_true, Bool.or_self, Bool.not_false, Bool.false_eq_true, if_false, if_true, foldl_zipIdx_map_range, computed]
  cases v.za
  · rfl
  · rfl

/-- A register after its operation: idle, in its next phase. -/
def completed (v : Conv) : Conv := { v with st := .idle, phase := (v.phase + 1) % 2 ^ 16 }

/-- A state after an operation with one member group: the group computed, and the register completed. -/
def afterMatrix (s : State) (key gid : Nat) (v : Conv) (t : Team) (lead g : Group) : State :=
  { putGroup s gid (computed s.free key v t lead g) with free := s.free + 1, convs := mput s.convs key (completed v) }

/-- An operation under way with one member group, which holds no A latch and meets no error, upset, spoilt operand or injection, in a machine
where nothing waits for it. -/
structure Clean (s : State) (key gid leadId : Nat) (v : Conv) (t : Team) (g lead : Group) : Prop where
  team : mget s.teams v.team = some t
  leader : leadGroup s v = some (leadId, lead)
  member : memberGroups s v = [(gid, g)]
  group : mget s.groups gid = some g
  fresh : v.ru = false
  noError : g.regErrs = []
  noLeadError : lead.regErrs = []
  noSlotError : t.spErrs = []
  noSlotSingle : t.spSingle = []
  noStrike : g.accStrikes = []
  noInjection : slice g.fij.toNat 0 4 = 0
  kept : ∀ w ∈ g.windows, w.cv = key → w.done = false → w.spoilt = false
  keptB : ∀ w ∈ lead.windows, w.cv = key → w.done = false → w.spoiltB = false
  noImage : ∀ p ∈ s.teams, p.2.imageWait = false
  noHold : g.holds = []
  alone : s.convs = [(key, v)]
  unblocked : ∀ p ∈ s.groups, ∀ l, (p.2.lane l).st ≠ .blocked

section
variable {s : State} {key gid leadId : Nat} {v : Conv} {t : Team} {g lead : Group} (h : Clean s key gid leadId v t g lead)
include h

/-- The operands' corrections put the member group in place again, and correct nothing. -/
theorem correctOperands_clean : correctOperands s v t leadId [(gid, g)] = putGroup s gid g := by
  simp only [correctOperands, correctScratch_clean h.team h.noSlotSingle, ite_self, List.foldl_cons, List.foldl_nil, correctRegs_clean h.noError]

/-- The member group is computed and put in place. -/
theorem completeMember_clean (lead' : Bool) : completeMember (putGroup s gid g) key v t lead' false gid (computed s.free key v t lead g) =
    putGroup s gid (computed s.free key v t lead g) := by
  have errs : (computed s.free key v t lead g).hardErrs (unitReads v t lead') = [] := hardErrs_clean h.noError _
  have event : fijEvent (computed s.free key v t lead g) 1 = (computed s.free key v t lead g, false) :=
    fijEvent_quiet (g := computed s.free key v t lead g) h.noInjection 1 (by decide)
  have here : mget (putGroup s gid g).groups gid = some g := by simp
  simp [completeMember, errs, event, onGroup_some here]

/-- Nothing waits for the operation: no lane, no RGIVE, no other operation and no image. -/
theorem afterMatrix_settled : takeImages (startTiled (tryGive (releaseConv (afterMatrix s key gid v t lead g) key) gid)) =
    afterMatrix s key gid v t lead g := by
  have idle : (afterMatrix s key gid v t lead g).convs = [(key, completed v)] := by simp [afterMatrix, h.alone, mput]
  have unblocked : ∀ p ∈ (afterMatrix s key gid v t lead g).groups, ∀ l, (p.2.lane l).st ≠ .blocked := fun p hp => by
    rcases mem_mput hp with rfl | hp
    · exact h.unblocked (gid, g) (mem_of_mget h.group)
    · exact h.unblocked p hp
  have here : mget (afterMatrix s key gid v t lead g).groups gid = some (computed s.free key v t lead g) := by simp [afterMatrix]
  rw [releaseConv_unblocked unblocked, tryGive_none here h.noHold, startTiled_idle idle (by simp [completed])]
  exact takeImages_none h.noImage

/-- The operation computes its member group's tiles, and nothing else happens. -/
theorem completeConv_clean : completeConv s key v = afterMatrix s key gid v t lead g := by
  have errB : errorInB t v = false := by simp [errorInB, spBad, h.noSlotError]
  have compute : computeMember (putGroup s gid g) key v t lead false gid g = (computed s.free key v t lead g, true) :=
    computeMember_clean h.fresh h.noError h.noStrike h.kept gid
  refine .trans ?_ (afterMatrix_settled h)
  simp only [completeConv, h.team, h.leader, h.member, correctOperands_clean h, memberGroups_putGroup h.member h.group, errB,
    hardErrs_clean h.noLeadError, no_spoilt (p := Window.spoiltB) h.keptB, List.isEmpty_nil, Bool.not_true, Bool.or_self, Bool.false_eq_true,
    if_false, List.map_cons, List.map_nil, List.foldl_cons, List.foldl_nil, compute, List.any_cons, List.any_nil, completeMember_clean h]
  rfl

end

/-! ### The elements that the unit reads (R235 to R238) -/

theorem slice_eq_field (x lo n : Nat) : slice x lo n = Reading.field x lo n := by
  rw [slice, Reading.field, Nat.shiftRight_eq_div_pow]

theorem field_ite (b : Bool) (x lo n : Nat) : Reading.field (if b then x else 0) lo n = if b then Reading.field x lo n else 0 := by
  cases b
  · simp [Reading.field]
  · rfl

theorem rowsA_get {g : Group} {v : Conv} {t : Team} {r lane : Nat} (hr : r < v.na t) (hl : lane < 32) :
    ((rowsA g v t).getD r []).getD lane 0#32 = vRaw g (v.areg + r) lane := by
  simp [rowsA, vRow, nLanes, List.getD_eq_getElem?_getD, hr, hl]

/-- An element of A lies in one of the operation's registers (R236). -/
theorem register_lt_na {v : Conv} {t : Team} {k : Nat} (hw : slotWidth (fsFmt (v.fsA t)) ∈ [4, 8, 16]) (hk : k < v.k) :
    k * slotWidth (fsFmt (v.fsA t)) / 64 < v.na t := by
  unfold Conv.k at hk
  unfold Conv.na Conv.k
  simp only [List.mem_cons, List.not_mem_nil, or_false] at hw
  rcases hw with hw | hw | hw <;> rw [hw] <;> omega

theorem elemA_eq (g : Group) {v : Conv} {t : Team} (hw : slotWidth (fsFmt (v.fsA t)) ∈ [4, 8, 16]) {i k : Nat} (hi : i < 16) (hk : k < v.k) :
    elemA g v (v.fsA t) (rowsA g v t) i k = Reading.scaled (v.fsA t) (Reading.matrixA g v (fsFmt (v.fsA t)) i k)
      (Reading.scaleA g v i (k / fsBlock (v.fsA t))) := by
  have lane : i + 16 * (k * slotWidth (fsFmt (v.fsA t)) / 32 % 2) < 32 := by omega
  simp only [elemA, Reading.scaled, Reading.matrixA, Reading.scaleA, slice_eq_field, field_ite, rowsA_get (register_lt_na hw hk) lane]

/-- A byte of B with no store under way (R206). -/
theorem byteB_eq {v : Conv} (h : v.stale = []) (h' : v.stored = []) (n : Nat) (t : Team) (lead : Group) (b : Nat) :
    (byteB n t v lead b).toNat = Reading.matrixByte t v lead b ∧ (scaleByteB n t v lead b).toNat = Reading.scaleByte t v lead b := by
  simp [byteB, scaleByteB, operandByte, h, h', Reading.matrixByte, Reading.scaleByte, Conv.sboff]

theorem elemB_eq {v : Conv} (h : v.stale = []) (h' : v.stored = []) (n : Nat) {t : Team} (hw : slotWidth (fsFmt (v.fsB t)) ∈ [4, 8, 16])
    (lead : Group) (p k j : Nat) : elemB n t v lead p k j = Reading.scaled (v.fsB t) (Reading.matrixB t v lead (fsFmt (v.fsB t)) p k j)
      (Reading.scaleByte t v lead (8 * (p * v.kbb t + k / fsBlock (v.fsB t)) + j)) := by
  have main b := (byteB_eq h h' n t lead b).1
  have scale b := (byteB_eq h h' n t lead b).2
  simp only [elemB, main, scale, Reading.scaled, Reading.matrixB]
  simp only [List.mem_cons, List.not_mem_nil, or_false] at hw
  rcases hw with hw | hw | hw
  · simp [hw, slice_eq_field]
  · simp [hw]
  · simp [hw]

/-! ### The accumulators (R128, R234) -/

/-- An element that the unit computes is the result of R128 and R234. -/
theorem accElem_eq (g : Group) {v : Conv} (h : v.stale = []) (h' : v.stored = []) (n : Nat) {t : Team}
    (hA : slotWidth (fsFmt (v.fsA t)) ∈ [4, 8, 16]) (hB : slotWidth (fsFmt (v.fsB t)) ∈ [4, 8, 16]) (lead : Group) (p : Nat) {e : Nat}
    (he : e < 128) :
    accElem v.k (elemA g v (v.fsA t) (rowsA g v t) (e / 8)) (fun k => elemB n t v lead p k (e % 8))
      (if v.za then 0 else (accRaw g (v.acc + p) e).toNat) = Reading.matrixResult t v lead g p (e / 8) (e % 8) := by
  have groups : v.k / 16 = v.kg := by simp [Conv.k]
  have element : 8 * (e / 8) + e % 8 = e := Nat.div_add_mod e 8
  simp only [accElem, Reading.matrixResult, groups, element]
  refine List.foldl_ext _ _ _ fun acc q hq => congrArg (accGroup acc) (List.map_congr_left fun x hx => ?_)
  rw [List.mem_range] at hq hx
  have hk : 16 * q + x < v.k := by unfold Conv.k; omega
  rw [elemA_eq g hA (by omega) hk, elemB_eq h h' n hB]

theorem mget_foldl_mput_range {α : Type} (b : Nat) (f : Nat → α) (n : Nat) (m : SMap α) (a : Nat) :
    mget ((List.range n).foldl (fun m i => mput m (b + i) (f i)) m) a = if b ≤ a ∧ a < b + n then some (f (a - b)) else mget m a := by
  induction n with
  | zero => simp
  | succ n ih =>
    rw [List.range_succ, List.foldl_append, List.foldl_cons, List.foldl_nil, mget_mput, ih]
    by_cases ha : a = b + n
    · subst ha; simp
    · have : (b ≤ a ∧ a < b + (n + 1)) ↔ (b ≤ a ∧ a < b + n) := by omega
      simp only [ha, if_false, this]

/-- The accumulators after the operation: the tiles computed, the others as they were. -/
theorem accRaw_computed (n key : Nat) (v : Conv) (t : Team) (lead g : Group) (a : Nat) {e : Nat} (he : e < 128) :
    accRaw (computed n key v t lead g) a e = if v.acc ≤ a ∧ a < v.acc + v.nt then
      BitVec.ofNat 32 (accElem v.k (elemA g v (v.fsA t) (rowsA g v t) (e / 8)) (fun k => elemB n t v lead (a - v.acc) k (e % 8))
        (if v.za then 0 else (accRaw g (v.acc + (a - v.acc)) e).toNat)) else accRaw g a e := by
  simp only [accRaw, computed, mget_foldl_mput_range]
  by_cases ha : v.acc ≤ a ∧ a < v.acc + v.nt
  · simp [ha, accTile, List.getD_eq_getElem?_getD, he, accRaw]
  · simp only [ha, if_false]

theorem matrixCompletes : Says.MatrixCompletes := by
  intro s key gid leadId t g lead hargs hst v ht hlead hmember hg hru hstale hstored hgerr hlerr hsp hsingle hstrike hfij hwin hlwin himage hholds
    hconvs hblocked hA hB
  have clean : Clean s key gid leadId v t g lead :=
    ⟨ht, hlead, hmember, hg, hru, hgerr, hlerr, hsp, hsingle, hstrike, hfij, hwin, hlwin, himage, hholds, hconvs, hblocked⟩
  refine ⟨afterMatrix s key gid v t lead g, computed s.free key v t lead g, ?_, by simp [afterMatrix], fun a e he => ?_, ?_, ?_, rfl, rfl, rfl⟩
  · simp only [exec, execMatrixComplete, hargs, hst, if_true]
    exact congrArg Host.Outcome.next (completeConv_clean clean)
  · rw [accRaw_computed _ _ _ _ _ _ _ he]
    simp only [accElem_eq g hstale hstored s.free hA hB lead _ he]
  · simp [convAt, afterMatrix, completed]
  · simp [convAt, afterMatrix, completed]

/-- Settles O31: a start is immediate, and a completion leaves its group `computed`, element by element the result of R128 and R234. -/
theorem matrixOperation : Obligations.MatrixOperation := ⟨matrixStarts, matrixCompletes⟩

end Sys2Proof.Proofs.MatrixEngine

namespace Sys2Proof.Proofs.Visibility

/-! A store that is out (O20). The bytes that an agent reads are those of home memory under the writes that it sees, in order
(`viewRead`), and a store appends one write that its core alone sees. -/

open Sys2Proof Sys2Proof.Machine

/-- A set of one agent. -/
theorem getLsbD_agent {core : Nat} (h : core < 193) (agent : Nat) : (1#193 <<< core).getLsbD agent = decide (agent = core) := by
  simp only [BitVec.getLsbD_shiftLeft, BitVec.getLsbD_one]
  rw [Bool.eq_iff_iff]
  simp
  omega

theorem length_homePlain (s : State) (w pa n : Nat) : (homePlain s w pa n).length = n := by
  unfold homePlain
  split <;> simp

theorem overlay_append (ws : List MWrite) (w : MWrite) (sees : MWrite → Bool) (a : Nat) (b : Byte) :
    overlay (ws ++ [w]) sees a b = if sees w && w.covers a then w.bytes.getD (a - w.pa) 0#8 else overlay ws sees a b := by
  simp [overlay, List.foldl_append]

/-- The write that a store of a core adds. -/
def storedWrite (s : State) (core w pa : Nat) (bs : List Byte) (after : Before) : MWrite :=
  { id := s.fresh, pa := pa, bytes := bs, world := w, core := some core, home := false, vis := 1#193 <<< core, after := after, skip := [] }

theorem storeWrite_eq {s : State} {pa : Nat} (h : inDoor s pa = false) (core w : Nat) (bs : List Byte) (after : Before) :
    storeWrite s core w pa bs after =
      { l1Store s core w pa bs with fresh := s.fresh + 1, writes := s.writes ++ [storedWrite s core w pa bs after] } := by
  simp [storeWrite, h, storedWrite, l1Store]

/-- The bytes that an agent reads after a store are those before it, under the store's write. -/
theorem viewRead_storeWrite {s : State} {pa : Nat} (h : inDoor s pa = false) (core w : Nat) (bs : List Byte) (after : Before)
    (agent v a n : Nat) : viewRead (storeWrite s core w pa bs after) agent v a n =
      (homePlain s v a n).zipIdx.map (fun p =>
        if (1#193 <<< core).getLsbD agent && (storedWrite s core w pa bs after).covers (a + p.2) then bs.getD (a + p.2 - pa) 0#8
        else overlay s.writes (fun x => x.vis.getLsbD agent) (a + p.2) p.1) := by
  simp only [storeWrite_eq h, viewRead, overlay_append]
  rfl

theorem storedWrite_covers (s : State) (core w pa : Nat) (bs : List Byte) (after : Before) (a : Nat) :
    (storedWrite s core w pa bs after).covers a = (decide (pa ≤ a) && decide (a < pa + bs.length)) := by
  exact Bool.and_true _

/-- Settles O20: the core reads its store's write, and no other agent does. -/
theorem storesAreSeenByTheirCore : Obligations.StoresAreSeenByTheirCore := by
  intro s core w pa bs after hcore hdoor
  refine ⟨?_, ?_, ?_, by rw [storeWrite_eq hdoor]; rfl⟩
  · rw [viewRead_storeWrite hdoor]
    refine List.ext_getElem (by simp [length_homePlain]) fun i hi _ => ?_
    have hb : i < bs.length := by simpa [length_homePlain] using hi
    simp [storedWrite_covers, getLsbD_agent hcore, hb]
  · intro agent v a n hne
    simp [viewRead_storeWrite hdoor, getLsbD_agent hcore, hne]
    rfl
  · intro v a hout
    rw [viewRead_storeWrite hdoor]
    refine List.map_congr_left fun p hp => ?_
    have hp0 : p.2 = 0 := by
      have := List.snd_lt_of_mem_zipIdx hp
      rw [length_homePlain] at this
      omega
    have hcov : (storedWrite s core w pa bs after).covers (a + p.2) = false := by
      rw [storedWrite_covers]
      simp
      omega
    simp [hcov]

end Sys2Proof.Proofs.Visibility

namespace Sys2Proof.Proofs.Evictions

/-! What an L2 fill replaces (O22). A dirty line that holds a poisoned sector is written back with both sectors of the unit
poisoned (R409), so a word or a return that fills an L2 can change what other sectors read as. -/

open Sys2Proof Sys2Proof.Machine Sys2Proof.Tests

/-- The page at 0x1000, mapped to 0x5000. -/
def page1 : Trans := ⟨1, 0x1000, 12, 0x5000, 7⟩

/-- `prf.l2 [s8:s9]` of the line at 0x5000. The set of the line holds one line of its class, the dirty one at 0x7080, whose first
sector reads with an integrity error. -/
def groupPrf : Group := { group0 with u := [(8, 0x1000#32)] }
def wordPrf : SForm := form 0 8 0 0 0x500
def dirtyPoisoned : State := { at_ groupPrf team0 c0 with
  spaces := spaces1, parts := [(0, partC)], poison := [(4 * 0xE1, true)]
  cores := [(0, { Core.empty with tlb := [page1] })]
  dies := [(0, { Die.empty with tc := [(0, [page1])], l2 := [⟨1, 0xE1, 0, 0, true, true⟩] })] }

/-- The poisoned sectors after a step. -/
def poisonAfter : Out → SMap Bool
  | .next s => s.poison
  | _ => []

/-- The prefetch evicts the dirty line, whose write-back poisons the sector beside the poisoned one. -/
theorem poisonAfter_prf : poisonAfter (exec (.prf wordPrf) dirtyPoisoned) = [(4 * 0xE1, false), (4 * 0xE1 + 1, false)] := by
  decide +kernel

theorem undisturbed_dirtyPoisoned : Undisturbed dirtyPoisoned groupPrf :=
  ⟨rfl, by decide, rfl, rfl, rfl, by decide⟩

/-- A prefetch can change more than the caches. -/
theorem not_prefetchCompletes : ¬ Says.PrefetchCompletes := by
  intro h
  obtain ⟨cores, dies, hexec⟩ := h dirtyPoisoned c0 groupPrf team0 wordPrf ⟨rfl, rfl, rfl⟩ undisturbed_dirtyPoisoned
    ⟨by decide, by decide, by decide⟩
  have unchanged : [(4 * 0xE1, false), (4 * 0xE1 + 1, false)] = [(4 * 0xE1, true)] :=
    poisonAfter_prf.symm.trans (congrArg poisonAfter hexec)
  exact absurd unchanged (by decide)

/-- Refutes O22: PRF does not change the caches alone. Its fill of an L2 may replace a dirty line that holds poison, and the write-back of
that line changes the poison of memory (R409). -/
theorem not_fencesAndCacheControl : ¬ Obligations.FencesAndCacheControl := by
  rintro ⟨-, -, -, -, hprf, -⟩
  exact not_prefetchCompletes hprf

/-! ### A load whose lanes meet the eviction (O39) -/

/-- A load of 4 bytes of lane 0 at 0x5000 and of lane 1 in the second sector of the dirty line. -/
def flightEvicts : Flight := { Flight.blank with
  id := 7, dest := some 6, size := 4, latch := 3, world := 1, lines := [0xA0]
  parts := [⟨0, [(0x1000, 0x5000, 4)]⟩, ⟨1, [(0x30A0, 0x70A0, 4)]⟩] }
def groupEvicts : Group := { group0 with flights := [flightEvicts] }
def loadEvicts : State := { dirtyPoisoned with cur := .idle, args := [0, 7], groups := [(0, groupEvicts)] }

/-- The cause that group 0 holds after a step. -/
def causeAfter : Out → Option (BitVec 8)
  | .next s => (mget s.groups 0).map (·.trap.cause)
  | _ => none

/-- Lane 0's read evicts the dirty line, and lane 1's then meets the poison that the write-back left: the group takes UNCORRECTABLE. -/
theorem causeAfter_loadReturn : causeAfter (exec .loadReturn loadEvicts) = some 0x31#8 := by decide +kernel

theorem undisturbed_loadEvicts : Undisturbed loadEvicts groupEvicts :=
  ⟨rfl, by decide, rfl, rfl, rfl, by decide⟩

/-- Bytes that read without an error before the return need not do so when their lane is performed. -/
theorem not_loadsReturn : ¬ Says.LoadsReturn := by
  intro h
  obtain ⟨s', g', hexec, hg', -, -, -, -, hrest⟩ := h loadEvicts 0 7 groupEvicts team0 flightEvicts 6 rfl rfl rfl rfl rfl rfl rfl rfl rfl rfl
    rfl rfl rfl rfl rfl undisturbed_loadEvicts rfl (by decide) rfl (by decide) (by decide +kernel) (by decide) (by decide +kernel)
  have taken : some 0x31#8 = some g'.trap.cause := by
    rw [← causeAfter_loadReturn, hexec]
    simp [causeAfter, hg']
  have kept : g'.trap = groupEvicts.trap := by rw [hrest]
  rw [kept] at taken
  exact absurd taken (by decide)

/-- Refutes O39: the lanes of a returning load are read in turn, and an earlier lane's fill of an L2 may write back a dirty line that
holds poison; a later lane then meets an error where none stood before the return (R409). -/
theorem not_loadsAndAtomicsReturn : ¬ Obligations.LoadsAndAtomicsReturn := fun h => not_loadsReturn h.1

end Sys2Proof.Proofs.Evictions

namespace Sys2Proof.Proofs.Access

/-! What an access of some lanes meets before it is performed: the operands that its word reads (R66), the failures of its addresses
(R155 to R159, R359) and the pages that it needs (R160, R321). -/

open Sys2Proof Sys2Proof.Machine Sys2Proof.Laws Sys2Proof.Proofs.Facts Sys2Proof.Proofs.Issuing

/-! ### Words whose operands can be read (R66) -/

theorem issueCause_eq_none {s : State} {g : Group} {t : Team} {n : Needs} : issueCause s g t n = none ↔
    n.illegal = false ∧ n.priv = false ∧ (∀ q ∈ n.latches, latchReady g q = true) ∧ n.vtop ≤ g.vcount ∧ n.ttop ≤ 4 * g.tgran ∧
      n.atop ≤ 4 * g.agran ∧ n.cvtop ≤ cvCount s g.core t.world := by
  refine ⟨fun h => ?_, fun ⟨h1, h2, h3, h4, h5, h6, h7⟩ => issueCause_none h1 h2 h3 h4 h5 h6 h7⟩
  unfold issueCause at h
  split at h
  · cases h
  · split at h
    · cases h
    · split at h
      · cases h
      · split at h
        · cases h
        · next hi hp hl hb =>
          simp only [Bool.or_eq_true, decide_eq_true_eq, not_or, Nat.not_lt] at hb
          simp only [List.any_eq_true, not_exists, not_and, Bool.not_eq_true, Bool.not_eq_false'] at hl
          obtain ⟨⟨⟨h4, h5⟩, h6⟩, h7⟩ := hb
          exact ⟨Bool.eq_false_iff.mpr hi, Bool.eq_false_iff.mpr hp, hl, h4, h5, h6, h7⟩

/-- What two parts of a word ask for, the word asks for. -/
theorem issueCause_and {s : State} {g : Group} {t : Team} {m n : Needs} (hm : issueCause s g t m = none) (hn : issueCause s g t n = none) :
    issueCause s g t (m.and n) = none := by
  obtain ⟨i1, p1, l1, v1, t1, a1, c1⟩ := issueCause_eq_none.mp hm
  obtain ⟨i2, p2, l2, v2, t2, a2, c2⟩ := issueCause_eq_none.mp hn
  refine issueCause_none (by simp [Needs.and, i1, i2]) (by simp [Needs.and, p1, p2]) (fun q hq => ?_) (max_le v1 v2) (max_le t1 t2) (max_le a1 a2)
    (max_le c1 c2)
  exact (List.mem_append.mp hq).elim (l1 q) (l2 q)

theorem issueCause_operand {s : State} {g : Group} {t : Team} {os : List Opnd} {d : Dest} (h : canRead g os d) {o : Opnd} (ho : o ∈ os) :
    issueCause s g t o.needs = none :=
  issueCause_none rfl rfl (h.1 o ho) (h.2.1 o ho) (Nat.zero_le _) (Nat.zero_le _) (Nat.zero_le _)

theorem issueCause_dest {s : State} {g : Group} {t : Team} {os : List Opnd} {d : Dest} (h : canRead g os d) : issueCause s g t d.needs = none :=
  issueCause_none rfl rfl (by simp [Dest.needs]) h.2.2 (Nat.zero_le _) (Nat.zero_le _) (Nat.zero_le _)

theorem issueCause_vtop {s : State} {g : Group} {t : Team} {n : Nat} (h : n ≤ g.vcount) : issueCause s g t { vtop := n } = none :=
  issueCause_none rfl rfl (by simp) h (Nat.zero_le _) (Nat.zero_le _) (Nat.zero_le _)

theorem issueCause_nothing {s : State} {g : Group} {t : Team} : issueCause s g t {} = none := issueCause_vtop (n := 0) (Nat.zero_le _)

/-! ### Accesses that fail before translation -/

/-- The accesses of the lanes of a set. -/
def lanesAcc (cl : Mask) (acc : Nat → LaneAcc) : List (Nat × LaneAcc) := (lanesOf cl).map (fun l => (l, acc l))

@[simp] theorem accFailures_bad (l : Nat) (x : Cause) (a : W64) (as : List (Nat × LaneAcc)) :
    accFailures ((l, .bad x a) :: as) = (l, x, 0#64, a) :: accFailures as := rfl
@[simp] theorem accFailures_good (l : Nat) (ps : List (Nat × Nat)) (as : List (Nat × LaneAcc)) :
    accFailures ((l, .ok ps) :: as) = accFailures as := rfl

/-- The failure that the lanes of a list raise. -/
def raised (x : Cause) (addr : Nat → W64) (ls : List Nat) : List (Nat × Cause × W64 × W64) := ls.map (fun l => (l, x, 0#64, addr l))

section
variable {acc : Nat → LaneAcc} {x : Cause} {addr : Nat → W64} {p : Nat → Bool} {ls : List Nat}
  (hbad : ∀ l ∈ ls, p l = true → acc l = .bad x (addr l))
  (hless : ∀ l ∈ ls, p l = false → ∀ y a, acc l = .bad y a → x.code < y.code)
include hbad hless

/-- Of the failures of some lanes, those of the lowest code. -/
theorem accFailures_lowest : (accFailures (ls.map (fun l => (l, acc l)))).filter (fun f => f.2.1.code == x.code) = raised x addr (ls.filter p) := by
  induction ls with
  | nil => rfl
  | cons l ls ih =>
    have rest := ih (fun k hk => hbad k (by simp [hk])) fun k hk => hless k (by simp [hk])
    rw [List.map_cons]
    cases hp : p l with
    | true => simp [hbad l (by simp) hp, hp, rest, raised]
    | false =>
      cases ha : acc l with
      | ok ps => simp [hp, rest]
      | bad y a => simp [hp, rest, Nat.ne_of_gt (hless l (by simp) hp y a ha)]

theorem code_le_of_mem_accFailures {f : Nat × Cause × W64 × W64} (hf : f ∈ accFailures (ls.map (fun l => (l, acc l)))) : x.code ≤ f.2.1.code := by
  simp only [accFailures, List.mem_filterMap, List.mem_map] at hf
  obtain ⟨q, ⟨l, hl, rfl⟩, hq⟩ := hf
  dsimp only at hq
  cases hp : p l with
  | true =>
    rw [hbad l hl hp] at hq
    cases hq
    exact le_rfl
  | false =>
    cases ha : acc l with
    | ok ps => rw [ha] at hq; cases hq
    | bad y a =>
      rw [ha] at hq
      cases hq
      exact Nat.le_of_lt (hless l hl hp _ _ ha)

end

/-- The first lane of a set that satisfies a test. -/
theorem filter_lanesOf_eq_cons {cl : Mask} {p : Nat → Bool} {l : Nat} (hl : has cl l = true) (hp : p l = true)
    (hfirst : ∀ j, j < l → has cl j = true → p j = false) : ∃ ls, (lanesOf cl).filter p = l :: ls := by
  have hmem : l ∈ (lanesOf cl).filter p := List.mem_filter.mpr ⟨(mem_lanesOf cl l).mpr hl, hp⟩
  have hsorted : ((lanesOf cl).filter p).Pairwise (· < ·) := (List.pairwise_lt_range.filter _).filter _
  match he : (lanesOf cl).filter p with
  | [] => rw [he] at hmem; cases hmem
  | k :: ls =>
    rw [he] at hmem hsorted
    obtain ⟨hk, hpk⟩ := List.mem_filter.mp (he ▸ List.mem_cons_self : k ∈ (lanesOf cl).filter p)
    rcases List.mem_cons.mp hmem with rfl | hin
    · exact ⟨ls, rfl⟩
    · have hlt := (List.pairwise_cons.mp hsorted).1 l hin
      rw [hfirst k hlt ((mem_lanesOf cl k).mp hk)] at hpk
      cases hpk

theorem maskOf_filter_lanesOf (cl : Mask) (p : Nat → Bool) : maskOf ((lanesOf cl).filter p) = maskBy (fun l => has cl l && p l) := by
  simp [maskBy, lanesOf, List.filter_filter, Bool.and_comm]

/-- Lanes that fail with a cause of the lowest code take it together, with the address of the lowest of them (R81, R359). -/
theorem trapLowest_accFailures {acc : Nat → LaneAcc} {x : Cause} {addr : Nat → W64} {p : Nat → Bool} {cl : Mask}
    (hbad : ∀ l, has cl l = true → p l = true → acc l = .bad x (addr l))
    (hless : ∀ l, has cl l = true → p l = false → ∀ y a, acc l = .bad y a → x.code < y.code) {l : Nat} (hl : has cl l = true) (hp : p l = true)
    (hfirst : ∀ j, j < l → has cl j = true → p j = false) (s : State) (c : Ctx) :
    accFailures (lanesAcc cl acc) ≠ [] ∧
      trapLowest s c (accFailures (lanesAcc cl acc)) = takeTrap s c.gid x (maskBy (fun j => has cl j && p j)) c.pc (addr l) 0#64 := by
  have hbad' : ∀ l ∈ lanesOf cl, p l = true → acc l = .bad x (addr l) := fun k hk => hbad k ((mem_lanesOf cl k).mp hk)
  have hless' : ∀ l ∈ lanesOf cl, p l = false → ∀ y a, acc l = .bad y a → x.code < y.code := fun k hk => hless k ((mem_lanesOf cl k).mp hk)
  obtain ⟨ls, hls⟩ := filter_lanesOf_eq_cons hl hp hfirst
  have those := accFailures_lowest hbad' hless'
  rw [hls] at those
  have hmem : (l, x, 0#64, addr l) ∈ accFailures (lanesAcc cl acc) :=
    (List.mem_filter.mp (by unfold lanesAcc; rw [those]; simp [raised] : _ ∈ (accFailures (lanesAcc cl acc)).filter (fun f => f.2.1.code == x.code))).1
  have hmin : ((accFailures (lanesAcc cl acc)).map (fun f => f.2.1.code)).min? = some x.code :=
    List.min?_eq_some_iff.mpr ⟨List.mem_map.mpr ⟨_, hmem, rfl⟩, fun n hn => by
      obtain ⟨f, hf, rfl⟩ := List.mem_map.mp hn
      exact code_le_of_mem_accFailures hbad' hless' hf⟩
  refine ⟨List.ne_nil_of_mem hmem, ?_⟩
  unfold trapLowest
  rw [hmin]
  simp only [lanesAcc, those, raised, List.map_cons, List.map_map]
  have lanes : (fun f : Nat × Cause × W64 × W64 => f.1) ∘ (fun l => (l, x, 0#64, addr l)) = id := rfl
  simp only [lanes, List.map_id, ← hls, maskOf_filter_lanesOf]

/-- Accesses that all succeed have no failure. -/
theorem accFailures_ok {as : List (Nat × LaneAcc)} (h : Reading.allOk as) : accFailures as = [] :=
  List.filterMap_eq_nil_iff.mpr fun p hp => by
    obtain ⟨ps, hps⟩ := h p hp
    rw [hps]

/-! ### The accesses of the two spaces (R155, R156, R159) -/

/-- A global access is good where its address is aligned and of the address space. -/
theorem globalAcc_bad {ea : W64} {n : Nat} (h : ¬ (ea.toNat % n = 0 ∧ ea.toNat < 2 ^ 56)) : globalAcc ea n = .bad .address ea :=
  if_pos (by
    simp only [ge_iff_le, Bool.or_eq_true, decide_eq_true_eq]
    omega)

theorem globalAcc_ok {ea : W64} {n : Nat} (h : ea.toNat % n = 0 ∧ ea.toNat < 2 ^ 56) : globalAcc ea n = .ok [(ea.toNat, n)] :=
  if_neg (by
    simp only [ge_iff_le, Bool.or_eq_true, decide_eq_true_eq]
    omega)

theorem scratchAcc_misaligned {o : Int} {n : Nat} (t : Team) (h : ¬ o % n = 0) : scratchAcc t o n n = .bad .address (addrOfInt o) := if_pos h

theorem scratchAcc_outside {o : Int} {n : Nat} {t : Team} (ha : o % n = 0) (h : ¬ (0 ≤ o ∧ o + n ≤ t.scratch)) :
    scratchAcc t o n n = .bad .scratchBounds (addrOfInt o) := by
  have out : (decide (o < 0) || decide (o + n > t.scratch)) = true := by
    simp only [Bool.or_eq_true, decide_eq_true_eq]
    omega
  rw [scratchAcc, if_neg (by simp [ha]), if_pos out]

theorem scratchAcc_inside {o : Int} {n : Nat} {t : Team} (ha : o % n = 0) (h : 0 ≤ o ∧ o + n ≤ t.scratch) :
    scratchAcc t o n n = .ok [(o.toNat, n)] := by
  have inside : ¬ (decide (o < 0) || decide (o + n > t.scratch)) = true := by
    simp only [Bool.or_eq_true, decide_eq_true_eq]
    omega
  rw [scratchAcc, if_neg (by simp [ha]), if_neg inside]

/-- An aligned access of the slot fails with SCRATCH_BOUNDS alone. -/
theorem scratchAcc_aligned {o : Int} {n : Nat} {t : Team} (ha : o % n = 0) {y : Cause} {a : W64} (h : scratchAcc t o n n = .bad y a) :
    y = .scratchBounds := by
  by_cases hin : 0 ≤ o ∧ o + n ≤ t.scratch
  · rw [scratchAcc_inside ha hin] at h
    cases h
  · rw [scratchAcc_outside ha hin] at h
    cases h
    rfl

end Sys2Proof.Proofs.Access

namespace Sys2Proof.Proofs.BadAddresses

/-! Loads and stores whose addresses are bad (O21): every failing lane has its own failure, and the lowest code is taken (`access_fails`). -/

open Sys2Proof Sys2Proof.Machine Sys2Proof.Laws Sys2Proof.Proofs.Facts Sys2Proof.Proofs.Issuing Sys2Proof.Proofs.CausesAtIssue
open Sys2Proof.Proofs.Access

/-- A single execution answers for every lane of CL, and where the lanes agree so does each for itself (R81). -/
theorem spread_addrLanes {once : Bool} {acc : Nat → LaneAcc} (h : once = true → ∀ j k, acc j = acc k) (cl : Mask) :
    spread once cl ((addrLanes once cl).map (fun l => (l, acc l))) = lanesAcc cl acc := by
  cases once with
  | false => rfl
  | true =>
    simp only [spread, addrLanes, lanesAcc, if_true]
    cases lanesOf cl with
    | nil => rfl
    | cons k ls => exact List.map_congr_left fun l _ => congrArg (Prod.mk l) (h rfl k l)

/-- The access of a lane of a load or store. -/
def wordAcc (f : SForm) (g : Group) (t : Team) (l : Nat) : LaneAcc :=
  laneAcc g t (memSpc f) l ((Reading.addrOp f (memSpc f)).read g l) (offOf f) (szBytes f)

/-- A load with a uniform destination has a uniform address (R54, R176). -/
theorem addrOp_read_uniform {f : SForm} {acq : Bool} (hw : loadOk f acq = true) (hu : ud f = true) (spc : Nat) (g : Group) (j k : Nat) :
    (Reading.addrOp f spc).read g j = (Reading.addrOp f spc).read g k := by
  simp only [loadOk, addrOk, useOk, Bool.and_eq_true, Bool.or_eq_true, Bool.not_eq_true', hu, Bool.true_eq_false, false_or] at hw
  obtain ⟨⟨⟨⟨⟨-, hua⟩, -⟩, -⟩, hlq, -⟩, -⟩ := hw
  rw [hua, Bool.true_and] at hlq
  simp only [Reading.addrOp, opnd, hua, hlq, if_true, Bool.false_eq_true, if_false]
  rfl

theorem wordAcc_uniform {f : SForm} {acq : Bool} (hw : loadOk f acq = true) (hspc : memSpc f ≤ 1) (g : Group) (t : Team) (hu : ud f = true) (j k : Nat) :
    wordAcc f g t j = wordAcc f g t k := by
  unfold wordAcc
  rw [addrOp_read_uniform hw hu (memSpc f) g j k]
  obtain h | h : memSpc f = 0 ∨ memSpc f = 1 := by omega
  all_goals rw [h]; rfl

theorem failed {α : Type} {l : List α} (h : l ≠ []) : (!l.isEmpty) = true := by simpa using h

section
variable {s : State} {c : Ctx} {g : Group} {t : Team} {f : SForm} (h : Issuing s c g t) (hq : Undisturbed s g)
  (hr : canRead g [Reading.addrOp f (memSpc f)] .none) (hv : ud f = false → f.d.toNat + max 1 (szBytes f / 4) ≤ g.vcount)
  (hcl : clOf g c f.pg f.pn ≠ 0#32) (hfs : accFailures (lanesAcc (clOf g c f.pg f.pn) (wordAcc f g t)) ≠ [])
include h hq hr hv hcl hfs

theorem loadWord_fails {acq : Bool} (hw : loadOk f acq = true) (hspc : memSpc f ≤ 1) (scope : Option Nat) :
    loadWord f scope (memSpc f) (szBytes f) s =
      trapLowest { s with cur := .idle } c (accFailures (lanesAcc (clOf g c f.pg f.pn) (wordAcc f g t))) := by
  have meets : issueCause { s with cur := .idle } g t ((Reading.addrOp f (memSpc f)).needs.and
      { vtop := if ud f then 0 else (if ud f then uni f f.d else f.d.toNat) + regsOf (szBytes f) }) = none :=
    issueCause_and (issueCause_operand hr (by simp)) (issueCause_vtop (by
      cases hu : ud f
      · simpa [regsOf] using hv hu
      · simp))
  have hfs' : accFailures (spread (ud f) (clOf g c f.pg f.pn) ((addrLanes (ud f) (clOf g c f.pg f.pn)).map (fun l => (l, wordAcc f g t l)))) =
      accFailures (lanesAcc (clOf g c f.pg f.pn) (wordAcc f g t)) := by
    rw [spread_addrLanes (wordAcc_uniform hw hspc g t)]
  unfold Reading.addrOp at meets
  unfold loadWord
  rw [issueWord_issuing h hq.noError meets]
  refine (if_neg hcl).trans ?_
  refine (if_pos (failed (hfs'.symm ▸ hfs))).trans ?_
  exact congrArg (trapLowest _ c) hfs'

theorem storeWord_fails (scope : Option Nat) :
    storeWord f scope s = trapLowest { s with cur := .idle } c (accFailures (lanesAcc (clOf g c f.pg f.pn) (wordAcc f g t))) := by
  have meets : issueCause { s with cur := .idle } g t ((Reading.addrOp f (memSpc f)).needs.and
      { vtop := if ud f then 0 else f.d.toNat + regsOf (szBytes f) }) = none :=
    issueCause_and (issueCause_operand hr (by simp)) (issueCause_vtop (by
      cases hu : ud f
      · simpa [regsOf] using hv hu
      · simp))
  unfold Reading.addrOp at meets
  unfold storeWord
  rw [issueWord_issuing h hq.noError meets]
  refine (if_neg hcl).trans ?_
  exact if_pos (failed hfs)

/-- A load or store whose accesses fail takes the lowest cause among its lanes. -/
theorem access_fails {i : Instr} (hi : i = .ld f ∨ i = .lda f ∨ i = .st f ∨ i = .strel f) (hw : i.wellFormed = true) (hspc : memSpc f ≤ 1) :
    exec i s = .next (trapLowest { s with cur := .idle } c (accFailures (lanesAcc (clOf g c f.pg f.pn) (wordAcc f g t)))) := by
  rcases hi with rfl | rfl | rfl | rfl
  · exact congrArg Host.Outcome.next (loadWord_fails h hq hr hv hcl hfs (acq := false) hw hspc none)
  · exact congrArg Host.Outcome.next (loadWord_fails h hq hr hv hcl hfs (acq := true) hw hspc (some (memScope f)))
  · exact congrArg Host.Outcome.next (storeWord_fails h hq hr hv hcl hfs none)
  · exact congrArg Host.Outcome.next (storeWord_fails h hq hr hv hcl hfs (some (memScope f)))

end

theorem not_decide_eq_true {P : Prop} [Decidable P] : (!decide P) = true ↔ ¬ P := by simp
theorem not_decide_eq_false {P : Prop} [Decidable P] : (!decide P) = false ↔ P := by simp

theorem wordAcc_global {f : SForm} (h0 : memSpc f = 0) (g : Group) (t : Team) (l : Nat) :
    wordAcc f g t l = globalAcc (BitVec.ofInt 64 ((Reading.addrOp f 0).read g l + offOf f)) (szBytes f) := by
  rw [wordAcc, h0]
  rfl

theorem wordAcc_scratch {f : SForm} (h1 : memSpc f = 1) (g : Group) (t : Team) (l : Nat) :
    wordAcc f g t l = scratchAcc t (((Reading.addrOp f 1).read g l % 2 ^ 32 : Nat) + offOf f) (szBytes f) (szBytes f) := by
  rw [wordAcc, h1]
  push_cast
  rfl

/-- Settles O21: in each case the lanes that fail with the lower code are those that the statement names. -/
theorem badAddressesTrap : Obligations.BadAddressesTrap := by
  intro s c g t f i h hq htrap hi hw n cl ea o hr hv
  /- A cause that some lanes raise, the others none of so low a code. -/
  have takes {x : Cause} {addr : Nat → W64} {p : Nat → Bool} (hspc : memSpc f ≤ 1)
      (hbad : ∀ j, has cl j = true → p j = true → wordAcc f g t j = .bad x (addr j))
      (hless : ∀ j, has cl j = true → p j = false → ∀ y a, wordAcc f g t j = .bad y a → x.code < y.code)
      {l : Nat} (hl : has cl l = true) (hp : p l = true) (hfirst : ∀ j, j < l → has cl j = true → p j = false) :
      traps i s c g x (maskBy (fun j => has cl j && p j)) (addr l) 0#64 := by
    obtain ⟨hne, htakes⟩ := trapLowest_accFailures hbad hless hl hp hfirst { s with cur := .idle } c
    refine ⟨_, (access_fails h hq hr hv (ne_zero_of_has hl) hne hi hw hspc).trans (congrArg _ (htakes.trans (takeTrap_issuing h htrap ..))), ?_⟩
    exact trapped_enters ..
  refine ⟨fun h0 l hl hfirst hbad => ?_, fun h1 l hl hfirst hbad => ?_, fun h1 l hl halign hfirst hbad => ?_⟩
  · refine takes (addr := ea) (p := fun j => !decide ((ea j).toNat % n = 0 ∧ (ea j).toNat < 2 ^ 56)) (by omega) (fun j _ hj => ?_)
      (fun j _ hj y a hy => ?_) hl (not_decide_eq_true.mpr hbad) (fun j hj hjl => not_decide_eq_false.mpr (hfirst j hj hjl))
    · rw [wordAcc_global h0, globalAcc_bad (not_decide_eq_true.mp hj)]
    · rw [wordAcc_global h0, globalAcc_ok (not_decide_eq_false.mp hj)] at hy
      cases hy
  · refine takes (addr := fun j => BitVec.ofInt 64 (o j)) (p := fun j => !decide (o j % n = 0)) (by omega) (fun j _ hj => ?_)
      (fun j _ hj y a hy => ?_) hl (not_decide_eq_true.mpr hbad) (fun j hj hjl => not_decide_eq_false.mpr (hfirst j hj hjl))
    · rw [wordAcc_scratch h1, scratchAcc_misaligned t (not_decide_eq_true.mp hj)]
      rfl
    · rw [wordAcc_scratch h1] at hy
      rw [scratchAcc_aligned (not_decide_eq_false.mp hj) hy]
      decide
  · refine takes (addr := fun j => BitVec.ofInt 64 (o j)) (p := fun j => !decide (0 ≤ o j ∧ o j + n ≤ t.scratch)) (by omega) (fun j hjl hj => ?_)
      (fun j hjl hj y a hy => ?_) hl (not_decide_eq_true.mpr hbad) (fun j hj hjl => not_decide_eq_false.mpr (hfirst j hj hjl))
    · rw [wordAcc_scratch h1, scratchAcc_outside (halign j hjl) (not_decide_eq_true.mp hj)]
      rfl
    · rw [wordAcc_scratch h1, scratchAcc_inside (halign j hjl) (not_decide_eq_false.mp hj)] at hy
      cases hy

end Sys2Proof.Proofs.BadAddresses

namespace Sys2Proof.Proofs.MatrixWords

/-! The words that declare, sign and wait for a matrix operation (O28). Each ends as a word with no register result; MMA and MSG put their
convergence register in place before it. -/

open Sys2Proof Sys2Proof.Machine Sys2Proof.Laws Sys2Proof.Proofs.Facts Sys2Proof.Proofs.Barriers Sys2Proof.Proofs.SystemRegisters
open Sys2Proof.Proofs.Access

/-- A word that names a convergence register that its world has. -/
theorem issueCause_conv {s : State} {g : Group} {t : Team} {n : Nat} (h : n < cvCount s g.core t.world) :
    issueCause { s with cur := .idle } g t { cvtop := n + 1 } = none :=
  issueCause_none rfl rfl (by simp) (Nat.zero_le _) (Nat.zero_le _) (Nat.zero_le _) h

/-- A state with a convergence register put in place. -/
def putConv (s : State) (key : Nat) (v : Conv) : State := { s with convs := mput s.convs key v }

theorem convAt_putConv (s : State) (key k : Nat) (v : Conv) : convAt (putConv s key v) k = if k = key then v else convAt s k := by
  simp [convAt, putConv]

/-! ### MOFN and MWT (R206, R247) -/

theorem matrixStoresAreCovered : Says.MatrixStoresAreCovered := fun _ _ _ _ _ h hq =>
  congrArg Host.Outcome.next ((issueWord_issuing h hq.noError issueCause_nothing).trans (endWord_plain hq rfl rfl rfl rfl))

/-- Where no window is open none closes. -/
theorem closeWindows_closed {g : Group} (h : g.windows = []) (key : Nat) (m : Mask) : closeWindows g key m = g := by
  simp [closeWindows, h]
  rw [← h]

section
variable {s : State} {c : Ctx} {g : Group} {t : Team} {f : SForm} (h : Issuing s c g t) (hq : Undisturbed s g) (hcl : clOf g c f.pg f.pn ≠ 0#32)
  (hcv : f.d.toNat < cvCount s g.core t.world) (hdiv : g.diverged (cvKey g.core t.world f.d.toNat) &&& clOf g c f.pg f.pn = 0#32)
include h hq hcl hcv hdiv

theorem execMwt_idle (hidle : (convAt s (cvKey g.core t.world f.d.toNat)).st = .idle ∨ (convAt s (cvKey g.core t.world f.d.toNat)).team ≠ g.team) :
    execMwt f s = .next (endWord { s with cur := .idle } c g false []) := by
  have idle : (decide ((convAt s (cvKey g.core t.world f.d.toNat)).st = .idle) || decide ((convAt s (cvKey g.core t.world f.d.toNat)).team ≠ g.team)) = true := by
    simpa using hidle
  refine congrArg Host.Outcome.next ((issueWord_issuing h hq.noError (issueCause_conv hcv)).trans ?_)
  refine (if_neg hcl).trans ((if_neg (not_not.mpr hdiv)).trans ((if_pos idle).trans ?_))
  rw [closeWindows_closed hq.noWindow]

theorem execMwt_waits (hst : (convAt s (cvKey g.core t.world f.d.toNat)).st ≠ .idle) (hteam : (convAt s (cvKey g.core t.world f.d.toNat)).team = g.team) :
    execMwt f s = .next (endWord { s with cur := .idle } c
      (block g (clOf g c f.pg f.pn) (.conv (cvKey g.core t.world f.d.toNat) (convAt s (cvKey g.core t.world f.d.toNat)).phase false)) false []) := by
  have busy : ¬ (decide ((convAt s (cvKey g.core t.world f.d.toNat)).st = .idle) || decide ((convAt s (cvKey g.core t.world f.d.toNat)).team ≠ g.team)) = true := by
    simp [hst, hteam]
  refine congrArg Host.Outcome.next ((issueWord_issuing h hq.noError (issueCause_conv hcv)).trans ?_)
  exact (if_neg hcl).trans ((if_neg (not_not.mpr hdiv)).trans (if_neg busy))

end

theorem matrixIsIdle : Says.MatrixIsIdle := fun _ _ _ _ _ h hq hcl hcv hdiv hidle =>
  (execMwt_idle h hq hcl hcv hdiv hidle).trans (congrArg Host.Outcome.next (endWord_plain hq rfl rfl rfl rfl))

theorem matrixIsWaitedFor : Says.MatrixIsWaitedFor := by
  intro s c g t f h hq hcl key v hcv hdiv hst hteam
  have ends := endWord_finished (s := s) (c := c) (g := block g (clOf g c f.pg f.pn) (.conv key v.phase false)) hq.ownLatches hq.noImage
  exact ⟨_, (execMwt_waits h hq hcl hcv hdiv hst hteam).trans (congrArg Host.Outcome.next ends), finished_block (fun _ => clOf_issue) _,
    finished_latches _ _, rfl, rfl⟩

/-! ### MMA (R243) -/

/-- A window opens, and nothing else of its group changes. -/
theorem openWindow_rest (g : Group) (w : Window) (m : Mask) (lead : Bool) : openWindow g w m lead = { g with windows := (openWindow g w m lead).windows } := by
  unfold openWindow
  split <;> rfl

/-- The end of a word that has put a convergence register in place and opened a window of its group. -/
theorem endWord_window {s : State} {c : Ctx} {g : Group} (hq : Undisturbed s g) (key : Nat) (v : Conv) (w : Window) (m : Mask) (lead : Bool) :
    ∃ g', endWord (putConv { s with cur := .idle } key v) c (openWindow g w m lead) false [] =
        putGroup (putConv { s with cur := .idle } key v) c.gid g' ∧
      advanced c g g' ∧ plainLatches g g' ∧ g' = { g with windows := g'.windows, lanes := g'.lanes, latches := g'.latches, latchId := g'.latchId
                                                          susp := [], resume := none } := by
  have hrest := openWindow_rest g w m lead
  have hown : (openWindow g w m lead).latchLost = false := by rw [hrest]; exact hq.ownLatches
  refine ⟨finished c (openWindow g w m lead), endWord_put (s := putConv { s with cur := .idle } key v) hown hq.noImage .., ?_, ?_, ?_⟩
  · rw [hrest]; exact finished_advanced c _
  · rw [hrest]; exact finished_latches c _
  · rw [hrest]; rfl

theorem matrixDeclares : Says.MatrixDeclares := by
  intro s c g t f h hq hcl key v hcv hvreg hacc hcause
  have meets : issueCause { s with cur := .idle } g t { vtop := f.c.toNat + 1, atop := f.b.toNat + 1, cvtop := f.d.toNat + 1 } = none :=
    issueCause_none rfl rfl (by simp) hvreg (Nat.zero_le _) hacc hcv
  let v' := { declared f g t v with bEnd := if (declared f g t v).bsrc then (declared f g t v).spEnd t else 0 }
  obtain ⟨g', hend, hadv, hlatch, hrest⟩ := endWord_window (c := c) hq key v' (windowOf { s with cur := .idle } key v' t) 0#32 true
  have hexec : execMma f s = .next (putGroup (putConv { s with cur := .idle } key v') c.gid g') := by
    have none_raised : declareCause { s with cur := .idle } g t (convAt { s with cur := .idle } key)
      (declared f g t (convAt { s with cur := .idle } key)) = none := hcause
    rw [← hend]
    refine congrArg Host.Outcome.next ((issueWord_issuing h hq.noError meets).trans ((if_neg hcl).trans ?_))
    dsimp only
    rw [none_raised]
    rfl
  refine ⟨_, g', hexec, rfl, hadv, hlatch, ?_, ?_, ?_, ?_, ?_, fun k hk => ?_, v'.bEnd, ?_⟩
  iterate 5 rw [hrest]
  · exact (convAt_putConv s key k v').trans (if_neg hk)
  · exact (convAt_putConv s key key v').trans (if_pos rfl)

/-! ### MSG (R244) -/

theorem convAt_cur (s : State) (key : Nat) (x : Cur) : convAt { s with cur := x } key = convAt s key := rfl

/-- A register that the start of operations has left ARMED or made BUSY. -/
def underWay (v v' : Conv) : Prop := (v'.st = .armed ∨ v'.st = .busy) ∧ v'.signed = v.signed ∧ v'.phase = v.phase

/-- The start of an operation changes registers alone, and of a register under way its state. -/
theorem startConv_underWay {s : State} {key : Nat} {v : Conv} (h : underWay v (convAt s key)) (k : Nat) :
    underWay v (convAt (startConv s k) key) ∧ (startConv s k).groups = s.groups := by
  unfold startConv
  dsimp only
  split
  · exact ⟨h, rfl⟩
  · split
    · refine ⟨?_, rfl⟩
      rw [← putConv, convAt_putConv]
      split
      · next hk =>
        rw [← hk]
        exact ⟨.inr rfl, h.2⟩
      · exact h
    · exact ⟨h, rfl⟩

theorem startTiled_underWay {s : State} {key : Nat} {v : Conv} (h : underWay v (convAt s key)) :
    underWay v (convAt (startTiled s) key) ∧ (startTiled s).groups = s.groups :=
  foldl_keeps (P := fun u => underWay v (convAt u key) ∧ u.groups = s.groups)
    (fun _ p hu => ⟨(startConv_underWay hu.1 p.1).1, (startConv_underWay hu.1 p.1).2.trans hu.2⟩) _ ⟨h, rfl⟩

/-- Arming makes the register ARMED or BUSY, and changes no group. -/
theorem arm_underWay (s : State) (key : Nat) (t : Team) (v : Conv) : underWay v (convAt (arm s key t v) key) ∧ (arm s key t v).groups = s.groups := by
  refine startTiled_underWay (s := putConv { s with fresh := s.fresh + 1 } key _) ?_
  rw [convAt_putConv, if_pos rfl]
  exact ⟨.inl rfl, rfl, rfl⟩

theorem matrixSigns : Says.MatrixSigns := by
  intro s c g t f m h hq cl key v hcl hcv hst hteam hbudget hmember hlanes hunsigned v' all
  obtain ⟨g', hend, hadv, hlatch, -⟩ := endWord_window (c := c) hq key v' (windowOf { s with cur := .idle } key v t) cl false
  have hexec : execMsg f s = .next (if all then arm (putGroup (putConv { s with cur := .idle } key v') c.gid g') key t v'
      else putGroup (putConv { s with cur := .idle } key v') c.gid g') := by
    have within : overBudget g t (convAt s (cvKey g.core t.world f.d.toNat)) = false := hbudget
    have member : (if (v.st == .opened && v.team == g.team) = true then v.member g.num else none) = some m := by simp [hst, hteam, hmember]
    have fresh : clOf g c f.pg f.pn &&& ~~~(convAt s (cvKey g.core t.world f.d.toNat)).lmask = 0#32 ∧
        clOf g c f.pg f.pn &&& (convAt s (cvKey g.core t.world f.d.toNat)).signedOf m = 0#32 := ⟨hlanes, hunsigned⟩
    rw [← hend]
    refine congrArg Host.Outcome.next ((issueWord_issuing h hq.noError (issueCause_conv hcv)).trans ((if_neg hcl).trans ?_))
    refine (if_neg (by simp [convAt_cur, within])).trans ?_
    dsimp only
    split
    · next hnone => cases hnone.symm.trans member
    · next m' hsome =>
      cases hsome.symm.trans member
      exact if_neg (by simp [convAt_cur, fresh])
  have hgroup : mget (putGroup (putConv { s with cur := .idle } key v') c.gid g').groups c.gid = some g' := (putGroup_get ..).trans (if_pos rfl)
  have hconv : convAt (putGroup (putConv { s with cur := .idle } key v') c.gid g') key = v' := (convAt_putConv s key key v').trans (if_pos rfl)
  obtain ⟨⟨hstate, hsigned, hphase⟩, hgroups⟩ := arm_underWay (putGroup (putConv { s with cur := .idle } key v') c.gid g') key t v'
  cases hall : all <;> rw [hall] at hexec
  · exact ⟨_, hexec, ⟨g', hgroup, hadv, hlatch.2⟩, fun _ => hconv, nofun, (congrArg Conv.phase hconv :)⟩
  · exact ⟨_, hexec, ⟨g', (congrArg (mget · c.gid) hgroups).trans hgroup, hadv, hlatch.2⟩, nofun, fun _ => ⟨hstate, hsigned⟩, hphase⟩

/-- Settles O28, word by word. -/
theorem matrixDeclareSignWait : Obligations.MatrixDeclareSignWait :=
  ⟨matrixDeclares, matrixSigns, matrixStoresAreCovered, matrixIsIdle, matrixIsWaitedFor⟩

end Sys2Proof.Proofs.MatrixWords

namespace Sys2Proof.Proofs.Paging

/-! The pages of a word that are all mapped: the word goes on with their physical addresses, and translating has changed caches alone. -/

open Sys2Proof Sys2Proof.Machine Sys2Proof.Laws Sys2Proof.Proofs.Facts Sys2Proof.Proofs.Issuing

/-- Every page of a list is mapped. -/
def mappedAll (ns : List PageNeed) : Prop := ∀ n ∈ ns, ∃ fr sz at_, n.st = .mapped fr sz at_

theorem pageState_cachesOnly (s : State) (g : Group) (t : Team) (page kind : Nat) : cachesOnly s (pageState s g t page kind).1 := by
  unfold pageState
  have looks := lookupTrans_cachesOnly s g.core t.part t.space (4096 * page) kind
  split
  · rfl
  · split <;> next h => rw [h] at looks; exact looks

theorem pageStates_cachesOnly (s : State) (g : Group) (t : Team) (kind : Nat) (vas : List Nat) : cachesOnly s (pageStates s g t kind vas).1 :=
  foldl_keeps (P := fun x : State × List PageNeed => cachesOnly s x.1) (fun _ _ hx => cachesOnly_trans hx (pageState_cachesOnly ..)) _ rfl

/-- A word whose pages are mapped goes on, unless something else has failed. -/
theorem withPages_mapped {s : State} {c : Ctx} {g : Group} {t : Team} {who : List (Nat × List Nat)} {kind : Nat}
    {k : State → Group → (Nat → Nat × Nat) → State} (hg : mget s.groups c.gid = some g) (ht : mget s.teams g.team = some t)
    (hm : mappedAll (pageStates s g t kind (who.flatMap (·.2))).2) :
    withPages s c who kind k = k (pageStates s g t kind (who.flatMap (·.2))).1 g (pagesMap (pageStates s g t kind (who.flatMap (·.2))).2) := by
  have nonePending : (pageStates s g t kind (who.flatMap (·.2))).2.any (fun n => n.st == .pending) = false := by
    simp only [List.any_eq_false, beq_iff_eq]
    intro n hn hst
    obtain ⟨_, _, _, h⟩ := hm n hn
    exact nomatch hst.symm.trans h
  have noneFailed : (pageStates s g t kind (who.flatMap (·.2))).2.any (fun n => n.failure.isSome) = false := by
    simp only [List.any_eq_false]
    intro n hn hst
    obtain ⟨_, _, _, h⟩ := hm n hn
    simp [PageNeed.failure, h] at hst
  simp only [withPages, withPagesOr, hg, ht, nonePending, noneFailed, List.isEmpty_nil, Bool.not_true, Bool.or_self, Bool.false_eq_true, if_false]

/-- The pages of lanes that each compute an address are those of their accesses. -/
theorem whoNeeds_lanes (cl : Mask) (as : List (Nat × LaneAcc)) : (whoNeeds false cl as).flatMap (·.2) = Reading.vasOf as := by
  simp [whoNeeds, spread, Reading.vasOf, List.flatMap_map]

end Sys2Proof.Proofs.Paging

namespace Sys2Proof.Proofs.Performed

/-! What the performance of a group's outstanding loads and atomics may change (R193, R194): memory and what goes with it, and of groups the
flights of that one. -/

open Sys2Proof Sys2Proof.Machine Sys2Proof.Laws Sys2Proof.Proofs.Facts Sys2Proof.Proofs.Seen Sys2Proof.Proofs.Barriers

/-! ### Accesses of memory -/

/-- What accesses to memory may change of the machine. -/
def accessOnly (s t : State) : Prop :=
  t = { s with mem := t.mem, forms := t.forms, upsets := t.upsets, poison := t.poison, writes := t.writes, cores := t.cores, dies := t.dies
               fresh := t.fresh, shipped := t.shipped, doors := t.doors }

theorem accessOnly_refl (s : State) : accessOnly s s := rfl

theorem accessOnly_trans {s t u : State} (h1 : accessOnly s t) (h2 : accessOnly t u) : accessOnly s u := by
  unfold accessOnly at *; rw [h2, h1]

theorem accessOnly_of_homeOnly {s t : State} (h : homeOnly s t) : accessOnly s t := by
  unfold accessOnly; unfold homeOnly at h; rw [h]

theorem accessOnly_writes (s : State) (n : Nat) (ws : List MWrite) : accessOnly s { s with fresh := n, writes := ws } := rfl
theorem accessOnly_shipped (s : State) (m : SMap Shipped) : accessOnly s { s with shipped := m } := rfl
theorem accessOnly_copies {s t : State} (h : accessOnly s t) (m : SMap Copy) : accessOnly { s with copies := m } { t with copies := m } := by
  unfold accessOnly at *; rw [h]
theorem l1Store_accessOnly (s : State) (core world pa : Nat) (bs : List Byte) : accessOnly s (l1Store s core world pa bs) := rfl
theorem toDoor_accessOnly (s : State) (x : DoorAccess) : accessOnly s (toDoor s x) := rfl

theorem homeWriteSkip_accessOnly (s : State) (core world pa : Nat) (bs : List Byte) (skip : List Nat) (after : Before) :
    accessOnly s (homeWriteSkip s core world pa bs skip after) := by
  unfold homeWriteSkip
  split
  · rfl
  · have placed : accessOnly s (dirtyOn ((s.writes.filter (fun w => !w.home && ((w.core == some core && w.overlaps pa bs.length) ||
        after.any (fun p => p.1 == w.id && beyondCore (some core) p.2)))).foldl (fun s w => drain s w.id) (requestLines s (some core) pa bs.length))
        (homeDie pa) pa) := accessOnly_of_homeOnly (homeOnly_trans (requestLines_homeOnly ..)
          (homeOnly_trans (foldl_homeOnly (fun t (w : MWrite) => drain_homeOnly t w.id) _ _) (dirtyOn_homeOnly ..)))
    dsimp only
    split
    · exact accessOnly_trans (accessOnly_trans placed (l1Store_accessOnly ..)) (accessOnly_writes ..)
    · exact accessOnly_trans (foldl_keeps (P := accessOnly s) (fun t p ht => accessOnly_trans ht (l1Store_accessOnly ..)) _ placed)
        (accessOnly_writes ..)

/-! ### Flights -/

/-- A group but for the loads and atomics that it has out. -/
def flightsChange (g g' : Group) : Prop := g' = { g with flights := g'.flights, acqVals := g'.acqVals }

/-- Of a machine, memory and the flights of one group have changed. -/
def performed (gid : Nat) (s t : State) : Prop :=
  accessOnly { s with groups := t.groups } t ∧
    (t.groups = s.groups ∨ ∃ g g', mget s.groups gid = some g ∧ flightsChange g g' ∧ t.groups = mput s.groups gid g')

theorem performed_of_accessOnly {gid : Nat} {s t : State} (h : accessOnly s t) : performed gid s t := by
  have hg : t.groups = s.groups := by rw [h]
  refine ⟨?_, .inl hg⟩
  rw [hg]; exact h

theorem performed_of_homeOnly {gid : Nat} {s t : State} (h : homeOnly s t) : performed gid s t := performed_of_accessOnly (accessOnly_of_homeOnly h)

theorem performed_refl (gid : Nat) (s : State) : performed gid s s := performed_of_accessOnly rfl

theorem performed_trans {gid : Nat} {s t u : State} (h1 : performed gid s t) (h2 : performed gid t u) : performed gid s u := by
  obtain ⟨e1, g1⟩ := h1
  obtain ⟨e2, g2⟩ := h2
  refine ⟨?_, ?_⟩
  · unfold accessOnly at *; rw [e2, e1]
  · rcases g2 with g2 | ⟨g', g'', hg', hf', e2⟩
    · rw [g2]; exact g1
    · rcases g1 with g1 | ⟨g, x, hg, hf, e1⟩
      · rw [g1] at hg' e2
        exact .inr ⟨g', g'', hg', hf', e2⟩
      · rw [e1] at hg' e2
        obtain rfl : x = g' := by simpa using hg'
        exact .inr ⟨g, g'', hg, by unfold flightsChange at *; rw [hf', hf], by rw [e2, mput_mput]⟩

theorem performed_foldl {gid : Nat} {β : Type} {f : State → β → State} (h : ∀ s b, performed gid s (f s b)) (l : List β) (s : State) :
    performed gid s (l.foldl f s) :=
  foldl_keeps (P := performed gid s) (fun t b ht => performed_trans ht (h t b)) l (performed_refl gid s)

theorem onGroup_performed {gid : Nat} {f : Group → Group} (hf : ∀ g, flightsChange g (f g)) (s : State) : performed gid s (onGroup s gid f) := by
  cases hg : mget s.groups gid with
  | none =>
    have : onGroup s gid f = s := by simp [onGroup, mupd, hg]
    rw [this]; exact performed_refl ..
  | some g =>
    rw [onGroup_some hg]
    exact ⟨rfl, .inr ⟨g, f g, hg, hf g, rfl⟩⟩

theorem onFlight_performed (s : State) (gid id : Nat) (f : Flight → Flight) : performed gid s (onFlight s gid id f) :=
  onGroup_performed (f := fun g => { g with flights := g.flights.map (fun x => if x.id = id then f x else x) }) (fun _ => rfl) s

theorem performLane_performed (s : State) (gid id l : Nat) : performed gid s (performLane s gid id l) := by
  unfold performLane
  split
  · exact performed_refl ..
  · split
    · exact performed_refl ..
    · next g x _ _ p _ =>
      have touched := performed_of_homeOnly (gid := gid) (foldl_homeOnly (fun t (q : Nat × Nat × Nat) =>
        touchL1_homeOnly t g.core x.world (x.lines.contains (q.2.1 / 128)) q.2.1 q.2.2) p.pieces s)
      dsimp only
      split <;> exact performed_trans touched (onFlight_performed ..)

theorem atomicLane_performed (s : State) (gid core : Nat) (x : Flight) (l : Nat) : performed gid s (atomicLane s gid core x l) := by
  unfold atomicLane
  split
  · exact performed_refl ..
  · split
    · exact performed_refl ..
    · next pa n _ =>
      have drained := performed_of_homeOnly (gid := gid) (foldl_homeOnly (fun t (w : MWrite) => drain_homeOnly t w.id)
        (s.writes.filter (fun w => !w.home && w.core == some core && w.overlaps pa n)) s)
      split
      · exact performed_trans (onFlight_performed ..) (performed_of_accessOnly (toDoor_accessOnly ..))
      · dsimp only
        split
        · exact performed_trans drained (onFlight_performed ..)
        · split
          · exact performed_trans (performed_trans drained (onFlight_performed ..)) (performed_of_accessOnly (homeWriteSkip_accessOnly ..))
          · exact performed_trans drained (onFlight_performed ..)

theorem atomicAt_performed (s : State) (gid id l : Nat) : performed gid s (atomicAt s gid id l) := by
  unfold atomicAt
  split
  · exact performed_refl ..
  · split
    · exact performed_refl ..
    · exact performed_trans (performed_of_homeOnly (seeLatest_homeOnly ..)) (atomicLane_performed ..)

theorem performAtomic_performed (s : State) (gid id : Nat) : performed gid s (performAtomic s gid id) := by
  unfold performAtomic
  split
  · exact performed_refl ..
  · next x _ =>
    split
    · exact performed_refl ..
    · have lanes := performed_foldl (fun t (p : LanePart) => atomicAt_performed t gid id p.lane) x.parts s
      refine performed_trans (performed_trans (performed_trans lanes (onFlight_performed ..)) (performed_of_accessOnly (accessOnly_shipped ..)))
        (onGroup_performed (fun g => ?_) _)
      split <;> rfl

theorem performUpTo_performed (s : State) (gid id last : Nat) : performed gid s (performUpTo s gid id last) := by
  unfold performUpTo
  split
  · exact performed_refl ..
  · exact performed_foldl (fun t (p : LanePart) => performLane_performed t gid id p.lane) _ s

theorem performFlight_performed (s : State) (gid id : Nat) : performed gid s (performFlight s gid id) := by
  unfold performFlight
  split
  · exact performed_refl ..
  · split
    · exact performed_trans (performUpTo_performed ..) (onFlight_performed ..)
    · exact performAtomic_performed ..

theorem performWhere_performed (s : State) (gid : Nat) (p : Flight → Bool) : performed gid s (performWhere s gid p) := by
  unfold performWhere
  split
  · exact performed_refl ..
  · exact performed_foldl (fun t (x : Flight) => performFlight_performed t gid x.id) _ s

theorem performOverlapping_performed (s : State) (gid : Nat) (ps : List (Nat × Nat × Nat)) : performed gid s (performOverlapping s gid ps) :=
  performWhere_performed ..

/-- With nothing out nothing is performed. -/
theorem performWhere_none {s : State} {gid : Nat} {g : Group} (hg : mget s.groups gid = some g) (h : g.flights = []) (p : Flight → Bool) :
    performWhere s gid p = s := by
  simp [performWhere, hg, h]

section
variable {gid : Nat} {s t : State} (h : performed gid s t)
include h

theorem performed.group {g : Group} (hg : mget s.groups gid = some g) : ∃ g', mget t.groups gid = some g' ∧ flightsChange g g' := by
  rcases h.2 with e | ⟨x, x', hx, hf, e⟩
  · exact ⟨g, by rw [e]; exact hg, rfl⟩
  · rw [hg] at hx
    cases hx
    exact ⟨x', by rw [e]; simp, hf⟩

/-- A property of groups that does not depend on flights holds of the same ones. -/
theorem performed.entries {P : Group → Prop} (hP : ∀ g g', flightsChange g g' → P g → P g') (hs : ∀ p ∈ s.groups, P p.2) : ∀ p ∈ t.groups, P p.2 := by
  intro p hp
  rcases h.2 with e | ⟨x, x', hx, hf, e⟩
  · exact hs p (e ▸ hp)
  · rw [e] at hp
    rcases mem_mput hp with rfl | hp
    · exact hP x x' hf (hs _ (mem_of_mget hx))
    · exact hs p hp

theorem performed.teams : t.teams = s.teams := by rw [h.1]
theorem performed.copies : t.copies = s.copies := by rw [h.1]
theorem performed.worlds : t.worlds = s.worlds := by rw [h.1]
theorem performed.spaces : t.spaces = s.spaces := by rw [h.1]

theorem performed.inDoor (pa : Nat) : inDoor t pa = inDoor s pa := by
  simp only [Machine.inDoor, ownerOf, h.worlds, h.spaces]

end

/-! ### Releases (R196) -/

/-- A source that is read now changes nothing of its copy but what is kept of it. -/
theorem takeSource_rest (c : Copy) (sec : Nat) (err : UnitRead × Nat) (bs : List Byte) :
    takeSource c sec err bs = { c with got := (takeSource c sec err bs).got, failed := (takeSource c sec err bs).failed } := by
  unfold takeSource
  split
  · rfl
  · split <;> rfl

theorem captured_rest (s : State) (gid : Nat) (g : Group) (t : Team) (cl : Mask) (c : Copy) :
    captured s gid g t cl c = { c with got := (captured s gid g t cl c).got, failed := (captured s gid g t cl c).failed } := by
  unfold captured
  split
  · split
    · exact takeSource_rest ..
    · rfl
  · next sectors _ =>
    split
    · rfl
    · refine foldl_keeps (P := fun x : Copy => x = { c with got := x.got, failed := x.failed }) (fun x q hx => ?_) sectors (x := c) rfl
      have taken (err : UnitRead × Nat) (bs : List Byte) : takeSource x q.1 err bs =
          { c with got := (takeSource x q.1 err bs).got, failed := (takeSource x q.1 err bs).failed } := by
        rw [takeSource_rest, hx]
      split
      · split
        · exact hx
        · exact taken ..
      · exact taken ..

/-- What a release does first leaves every other copy's and group's state: memory, the group's flights, and the sources of copies. -/
theorem beforeRelease_performed (s : State) (gid : Nat) (g : Group) (t : Team) (cl : Mask) :
    performed gid { s with copies := (beforeRelease s gid g t cl).copies } (beforeRelease s gid g t cl) := by
  have h := performWhere_performed s gid (fun _ => true)
  show performed gid { s with copies := (captureCopies (performAll s gid) gid g t cl).copies } (captureCopies (performAll s gid) gid g t cl)
  unfold captureCopies
  split
  · have e : (performAll s gid).copies = s.copies := h.copies
    rw [e]; exact h
  · exact ⟨accessOnly_copies h.1 _, h.2⟩

/-- Whether some group of a team does something that does not depend on its flights. -/
theorem performed.any {gid : Nat} {s t : State} (h : performed gid s t) {P : Group → Bool} (hP : ∀ g g', flightsChange g g' → P g' = P g) :
    t.groups.any (fun p => P p.2) = s.groups.any (fun p => P p.2) := by
  rcases h.2 with e | ⟨x, x', hx, hf, e⟩
  · rw [e]
  · rw [e, Bool.eq_iff_iff, List.any_eq_true, List.any_eq_true]
    exact exists_mem_mput hx (Q := fun p => P p.2 = true) (by rw [hP x x' hf])

/-- Performing changes no copy's place. -/
theorem performed.copyInto {gid : Nat} {s t : State} (h : performed gid s t) (tid sec : Nat) : copyInto t tid sec = copyInto s tid sec := by
  have opening := h.any (P := fun g => g.team == tid && g.opening.contains sec) (fun g g' hf => by rw [hf]; rfl)
  unfold Machine.copyInto
  rw [opening, h.copies]

/-- A release changes no copy's place. -/
theorem beforeRelease_copyInto (s : State) (gid : Nat) (g : Group) (t : Team) (cl : Mask) (tid sec : Nat) :
    copyInto (beforeRelease s gid g t cl) tid sec = copyInto s tid sec := by
  rw [← (performWhere_performed s gid (fun _ => true)).copyInto]
  show copyInto (captureCopies (performAll s gid) gid g t cl) tid sec = copyInto (performAll s gid) tid sec
  unfold captureCopies
  split
  · rfl
  · unfold Machine.copyInto
    rw [List.any_map]
    congr 2
    funext p
    rw [Function.comp_apply, captured_rest]

end Sys2Proof.Proofs.Performed

namespace Sys2Proof.Proofs.Slot

/-! What changes of the scratchpad slot and of its presence bits leave of the machine (R161, R163, R415): of the teams one, and of it the
parts that each operation names. -/

open Sys2Proof Sys2Proof.Machine Sys2Proof.Laws Sys2Proof.Proofs.Facts Sys2Proof.Proofs.Barriers

/-! ### Steps of one team -/

/-- One team has changed, as `R` says, and nothing else of the machine; no barrier image has become due. -/
structure teamStep (R : Team → Team → Prop) (tid : Nat) (s u : State) : Prop where
  rest : u = { s with teams := u.teams }
  noImage : imageFree s → imageFree u
  team : ∀ t, mget s.teams tid = some t → ∃ t', mget u.teams tid = some t' ∧ R t t'

theorem teamStep_refl {R : Team → Team → Prop} (h : ∀ t, R t t) (tid : Nat) (s : State) : teamStep R tid s s := ⟨rfl, id, fun t ht => ⟨t, ht, h t⟩⟩

theorem teamStep_trans {R Q P : Team → Team → Prop} {tid : Nat} {s u v : State} (h1 : teamStep R tid s u) (h2 : teamStep Q tid u v)
    (h : ∀ a b c, R a b → Q b c → P a c) : teamStep P tid s v := by
  refine ⟨by rw [h2.rest, h1.rest], fun hi => h2.noImage (h1.noImage hi), fun t ht => ?_⟩
  obtain ⟨b, hb, rb⟩ := h1.team t ht
  obtain ⟨c, hc, qc⟩ := h2.team b hb
  exact ⟨c, hc, h t b c rb qc⟩

theorem teamStep_mono {R Q : Team → Team → Prop} {tid : Nat} {s u : State} (h : teamStep R tid s u) (hRQ : ∀ a b, R a b → Q a b) :
    teamStep Q tid s u :=
  ⟨h.rest, h.noImage, fun t ht => by obtain ⟨t', ht', hr⟩ := h.team t ht; exact ⟨t', ht', hRQ t t' hr⟩⟩

/-- A fold of steps of which each adds to what the earlier ones did. -/
theorem teamStep_foldl {β : Type} {R : List β → Team → Team → Prop} {tid : Nat} {f : State → β → State} (h0 : ∀ t, R [] t t)
    (hf : ∀ s b, teamStep (R [b]) tid s (f s b)) (happ : ∀ b bs x y z, R [b] x y → R bs y z → R (b :: bs) x z) (bs : List β) (s : State) :
    teamStep (R bs) tid s (bs.foldl f s) := by
  induction bs generalizing s with
  | nil => exact teamStep_refl h0 ..
  | cons b bs ih => exact teamStep_trans (hf s b) (ih (f s b)) (happ b bs)

theorem onTeam_step {R : Team → Team → Prop} {f : Team → Team} (hR : ∀ t, R t (f t)) (hi : ∀ t, (f t).imageWait = t.imageWait) (tid : Nat) (s : State) :
    teamStep R tid s (onTeam s tid f) := by
  refine ⟨rfl, fun hs => ?_, fun t ht => ⟨f t, by rw [onTeam_some ht]; simp, hR t⟩⟩
  cases ht : mget s.teams tid with
  | none =>
    have : onTeam s tid f = s := by simp [onTeam, mupd, ht]
    rw [this]; exact hs
  | some t =>
    rw [onTeam_some ht]
    exact imageFree_putTeam hs ((hi t).trans (hs _ (mem_of_mget ht)))

/-! ### The undo log (R415) -/

/-- A team but for its log and the mark of an escaped interval. -/
def logged (t t' : Team) : Prop := t' = { t with undo := t'.undo, escaped := t'.escaped }

theorem logEntry_step (s : State) (tid : Nat) (e : UndoEntry) : teamStep logged tid s (logEntry s tid e) := by
  unfold logEntry
  split
  · exact teamStep_refl (R := logged) (fun _ => rfl) ..
  · split
    · exact teamStep_refl (R := logged) (fun _ => rfl) ..
    · split <;> exact onTeam_step (fun _ => by rfl) (fun _ => by rfl) ..

theorem logSlot_step (s : State) (tid sec : Nat) : teamStep logged tid s (logSlot s tid sec) := by
  unfold logSlot
  split
  · exact teamStep_refl (R := logged) (fun _ => rfl) ..
  · split
    · exact teamStep_refl (R := logged) (fun _ => rfl) ..
    · exact logEntry_step ..

/-- A team that takes no rollback logs nothing. -/
theorem logSlot_plain {s : State} {tid : Nat} {t : Team} (h : mget s.teams tid = some t) (hr : t.rollbacks = false) (sec : Nat) : logSlot s tid sec = s := by
  simp only [logSlot, logEntry, h, hr, Bool.not_false, Bool.true_or, if_true]
  split <;> rfl

/-! ### Presence bits (R163) -/

/-- The presence bits of some sectors are clear, and nothing else of the team has changed but its log and what releases marked. -/
def cleared (xs : List Nat) (t t' : Team) : Prop :=
  t' = { t with undo := t'.undo, escaped := t'.escaped, absent := t'.absent, rels := t'.rels } ∧ ∀ x, x ∈ t'.absent ↔ x ∈ t.absent ∨ x ∈ xs

theorem cleared_nil (t : Team) : cleared [] t t := ⟨rfl, by simp⟩

theorem cleared_cons (x : Nat) (xs : List Nat) (a b c : Team) (h1 : cleared [x] a b) (h2 : cleared xs b c) : cleared (x :: xs) a c := by
  obtain ⟨e1, m1⟩ := h1
  obtain ⟨e2, m2⟩ := h2
  exact ⟨by rw [e2, e1], fun y => by rw [m2, m1, List.mem_singleton, List.mem_cons, or_assoc]⟩

theorem clearPresence_step (s : State) (tid sec : Nat) : teamStep (cleared [sec]) tid s (clearPresence s tid sec) := by
  refine teamStep_trans (Q := cleared [sec]) (logSlot_step s tid sec) (onTeam_step ?_ (fun _ => by rfl) ..) ?_
  · refine fun t => ⟨rfl, fun x => ?_⟩
    dsimp only
    split
    · next h =>
      simp only [List.mem_singleton]
      exact ⟨.inl, fun hx => hx.elim id (fun e => e ▸ List.contains_iff_mem.mp h)⟩
    · simp [or_comm]
  · rintro a b c h1 ⟨e2, m2⟩
    unfold logged at h1
    exact ⟨by rw [e2, h1], fun x => by rw [m2, h1]⟩

/-- The presence bits of some sectors are set, and nothing else of the team has changed but its log and what releases marked. -/
def filled (xs : List Nat) (t t' : Team) : Prop :=
  t' = { t with undo := t'.undo, escaped := t'.escaped, absent := t'.absent, rels := t'.rels } ∧ ∀ x, x ∈ t'.absent ↔ x ∈ t.absent ∧ x ∉ xs

theorem filled_nil (t : Team) : filled [] t t := ⟨rfl, by simp⟩

theorem filled_cons (x : Nat) (xs : List Nat) (a b c : Team) (h1 : filled [x] a b) (h2 : filled xs b c) : filled (x :: xs) a c := by
  obtain ⟨e1, m1⟩ := h1
  obtain ⟨e2, m2⟩ := h2
  exact ⟨by rw [e2, e1], fun y => by rw [m2, m1]; simp [and_assoc]⟩

theorem setPresence_step (s : State) (tid sec : Nat) : teamStep (filled [sec]) tid s (setPresence s tid sec) := by
  refine teamStep_trans (Q := filled [sec]) (logSlot_step s tid sec) (onTeam_step ?_ (fun _ => by rfl) ..) ?_
  · exact fun t => ⟨rfl, by simp⟩
  · rintro a b c h1 ⟨e2, m2⟩
    unfold logged at h1
    exact ⟨by rw [e2, h1], fun x => by rw [m2, h1]⟩

/-- A team but for what releases marked. -/
def marked (t t' : Team) : Prop := t' = { t with rels := t'.rels }

theorem addRel_step (s : State) (tid lo n : Nat) (after : Before) : teamStep marked tid s (addRel s tid lo n after) := by
  unfold addRel
  dsimp only
  split
  · exact onTeam_step (fun _ => by rfl) (fun _ => by rfl) ..
  · exact teamStep_refl (R := marked) (fun _ => rfl) ..

/-- With nothing put before it a release marks nothing. -/
@[simp] theorem addRel_nil (s : State) (tid lo n : Nat) : addRel s tid lo n [] = s := rfl

/-! ### Waits on sectors (R164) -/

/-- No group of a team waits on a sector. -/
def nobodyWaits (s : State) (tid : Nat) : Prop := ∀ p ∈ s.groups, p.2.team = tid → p.2.spWaits = []

theorem wakeSector_nobody {s : State} {tid : Nat} (h : nobodyWaits s tid) (sec : Nat) : wakeSector s tid sec = s := by
  unfold wakeSector
  have step : ∀ l : List (Nat × Group), (∀ p ∈ l, p.2.team = tid → p.2.spWaits = []) → l.foldl (fun (s : State) (p : Nat × Group) =>
      if p.2.team = tid then (p.2.spWaits.filter (fun x => x.sec == sec)).reverse.foldl (fun s x => spWake s p.1 tid x) s else s) s = s := by
    intro l
    induction l with
    | nil => exact fun _ => rfl
    | cons p l ih =>
      intro hl
      rw [List.foldl_cons]
      have here : (if p.2.team = tid then (p.2.spWaits.filter (fun x => x.sec == sec)).reverse.foldl (fun s x => spWake s p.1 tid x) s else s) = s := by
        split
        · next ht => rw [hl p (by simp) ht]; rfl
        · rfl
      rw [here]
      exact ih (fun q hq => hl q (by simp [hq]))
  exact step s.groups h

theorem present_nobody {s : State} {tid : Nat} (h : nobodyWaits s tid) (sec : Nat) : present s tid sec = setPresence s tid sec := by
  refine wakeSector_nobody ?_ sec
  unfold nobodyWaits
  rw [(setPresence_step s tid sec).rest]
  exact h

end Sys2Proof.Proofs.Slot

namespace Sys2Proof.Proofs.PresenceWords

/-! PRES.TEST, PRES.CLR and PRES.SET (O23): their runs are those of the statement, and each sector of a run is one step of the team. -/

open Sys2Proof Sys2Proof.Machine Sys2Proof.Laws Sys2Proof.Proofs.Facts Sys2Proof.Proofs.Barriers Sys2Proof.Proofs.Seen Sys2Proof.Proofs.Access
open Sys2Proof.Proofs.Performed Sys2Proof.Proofs.Slot

/-! ### Runs (R189) -/

/-- Bytes of the slot at an aligned offset within it. -/
theorem scratchAcc_within {t : Team} {o n align : Nat} (ha : o % align = 0) (h : o + n ≤ t.scratch) : scratchAcc t (o : Int) n align = .ok [(o, n)] := by
  have aligned : ¬ ((o : Int) % align ≠ 0) := by
    rw [← Int.natCast_mod, ha]; simp
  have inside : ¬ (decide ((o : Int) < 0) || decide ((o : Int) + n > t.scratch)) = true := by
    simp only [Bool.or_eq_true, decide_eq_true_eq]
    omega
  rw [scratchAcc, if_neg aligned, if_neg inside]
  rfl

/-- A PRES word whose runs lie in the slot goes on with their sectors. -/
theorem presWord_ok {s : State} {c : Ctx} {g : Group} {t : Team} {f : SForm} (h : Issuing s c g t) (hq : Undisturbed s g)
    (hok : presRunsOk f c g t) (k : State → Ctx → Group → Team → Mask → (Nat → List Nat) → State) :
    presWord f k s = k { s with cur := .idle } c g t (clOf g c f.pg f.pn) (presRun f g) := by
  obtain ⟨hread, hruns⟩ := hok
  have good : Reading.allOk ((lanesOf (clOf g c f.pg f.pn)).map (fun l =>
      (l, scratchAcc t ((opnd f f.a (fnBit f 10) (lqA f) false).read g l : Nat) (32 * (f.b.toNat % 32 + 1)) 32))) := by
    intro p hp
    obtain ⟨l, hl, rfl⟩ := List.mem_map.mp hp
    obtain ⟨haligned, hinside⟩ := hruns l ((mem_lanesOf ..).mp hl)
    exact ⟨_, scratchAcc_within haligned hinside⟩
  have runs : presRun f g = fun l => (List.range (f.b.toNat % 32 + 1)).map (fun i => (opnd f f.a (fnBit f 10) (lqA f) false).read g l / 32 + i) :=
    funext fun l => List.map_congr_left fun i _ => Nat.add_comm ..
  unfold presWord
  rw [issueWord_issuing h hq.noError (issueCause_operand hread (o := opnd f f.a (fnBit f 10) (lqA f) false) (by simp)), runs]
  exact if_neg (by rw [accFailures_ok good]; simp)

/-- A sector of the run of some lane of CL. -/
theorem mem_runs {cl : Mask} {secs : Nat → List Nat} {x : Nat} : x ∈ (lanesOf cl).flatMap secs ↔ ∃ l, has cl l = true ∧ x ∈ secs l := by
  simp [List.mem_flatMap, mem_lanesOf]

/-! ### PRES.TEST -/

/-- The group in which PRES.TEST has written its predicate. -/
def tested (f : SForm) (g : Group) (t : Team) (cl : Mask) : Group :=
  (lanesOf cl).foldl (fun x l => pWrite x f.d.toNat l ((presRun f g l).all (fun y => !t.absent.contains y))) g

theorem tested_rest {f : SForm} {g : Group} (he : g.regErrs = []) (t : Team) (cl : Mask) : tested f g t cl = { g with p := (tested f g t cl).p } :=
  foldl_pWrite g he ..

theorem tested_pred (f : SForm) (g : Group) (t : Team) (cl : Mask) (n l : Nat) (hl : l < 32) : pRead (tested f g t cl) n l =
    if n = f.d.toNat ∧ has cl l = true then (presRun f g l).all (fun y => !t.absent.contains y) else pRead g n l := by
  rw [tested, pRead_fold g _ _ (fun _ => lt_of_mem_lanesOf) (fun l => (presRun f g l).all (fun y => !t.absent.contains y)) n l hl]
  simp only [mem_lanesOf]

/-- Who sees bits set has seen what was put before them. -/
def sawBits (s : State) (core : Nat) (t : Team) (xs : List Nat) : State := xs.foldl (fun s x => seeBefore s core (relsAt t (presPlace x) 1)) s

theorem sawBits_homeOnly (s : State) (core : Nat) (t : Team) (xs : List Nat) : homeOnly s (sawBits s core t xs) :=
  foldl_homeOnly (fun t' x => seeBefore_homeOnly t' core (relsAt t (presPlace x) 1)) xs s

theorem sawBits_none {t : Team} (h : t.rels = []) (s : State) (core : Nat) (xs : List Nat) : sawBits s core t xs = s := by
  have quiet (u : State) (x : Nat) : seeBefore u core (relsAt t (presPlace x) 1) = u := by
    simp [relsAt, h, seeBefore]
  exact foldl_keeps (P := fun u => u = s) (fun u x hu => (quiet u x).trans hu) xs rfl

theorem presenceTest : Says.PresenceTest := by
  intro s c g t f h hq hok
  have hword := presWord_ok h hq hok (fun s c g t cl secs =>
    endWord (sawBits s g.core t (((lanesOf cl).flatMap secs).filter (fun x => !t.absent.contains x))) c
      ((lanesOf cl).foldl (fun g l => pWrite g f.d.toNat l ((secs l).all (fun x => !t.absent.contains x))) g) false [])
  have hrest := tested_rest (f := f) hq.noError t (clOf g c f.pg f.pn)
  have hpred := tested_pred f g t (clOf g c f.pg f.pn)
  have hsaw := sawBits_homeOnly { s with cur := .idle } g.core t
    (((lanesOf (clOf g c f.pg f.pn)).flatMap (presRun f g)).filter (fun x => !t.absent.contains x))
  have hteams := (sameSeats_of_homeOnly hsaw).1
  have hend := endWord_put (c := c) (g := tested f g t (clOf g c f.pg f.pn)) (by rw [hrest]; exact hq.ownLatches)
    (imageFree_teams hteams hq.noImage) false []
  refine ⟨_, finished c (tested f g t (clOf g c f.pg f.pn)), congrArg Host.Outcome.next (hword.trans hend), (putGroup_get ..).trans (if_pos rfl), ?_, ?_, hpred, ?_,
    hteams, fun hrels => ?_⟩
  · rw [hrest]; exact finished_advanced c _
  · rw [hrest]; exact finished_latches c _
  · rw [hrest]; rfl
  · rw [sawBits_none hrels]
    rfl

/-! ### PRES.CLR and PRES.SET -/

/-- Two folds agree whose steps agree where something holds that the steps keep. -/
theorem foldl_congr_keeps {α β : Type} {P : α → Prop} {f f' : α → β → α} (hf : ∀ x b, P x → f x b = f' x b) (hk : ∀ x b, P x → P (f' x b))
    (l : List β) {x : α} (hx : P x) : l.foldl f x = l.foldl f' x := by
  induction l generalizing x with
  | nil => rfl
  | cons b l ih => rw [List.foldl_cons, List.foldl_cons, hf x b hx, ih (hk x b hx)]

/-- Only teams have changed. -/
def teamsOnly (s u : State) : Prop := u = { s with teams := u.teams }

theorem teamsOnly_refl (s : State) : teamsOnly s s := rfl

theorem teamsOnly_step {R : Team → Team → Prop} {tid : Nat} {s u v : State} (h : teamsOnly s u) (hr : teamStep R tid u v) : teamsOnly s v := by
  have := hr.rest
  unfold teamsOnly at *
  rw [this, h]

theorem teamsOnly_copyInto {s u : State} (h : teamsOnly s u) (tid sec : Nat) : copyInto u tid sec = copyInto s tid sec := by rw [h]; rfl

/-- A group put in place of one that fills the same sectors changes no copy's place. -/
theorem copyInto_putGroup {s : State} {gid : Nat} {g g' : Group} (hg : mget s.groups gid = some g) (hteam : g'.team = g.team) (hholds : g'.holds = g.holds)
    (tid sec : Nat) : copyInto (putGroup s gid g') tid sec = copyInto s tid sec := by
  have opening : (mput s.groups gid g').any (fun p => p.2.team == tid && p.2.opening.contains sec) =
      s.groups.any (fun p => p.2.team == tid && p.2.opening.contains sec) := by
    rw [Bool.eq_iff_iff, List.any_eq_true, List.any_eq_true]
    exact exists_mem_mput hg (Q := fun p => (p.2.team == tid && p.2.opening.contains sec) = true) (by simp only [Group.opening, hteam, hholds])
  exact congrArg (· || _) opening

theorem presenceClear : Says.PresenceClear := by
  intro s c g t f h hq hok hcopies
  have hword := presWord_ok h hq hok (fun s c g _ cl secs =>
    endWord (((lanesOf cl).flatMap secs).foldl (fun s x => if copyInto s g.team x then s else clearPresence s g.team x) s) c g false [])
  have hnone (x : Nat) : copyInto { s with cur := .idle } g.team x = false := hcopies x
  have hfold := foldl_congr_keeps (P := teamsOnly { s with cur := .idle }) (f := fun s x => if copyInto s g.team x then s else clearPresence s g.team x)
    (f' := fun s x => clearPresence s g.team x)
    (fun u x hu => if_neg (by rw [teamsOnly_copyInto hu, hnone]; exact Bool.false_ne_true))
    (fun u x hu => teamsOnly_step hu (clearPresence_step u g.team x)) ((lanesOf (clOf g c f.pg f.pn)).flatMap (presRun f g)) (teamsOnly_refl _)
  have hstep := teamStep_foldl cleared_nil (fun u x => clearPresence_step u g.team x) cleared_cons
    ((lanesOf (clOf g c f.pg f.pn)).flatMap (presRun f g)) { s with cur := .idle }
  obtain ⟨t', ht', hrest, habsent⟩ := hstep.team t h.team
  have hend := endWord_put (c := c) (g := g) hq.ownLatches (hstep.noImage hq.noImage) false []
  refine ⟨_, t', congrArg Host.Outcome.next (hword.trans ((congrArg (endWord · c g false []) hfold).trans hend)),
    ⟨finished c g, (putGroup_get ..).trans (if_pos rfl), finished_advanced c g, rfl⟩, ht', fun x => ?_, ?_, ?_⟩
  · rw [habsent, mem_runs]
  · exact (congrArg State.mem hstep.rest :)
  · rw [hrest]

/-- A set of bits in a state where nothing waits on them: each is one step of the team. -/
theorem setBits {s : State} {tid : Nat} {before : Before} (hcopies : ∀ x, copyInto s tid x = false) (hwaits : nobodyWaits s tid) (xs : List Nat) :
    teamStep (filled xs) tid s (xs.foldl (fun s x =>
      if copyInto s tid x then s else present (addRel s tid (presPlace x) 1 before) tid x) s) := by
  have markedThenSet (u : State) (x : Nat) : teamStep (filled [x]) tid u (setPresence (addRel u tid (presPlace x) 1 before) tid x) :=
    teamStep_trans (addRel_step ..) (setPresence_step ..) (by
      rintro a b c h1 ⟨e2, m2⟩
      unfold marked at h1
      exact ⟨by rw [e2, h1], fun y => by rw [m2, h1]⟩)
  rw [foldl_congr_keeps (P := teamsOnly s) (f' := fun s x => setPresence (addRel s tid (presPlace x) 1 before) tid x)
    (fun u x hu => ?_) (fun u x hu => teamsOnly_step hu (markedThenSet u x)) xs (teamsOnly_refl s)]
  · exact teamStep_foldl filled_nil markedThenSet filled_cons xs s
  · rw [if_neg (by rw [teamsOnly_copyInto hu, hcopies]; exact Bool.false_ne_true)]
    refine present_nobody ?_ x
    unfold nobodyWaits
    rw [(addRel_step ..).rest, hu]
    exact hwaits

theorem presenceSet : Says.PresenceSet := by
  intro s c g t f h hq hok hcopies hwaits
  have hword := presWord_ok h hq hok (fun s c g t cl secs =>
    if cl = 0#32 then endWord s c g false []
    else
      ((lanesOf cl).flatMap secs).foldl (fun u x =>
        if copyInto u g.team x then u else present (addRel u g.team (presPlace x) 1 (releaseAt s c g t cl 1).2) g.team x)
        (endWord (releaseAt s c g t cl 1).1 c ((mget (releaseAt s c g t cl 1).1.groups c.gid).getD g) false []))
  by_cases hcl : clOf g c f.pg f.pn = 0#32
  · have nobody (l : Nat) : ¬ has (clOf g c f.pg f.pn) l = true := by rw [hcl]; simp [has]
    refine ⟨_, t, congrArg Host.Outcome.next (hword.trans ((if_pos hcl).trans (endWord_finished hq.ownLatches hq.noImage))),
      ⟨finished c g, (mget_mput ..).trans (if_pos rfl), finished_advanced c g, rfl⟩, h.team, fun x => ?_, rfl⟩
    simp [nobody]
  · have hbefore := beforeRelease_performed { s with cur := .idle } c.gid g t (clOf g c f.pg f.pn)
    obtain ⟨g1, hg1, hflights⟩ := hbefore.group h.group
    have hteams := hbefore.teams
    have hend := endWord_put (c := c) (g := g1) (by rw [hflights]; exact hq.ownLatches) (imageFree_teams hteams hq.noImage) false []
    have hnone (x : Nat) : copyInto (putGroup (beforeRelease { s with cur := .idle } c.gid g t (clOf g c f.pg f.pn)) c.gid (finished c g1)) g.team x = false := by
      rw [copyInto_putGroup hg1 (g' := finished c g1) rfl rfl, beforeRelease_copyInto]
      exact hcopies x
    have hnobody : nobodyWaits (putGroup (beforeRelease { s with cur := .idle } c.gid g t (clOf g c f.pg f.pn)) c.gid (finished c g1)) g.team := by
      have before := hbefore.entries (P := fun x => x.team = g.team → x.spWaits = []) (fun x x' hf hx => by rw [hf]; exact hx) hwaits
      intro p hp hteam
      rcases mem_mput hp with rfl | hp
      · exact before (c.gid, g1) (mem_of_mget hg1) hteam
      · exact before p hp hteam
    have hstep := setBits (before := (releaseAt { s with cur := .idle } c g t (clOf g c f.pg f.pn) 1).2) hnone hnobody
      ((lanesOf (clOf g c f.pg f.pn)).flatMap (presRun f g))
    obtain ⟨t', ht', hrest, habsent⟩ := hstep.team t ((congrArg (mget · g.team) hteams).trans h.team)
    refine ⟨_, t', congrArg Host.Outcome.next (hword.trans ((if_neg hcl).trans ?_)), ⟨finished c g1, ?_, ?_, ?_⟩, ht', fun x => ?_, ?_⟩
    · show List.foldl _ (endWord (beforeRelease { s with cur := .idle } c.gid g t (clOf g c f.pg f.pn)) c
        ((mget (beforeRelease { s with cur := .idle } c.gid g t (clOf g c f.pg f.pn)).groups c.gid).getD g) false []) _ = _
      rw [hg1, Option.getD_some, hend]
      rfl
    · rw [hstep.rest]; exact (putGroup_get ..).trans (if_pos rfl)
    · rw [hflights]; exact finished_advanced c g
    · rw [hflights]; rfl
    · rw [habsent, mem_runs]
    · rw [hrest]

/-- Settles O23: the test reads the runs, and each set or cleared sector is one step of its team. -/
theorem presenceBits : Obligations.PresenceBits := ⟨presenceTest, presenceClear, presenceSet⟩

end Sys2Proof.Proofs.PresenceWords

namespace Sys2Proof.Proofs.CopyWords

/-! The words of copies: ACPC, ACPW, RFENCE, ACP and BCP (O24). -/

open Sys2Proof Sys2Proof.Machine Sys2Proof.Laws Sys2Proof.Proofs.Facts Sys2Proof.Proofs.Barriers Sys2Proof.Proofs.Seen Sys2Proof.Proofs.Access
open Sys2Proof.Proofs.SystemRegisters Sys2Proof.Proofs.Performed Sys2Proof.Proofs.Slot Sys2Proof.Proofs.Paging

/-! ### Batches (R225) -/

theorem batchCloses : Says.BatchCloses := by
  intro s c g t f h hq hcl
  refine congrArg Host.Outcome.next ((issueWord_issuing h hq.noError issueCause_nothing).trans ?_)
  exact (congrArg (endWord { s with cur := .idle } c · false []) (if_neg hcl)).trans (endWord_plain hq rfl rfl rfl rfl)

theorem batchIsWaitedFor : Says.BatchIsWaitedFor := by
  intro s c g t f h hq tag
  by_cases hpend : tag.pend = 0
  · refine ⟨finished c g, congrArg Host.Outcome.next ((issueWord_issuing h hq.noError issueCause_nothing).trans ?_), finished_latches c g,
      fun _ => finished_advanced c g, fun h => absurd hpend h, rfl⟩
    exact (congrArg (endWord { s with cur := .idle } c · false []) (if_pos hpend)).trans (endWord_finished hq.ownLatches hq.noImage)
  · refine ⟨finished c (block g (clOf g c f.pg f.pn) (.tag (tagOf f) tag.phase)),
      congrArg Host.Outcome.next ((issueWord_issuing h hq.noError issueCause_nothing).trans ?_), finished_latches ..,
      fun h => absurd h hpend, fun _ => finished_block (fun _ => clOf_issue) _, rfl⟩
    exact (congrArg (endWord { s with cur := .idle } c · false []) (if_neg hpend)).trans (endWord_finished hq.ownLatches hq.noImage)

/-! ### RFENCE (R229) -/

/-- Of a machine only cores have changed. -/
def coresOnly (s u : State) : Prop := u = { s with cores := u.cores }

theorem coresOnly_refl (s : State) : coresOnly s s := rfl

theorem coresOnly_trans {s u v : State} (h1 : coresOnly s u) (h2 : coresOnly u v) : coresOnly s v := by
  unfold coresOnly at *
  rw [h2, h1]

theorem coresOnly_onCore (s : State) (k : Nat) (f : Core → Core) : coresOnly s (onCore s k f) := rfl

theorem coresOnly_teamCores {s u : State} (h : coresOnly s u) (t : Team) : teamCores u t = teamCores s t := by rw [h]; rfl

/-- What one step of a fold brings about, and all of them keep, holds after the fold. -/
theorem foldl_establishes {α β : Type} {I P : α → Prop} {f : α → β → α} {b : β} (hI : ∀ x a, I x → I (f x a)) (hk : ∀ x a, P x → P (f x a))
    (hb : ∀ x, I x → P (f x b)) {l : List β} (hin : b ∈ l) {x : α} (hx : I x) : P (l.foldl f x) := by
  induction l generalizing x with
  | nil => cases hin
  | cons a l ih =>
    rcases List.mem_cons.mp hin with rfl | hin
    · exact foldl_keeps (P := P) hk l (hb x hx)
    · exact ih hin (hI x a hx)

/-- A core holds no record of a space, at an address or at all. -/
def recordFree (q space : Nat) (va : Option Nat) (s : State) : Prop := ∀ x ∈ (coreOf s q).recs, x.space = space → ∃ a, va = some a ∧ x.addr ≠ a

/-- The records that a core holds after one of its team drops a record, or every one. -/
def dropOn (s : State) (core : Nat) (t : Team) (va : Option Nat) (k : Nat) : State :=
  onCore s k (fun c =>
    { c with
      recs := c.recs.filter (fun x => !(x.space == t.space && (va.isNone || va == some x.addr)))
      fenced := (if ((s.writes.filter (fun w => w.vis.getLsbD core && !w.vis.getLsbD k)).map (·.id)).isEmpty then []
        else [(t.space, va, (s.writes.filter (fun w => w.vis.getLsbD core && !w.vis.getLsbD k)).map (·.id))]) ++
          c.fenced.filter (fun x => x.2.2.any (unseenBy s k)) })

theorem dropRecs_eq (s : State) (core : Nat) (t : Team) (va : Option Nat) :
    dropRecs s core t va = (teamCores s t).foldl (fun s k => dropOn s core t va k) s := rfl

theorem dropOn_recs (s : State) (core : Nat) (t : Team) (va : Option Nat) (k q : Nat) {x : RecLine} (hx : x ∈ (coreOf (dropOn s core t va k) q).recs) :
    x ∈ (coreOf s q).recs ∧ (q = k → x.space = t.space → ∃ a, va = some a ∧ x.addr ≠ a) := by
  rw [dropOn, Proofs.Issuing.coreOf_onCore] at hx
  split at hx
  · next hq =>
    subst hq
    obtain ⟨hin, hkept⟩ := List.mem_filter.mp hx
    refine ⟨hin, fun _ hspace => ?_⟩
    cases va with
    | none => simp [hspace] at hkept
    | some a => exact ⟨a, rfl, fun e => by simp [hspace, e] at hkept⟩
  · next hq => exact ⟨hx, fun e => absurd e hq⟩

theorem dropRecs_coresOnly (s : State) (core : Nat) (t : Team) (va : Option Nat) : coresOnly s (dropRecs s core t va) :=
  foldl_keeps (P := coresOnly s) (fun _ _ hu => coresOnly_trans hu (coresOnly_onCore ..)) _ (coresOnly_refl s)

theorem dropRecs_keeps {q space : Nat} {wa : Option Nat} (s : State) (core : Nat) (t : Team) (va : Option Nat) (h : recordFree q space wa s) :
    recordFree q space wa (dropRecs s core t va) :=
  foldl_keeps (P := recordFree q space wa) (fun u k hu x hx => hu x (dropOn_recs u core t va k q hx).1) _ h

theorem dropRecs_drops {q : Nat} {s : State} {t : Team} (hq : q ∈ teamCores s t) (core : Nat) (va : Option Nat) :
    recordFree q t.space va (dropRecs s core t va) :=
  foldl_establishes (I := fun _ => True) (P := recordFree q t.space va) (fun _ _ _ => trivial)
    (fun u k hu x hx => hu x (dropOn_recs u core t va k q hx).1) (fun u _ _ hx => (dropOn_recs u core t va q q hx).2 rfl) hq trivial

/-- The end of a word that has changed cores. -/
theorem endWord_cores {s u : State} {c : Ctx} {g : Group} (hq : Undisturbed s g) (hu : coresOnly { s with cur := .idle } u) :
    endWord u c g false [] = { PlainWord s c g id with cores := u.cores } := by
  have hteams : u.teams = s.teams := by rw [hu]
  rw [endWord_put hq.ownLatches (imageFree_teams hteams hq.noImage)]
  unfold coresOnly at hu
  rw [hu]
  rfl

/-- The records at the addresses of some lanes are dropped on the cores of a team. -/
def dropEach (s : State) (core : Nat) (t : Team) (addr : Nat → Nat) (ls : List Nat) : State :=
  ls.foldl (fun s l => dropRecs s core t (some (addr l))) s

theorem dropEach_coresOnly (s : State) (core : Nat) (t : Team) (addr : Nat → Nat) (ls : List Nat) : coresOnly s (dropEach s core t addr ls) :=
  foldl_keeps (P := coresOnly s) (fun _ _ hu => coresOnly_trans hu (dropRecs_coresOnly ..)) _ (coresOnly_refl s)

theorem dropEach_drops {s : State} {t : Team} {q l : Nat} {ls : List Nat} (hq : q ∈ teamCores s t) (hl : l ∈ ls) (core : Nat) (addr : Nat → Nat) :
    recordFree q t.space (some (addr l)) (dropEach s core t addr ls) :=
  foldl_establishes (I := coresOnly s) (P := recordFree q t.space (some (addr l))) (b := l)
    (f := fun s l => dropRecs s core t (some (addr l)))
    (fun _ _ hu => coresOnly_trans hu (dropRecs_coresOnly ..)) (fun u k hu => dropRecs_keeps u core t _ hu)
    (fun u hu => dropRecs_drops (by rw [coresOnly_teamCores hu]; exact hq) core _) hl (coresOnly_refl s)

theorem recordFence : Says.RecordFence := by
  intro s c g t f h hq a hread
  have hexec : exec (.rfence f) s = .next (endWord (dropEach { s with cur := .idle } g.core t (a.read g) (lanesOf (clOf g c f.pg f.pn))) c g false []) :=
    congrArg Host.Outcome.next (issueWord_issuing h hq.noError (issueCause_operand hread (o := a) List.mem_cons_self))
  refine ⟨_, hexec.trans (congrArg Host.Outcome.next (endWord_cores hq (dropEach_coresOnly ..))), fun q hq x hx hspace l hl => ?_⟩
  obtain ⟨b, hb, hne⟩ := dropEach_drops (s := { s with cur := .idle }) hq ((mem_lanesOf ..).mpr hl) g.core (a.read g) x hx hspace
  cases hb
  exact hne

theorem recordFenceOfAll : Says.RecordFenceOfAll := by
  intro s c g t f h hq hcl
  have hfold := dropRecs_coresOnly { s with cur := .idle } g.core t none
  have hexec : exec (.rfenceAll f) s = .next (endWord (dropRecs { s with cur := .idle } g.core t none) c g false []) :=
    congrArg Host.Outcome.next ((issueWord_issuing h hq.noError issueCause_nothing).trans (congrArg (endWord · c g false []) (if_neg hcl)))
  refine ⟨_, hexec.trans (congrArg Host.Outcome.next (endWord_cores hq hfold)), fun q hq x hx hspace => ?_⟩
  obtain ⟨_, hb, -⟩ := dropRecs_drops (s := { s with cur := .idle }) hq g.core none x hx hspace
  cases hb

/-! ### ACP (R222) -/

/-- A transfer into a sector goes out: the sector's bit is cleared and the copy has the next number. -/
def launch (s : State) (tid sec : Nat) (mk : Nat → Copy) : State :=
  { clearPresence s tid sec with
    fresh := (clearPresence s tid sec).fresh + 1
    copies := mput (clearPresence s tid sec).copies (clearPresence s tid sec).fresh (mk (clearPresence s tid sec).fresh) }

/-- Copies have gone out in order, with consecutive numbers. -/
structure launched (tid : Nat) (secs : List Nat) (mk : List (Nat → Copy)) (s v : State) : Prop where
  rest : v = { s with teams := v.teams, copies := v.copies, fresh := s.fresh + mk.length }
  noImage : imageFree s → imageFree v
  team : ∀ t, mget s.teams tid = some t → ∃ t', mget v.teams tid = some t' ∧ cleared secs t t'
  copies : ∀ j m, mk[j]? = some m → mget v.copies (s.fresh + j) = some (m (s.fresh + j))
  others : ∀ k, k < s.fresh → mget v.copies k = mget s.copies k

theorem launched_nil (tid : Nat) (s : State) : launched tid [] [] s s :=
  ⟨rfl, id, fun t ht => ⟨t, ht, cleared_nil t⟩, by simp, fun _ _ => rfl⟩

theorem launched_cons {tid sec : Nat} {secs : List Nat} {m : Nat → Copy} {mk : List (Nat → Copy)} {s v : State}
    (h : launched tid secs mk (launch s tid sec m) v) : launched tid (sec :: secs) (m :: mk) s v := by
  have hclear := clearPresence_step s tid sec
  have hfresh : (clearPresence s tid sec).fresh = s.fresh := by rw [hclear.rest]
  have hcopies : (clearPresence s tid sec).copies = s.copies := by rw [hclear.rest]
  have hlaunch : (launch s tid sec m).fresh = s.fresh + 1 := congrArg (· + 1) hfresh
  have hput (k : Nat) : mget (launch s tid sec m).copies k = if k = s.fresh then some (m s.fresh) else mget s.copies k := by
    simp only [launch, hfresh, hcopies, mget_mput]
  refine ⟨?_, fun hi => h.noImage (hclear.noImage hi), fun t ht => ?_, fun j x hj => ?_, fun k hk => ?_⟩
  · rw [h.rest, hlaunch]
    simp only [launch, List.length_cons, Nat.add_assoc, Nat.add_comm 1]
    rw [hclear.rest]
  · obtain ⟨t1, ht1, hc1⟩ := hclear.team t ht
    obtain ⟨t2, ht2, hc2⟩ := h.team t1 ht1
    exact ⟨t2, ht2, cleared_cons _ _ _ _ _ hc1 hc2⟩
  · cases j with
    | zero =>
      obtain rfl : m = x := by simpa using hj
      rw [Nat.add_zero, h.others _ (by omega), hput, if_pos rfl]
    | succ j =>
      have := h.copies j x (by simpa using hj)
      rw [hlaunch] at this
      rw [Nat.add_succ, ← Nat.succ_add]
      exact this
  · rw [h.others k (by omega), hput, if_neg (by omega)]

theorem launch_all {β : Type} (tid : Nat) (sec : β → Nat) (mk : β → Nat → Copy) (ls : List β) (s : State) :
    launched tid (ls.map sec) (ls.map mk) s (ls.foldl (fun s l => launch s tid (sec l) (mk l)) s) := by
  induction ls generalizing s with
  | nil => exact launched_nil ..
  | cons l ls ih => exact launched_cons (ih _)

/-- No lane of ACP fails before translation: its destination is an aligned sector of the slot, its source aligned and of the address space. -/
theorem transfer_early {ls : List Nat} {dst src n : Nat → Nat} {scratch : Nat}
    (hl : ∀ l ∈ ls, dst l % 32 = 0 ∧ dst l + 32 ≤ scratch ∧ (0 < n l → src l % 4 = 0 ∧ src l + n l ≤ 2 ^ 56)) :
    ls.filterMap (fun l =>
        if dst l % 32 ≠ 0 then some (l, Cause.address, 0#64, BitVec.ofNat 64 (dst l))
        else if 0 < n l && (src l % 4 ≠ 0 || decide (src l + n l > 2 ^ 56)) then some (l, Cause.address, 0#64, BitVec.ofNat 64 (src l))
        else none) = [] := by
  refine List.filterMap_eq_nil_iff.mpr fun l hm => ?_
  obtain ⟨hdst, -, hsrc⟩ := hl l hm
  have fine : ¬ (decide (0 < n l) && (decide (src l % 4 ≠ 0) || decide (src l + n l > 2 ^ 56))) = true := by
    simp only [Bool.and_eq_true, Bool.or_eq_true, decide_eq_true_eq]
    omega
  rw [if_neg (not_not.mpr hdst), if_neg fine]

theorem transfer_slots {ls : List Nat} {dst : Nat → Nat} {t : Team} (hl : ∀ l ∈ ls, dst l % 32 = 0 ∧ dst l + 32 ≤ t.scratch) :
    accFailures (ls.map (fun l => (l, scratchAcc t (dst l : Nat) 32 32))) = [] := by
  refine accFailures_ok fun p hp => ?_
  obtain ⟨l, hm, rfl⟩ := List.mem_map.mp hp
  exact ⟨_, Proofs.PresenceWords.scratchAcc_within (hl l hm).1 (hl l hm).2⟩

/-- The transfer of a lane of ACP, with a number. -/
def transferOf (f : SForm) (c : Ctx) (g : Group) (t : Team) (src : Nat → List (Nat × Nat × Nat)) (l id : Nat) : Copy :=
  ⟨g.team, .acp c.gid (tagOf f) (tagAt g (tagOf f)).batch l (src l), (opnd f f.b (fnBit f 9) (lqB f) false).read g l / 32, t.interval, id, [], [], [],
    (g.lane l).fence⟩

theorem putGroup_launched {tid : Nat} {secs : List Nat} {mk : List (Nat → Copy)} {s v : State} (h : launched tid secs mk s v) (gid : Nat) (g : Group) :
    putGroup v gid g = { s with groups := mput s.groups gid g, teams := v.teams, copies := v.copies, fresh := s.fresh + mk.length } := by
  unfold putGroup
  rw [h.rest]

theorem not_nonempty {α : Type} {xs : List α} (h : xs = []) : ¬ (!xs.isEmpty) = true := by simp [h]

/-- A word whose pages are mapped goes on where nothing else has failed. -/
theorem withPagesOr_mapped {s : State} {c : Ctx} {g : Group} {t : Team} {pre : List (Nat × Cause × W64 × W64)} {who : List (Nat × List Nat)} {kind : Nat}
    {k : State → Group → (Nat → Nat × Nat) → State} (hpre : pre = []) (hg : mget s.groups c.gid = some g) (ht : mget s.teams g.team = some t)
    (hm : mappedAll (pageStates s g t kind (who.flatMap (·.2))).2) :
    withPagesOr s c pre who kind k = k (pageStates s g t kind (who.flatMap (·.2))).1 g (pagesMap (pageStates s g t kind (who.flatMap (·.2))).2) := by
  rw [hpre]
  exact withPages_mapped hg ht hm

theorem endWord_tags {v : State} {c : Ctx} {g g1 : Group} (hg : mget v.groups c.gid = some g1) (htags : g1.tags = g.tags) {k : Nat} {x : Tag} :
    endWord v c { (mget v.groups c.gid).getD g with tags := ((mget v.groups c.gid).getD g).tags.set k x } false [] =
      endWord v c { g1 with tags := g.tags.set k x } false [] := by
  rw [hg, Option.getD_some, htags]

theorem transfersGoOut : Says.TransfersGoOut := by
  intro s c g t f h hq ls a b cc n vas src base tag hread hroom hmapped hlanes
  have needs : issueCause { s with cur := .idle } g t ((a.needs.and b.needs).and cc.needs) = none :=
    issueCause_and (issueCause_and (issueCause_operand hread (by simp)) (issueCause_operand hread (by simp))) (issueCause_operand hread (by simp))
  have hlooked := pageStates_cachesOnly { s with cur := .idle } g t 1 vas
  have hbase := performOverlapping_performed (Reading.looked s g t 1 vas).1 c.gid (ls.flatMap src)
  have hteams : base.teams = s.teams := hbase.teams.trans (by rw [Reading.looked, hlooked])
  have hcopies : base.copies = s.copies := hbase.copies.trans (by rw [Reading.looked, hlooked])
  obtain ⟨g1, hg1, hflights⟩ := hbase.group (g := g) (by rw [Reading.looked, hlooked]; exact h.group)
  have hall := launch_all g.team (fun l => b.read g l / 32) (transferOf f c g t src) ls base
  obtain ⟨t', ht', hrest, habsent⟩ := hall.team t (by rw [hteams]; exact h.team)
  have hexec : exec (.acp f) s = .next (endWord (ls.foldl (fun s l => launch s g.team (b.read g l / 32) (transferOf f c g t src l)) base) c
      { g1 with tags := g.tags.set (tagOf f) { tag with opened := tag.opened + ls.length } } false []) := by
    refine congrArg Host.Outcome.next ((issueWord_issuing h hq.noError needs).trans ?_)
    have hgroup : mget (ls.foldl (fun s l => launch s g.team (b.read g l / 32) (transferOf f c g t src l)) base).groups c.gid = some g1 := by
      rw [hall.rest]; exact hg1
    have fits : ¬ (!acpFits g ls.length) = true := by simp [acpFits, hroom]
    refine (if_neg fits).trans ((if_neg (not_nonempty (transfer_early hlanes))).trans ?_)
    exact (withPagesOr_mapped (s := { s with cur := .idle }) (who := ls.map (fun l => (l, pagesOf (a.read g l) (n l)))) (kind := 1)
      (transfer_slots (fun l hl => ⟨(hlanes l hl).1, (hlanes l hl).2.1⟩)) h.group h.team hmapped).trans (endWord_tags hgroup (by rw [hflights]))
  have hend := endWord_put (c := c) (g := { g1 with tags := g.tags.set (tagOf f) { tag with opened := tag.opened + ls.length } })
    (by rw [hflights]; exact hq.ownLatches) (hall.noImage (imageFree_teams hteams hq.noImage)) false []
  refine ⟨_, t', g1, finished c { g1 with tags := g.tags.set (tagOf f) { tag with opened := tag.opened + ls.length } },
    hexec.trans (congrArg Host.Outcome.next hend), ?_, hg1, ht', fun j l hj => hall.copies j (transferOf f c g t src l) (by simp [hj]),
    fun k hk => (hall.others k hk).trans (by rw [hcopies]), fun x => ?_, ?_, ?_, ?_, ?_⟩
  · exact (putGroup_launched hall c.gid _).trans (by rw [List.length_map]; rfl)
  · rw [habsent]
    simp [eq_comm]
  · rw [hrest]
  · rw [hflights]; exact finished_advanced c g
  · rw [hflights]; exact finished_latches c g
  · rw [hflights]; rfl

end Sys2Proof.Proofs.CopyWords

namespace Sys2Proof.Proofs.Reads

/-! Reads that meet no error: the check lets the access go on, and corrects nothing (R407 to R409). -/

open Sys2Proof Sys2Proof.Machine Sys2Proof.Laws

/-- Every byte of some pieces can be read without an error or a correction. -/
def cleanPieces (s : State) (w : Nat) (ps : List (Nat × Nat × Nat)) : Prop := ∀ q ∈ ps, readError s w q.2.1 q.2.2 = .clean

theorem pieceError_readable {s : State} {w : Nat} {ps : List (Nat × Nat × Nat)}
    (h : ∀ q ∈ ps, readError s w q.2.1 q.2.2 ≠ .uncorrectable ∧ readError s w q.2.1 q.2.2 ≠ .integrity) : pieceError s w ps = (.clean, 0) := by
  have sound : ps.find? (fun p => readError s w p.2.1 p.2.2 == .uncorrectable) = none :=
    List.find?_eq_none.mpr fun q hq => by simpa using (h q hq).1
  have whole : ps.find? (fun p => readError s w p.2.1 p.2.2 == .integrity) = none :=
    List.find?_eq_none.mpr fun q hq => by simpa using (h q hq).2
  rw [pieceError, sound, whole]

theorem pieceError_clean {s : State} {w : Nat} {ps : List (Nat × Nat × Nat)} (h : cleanPieces s w ps) : pieceError s w ps = (.clean, 0) :=
  pieceError_readable fun q hq => by rw [h q hq]; exact ⟨nofun, nofun⟩

theorem pieceCorrections_clean {s : State} {w : Nat} {ps : List (Nat × Nat × Nat)} (h : cleanPieces s w ps) : pieceCorrections s w ps = s := by
  unfold pieceCorrections
  induction ps with
  | nil => rfl
  | cons p ps ih =>
    have clean : ¬ readError s w p.2.1 p.2.2 = .corrected := by rw [h p List.mem_cons_self]; exact nofun
    rw [List.foldl_cons, if_neg clean]
    exact ih fun q hq => h q (List.mem_cons_of_mem _ hq)

theorem checkedOnce_clean {s : State} {t : Team} {ps : List (Nat × Nat × Nat)} (h : cleanPieces s t.world ps) (c : Ctx) (cl : Mask) (k : State → State) :
    checkedOnce s c t cl ps k = k s := by
  rw [checkedOnce, pieceError_clean h]
  exact congrArg k (pieceCorrections_clean h)

/-- No part of a clean read has an error of a kind. -/
theorem noPartFails {s : State} {w : Nat} {parts : List LanePart} (h : Reading.allClean s w parts) {e : UnitRead} (he : e ≠ .clean) :
    (parts.map (fun p => (p.lane, p.pieces, pieceError s w p.pieces))).filter (fun x => x.2.2.1 == e) = [] := by
  rw [List.filter_eq_nil_iff]
  intro x hx
  obtain ⟨p, hp, rfl⟩ := List.mem_map.mp hx
  rw [pieceError_clean (h p hp)]
  simpa using he.symm

theorem foldl_pieceCorrections_clean {s : State} {w : Nat} {parts : List LanePart} (h : Reading.allClean s w parts) :
    parts.foldl (fun s p => pieceCorrections s w p.pieces) s = s := by
  induction parts with
  | nil => rfl
  | cons p ps ih =>
    rw [List.foldl_cons, pieceCorrections_clean (h p List.mem_cons_self)]
    exact ih fun q hq => h q (List.mem_cons_of_mem _ hq)

theorem checkedRead_clean {s : State} {t : Team} {parts : List LanePart} (h : Reading.allClean s t.world parts) (c : Ctx) (T : Mask) (k : State → State) :
    checkedRead s c t T parts false k = k s := by
  simp only [checkedRead, noPartFails h (e := .uncorrectable) (by decide), noPartFails h (e := .integrity) (by decide),
    foldl_pieceCorrections_clean h, Bool.false_eq_true, if_false]

end Sys2Proof.Proofs.Reads

namespace Sys2Proof.Proofs.BulkWords

/-! BCP.LD and BCP.ST (R227, R228): with nothing of the group outstanding, reading the record and filling the caches leave memory and every
group as they are, and one copy goes out. -/

open Sys2Proof Sys2Proof.Machine Sys2Proof.Laws Sys2Proof.Proofs.Facts Sys2Proof.Proofs.Barriers Sys2Proof.Proofs.Seen Sys2Proof.Proofs.Access
open Sys2Proof.Proofs.Performed Sys2Proof.Proofs.Slot Sys2Proof.Proofs.Paging Sys2Proof.Proofs.Reads

/-! ### What the word reads and fills -/

/-- Of a machine only caches have changed, and the number of free choices. -/
def readsOnly (s u : State) : Prop := u = { s with cores := u.cores, dies := u.dies, free := u.free }

theorem readsOnly_trans {s u v : State} (h1 : readsOnly s u) (h2 : readsOnly u v) : readsOnly s v := by
  unfold readsOnly at *
  rw [h2, h1]

theorem readsOnly_pages (s : State) (g : Group) (t : Team) (kind : Nat) (vas : List Nat) : readsOnly s (pageStates s g t kind vas).1 := by
  have := pageStates_cachesOnly s g t kind vas
  unfold readsOnly
  unfold Proofs.Issuing.cachesOnly at this
  rw [this]

theorem readRec_readsOnly (s : State) (core : Nat) (t : Team) (va : Nat) (ps : List (Nat × Nat × Nat)) : readsOnly s (readRec s core t va ps).1 := by
  unfold readRec
  dsimp only
  split
  · split <;> rfl
  · rfl

/-- Of a machine only the caches of dies have changed, and the poison that a write-back of theirs spreads. -/
def fillsOnly (s u : State) : Prop := u = { s with dies := u.dies, poison := u.poison }

theorem fillsOnly_refl (s : State) : fillsOnly s s := rfl

theorem fillsOnly_trans {s u v : State} (h1 : fillsOnly s u) (h2 : fillsOnly u v) : fillsOnly s v := by
  unfold fillsOnly at *
  rw [h2, h1]

theorem fillsOnly_onDie (s : State) (d : Nat) (f : Die → Die) : fillsOnly s (onDie s d f) := rfl

theorem fillsOnly_poison (s : State) (m : SMap Bool) : fillsOnly s { s with poison := m } := rfl

theorem writeBack_fillsOnly (s : State) (line : Nat) : fillsOnly s (writeBack s line) :=
  foldl_keeps (P := fillsOnly s) (fun u x hu => by
    split
    · exact fillsOnly_trans hu (fillsOnly_poison ..)
    · exact hu) [2 * line, 2 * line + 1] (fillsOnly_refl s)

theorem fillL2_fillsOnly (s : State) (line cls : Nat) : fillsOnly s (fillL2 s line cls) := by
  have put (gone : Option L2Line) (d : Nat) (f : Die → Die) : fillsOnly s (onDie (match gone with
      | some y => if y.dirty then writeBack s y.line else s
      | none => s) d f) := by
    rcases gone with _ | y
    · rfl
    · dsimp only
      split
      · exact fillsOnly_trans (writeBack_fillsOnly s y.line) (fillsOnly_onDie ..)
      · rfl
  unfold fillL2
  dsimp only
  split
  · exact put none ..
  · split
    · exact put ..
    · rfl

theorem fillBox_fillsOnly (s : State) (r : TensorRec) (lines : List (Nat × Nat)) : fillsOnly s (fillBox s r lines) :=
  foldl_keeps (P := fillsOnly s) (fun u p hu => by
    split
    · exact hu
    · exact fillsOnly_trans hu (fillL2_fillsOnly ..)) lines (fillsOnly_refl s)

/-! ### The copy goes out -/

/-- The sectors of a bulk copy with the physical addresses of their bytes. -/
def bulkSectors (r : TensorRec) (off : Nat) (k : List Int) (tr : Nat → Nat × Nat) : List (Nat × List (Nat × Option Nat × Byte)) :=
  (r.sectors off k).map (fun q => (q.1, q.2.map (fun x => (x.1, x.2.1.map (fun va => (tr va).1), x.2.2))))

/-- The copy of a BCP, with a number. -/
def bulkOf (f : SForm) (store : Bool) (c : Ctx) (g : Group) (t : Team) (cl : Mask) (recVa off : Nat) (k : List Int)
    (secs : List (Nat × List (Nat × Option Nat × Byte))) (id : Nat) : Copy :=
  ⟨g.team, .bulk c.gid (objOf f) store recVa off (k.map (fun x => (x % 2 ^ 32).toNat)) secs, 0, t.interval, id, [], [], secs,
    (lanesOf cl).flatMap (fun l => (g.lane l).fence)⟩

/-- A copy goes out under the next number. -/
def putCopy (s : State) (mk : Nat → Copy) : State := { s with fresh := s.fresh + 1, copies := mput s.copies s.fresh (mk s.fresh) }

/-- The lines of a box, with the attributes of their pages. -/
def bulkLines (r : TensorRec) (k : List Int) (tr : Nat → Nat × Nat) : List (Nat × Nat) := ((r.addrs k).map (fun va => ((tr va).1 / 128, (tr va).2))).eraseDups

theorem performOverlapping_none {s : State} {gid : Nat} {g : Group} (hg : mget s.groups gid = some g) (h : g.flights = []) (ps : List (Nat × Nat × Nat)) :
    performOverlapping s gid ps = s := performWhere_none hg h _

/-- A word that is no wait's continuation ends as any word does. -/
theorem endOnce_end {g : Group} (h : g.spWaits = []) (s : State) (c : Ctx) (full : Bool) (vals : SMap W64) : endOnce s c g full vals = endWord s c g full vals := by
  simp [endOnce, onceOf, h]

theorem onceGroup_same {g : Group} (h : g.spWaits = []) (c : Ctx) : onceGroup g c = g := by simp [onceGroup, onceOf, h]

/-- A load's copy goes out: its lines are filled, and the bits of its sectors cleared. -/
def loadOut (s : State) (tid : Nat) (r : TensorRec) (off : Nat) (k : List Int) (tr : Nat → Nat × Nat) (mk : Nat → Copy) : State :=
  putCopy ((r.sectors off k).foldl (fun s q => clearPresence s tid q.1) (fillBox s r (bulkLines r k tr))) mk

/-- A store's copy goes out: its lines are filled, and the interval is escaped. -/
def storeOut (s : State) (tid : Nat) (r : TensorRec) (k : List Int) (tr : Nat → Nat × Nat) (mk : Nat → Copy) : State :=
  escape (putCopy (fillBox s r (bulkLines r k tr)) mk) tid

/-- What an outgoing copy changes: caches, its team as `R` says, and the copies. -/
structure copyOut (R : Team → Team → Prop) (tid : Nat) (mk : Nat → Copy) (s u : State) : Prop where
  rest : u = { s with dies := u.dies, poison := u.poison, teams := u.teams, copies := mput s.copies s.fresh (mk s.fresh), fresh := s.fresh + 1 }
  noImage : imageFree s → imageFree u
  team : ∀ t, mget s.teams tid = some t → ∃ t', mget u.teams tid = some t' ∧ R t t'

theorem loadOut_copyOut (s : State) (tid : Nat) (r : TensorRec) (off : Nat) (k : List Int) (tr : Nat → Nat × Nat) (mk : Nat → Copy) :
    copyOut (cleared ((r.sectors off k).map (·.1))) tid mk s (loadOut s tid r off k tr mk) := by
  have hfill := fillBox_fillsOnly s r (bulkLines r k tr)
  have hclear := teamStep_foldl cleared_nil (fun u x => clearPresence_step u tid x) cleared_cons ((r.sectors off k).map (·.1)) (fillBox s r (bulkLines r k tr))
  rw [List.foldl_map] at hclear
  have hteams : (fillBox s r (bulkLines r k tr)).teams = s.teams := by rw [hfill]
  refine ⟨?_, fun hi => hclear.noImage (imageFree_teams hteams hi), fun t ht => hclear.team t (by rw [hteams]; exact ht)⟩
  have hrest := hclear.rest
  unfold loadOut putCopy
  rw [hrest, hfill]

theorem storeOut_copyOut (s : State) (tid : Nat) (r : TensorRec) (k : List Int) (tr : Nat → Nat × Nat) (mk : Nat → Copy) :
    copyOut (fun t t' => t' = { t with escaped := true }) tid mk s (storeOut s tid r k tr mk) := by
  have hfill := fillBox_fillsOnly s r (bulkLines r k tr)
  have hescape : teamStep (fun t t' => t' = { t with escaped := true }) tid (putCopy (fillBox s r (bulkLines r k tr)) mk) (storeOut s tid r k tr mk) :=
    onTeam_step (fun _ => by rfl) (fun _ => by rfl) ..
  have hteams : (fillBox s r (bulkLines r k tr)).teams = s.teams := by rw [hfill]
  refine ⟨?_, fun hi => hescape.noImage (imageFree_teams hteams hi), fun t ht => hescape.team t (by rw [← hteams] at ht; exact ht)⟩
  unfold storeOut escape onTeam putCopy
  rw [hfill]

theorem pairOp_alone {s : State} {c : Ctx} {g : Group} {t : Team} {at_ : List (Bool × Nat × Nat)} {records : List Byte} {key : Option Nat}
    {k : State → Group → PairRole → State} (h : t.twin = 0) : pairOp s c g t at_ records key k = k s g .alone := if_pos h

section
variable {s : State} {c : Ctx} {g : Group} {t : Team} (hg : mget s.groups c.gid = some g) (hfl : g.flights = [])
include hg hfl

theorem startBulk_load (f : SForm) (r : TensorRec) (rec : List Byte) (recVa off : Nat) (k : List Int) (cl : Mask) (tr : Nat → Nat × Nat) :
    startBulk f false r rec recVa off k s c g t cl tr =
      endWord (loadOut s g.team r off k tr (bulkOf f false c g t cl recVa off k (bulkSectors r off k tr))) c g false [] := by
  have shape : startBulk f false r rec recVa off k s c g t cl tr =
      (fun u => endWord (loadOut u g.team r off k tr (bulkOf f false c g t cl recVa off k (bulkSectors r off k tr))) c
        ((mget (loadOut u g.team r off k tr (bulkOf f false c g t cl recVa off k (bulkSectors r off k tr))).groups c.gid).getD g) false [])
        (performOverlapping s c.gid ((bulkSectors r off k tr).flatMap (fun q => bulkPieces q.2))) := rfl
  rw [shape, performOverlapping_none hg hfl]
  dsimp only
  have hgroups : (loadOut s g.team r off k tr (bulkOf f false c g t cl recVa off k (bulkSectors r off k tr))).groups = s.groups := by
    rw [(loadOut_copyOut ..).rest]
  rw [hgroups, hg]
  rfl

theorem startBulk_store (htwin : t.twin = 0) (hw : g.spWaits = []) (f : SForm) (r : TensorRec) (rec : List Byte) (recVa off : Nat) (k : List Int) (cl : Mask)
    (tr : Nat → Nat × Nat) : startBulk f true r rec recVa off k s c g t cl tr =
      endWord (storeOut s g.team r k tr (bulkOf f true c g t cl recVa off k (bulkSectors r off k tr))) c g false [] := by
  have shape : (fun u => endOnce (storeOut u g.team r k tr (bulkOf f true c g t cl recVa off k (bulkSectors r off k tr))) c
      ((mget (storeOut u g.team r k tr (bulkOf f true c g t cl recVa off k (bulkSectors r off k tr))).groups c.gid).getD g) false [])
        (performOverlapping s c.gid ((bulkSectors r off k tr).flatMap (fun q => bulkPieces q.2))) =
      endWord (storeOut s g.team r k tr (bulkOf f true c g t cl recVa off k (bulkSectors r off k tr))) c g false [] := by
    have hgroups : (storeOut s g.team r k tr (bulkOf f true c g t cl recVa off k (bulkSectors r off k tr))).groups = s.groups := by
      rw [(storeOut_copyOut ..).rest]
    rw [performOverlapping_none hg hfl]
    dsimp only
    rw [hgroups, hg]
    exact endOnce_end hw ..
  unfold startBulk
  refine (if_neg (by decide)).trans ?_
  split
  · exact (pairOp_alone htwin).trans shape
  · next h => exact absurd htwin h

end

/-! ### The word -/

theorem readError_readsOnly {s u : State} (h : readsOnly s u) (w pa n : Nat) : readError u w pa n = readError s w pa n := by
  rw [h]; rfl

/-- The pages that all lanes of a set need alike. -/
theorem withPages_alike {s : State} {c : Ctx} {g : Group} {t : Team} {ls vas : List Nat} {kind : Nat} {k : State → Group → (Nat → Nat × Nat) → State}
    (hg : mget s.groups c.gid = some g) (ht : mget s.teams g.team = some t) (hm : mappedAll (pageStates s g t kind (ls.flatMap (fun _ => vas))).2) :
    withPages s c (ls.map (fun l => (l, vas))) kind k =
      k (pageStates s g t kind (ls.flatMap (fun _ => vas))).1 g (pagesMap (pageStates s g t kind (ls.flatMap (fun _ => vas))).2) := by
  have alike : (ls.map (fun l => (l, vas))).flatMap (·.2) = ls.flatMap (fun _ => vas) := List.flatMap_map ..
  rw [withPages_mapped hg ht (by rw [alike]; exact hm), alike]

/-- The end of a word whose copy has gone out. -/
theorem copyOut_ends {R : Team → Team → Prop} {mk : Nat → Copy} {s S u : State} {c : Ctx} {g : Group} {t : Team} (h : Issuing s c g t) (hq : Undisturbed s g)
    (hS : readsOnly { s with cur := .idle } S) (hout : copyOut R g.team mk S u) :
    ∃ u' t', endWord u c g false [] = u' ∧ mget u'.teams g.team = some t' ∧ R t t' ∧ mget u'.copies s.fresh = some (mk s.fresh) ∧ u'.mem = s.mem ∧
      u'.writes = s.writes ∧ u'.groups = mput s.groups c.gid (finished c g) := by
  have hteams : S.teams = s.teams := by rw [hS]
  have hfresh : S.fresh = s.fresh := by rw [hS]
  have hmem : S.mem = s.mem := by rw [hS]
  have hwrites : S.writes = s.writes := by rw [hS]
  have hgroups : S.groups = s.groups := by rw [hS]
  obtain ⟨t', ht', hR⟩ := hout.team t (by rw [hteams]; exact h.team)
  refine ⟨_, t', endWord_put hq.ownLatches (hout.noImage (imageFree_teams hteams hq.noImage)) false [], ht', hR, ?_, ?_, ?_, ?_⟩
  · show mget u.copies s.fresh = _
    rw [hout.rest]
    simp [hfresh]
  · show u.mem = _
    rw [hout.rest]; exact hmem
  · show u.writes = _
    rw [hout.rest]; exact hwrites
  · show mput u.groups c.gid (finished c g) = _
    rw [hout.rest]
    exact congrArg (mput · c.gid (finished c g)) hgroups

theorem bulkCopiesGoOut : Says.BulkCopiesGoOut := by
  intro s c g t f i store h hq htwin hw hfl hi cl recVa off k recVas pieces got r vas firsts ns secs hcl hv halign hlast hmapped hclean hok hoffset hfits
    hvas hmapped2
  have hlooked : readsOnly { s with cur := .idle } (Reading.looked s g t 1 recVas).1 := readsOnly_pages ..
  have hgot : readsOnly { s with cur := .idle } got.1 := readsOnly_trans hlooked (readRec_readsOnly ..)
  have hns : readsOnly { s with cur := .idle } ns.1 := readsOnly_trans hgot (readsOnly_pages ..)
  have hword : bulkWord f store s = startBulk f store r got.2 recVa off k ns.1 c g t cl (pagesMap ns.2) := by
    have record : ¬ (decide (recVa % 64 ≠ 0) || decide (recVa + 192 > 2 ^ 56)) = true := by
      simp only [Bool.or_eq_true, decide_eq_true_eq]
      omega
    have inSpace : vas.find? (fun va => decide (va ≥ 2 ^ 56)) = none :=
      List.find?_eq_none.mpr fun va hva => by have := hvas va hva; simp only [ge_iff_le, decide_eq_true_eq]; omega
    unfold bulkWord
    rw [issueWord_issuing h hq.noError issueCause_nothing]
    refine (if_neg hcl).trans ?_
    dsimp only
    rw [onceGroup_same hw]
    refine (if_neg (by simp [hv])).trans ((if_neg record).trans ?_)
    refine (withPages_alike (s := { s with cur := .idle }) h.group h.team hmapped).trans ?_
    refine (checkedOnce_clean (fun q hq => (readError_readsOnly hlooked ..).trans (hclean q hq)) ..).trans ?_
    have hnone : performOverlapping (Reading.looked s g t 1 recVas).1 c.gid (pieces 192) = (Reading.looked s g t 1 recVas).1 :=
      performOverlapping_none (by rw [hlooked]; exact h.group) hfl _
    erw [hnone]
    refine (if_neg (show ¬ (!r.ok) = true by simp [hok])).trans ((if_neg (not_not.mpr hoffset)).trans ((if_neg (Nat.not_lt.mpr hfits)).trans ?_))
    erw [inSpace]
    exact withPages_alike (s := got.1) (by rw [hgot]; exact h.group) (by rw [hgot]; exact h.team) hmapped2
  have hgroup : mget ns.1.groups c.gid = some g := by rw [hns]; exact h.group
  have hsecs : secs.map (·.1) = (r.sectors off k).map (·.1) := by simp [secs]
  rcases hi with ⟨rfl, rfl⟩ | ⟨rfl, rfl⟩
  · obtain ⟨u, t', hend, ht', ⟨hrest, habsent⟩, hcopy, hmem, hwrites, hgroups⟩ := copyOut_ends (c := c) h hq hns
      (loadOut_copyOut ns.1 g.team r off k (pagesMap ns.2) (bulkOf f false c g t cl recVa off k secs))
    exact ⟨u, t', congrArg Host.Outcome.next (hword.trans ((startBulk_load hgroup hfl ..).trans hend)), ht', hcopy,
      fun _ x => by rw [habsent, hsecs], nofun, by rw [hrest], hmem, hwrites, hgroups⟩
  · obtain ⟨u, t', hend, ht', hrest, hcopy, hmem, hwrites, hgroups⟩ := copyOut_ends (c := c) h hq hns
      (storeOut_copyOut ns.1 g.team r k (pagesMap ns.2) (bulkOf f true c g t cl recVa off k secs))
    exact ⟨u, t', congrArg Host.Outcome.next (hword.trans ((startBulk_store hgroup hfl htwin hw ..).trans hend)), ht', hcopy,
      nofun, fun _ => by rw [hrest]; exact ⟨rfl, rfl⟩, by rw [hrest], hmem, hwrites, hgroups⟩

/-- Settles O24, word by word. -/
theorem copiesGoOut : Obligations.CopiesGoOut :=
  ⟨Proofs.CopyWords.transfersGoOut, Proofs.CopyWords.batchCloses, Proofs.CopyWords.batchIsWaitedFor, bulkCopiesGoOut, Proofs.CopyWords.recordFence,
    Proofs.CopyWords.recordFenceOfAll⟩

end Sys2Proof.Proofs.BulkWords

namespace Sys2Proof.Proofs.SlotBytes

/-! A change of bytes of a team's slot (R161, R206, R415): the bytes of its slot, its log, the marks of operations that read them, and
accumulators that an open window leaves undefined. -/

open Sys2Proof Sys2Proof.Machine Sys2Proof.Laws Sys2Proof.Proofs.Facts Sys2Proof.Proofs.Barriers Sys2Proof.Proofs.Slot

/-! ### Steps that may spoil accumulators -/

/-- A change of groups that leaves all but accumulators, and those too where no window is open. -/
def accsOnly (F : Group → Group) : Prop := (∀ g, F g = { g with accs := (F g).accs }) ∧ ∀ g, g.windows = [] → F g = g

theorem accsOnly_id : accsOnly id := ⟨fun _ => rfl, fun _ _ => rfl⟩

theorem accsOnly_comp {F G : Group → Group} (hF : accsOnly F) (hG : accsOnly G) : accsOnly (G ∘ F) := by
  refine ⟨fun g => ?_, fun g hg => ?_⟩
  · show G (F g) = { g with accs := (G (F g)).accs }
    rw [hG.1 (F g), hF.1 g]
  · show G (F g) = g
    rw [hF.2 g hg, hG.2 g hg]

/-- One team has changed, as `R` says, with marks on operations and accumulators that they leave undefined. -/
structure slotStep (R : Team → Team → Prop) (tid : Nat) (s u : State) : Prop where
  rest : u = { s with teams := u.teams, convs := u.convs, groups := u.groups }
  groups : ∃ F, accsOnly F ∧ u.groups = s.groups.map (fun p => (p.1, F p.2))
  noImage : imageFree s → imageFree u
  team : ∀ t, mget s.teams tid = some t → ∃ t', mget u.teams tid = some t' ∧ R t t'

theorem slotStep_of_teamStep {R : Team → Team → Prop} {tid : Nat} {s u : State} (h : teamStep R tid s u) : slotStep R tid s u := by
  have hrest := h.rest
  have hgroups : u.groups = s.groups := by rw [hrest]
  refine ⟨?_, ⟨id, accsOnly_id, by simp [hgroups]⟩, h.noImage, h.team⟩
  have hconvs : u.convs = s.convs := by rw [hrest]
  rw [hgroups, hconvs]
  exact hrest

theorem slotStep_trans {R Q P : Team → Team → Prop} {tid : Nat} {s u v : State} (h1 : slotStep R tid s u) (h2 : slotStep Q tid u v)
    (h : ∀ a b c, R a b → Q b c → P a c) : slotStep P tid s v := by
  obtain ⟨F, hF, e1⟩ := h1.groups
  obtain ⟨G, hG, e2⟩ := h2.groups
  refine ⟨by rw [h2.rest, h1.rest], ⟨G ∘ F, accsOnly_comp hF hG, ?_⟩, fun hi => h2.noImage (h1.noImage hi), fun t ht => ?_⟩
  · rw [e2, e1, List.map_map]; rfl
  · obtain ⟨b, hb, rb⟩ := h1.team t ht
    obtain ⟨c, hc, qc⟩ := h2.team b hb
    exact ⟨c, hc, h t b c rb qc⟩

section
variable {R : Team → Team → Prop} {tid : Nat} {s u : State} (h : slotStep R tid s u)
include h

theorem slotStep.group {gid : Nat} {g : Group} (hg : mget s.groups gid = some g) :
    ∃ g', mget u.groups gid = some g' ∧ g' = { g with accs := g'.accs } ∧ (g.windows = [] → g' = g) := by
  obtain ⟨F, hF, e⟩ := h.groups
  exact ⟨F g, by rw [e, mget_map_values, hg]; rfl, hF.1 g, hF.2 g⟩

theorem slotStep.nobody (hn : nobodyWaits s tid) : nobodyWaits u tid := by
  obtain ⟨F, hF, e⟩ := h.groups
  intro p hp hteam
  rw [e] at hp
  obtain ⟨q, hq, rfl⟩ := List.mem_map.mp hp
  dsimp only at hteam ⊢
  rw [hF.1] at hteam ⊢
  exact hn q hq hteam

theorem slotStep.copyInto (k sec : Nat) : copyInto u k sec = copyInto s k sec := by
  obtain ⟨F, hF, e⟩ := h.groups
  have opening : u.groups.any (fun p => p.2.team == k && p.2.opening.contains sec) = s.groups.any (fun p => p.2.team == k && p.2.opening.contains sec) := by
    rw [e, List.any_map]
    congr 1
    funext p
    rw [Function.comp_apply, hF.1]
    rfl
  have copies : u.copies = s.copies := by rw [h.rest]
  unfold Machine.copyInto
  rw [opening, copies]

end

/-! ### Bytes of the slot -/

/-- Bytes of a team's slot have changed, with its log and what stood of errors in them. -/
def stored (o : Nat) (bs : List Byte) (t t' : Team) : Prop :=
  t' = { t with undo := t'.undo, escaped := t'.escaped, sp := memPutBytes t.sp o bs, spErrs := t'.spErrs, spSingle := t'.spSingle }

theorem spoilColumns_rest (g : Group) (w : Window) (offs : List Nat) : spoilColumns g w offs = { g with accs := (spoilColumns g w offs).accs } := rfl

theorem spoil_accsOnly (tid : Nat) (hit : Window → Bool) (offs : List Nat) :
    accsOnly (fun g => if g.team = tid then (g.windows.filter hit).foldl (fun g w => spoilColumns g w offs) g else g) := by
  refine ⟨fun g => ?_, fun g hg => ?_⟩
  · dsimp only
    split
    · exact foldl_keeps (P := fun x : Group => x = { g with accs := x.accs }) (fun x w hx => by rw [spoilColumns_rest, hx]) _ (x := g) rfl
    · rfl
  · dsimp only
    rw [hg]
    split <;> rfl

theorem convs_step (tid : Nat) (s : State) (m : SMap Conv) : slotStep (fun t t' => t' = t) tid s { s with convs := m } :=
  ⟨rfl, ⟨id, accsOnly_id, by simp⟩, fun hi => hi, fun t ht => ⟨t, ht, rfl⟩⟩

theorem groups_step {F : Group → Group} (hF : accsOnly F) (tid : Nat) (s : State) :
    slotStep (fun t t' => t' = t) tid s { s with groups := s.groups.map (fun p => (p.1, F p.2)) } :=
  ⟨rfl, ⟨F, hF, rfl⟩, fun hi => hi, fun t ht => ⟨t, ht, rfl⟩⟩

/-- An operation that reads some bytes is marked. -/
def markReaders (s : State) (offs : List Nat) (landing : Bool) (tid : Nat) : State :=
  if s.convs.any (fun p => offs.any (p.2.readsSp landing tid)) then
    { s with convs := s.convs.map (fun p => (p.1, { p.2 with stored := p.2.stored ++ offs.filter (p.2.readsSp landing tid) })) }
  else s

theorem markReaders_step (s : State) (offs : List Nat) (landing : Bool) (tid : Nat) : slotStep (fun t t' => t' = t) tid s (markReaders s offs landing tid) := by
  unfold markReaders
  split
  · exact convs_step ..
  · exact slotStep_of_teamStep (teamStep_refl (R := fun t t' => t' = t) (fun _ => rfl) ..)

/-- The accumulators that some bytes feed become undefined in the windows of a team that a test picks. -/
def spoilReaders (s : State) (offs : List Nat) (tid : Nat) (hit : Window → Bool) : State :=
  if s.groups.any (fun p => p.2.team == tid && p.2.windows.any hit) then
    { s with groups := s.groups.map (fun p =>
        if p.2.team = tid then (p.1, (p.2.windows.filter hit).foldl (fun g w => spoilColumns g w offs) p.2) else p) }
  else s

theorem spoilReaders_step (s : State) (offs : List Nat) (tid : Nat) (hit : Window → Bool) :
    slotStep (fun t t' => t' = t) tid s (spoilReaders s offs tid hit) := by
  have pairs : (fun p : Nat × Group => if p.2.team = tid then (p.1, (p.2.windows.filter hit).foldl (fun g w => spoilColumns g w offs) p.2) else p) =
      fun p => (p.1, if p.2.team = tid then (p.2.windows.filter hit).foldl (fun g w => spoilColumns g w offs) p.2 else p.2) := by
    funext p
    split <;> rfl
  unfold spoilReaders
  split
  · rw [pairs]
    exact groups_step (spoil_accsOnly tid hit offs) tid s
  · exact slotStep_of_teamStep (teamStep_refl (R := fun t t' => t' = t) (fun _ => rfl) ..)

theorem spChange_step (s : State) (landing : Bool) (by_ : Option (Nat × Mask)) (tid o : Nat) (bs : List Byte) :
    slotStep (stored o bs) tid s (spChange s landing by_ tid o bs) := by
  unfold spChange
  split
  · next hbs =>
    rw [List.isEmpty_iff.mp hbs]
    exact slotStep_of_teamStep (teamStep_refl (R := stored o []) (fun t => rfl) ..)
  · have logs := slotStep_of_teamStep (teamStep_foldl (R := fun _ => logged) (tid := tid) (f := fun s sec => logSlot s tid sec) (fun _ => rfl)
      (fun s sec => logSlot_step s tid sec) (fun _ _ a b c h1 h2 => by unfold logged at *; rw [h2, h1])
      ((List.range ((o + bs.length - 1) / 32 - o / 32 + 1)).map (· + o / 32)) s)
    have marks := slotStep_trans (P := logged) logs (markReaders_step _ ((List.range bs.length).map (· + o)) landing tid) (fun a b c h1 h2 => h2 ▸ h1)
    refine slotStep_trans (slotStep_trans (P := logged) marks (spoilReaders_step _ ((List.range bs.length).map (· + o)) tid _) (fun a b c h1 h2 => h2 ▸ h1))
      (slotStep_of_teamStep (onTeam_step (R := stored o bs) (fun t => by rfl) (fun _ => by rfl) ..)) (fun a b c h1 h2 => ?_)
    unfold logged at h1
    unfold stored at *
    rw [h2, h1]

/-- Bytes of a team's slot have changed, with its log, its marks of recent stores and of releases, and what stood of errors in them. -/
def written (o : Nat) (bs : List Byte) (t t' : Team) : Prop :=
  t' = { t with undo := t'.undo, escaped := t'.escaped, sp := memPutBytes t.sp o bs, spErrs := t'.spErrs, spSingle := t'.spSingle
                spClock := t'.spClock, rels := t'.rels, spRecent := t'.spRecent }

theorem spWrite_step (s : State) (by_ : Option (Nat × Mask)) (tid o : Nat) (bs : List Byte) :
    slotStep (written o bs) tid s (spWrite s by_ tid o bs) :=
  slotStep_trans (R := fun t t' => t' = { t with spClock := t'.spClock, rels := t'.rels, spRecent := t'.spRecent })
    (slotStep_of_teamStep (onTeam_step (fun _ => by rfl) (fun _ => by rfl) ..)) (spChange_step ..) (fun a b c h1 h2 => by
      unfold stored at h2
      unfold written
      rw [h2, h1])

/-- A copy lands in the slot: nothing that a release marked changes. -/
def landedBytes (o : Nat) (bs : List Byte) (t t' : Team) : Prop :=
  t' = { t with undo := t'.undo, escaped := t'.escaped, sp := memPutBytes t.sp o bs, spErrs := t'.spErrs, spSingle := t'.spSingle
                spRecent := t'.spRecent }

theorem spLand_step (s : State) (tid o : Nat) (bs : List Byte) : slotStep (landedBytes o bs) tid s (spLand s tid o bs) :=
  slotStep_trans (R := fun t t' => t' = { t with spRecent := t'.spRecent })
    (slotStep_of_teamStep (onTeam_step (fun _ => by rfl) (fun _ => by rfl) ..)) (spChange_step ..) (fun a b c h1 h2 => by
      unfold stored at h2
      unfold landedBytes
      rw [h2, h1])

end Sys2Proof.Proofs.SlotBytes

namespace Sys2Proof.Proofs.Landings

/-! The landings of copies in the slot (O44): the bytes stand there whole, the presence bit is set, and the tag or the object counts them. -/

open Sys2Proof Sys2Proof.Machine Sys2Proof.Laws Sys2Proof.Proofs.Facts Sys2Proof.Proofs.Barriers Sys2Proof.Proofs.Slot Sys2Proof.Proofs.SlotBytes
open Sys2Proof.Proofs.Reads Sys2Proof.Proofs.Visibility

/-! ### Source bytes (R223) -/

theorem length_coreRead (s : State) (core w pa n : Nat) : (coreRead s core w pa n).length = n := by
  simp [coreRead, viewRead, length_homePlain]

theorem length_readPieces (s : State) (core w : Nat) (ps : List (Nat × Nat × Nat)) : (readPieces s core w ps).length = (ps.map (·.2.2)).sum := by
  simp [readPieces, List.length_flatMap, length_coreRead]

theorem length_acpBytes {s : State} {t : Team} {core : Nat} {src : List (Nat × Nat × Nat)} (h : (src.map (·.2.2)).sum ≤ 32) :
    (acpBytes s t core src).length = 32 := by
  simp [acpBytes, length_readPieces]
  omega

/-- The bytes of a transfer are those of its source, and zeros. -/
theorem acpBytes_getD (s : State) (t : Team) (core : Nat) (src : List (Nat × Nat × Nat)) (i : Nat) :
    (acpBytes s t core src).getD i 0#8 = (readPieces s core t.world src).getD i 0#8 := by
  simp only [acpBytes, List.getD_eq_getElem?_getD, List.getElem?_append]
  split
  · rfl
  · next h =>
    rw [List.getElem?_replicate, List.getElem?_eq_none (Nat.not_lt.mp h)]
    split <;> rfl

/-- A slot in which 32 bytes have landed. -/
theorem memGet_landed {sp : List Host.Cell} {sec : Nat} {bs : List Byte} (h : bs.length = 32) (a : Nat) :
    memGet (memPutBytes sp (32 * sec) bs) a = if 32 * sec ≤ a ∧ a < 32 * sec + 32 then bs.getD (a - 32 * sec) 0#8 else memGet sp a := by
  rw [memGet_memPutBytes, h]

/-! ### Steps of a landing -/

/-- A team that takes no rollback keeps no landing for one. -/
theorem noteLanding_step (s : State) (tid id : Nat) (c : Copy) (sec : Nat) (bytes : List Byte) (gid : Nat) (tag : Option (Nat × Nat)) (obj : Option Nat) :
    teamStep (fun t t' => t.rollbacks = false → t' = t) tid s (noteLanding s tid id c sec bytes gid tag obj) := by
  refine onTeam_step (fun t ht => ?_) (fun t => ?_) ..
  · rw [ht]; rfl
  · show (if _ then _ else _ : Team).imageWait = _
    split <;> rfl

theorem nobodyWaits_teamStep {R : Team → Team → Prop} {tid k : Nat} {s u : State} (h : teamStep R k s u) (hn : nobodyWaits s tid) : nobodyWaits u tid := by
  unfold nobodyWaits
  rw [h.rest]
  exact hn

theorem copyInto_teamStep {R : Team → Team → Prop} {tid k : Nat} {s u : State} (h : teamStep R k s u) (sec : Nat) : copyInto u tid sec = copyInto s tid sec := by
  rw [h.rest]; rfl

theorem landPresence_step {s : State} {tid sec : Nat} (hn : nobodyWaits s tid) (hc : copyInto s tid sec = false) (after : Before) :
    teamStep (filled [sec]) tid s (landPresence s tid sec after) := by
  have marks := addRel_step s tid (32 * sec) 32 after
  have bit := addRel_step (addRel s tid (32 * sec) 32 after) tid (presPlace sec) 1 after
  unfold landPresence
  dsimp only
  rw [if_neg (by rw [copyInto_teamStep marks, hc]; exact Bool.false_ne_true),
    present_nobody (nobodyWaits_teamStep bit (nobodyWaits_teamStep marks hn))]
  refine teamStep_trans (teamStep_trans (P := marked) marks bit (fun a b c h1 h2 => ?_)) (setPresence_step ..) (fun a b c h1 h2 => ?_)
  · unfold marked at *
    rw [h2, h1]
  · obtain ⟨e, m⟩ := h2
    unfold marked at h1
    exact ⟨by rw [e, h1], fun x => by rw [m, h1]⟩

/-! ### TRANSFER_LANDS (R223, R224) -/

theorem isTagWait_iff (tag phase : Nat) (w : Wait) : isTagWait tag phase w = true ↔ w = .tag tag phase := by
  cases w <;> simp [isTagWait]

/-- A released lane, as the statements write it. -/
theorem releaseLane_eq (g : Group) (x : Lane) : releaseLane (decide (g.inHandler ≠ 0#32)) x = Reading.released g x := by
  simp [releaseLane, Reading.released]

/-- What a tag is after one of its transfers of a batch has landed. -/
def tagAfter (w : Tag) (batch : Nat) : Tag :=
  if w.batch = batch then { w with opened := w.opened - 1 }
  else if w.pend = 1 then { w with pend := 0, phase := (w.phase + 1) % 2 ^ 16 } else { w with pend := w.pend - 1 }

/-- A transfer counts in its tag: the group's tag, and the lanes that wait on it when its last one lands. -/
theorem landTag_spec {s : State} {gid : Nat} {g : Group} (hg : mget s.groups gid = some g) (tag batch : Nat) :
    ∃ g', landTag s gid tag batch = { s with cores := (landTag s gid tag batch).cores, groups := mput s.groups gid g' } ∧
      g' = { g with tags := g.tags.set tag (tagAfter (tagAt g tag) batch), lanes := g'.lanes } ∧
      ∀ n, n < g.lanes.length → g'.lane n =
        if (decide ((tagAt g tag).batch ≠ batch) && (tagAt g tag).pend == 1) && (g.lane n).st == .blocked &&
            (g.lane n).wait == some (.tag tag (tagAt g tag).phase) then Reading.released g (g.lane n) else g.lane n := by
  unfold landTag tagAfter
  simp only [hg]
  split
  · next hb =>
    refine ⟨{ g with tags := g.tags.set tag _ }, onGroup_some hg _, rfl, fun n _ => ?_⟩
    simp [hb, Group.lane]
  · next hb =>
    split
    · next hp =>
      refine ⟨releaseWhere { g with tags := g.tags.set tag _ } (isTagWait tag (tagAt g tag).phase), ?_, rfl, fun n hn => ?_⟩
      · split
        · exact onGroup_some (s := dropL1 s _ _) hg _
        · exact onGroup_some hg _
      · refine (releaseWhere_lane _ _ n hn).trans ?_
        have waits : ((g.lane n).st = .blocked ∧ ∃ w, (g.lane n).wait = some w ∧ isTagWait tag (tagAt g tag).phase w = true) ↔
            ((decide ((tagAt g tag).batch ≠ batch) && (tagAt g tag).pend == 1) && (g.lane n).st == .blocked &&
              (g.lane n).wait == some (.tag tag (tagAt g tag).phase)) = true := by
          simp [hb, hp, isTagWait_iff]
        exact if_congr waits (releaseLane_eq ..) rfl
    · next hp =>
      refine ⟨{ g with tags := g.tags.set tag _ }, onGroup_some hg _, rfl, fun n _ => ?_⟩
      simp [hp, Group.lane]

theorem nobodyWaits_putGroup {s : State} {gid tid : Nat} {g g' : Group} (hg : mget s.groups gid = some g) (hteam : g'.team = g.team)
    (hwaits : g'.spWaits = g.spWaits) (hn : nobodyWaits s tid) : nobodyWaits (putGroup s gid g') tid := by
  intro p hp htid
  rcases mem_mput hp with rfl | hp
  · exact hwaits.trans (hn _ (mem_of_mget hg) (hteam.symm.trans htid))
  · exact hn p hp htid

section
variable {s : State} {id : Nat} {c : Copy} {t : Team}

/-- With nothing read before, a copy gives a sector what its source holds now. -/
theorem source_now (hgot : c.got = []) (hfailed : c.failed = []) (sec : Nat) (err : UnitRead × Nat) (bs : List Byte) : c.source sec err bs = (err, bs) := by
  simp [Copy.source, hgot, hfailed]

theorem coreOfGroup_some {gid : Nat} {g : Group} (hg : mget s.groups gid = some g) : coreOfGroup s gid t = g.core := by
  simp [coreOfGroup, hg]

/-- A clean transfer that none of its group precedes lands at once. -/
theorem landAcp_eq {g : Group} {gid tag batch l : Nat} {src : List (Nat × Nat × Nat)} (hkind : c.kind = .acp gid tag batch l src) (hgot : c.got = [])
    (hfailed : c.failed = []) (hfirst : ∀ p ∈ s.copies, p.1 ≠ id → p.2.issued < c.issued → p.2.team = c.team → p.2.sec ≠ c.sec)
    (hg : mget s.groups gid = some g) (hclean : cleanPieces s t.world src) :
    landAcp s id c t = takeImages (landPresence (landTag (noteLanding (spLand { s with copies := mdel s.copies id } c.team (32 * c.sec)
      (acpBytes s t g.core src)) c.team id c c.sec (acpBytes s t g.core src) gid (some (tag, batch)) none) gid tag batch) c.team c.sec c.after) := by
  have first (q : Nat × Copy → Bool) : ¬ s.copies.any (fun p => p.1 != id && decide (p.2.issued < c.issued) && p.2.sec == c.sec && p.2.team == c.team &&
      q p) = true := by
    rw [List.any_eq_true]
    rintro ⟨p, hp, hall⟩
    simp only [Bool.and_eq_true, bne_iff_ne, decide_eq_true_eq, beq_iff_eq] at hall
    obtain ⟨⟨⟨⟨hne, hlt⟩, hsec⟩, hteam⟩, -⟩ := hall
    exact hfirst p hp hne hlt hteam hsec
  unfold landAcp
  rw [hkind]
  refine (if_neg (first _)).trans ?_
  rw [pieceError_clean hclean, source_now hgot hfailed, coreOfGroup_some hg]
  rfl

end

theorem transfersLand : Says.TransfersLand := by
  intro s id c t g gid tag batch l src hargs hcopy hkind hgot hfailed hplain hfirst hg htag hlen hclean hinto w last
  obtain ⟨ht, hroll, hnobody, himage⟩ := hplain
  have hexec : exec .transferLands s = .next (landAcp s id c t) := by
    show execTransferLands s = _
    simp only [execTransferLands, hargs, hcopy, ht]
  rw [landAcp_eq hkind hgot hfailed hfirst hg hclean] at hexec
  have hland := spLand_step { s with copies := mdel s.copies id } c.team (32 * c.sec) (acpBytes s t g.core src)
  obtain ⟨t2, ht2, hbytes⟩ := hland.team t ht
  obtain ⟨g2, hg2, haccs, -⟩ := hland.group (gid := gid) hg
  have hnote := noteLanding_step (spLand { s with copies := mdel s.copies id } c.team (32 * c.sec) (acpBytes s t g.core src)) c.team id c c.sec
    (acpBytes s t g.core src) gid (some (tag, batch)) none
  generalize spLand { s with copies := mdel s.copies id } c.team (32 * c.sec) (acpBytes s t g.core src) = s2 at *
  generalize noteLanding s2 c.team id c c.sec (acpBytes s t g.core src) gid (some (tag, batch)) none = s3 at *
  obtain ⟨t3, ht3, hsame⟩ := hnote.team t2 ht2
  obtain rfl := hsame (by rw [hbytes]; exact hroll)
  have hg3 : mget s3.groups gid = some g2 := by rw [hnote.rest]; exact hg2
  obtain ⟨g4, hcount, hrest4, hlanes4⟩ := landTag_spec hg3 tag batch
  have hnobody4 : nobodyWaits (landTag s3 gid tag batch) c.team := by
    rw [hcount]
    exact nobodyWaits_putGroup hg3 (by rw [hrest4]) (by rw [hrest4]) (nobodyWaits_teamStep hnote (hland.nobody hnobody))
  have hinto4 : copyInto (landTag s3 gid tag batch) c.team c.sec = false := by
    rw [hcount]
    refine (Proofs.PresenceWords.copyInto_putGroup hg3 (g' := g4) (by rw [hrest4]) (by rw [hrest4]) c.team c.sec).trans ?_
    rw [copyInto_teamStep hnote, hland.copyInto]
    exact hinto
  have hpresent := landPresence_step hnobody4 hinto4 c.after
  have hteams4 : (landTag s3 gid tag batch).teams = s3.teams := by rw [hcount]
  obtain ⟨t5, ht5, hrest5, habsent⟩ := hpresent.team t3 (by rw [hteams4]; exact ht3)
  have hfree := hpresent.noImage (imageFree_teams hteams4 (hnote.noImage (hland.noImage himage)))
  rw [takeImages_none hfree] at hexec
  refine ⟨_, t5, g4, hexec, ?_, ht5, ?_, ⟨fun a => ?_, fun x => ?_⟩, ?_, fun n hn => ?_, ?_, ?_⟩
  · rw [hpresent.rest, hcount, hnote.rest, hland.rest]
    simp
  · rw [hpresent.rest, hcount]
    simp
  · rw [hrest5, hbytes]
    exact (memGet_landed (length_acpBytes hlen) a).trans (by rw [acpBytes_getD])
  · rw [habsent, hbytes]
    simp
  · have hset : tagAt g4 tag = tagAfter w batch := by
      rw [hrest4, haccs]
      simp [tagAt, htag, w]
    rw [hset]
    by_cases hb : w.batch = batch
    · simp [tagAfter, hb]
    · by_cases hp : w.pend = 1 <;> simp [tagAfter, hb, hp, last]
  · have hlane := hlanes4 n (by rw [haccs]; exact hn)
    rw [haccs] at hlane
    exact hlane
  · rw [hpresent.rest, hcount, hnote.rest, hland.rest]
  · rw [hpresent.rest, hcount, hnote.rest, hland.rest]

/-! ### BULK_SECTOR_LANDS (R228) -/

/-- Of a machine, caches of cores, groups and teams have changed. -/
def seatsOnly (s u : State) : Prop := u = { s with cores := u.cores, groups := u.groups, teams := u.teams }

theorem seatsOnly_trans {s u v : State} (h1 : seatsOnly s u) (h2 : seatsOnly u v) : seatsOnly s v := by
  unfold seatsOnly at *
  rw [h2, h1]

theorem seatsOnly_onTeam (s : State) (tid : Nat) (f : Team → Team) : seatsOnly s (onTeam s tid f) := rfl
theorem seatsOnly_releaseTeam (s : State) (tid : Nat) (p : Wait → Bool) : seatsOnly s (releaseTeam s tid p) := rfl
theorem seatsOnly_dropL1 (s : State) (core world : Nat) : seatsOnly s (dropL1 s core world) := rfl

/-- Where no release has marked a place, who observes it drops copies of its L1 and no more. -/
theorem observe_quiet {s : State} {tid : Nat} {t : Team} (h : mget s.teams tid = some t) (hrels : t.rels = []) (lo n : Nat) (cores : List Nat) :
    seatsOnly s (observe s tid lo n cores) := by
  have quiet (u : State) (k : Nat) : seeBefore u k (relsAt t lo n) = u := by simp [relsAt, hrels, seeBefore]
  unfold observe
  rw [h]
  exact foldl_keeps (P := seatsOnly s) (fun u k hu => by
    rw [quiet]
    exact seatsOnly_trans hu (seatsOnly_dropL1 ..)) cores (x := s) rfl

/-- An update of an object on which no release has marked anything changes no memory. -/
theorem updateObj_quiet {s : State} {tid o : Nat} {t : Team} {f : Barrier → Barrier} (h : mget s.teams tid = some t) (hr : t.rollbacks = false)
    (hrels : t.rels = []) : seatsOnly s (updateObj s tid o f) := by
  unfold updateObj
  simp only [logArea_plain h hr, h]
  split
  · refine seatsOnly_trans (seatsOnly_trans (seatsOnly_onTeam s tid _) (observe_quiet
      ((onTeam_get ..).trans ((if_pos rfl).trans (congrArg (Option.map _) h))) (by exact hrels) ..))
      (seatsOnly_releaseTeam ..)
  · exact seatsOnly_onTeam ..

theorem dropSector_rest (s : State) (id sec : Nat) : dropSector s id sec = { s with copies := (dropSector s id sec).copies } := by
  unfold dropSector
  split
  · split
    · dsimp only
      split <;> rfl
    · rfl
  · rfl

/-- A team that takes no rollback has a bit set and no more. -/
theorem landPresence_plain {s : State} {tid sec : Nat} {t : Team} (h : mget s.teams tid = some t) (hr : t.rollbacks = false) (hn : nobodyWaits s tid)
    (hc : copyInto s tid sec = false) : landPresence s tid sec [] = putTeam s tid { t with absent := t.absent.filter (fun x => x != sec) } := by
  unfold landPresence
  rw [addRel_nil]
  refine (if_neg (by rw [hc]; exact Bool.false_ne_true)).trans ?_
  rw [addRel_nil, present_nobody hn, setPresence, logSlot_plain h hr]
  exact onTeam_some h _

theorem bulkBytes_getD (s : State) (t : Team) (core : Nat) (q : List (Nat × Option Nat × Byte)) (i : Nat) :
    (bulkBytes s t core q).getD i 0#8 = match q[i]? with
      | some (_, some pa, _) => (coreRead s core t.world pa 1).getD 0 0#8
      | some (_, none, fill) => fill
      | none => 0#8 := by
  rw [bulkBytes, List.getD_eq_getElem?_getD, List.getElem?_map]
  rcases q[i]? with _ | ⟨_, _ | pa, _⟩ <;> rfl

theorem clean_bulkPieces {s : State} {w : Nat} {q : List (Nat × Option Nat × Byte)}
    (h : ∀ x ∈ q, ∀ pa, x.2.1 = some pa → readError s w pa 1 = .clean) : cleanPieces s w (bulkPieces q) := by
  intro p hp
  obtain ⟨x, hx, e⟩ := List.mem_filterMap.mp hp
  obtain ⟨pa, hpa, rfl⟩ := Option.map_eq_some_iff.mp e
  exact h x hx pa hpa

theorem bulkSectorsLand : Says.BulkSectorsLand := by
  intro s id sec c t g gid obj r off k sectors q hargs hcopy hkind hgot hfailed hafter hplain hrels hg hfind hlen hobj hclean hinto
  obtain ⟨ht, hroll, hnobody, himage⟩ := hplain
  have hexec : exec .bulkSectorLands s = .next (landBulk s id sec c t) := by
    show execBulkSectorLands s = _
    simp only [execBulkSectorLands, hargs, hcopy, ht]
  have heq : landBulk s id sec c t = takeImages (updateObj (landPresence (noteLanding (spLand (dropSector s id sec) c.team (32 * sec)
      (bulkBytes s t g.core q.2)) c.team id c sec (bulkBytes s t g.core q.2) gid none (some obj)) c.team sec []) c.team obj (Barrier.credit 32)) := by
    unfold landBulk
    rw [hkind]
    dsimp only
    rw [hfind]
    dsimp only
    rw [pieceError_clean (clean_bulkPieces hclean), source_now hgot hfailed, coreOfGroup_some hg, hafter]
    rfl
  rw [heq] at hexec
  have hdrop := dropSector_rest s id sec
  have hland := spLand_step (dropSector s id sec) c.team (32 * sec) (bulkBytes s t g.core q.2)
  obtain ⟨t2, ht2, hbytes⟩ := hland.team t (by rw [hdrop]; exact ht)
  have hnote := noteLanding_step (spLand (dropSector s id sec) c.team (32 * sec) (bulkBytes s t g.core q.2)) c.team id c sec
    (bulkBytes s t g.core q.2) gid none (some obj)
  generalize spLand (dropSector s id sec) c.team (32 * sec) (bulkBytes s t g.core q.2) = s2 at *
  generalize noteLanding s2 c.team id c sec (bulkBytes s t g.core q.2) gid none (some obj) = s3 at *
  obtain ⟨t3, ht3, hsame⟩ := hnote.team t2 ht2
  obtain rfl := hsame (by rw [hbytes]; exact hroll)
  have hpresent : landPresence s3 c.team sec [] = putTeam s3 c.team { t3 with absent := t3.absent.filter (fun x => x != sec) } :=
    landPresence_plain ht3 (by rw [hbytes]; exact hroll)
      (nobodyWaits_teamStep hnote (hland.nobody (by rw [hdrop]; exact hnobody))) (by rw [copyInto_teamStep hnote, hland.copyInto]; exact hinto)
  have hfree3 : imageFree s3 := hnote.noImage (hland.noImage (by rw [hdrop]; exact himage))
  rw [hpresent] at hexec
  have ht5 : mget (putTeam s3 c.team { t3 with absent := t3.absent.filter (fun x => x != sec) }).teams c.team =
      some { t3 with absent := t3.absent.filter (fun x => x != sec) } := (putTeam_get ..).trans (if_pos rfl)
  obtain ⟨ht6, hfree6, -⟩ := updateObj_spec (o := obj) (f := Barrier.credit 32) ht5 (by rw [hbytes]; exact hroll)
    (imageFree_putTeam hfree3 (t := { t3 with absent := t3.absent.filter (fun x => x != sec) }) (hfree3 _ (mem_of_mget ht3)))
  have hquiet := updateObj_quiet (o := obj) (f := Barrier.credit 32) ht5 (by rw [hbytes]; exact hroll) (by rw [hbytes]; exact hrels)
  rw [takeImages_none hfree6] at hexec
  refine ⟨_, _, hexec, ht6, ⟨fun a => ?_, fun x => ?_⟩, ?_, ?_, ?_, ?_⟩
  · show memGet t3.sp a = _
    rw [hbytes]
    exact (memGet_landed (by simp [bulkBytes, hlen]) a).trans (if_congr Iff.rfl (bulkBytes_getD ..) rfl)
  · show x ∈ t3.absent.filter (fun x => x != sec) ↔ _
    rw [hbytes]
    simp
  · rw [objAt_putObj_self (by rw [hbytes]; exact hobj)]
    rw [hbytes]
    rfl
  · rw [hquiet, putTeam, hnote.rest, hland.rest]
  · rw [hquiet, putTeam, hnote.rest, hland.rest, hdrop]
  · rw [hquiet, putTeam, hnote.rest, hland.rest, hdrop]

end Sys2Proof.Proofs.Landings

namespace Sys2Proof.Proofs.EngineWrites

/-! Writes of a copy engine (R172, R205): each has its place in coherence order at once and is seen by the engine's core and by the cores that
it is shown to, and by no host. -/

open Sys2Proof Sys2Proof.Machine Sys2Proof.Laws Sys2Proof.Proofs.Visibility Sys2Proof.Proofs.Performed Sys2Proof.Proofs.Issuing
open Sys2Proof.Proofs.Facts

/-! ### Writes that have their place -/

/-- Every write of a list has its place in coherence order. -/
def placed (ws : List MWrite) : Prop := ∀ w ∈ ws, w.home = true

theorem drain_placed {s : State} (h : placed s.writes) (id : Nat) : drain s id = s := by
  have none : s.writes.find? (fun x => x.id == id && !x.home) = .none :=
    List.find?_eq_none.mpr fun w hw => by simp [h w hw]
  simp only [drain, drainGo, none]

theorem insertHome_placed (w : MWrite) {ws : List MWrite} (h : placed ws) : insertHome w ws = ws ++ [w] := by
  induction ws with
  | nil => rfl
  | cons x xs ih =>
    rw [insertHome, if_pos (h x List.mem_cons_self), ih fun y hy => h y (List.mem_cons_of_mem _ hy)]
    rfl

/-- The host sees no write of a list. -/
def unseenByHost (ws : List MWrite) : Prop := ∀ w ∈ ws, w.vis.getLsbD hostAgent = false

/-- Nothing is retired that the host does not see. -/
theorem settle_unseen {s : State} (h : unseenByHost s.writes) : settle s = s := by
  unfold settle
  cases hws : s.writes with
  | nil =>
    unfold settleList
    rw [← hws]
  | cons w ws =>
    have hidden : ¬ (w.home && w.vis == allAgents) = true := by
      intro hall
      have hvis : w.vis = allAgents := by simpa using (Bool.and_eq_true_iff.mp hall).2
      have hbit := h w (by rw [hws]; exact List.mem_cons_self)
      rw [hvis] at hbit
      exact absurd hbit (by decide)
    unfold settleList
    rw [if_neg hidden, ← hws]

/-! ### Who sees a write -/

/-- Writes with wider sets of agents, by agents of a set. -/
def grown (m : BitVec 193) (ws ws' : List MWrite) : Prop :=
  ∃ V : MWrite → BitVec 193, ws' = ws.map (fun w => { w with vis := V w }) ∧
    ∀ w k, (w.vis.getLsbD k = true → (V w).getLsbD k = true) ∧ ((V w).getLsbD k = true → w.vis.getLsbD k = true ∨ m.getLsbD k = true)

theorem grown_refl (m : BitVec 193) (ws : List MWrite) : grown m ws ws :=
  ⟨MWrite.vis, by simp, fun _ _ => ⟨id, .inl⟩⟩

theorem grown_trans {m : BitVec 193} {a b c : List MWrite} (h1 : grown m a b) (h2 : grown m b c) : grown m a c := by
  obtain ⟨V, rfl, hV⟩ := h1
  obtain ⟨W, rfl, hW⟩ := h2
  refine ⟨fun w => W { w with vis := V w }, by rw [List.map_map]; rfl, fun w k => ⟨fun hk => (hW _ k).1 ((hV w k).1 hk), fun hk => ?_⟩⟩
  rcases (hW _ k).2 hk with hk | hk
  · exact (hV w k).2 hk
  · exact .inr hk

theorem grown_mono {m n : BitVec 193} {a b : List MWrite} (h : grown m a b) (hmn : ∀ k, m.getLsbD k = true → n.getLsbD k = true) : grown n a b := by
  obtain ⟨V, e, hV⟩ := h
  exact ⟨V, e, fun w k => ⟨(hV w k).1, fun hk => ((hV w k).2 hk).imp_right (hmn k)⟩⟩

theorem grown_placed {m : BitVec 193} {a b : List MWrite} (h : grown m a b) (ha : placed a) : placed b := by
  obtain ⟨V, rfl, -⟩ := h
  intro w hw
  obtain ⟨x, hx, rfl⟩ := List.mem_map.mp hw
  exact ha x hx

/-- Steps that change who sees writes, and nothing else, do so one after another. -/
theorem foldl_grown {β : Type} {m : BitVec 193} {f : State → β → State}
    (hf : ∀ u b, placed u.writes → ∃ ws, f u b = { u with writes := ws } ∧ grown m u.writes ws) (l : List β) {u : State} (hu : placed u.writes) :
    ∃ ws, l.foldl f u = { u with writes := ws } ∧ grown m u.writes ws := by
  induction l generalizing u with
  | nil => exact ⟨u.writes, rfl, grown_refl ..⟩
  | cons b l ih =>
    obtain ⟨ws, e, hg⟩ := hf u b hu
    obtain ⟨ws', e', hg'⟩ := ih (u := { u with writes := ws }) (grown_placed hg hu)
    exact ⟨ws', by rw [List.foldl_cons, e, e'], grown_trans hg hg'⟩

/-- The writes of a number, shown to some agents. -/
def showTo (m : BitVec 193) (id : Nat) (ws : List MWrite) : List MWrite := ws.map (fun x => if x.id = id then { x with vis := x.vis ||| m } else x)

theorem showTo_grown (m : BitVec 193) (id : Nat) (ws : List MWrite) : grown m ws (showTo m id ws) := by
  refine ⟨fun x => if x.id = id then x.vis ||| m else x.vis, List.map_congr_left fun x _ => by dsimp only; split <;> rfl, fun x k => ?_⟩
  dsimp only
  split
  · simp only [BitVec.getLsbD_or, Bool.or_eq_true]
    exact ⟨.inl, fun h => h⟩
  · exact ⟨fun h => h, .inl⟩

theorem subset_and (m n : BitVec 193) (k : Nat) (hk : (m &&& n).getLsbD k = true) : m.getLsbD k = true := by
  simp only [BitVec.getLsbD_and, Bool.and_eq_true] at hk
  exact hk.1

/-- What becomes visible to some agents, among writes that have their place, changes who sees writes and nothing else. -/
theorem reachGo_placed (fuel : Nat) (m : BitVec 193) (s : State) (id : Nat) (h : placed s.writes) :
    ∃ ws, reachGo fuel m s id = { s with writes := ws } ∧ grown m s.writes ws := by
  induction fuel generalizing m s id with
  | zero => exact ⟨s.writes, rfl, grown_refl ..⟩
  | succ fuel ih =>
    rw [reachGo]
    split
    · exact ⟨s.writes, rfl, grown_refl ..⟩
    · next w _ =>
      split
      · exact ⟨s.writes, rfl, grown_refl ..⟩
      · dsimp only
        rw [drain_placed h]
        have shown := showTo_grown m id s.writes
        obtain ⟨ws, e, hg⟩ := foldl_grown (f := fun s (p : Nat × BitVec 193) => reachGo fuel (m &&& p.2) s p.1) (m := m) (fun u p hu => by
          obtain ⟨ws, e, hg⟩ := ih (m &&& p.2) u p.1 hu
          exact ⟨ws, e, grown_mono hg (subset_and _ _)⟩) w.after (u := { s with writes := showTo m id s.writes }) (grown_placed shown h)
        exact ⟨ws, e, grown_trans shown hg⟩

/-- A write is among some writes, seen by some agents. -/
def seenBy (m : BitVec 193) (w : MWrite) (ws : List MWrite) : Prop :=
  ∃ y ∈ ws, y = { w with vis := y.vis } ∧ ∀ k, m.getLsbD k = true → y.vis.getLsbD k = true

theorem seenBy_grown {m n : BitVec 193} {w : MWrite} {a b : List MWrite} (h : seenBy m w a) (hg : grown n a b) : seenBy m w b := by
  obtain ⟨y, hy, e, hk⟩ := h
  obtain ⟨V, rfl, hV⟩ := hg
  exact ⟨{ y with vis := V y }, List.mem_map_of_mem hy, by rw [e], fun k hm => (hV y k).1 (hk k hm)⟩

/-- A write that alone has its number becomes visible to the agents. -/
theorem reachGo_shows {fuel : Nat} {m : BitVec 193} {s : State} {w : MWrite} (h : placed s.writes) (hw : w ∈ s.writes)
    (hone : ∀ x ∈ s.writes, x.id = w.id → x = w) :
    ∃ ws, reachGo (fuel + 1) m s w.id = { s with writes := ws } ∧ grown m s.writes ws ∧ seenBy m w ws := by
  have found : s.writes.find? (fun x => x.id == w.id) = some w := by
    cases e : s.writes.find? (fun x => x.id == w.id) with
    | none => exact absurd (List.find?_eq_none.mp e w hw) (by simp)
    | some x => rw [hone x (List.mem_of_find?_eq_some e) (by simpa using List.find?_some e)]
  rw [reachGo, found]
  dsimp only
  split
  · next hsees =>
    refine ⟨s.writes, rfl, grown_refl .., w, hw, rfl, fun k hk => ?_⟩
    simp only [Bool.or_eq_true, Bool.and_eq_true, decide_eq_true_eq] at hsees
    rcases hsees with rfl | ⟨hall, -⟩
    · simp at hk
    · have hbit := congrArg (·.getLsbD k) hall
      have hlt := BitVec.lt_of_getLsbD hk
      simpa [hk, hlt] using hbit
  · rw [drain_placed h]
    have shown := showTo_grown m w.id s.writes
    have here : seenBy m w (showTo m w.id s.writes) :=
      ⟨{ w with vis := w.vis ||| m }, List.mem_map.mpr ⟨w, hw, if_pos rfl⟩, rfl, fun k hk => by simp [hk]⟩
    obtain ⟨ws, e, hg⟩ := foldl_grown (f := fun s (p : Nat × BitVec 193) => reachGo fuel (m &&& p.2) s p.1) (m := m) (fun u p hu => by
      obtain ⟨ws, e, hg⟩ := reachGo_placed fuel (m &&& p.2) u p.1 hu
      exact ⟨ws, e, grown_mono hg (subset_and _ _)⟩) w.after (u := { s with writes := showTo m w.id s.writes }) (grown_placed shown h)
    exact ⟨ws, e, grown_trans shown hg, seenBy_grown here hg⟩

theorem grown_unseen {m : BitVec 193} {a b : List MWrite} (h : grown m a b) (hm : m.getLsbD hostAgent = false) (ha : unseenByHost a) : unseenByHost b := by
  obtain ⟨V, rfl, hV⟩ := h
  intro w hw
  obtain ⟨x, hx, rfl⟩ := List.mem_map.mp hw
  refine Bool.eq_false_iff.mpr fun hbit => ?_
  rcases (hV x hostAgent).2 hbit with hk | hk
  · rw [ha x hx] at hk
    cases hk
  · rw [hm] at hk
    cases hk

/-- A write that alone has its number becomes visible to a core. -/
theorem reach_shows {s : State} {w : MWrite} {core : Nat} (hcore : core < 192) (h : placed s.writes) (hu : unseenByHost s.writes) (hw : w ∈ s.writes)
    (hone : ∀ x ∈ s.writes, x.id = w.id → x = w) :
    ∃ ws, reach s w.id core = { s with writes := ws } ∧ grown (1#193 <<< core) s.writes ws ∧ seenBy (1#193 <<< core) w ws := by
  obtain ⟨ws, e, hg, hs⟩ := reachGo_shows (fuel := s.writes.length) (m := 1#193 <<< core) h hw hone
  refine ⟨ws, ?_, hg, hs⟩
  have hhost : (1#193 <<< core).getLsbD hostAgent = false := by
    rw [getLsbD_agent (by omega)]
    exact decide_eq_false (by unfold hostAgent; omega)
  have hunseen : unseenByHost ws := grown_unseen hg hhost hu
  rw [reach, reachAll, e, settle_unseen (s := { s with writes := ws }) hunseen]

/-! ### One write of an engine -/

/-- The write that an engine makes of a record of its bytes. -/
def engineRecord (s : State) (core world : Nat) (r : Nat × List Byte × List Nat) (after : Before) : MWrite :=
  { id := s.fresh, pa := r.1, bytes := r.2.1, world := world, core := some core, home := true, vis := 1#193 <<< core, after := after, skip := r.2.2 }

theorem cachesOnly_requestLines (s : State) (agent : Option Nat) (pa n : Nat) : cachesOnly s (requestLines s agent pa n) := by
  unfold requestLines
  dsimp only
  split <;> rfl

theorem cachesOnly_dirtyOn (s : State) (die pa : Nat) : cachesOnly s (dirtyOn s die pa) := rfl
theorem cachesOnly_l1Store (s : State) (core world pa : Nat) (bs : List Byte) : cachesOnly s (l1Store s core world pa bs) := rfl

/-- Among writes that have their place, a write at the home slice is put behind them, and caches change. -/
theorem homeWriteSkip_placed {s : State} {r : Nat × List Byte × List Nat} (h : placed s.writes) (hdoor : inDoor s r.1 = false) (core world : Nat)
    (after : Before) : ∃ v, cachesOnly s v ∧ homeWriteSkip s core world r.1 r.2.1 r.2.2 after =
      { v with fresh := s.fresh + 1, writes := s.writes ++ [engineRecord s core world r after] } := by
  have noneWaits (q : MWrite → Bool) : s.writes.filter (fun w => !w.home && q w) = [] :=
    List.filter_eq_nil_iff.mpr fun w hw => by simp [h w hw]
  have dirty : cachesOnly s (dirtyOn (requestLines s (some core) r.1 r.2.1.length) (homeDie r.1) r.1) :=
    cachesOnly_trans (cachesOnly_requestLines ..) (cachesOnly_dirtyOn ..)
  have stores : cachesOnly s (if r.2.2.isEmpty then l1Store (dirtyOn (requestLines s (some core) r.1 r.2.1.length) (homeDie r.1) r.1) core world r.1 r.2.1
      else (r.2.1.zipIdx.filter (fun p => !r.2.2.contains p.2)).foldl (fun s p => l1Store s core world (r.1 + p.2) [p.1])
        (dirtyOn (requestLines s (some core) r.1 r.2.1.length) (homeDie r.1) r.1)) := by
    split
    · exact cachesOnly_trans dirty (cachesOnly_l1Store ..)
    · exact foldl_keeps (P := cachesOnly s) (fun _ _ hu => cachesOnly_trans hu (cachesOnly_l1Store ..)) _ dirty
  refine ⟨_, stores, ?_⟩
  unfold homeWriteSkip
  rw [if_neg (by rw [hdoor]; exact Bool.false_ne_true), noneWaits, List.foldl_nil]
  dsimp only
  generalize (if r.2.2.isEmpty then _ else _ : State) = v at stores ⊢
  have hfresh : v.fresh = s.fresh := by rw [stores]
  have hwrites : v.writes = s.writes := by rw [stores]
  rw [hfresh, hwrites, insertHome_placed _ h]
  rfl

/-- The agents of cores. -/
def coreAgents : BitVec 193 := (BitVec.allOnes 192).setWidth 193

theorem coreAgents_core {k : Nat} (h : k < 192) : coreAgents.getLsbD k = true := by
  rw [coreAgents, BitVec.getLsbD_setWidth, BitVec.getLsbD_allOnes, decide_eq_true h, decide_eq_true (by omega)]
  rfl

theorem coreAgents_host : coreAgents.getLsbD hostAgent = false := by decide

theorem agent_coreAgents {core : Nat} (h : core < 192) (k : Nat) (hk : (1#193 <<< core).getLsbD k = true) : coreAgents.getLsbD k = true := by
  rw [getLsbD_agent (by omega), decide_eq_true_eq] at hk
  exact coreAgents_core (hk ▸ h)

/-- The newest write, alone with its number, becomes visible to some cores. -/
theorem shownToCores {pre : List MWrite} {w : MWrite} (cores : List Nat) (hcores : ∀ k ∈ cores, k < 192) {s : State} (hs : s.writes = pre ++ [w])
    (h : placed s.writes) (hu : unseenByHost s.writes) (hid : ∀ x ∈ pre, x.id ≠ w.id) :
    ∃ pre' w', cores.foldl (fun s k => reach s w.id k) s = { s with writes := pre' ++ [w'] } ∧ grown coreAgents (pre ++ [w]) (pre' ++ [w']) ∧
      grown coreAgents pre pre' ∧ w' = { w with vis := w'.vis } ∧ ∀ k, k ∈ cores ∨ w.vis.getLsbD k = true → w'.vis.getLsbD k = true := by
  induction cores generalizing s pre w with
  | nil => exact ⟨pre, w, by rw [← hs]; rfl, grown_refl .., grown_refl .., rfl, fun k hk => hk.elim (fun h => nomatch h) id⟩
  | cons core cores ih =>
    have hcore := hcores core List.mem_cons_self
    have hone : ∀ x ∈ s.writes, x.id = w.id → x = w := by
      intro x hx hxid
      rw [hs] at hx
      rcases List.mem_append.mp hx with hx | hx
      · exact absurd hxid (hid x hx)
      · exact List.mem_singleton.mp hx
    obtain ⟨ws, e, hgrown, y, hy, hyw, hysees⟩ := reach_shows hcore h hu (by rw [hs]; simp) hone
    have hg := grown_mono hgrown (agent_coreAgents hcore)
    obtain ⟨V, hV, hbits⟩ := hg
    rw [hs, List.map_append] at hV
    have hylast : y = { w with vis := V w } := by
      rw [hV] at hy
      rcases List.mem_append.mp hy with hy | hy
      · obtain ⟨x, hx, rfl⟩ := List.mem_map.mp hy
        exact absurd (congrArg MWrite.id hyw) (hid x hx)
      · exact List.mem_singleton.mp hy
    have hpre : grown coreAgents pre (pre.map (fun w => { w with vis := V w })) := ⟨V, rfl, hbits⟩
    have hall : grown coreAgents (pre ++ [w]) ws := ⟨V, by rw [hV, List.map_append], hbits⟩
    obtain ⟨pre', w', e', hg', hpre', hw', hsees'⟩ := ih (fun k hk => hcores k (List.mem_cons_of_mem _ hk)) (s := { s with writes := ws })
      (pre := pre.map (fun w => { w with vis := V w })) (w := { w with vis := V w }) hV (grown_placed hall (hs ▸ h))
      (grown_unseen hall coreAgents_host (hs ▸ hu)) (fun x hx => by obtain ⟨z, hz, rfl⟩ := List.mem_map.mp hx; exact hid z hz)
    have hwhole : grown coreAgents ws (pre' ++ [w']) := by rw [hV]; exact hg'
    refine ⟨pre', w', by rw [List.foldl_cons, e]; exact e', grown_trans hall hwhole, grown_trans hpre hpre', hw', fun k hk => hsees' k ?_⟩
    rcases hk with hk | hk
    · rcases List.mem_cons.mp hk with rfl | hk
      · refine .inr ?_
        have := hysees k (by rw [getLsbD_agent (by omega)]; simp)
        rw [hylast] at this
        exact this
      · exact .inl hk
    · exact .inr ((hbits w k).1 hk)

/-! ### The writes of an engine -/

/-- What a write is of: its first address, its bytes, and the offsets that it leaves alone. -/
def recordOf (w : MWrite) : Nat × List Byte × List Nat := (w.pa, w.bytes, w.skip)

theorem recordOf_grown {m : BitVec 193} {a b : List MWrite} (h : grown m a b) {w : MWrite} (hw : w ∈ b) :
    ∃ x ∈ a, recordOf w = recordOf x ∧ w.id = x.id := by
  obtain ⟨V, rfl, -⟩ := h
  obtain ⟨x, hx, rfl⟩ := List.mem_map.mp hw
  exact ⟨x, hx, rfl, rfl⟩

/-- An engine has made writes of some records, one of each at least, and no others; the cores of a set see them all. -/
structure engineOut (C : List Nat) (recs : List (Nat × List Byte × List Nat)) (s u : State) : Prop where
  access : accessOnly s u
  placed : placed u.writes
  hidden : unseenByHost u.writes
  ids : ∀ w ∈ u.writes, w.id < u.fresh
  made : ∀ w ∈ u.writes, recordOf w ∈ recs
  seen : ∀ r ∈ recs, ∃ w ∈ u.writes, recordOf w = r ∧ ∀ k ∈ C, w.vis.getLsbD k = true

theorem engineOut_none (C : List Nat) {s : State} (h : s.writes = []) : engineOut C [] s s :=
  ⟨rfl, by simp [Proofs.EngineWrites.placed, h], by simp [unseenByHost, h], by simp [h], by simp [h], by simp⟩

/-- One record's write of an engine. -/
def engineStep (core world : Nat) (cores : List Nat) (after : Before) (s : State) (r : Nat × List Byte × List Nat) : State :=
  cores.foldl (fun u k => reach u s.fresh k) (homeWriteSkip s core world r.1 r.2.1 r.2.2 after)

theorem engineWrite_eq (s : State) (core world : Nat) (cores : List Nat) (bs : SMap Byte) (after : Before) :
    engineWrite s core world cores bs after = (sectorWrites bs).foldl (engineStep core world cores after) s := rfl

theorem engineStep_out {core world : Nat} {cores : List Nat} {recs : List (Nat × List Byte × List Nat)} {s u : State} (h : engineOut (core :: cores) recs s u)
    (hcore : core < 192) (hcores : ∀ k ∈ cores, k < 192) {r : Nat × List Byte × List Nat} (hdoor : inDoor u r.1 = false) (after : Before) :
    engineOut (core :: cores) (recs ++ [r]) s (engineStep core world cores after u r) := by
  obtain ⟨v, hv, ewrite⟩ := homeWriteSkip_placed h.placed hdoor core world after
  have hnew : placed (u.writes ++ [engineRecord u core world r after]) := by
    intro w hw
    rcases List.mem_append.mp hw with hw | hw
    · exact h.placed w hw
    · rw [List.mem_singleton.mp hw]; rfl
  have hhidden : unseenByHost (u.writes ++ [engineRecord u core world r after]) := by
    intro w hw
    rcases List.mem_append.mp hw with hw | hw
    · exact h.hidden w hw
    · rw [List.mem_singleton.mp hw]
      show (1#193 <<< core).getLsbD hostAgent = false
      rw [getLsbD_agent (by omega)]
      exact decide_eq_false (by unfold hostAgent; omega)
  obtain ⟨pre', w', e, hg, hpre, hw', hsees⟩ := shownToCores (pre := u.writes) (w := engineRecord u core world r after) cores hcores
    (s := { v with fresh := u.fresh + 1, writes := u.writes ++ [engineRecord u core world r after] }) rfl hnew hhidden
    (fun x hx => Nat.ne_of_lt (h.ids x hx))
  have estep : engineStep core world cores after u r = { v with fresh := u.fresh + 1, writes := pre' ++ [w'] } := by
    rw [engineStep, ewrite]
    exact e
  have hrecord : recordOf w' = r := by rw [hw']; rfl
  rw [estep]
  refine ⟨accessOnly_trans h.access ?_, grown_placed hg hnew, grown_unseen hg coreAgents_host hhidden, fun w hw => ?_, fun w hw => ?_, fun q hq => ?_⟩
  · unfold accessOnly
    rw [hv]
  · obtain ⟨x, hx, -, hid⟩ := recordOf_grown hg hw
    rw [hid]
    rcases List.mem_append.mp hx with hx | hx
    · exact Nat.lt_succ_of_lt (h.ids x hx)
    · rw [List.mem_singleton.mp hx]; exact Nat.lt_succ_self _
  · obtain ⟨x, hx, hr, -⟩ := recordOf_grown hg hw
    rw [hr]
    rcases List.mem_append.mp hx with hx | hx
    · exact List.mem_append_left _ (h.made x hx)
    · rw [List.mem_singleton.mp hx]; exact List.mem_append_right _ (List.mem_singleton.mpr rfl)
  · rcases List.mem_append.mp hq with hq | hq
    · obtain ⟨w, hw, hr, hk⟩ := h.seen q hq
      obtain ⟨V, rfl, hV⟩ := hpre
      exact ⟨{ w with vis := V w }, List.mem_append_left _ (List.mem_map_of_mem hw), hr, fun k hin => (hV w k).1 (hk k hin)⟩
    · refine ⟨w', List.mem_append_right _ (List.mem_singleton.mpr rfl), hrecord.trans (List.mem_singleton.mp hq).symm, fun k hk => hsees k ?_⟩
      rcases List.mem_cons.mp hk with rfl | hk
      · refine .inr ?_
        show (1#193 <<< k).getLsbD k = true
        rw [getLsbD_agent (by omega)]
        simp
      · exact .inl hk

theorem engineWrite_out {s : State} (h : s.writes = []) {core world : Nat} {cores : List Nat} (hcore : core < 192) (hcores : ∀ k ∈ cores, k < 192)
    {bs : SMap Byte} (hdoor : ∀ r ∈ sectorWrites bs, inDoor s r.1 = false) (after : Before) :
    engineOut (core :: cores) (sectorWrites bs) s (engineWrite s core world cores bs after) := by
  rw [engineWrite_eq]
  have steps : ∀ (todo done : List (Nat × List Byte × List Nat)) (u : State), (∀ r ∈ todo, inDoor s r.1 = false) → engineOut (core :: cores) done s u →
      engineOut (core :: cores) (done ++ todo) s (todo.foldl (engineStep core world cores after) u) := by
    intro todo
    induction todo with
    | nil => exact fun done u _ hu => by simpa using hu
    | cons r todo ih =>
      intro done u hd hu
      have hdoor' : inDoor u r.1 = false := by
        have hworlds : u.worlds = s.worlds := by rw [hu.access]
        have hspaces : u.spaces = s.spaces := by rw [hu.access]
        have := hd r List.mem_cons_self
        simp only [inDoor, ownerOf] at this ⊢
        rw [hworlds, hspaces]
        exact this
      have := ih (done ++ [r]) _ (fun q hq => hd q (List.mem_cons_of_mem _ hq)) (engineStep_out (world := world) hu hcore hcores hdoor' after)
      rw [List.append_assoc] at this
      exact this
  exact steps _ [] s hdoor (engineOut_none _ h)

/-! ### The bytes of the writes -/

/-- Whether a record covers a byte. -/
def coversAt (r : Nat × List Byte × List Nat) (a : Nat) : Bool := decide (r.1 ≤ a) && decide (a < r.1 + r.2.1.length) && !r.2.2.contains (a - r.1)

theorem covers_eq (w : MWrite) (a : Nat) : w.covers a = coversAt (recordOf w) a := rfl

/-- A byte on which all writes agree that some agent sees, of which one covers it. -/
theorem overlay_agree {ws : List MWrite} {sees : MWrite → Bool} {a : Nat} {v : Byte}
    (hv : ∀ w ∈ ws, w.covers a = true → w.bytes.getD (a - w.pa) 0#8 = v) (hs : ∃ w ∈ ws, sees w = true ∧ w.covers a = true) (b : Byte) :
    overlay ws sees a b = v := by
  induction ws using List.reverseRecOn with
  | nil => obtain ⟨w, hw, -⟩ := hs; cases hw
  | append_singleton ws w ih =>
    rw [overlay_append]
    split
    · next hw => exact hv w (by simp) (Bool.and_eq_true_iff.mp hw).2
    · next hw =>
      refine ih (fun x hx => hv x (by simp [hx])) ?_
      obtain ⟨x, hx, hsx, hcx⟩ := hs
      rcases List.mem_append.mp hx with hx | hx
      · exact ⟨x, hx, hsx, hcx⟩
      · rw [List.mem_singleton.mp hx] at hsx hcx
        exact absurd (Bool.and_eq_true_iff.mpr ⟨hsx, hcx⟩) hw

section
variable (bs : SMap Byte) (sec : Nat)

/-- The bytes of an engine that lie in a sector of memory, and the first and the last of their addresses. -/
def bytesIn : SMap Byte := bs.filter (fun p => p.1 / 32 == sec)
def lowIn : Nat := (((bytesIn bs sec).map (·.1)).min?).getD 0
def highIn : Nat := (((bytesIn bs sec).map (·.1)).max?).getD 0

/-- The record of a sector's bytes. -/
def recordIn : Nat × List Byte × List Nat :=
  (lowIn bs sec, (List.range (highIn bs sec + 1 - lowIn bs sec)).map (fun i => mval (bytesIn bs sec) 0#8 (lowIn bs sec + i)),
    (List.range (highIn bs sec + 1 - lowIn bs sec)).filter (fun i => (mget (bytesIn bs sec) (lowIn bs sec + i)).isNone))

theorem mem_sectorWrites (r : Nat × List Byte × List Nat) :
    r ∈ sectorWrites bs ↔ ∃ p ∈ bs, r = recordIn bs (p.1 / 32) := by
  show r ∈ ((bs.map (fun p => p.1 / 32)).eraseDups).map (recordIn bs) ↔ _
  simp [List.mem_eraseDups, eq_comm]

theorem mget_bytesIn (a : Nat) : mget (bytesIn bs sec) a = if a / 32 = sec then mget bs a else none := by
  have := mget_filter_keys bs (fun k => k / 32 == sec) a
  simpa [bytesIn] using this

variable {bs sec}

/-- The bytes of a sector in which there is one lie between the first and the last. -/
theorem between {p : Nat × Byte} (hp : p ∈ bs) (hsec : p.1 / 32 = sec) : lowIn bs sec ≤ p.1 ∧ p.1 ≤ highIn bs sec := by
  have here : p.1 ∈ (bytesIn bs sec).map (·.1) := List.mem_map_of_mem (List.mem_filter.mpr ⟨hp, by simpa using hsec⟩)
  have some : (bytesIn bs sec).map (·.1) ≠ [] := List.ne_nil_of_mem here
  constructor
  · obtain ⟨lo, hlo⟩ := Option.ne_none_iff_exists'.mp (mt List.min?_eq_none_iff.mp some)
    rw [lowIn, hlo]
    exact (List.min?_eq_some_iff.mp hlo).2 _ here
  · obtain ⟨hi, hhi⟩ := Option.ne_none_iff_exists'.mp (mt List.max?_eq_none_iff.mp some)
    rw [highIn, hhi]
    exact (List.max?_eq_some_iff.mp hhi).2 _ here

theorem lowIn_mem {p : Nat × Byte} (hp : p ∈ bs) (hsec : p.1 / 32 = sec) : ∃ q ∈ bs, q.1 = lowIn bs sec := by
  have here : p.1 ∈ (bytesIn bs sec).map (·.1) := List.mem_map_of_mem (List.mem_filter.mpr ⟨hp, by simpa using hsec⟩)
  obtain ⟨lo, hlo⟩ := Option.ne_none_iff_exists'.mp (mt List.min?_eq_none_iff.mp (List.ne_nil_of_mem here))
  obtain ⟨q, hq, rfl⟩ := List.mem_map.mp (List.min?_eq_some_iff.mp hlo).1
  exact ⟨q, (List.mem_filter.mp hq).1, by rw [lowIn, hlo]; rfl⟩

/-- The record of a sector covers an address between the first and the last where the engine has a byte for it. -/
theorem recordIn_covers (a : Nat) :
    coversAt (recordIn bs sec) a = true ↔ lowIn bs sec ≤ a ∧ a ≤ highIn bs sec ∧ (mget (bytesIn bs sec) a).isSome = true := by
  have spec : coversAt (recordIn bs sec) a = true ↔ (lowIn bs sec ≤ a ∧ a < lowIn bs sec + (highIn bs sec + 1 - lowIn bs sec)) ∧
      (a - lowIn bs sec < highIn bs sec + 1 - lowIn bs sec → (mget (bytesIn bs sec) (lowIn bs sec + (a - lowIn bs sec))).isSome = true) := by
    rw [coversAt, Bool.and_eq_true_iff, Bool.and_eq_true_iff, decide_eq_true_iff, decide_eq_true_iff]
    simp [recordIn, Option.isSome_iff_ne_none, imp_iff_not_or]
  rw [spec]
  constructor
  · rintro ⟨⟨hlo, hhi⟩, hmem⟩
    have := hmem (by omega)
    rw [Nat.add_sub_cancel' hlo] at this
    exact ⟨hlo, by omega, this⟩
  · rintro ⟨hlo, hhi, hmem⟩
    refine ⟨⟨hlo, by omega⟩, fun _ => ?_⟩
    rw [Nat.add_sub_cancel' hlo]
    exact hmem

theorem recordIn_byte {a : Nat} (h : coversAt (recordIn bs sec) a = true) :
    (recordIn bs sec).2.1.getD (a - (recordIn bs sec).1) 0#8 = mval (bytesIn bs sec) 0#8 a := by
  obtain ⟨hlo, hhi, -⟩ := (recordIn_covers a).mp h
  have hlt : a - lowIn bs sec < highIn bs sec + 1 - lowIn bs sec := by omega
  simp [recordIn, List.getD_eq_getElem?_getD, hlt, Nat.add_sub_cancel' hlo]

/-- What an engine's cores read where it has written, while its writes stand. -/
theorem viewRead_engine {C : List Nat} {s u u' : State} (h : engineOut C (sectorWrites bs) s u) (hwrites : u'.writes = u.writes) {pa : Nat} {v : Byte}
    (hv : mget bs pa = some v) {core : Nat} (hcore : core ∈ C) (world : Nat) : viewRead u' core world pa 1 = [v] := by
  have hin : (pa, v) ∈ bs := mem_of_mget hv
  have own : mget (bytesIn bs (pa / 32)) pa = some v := by rw [mget_bytesIn, if_pos rfl, hv]
  have agree : ∀ w ∈ u.writes, w.covers pa = true → w.bytes.getD (pa - w.pa) 0#8 = v := by
    intro w hw hcov
    obtain ⟨p, hp, hr⟩ := (mem_sectorWrites bs _).mp (h.made w hw)
    rw [covers_eq, hr] at hcov
    have hbyte := recordIn_byte hcov
    obtain ⟨-, -, hsome⟩ := (recordIn_covers pa).mp hcov
    rw [← hr] at hbyte
    rw [mget_bytesIn] at hsome
    have hsec : pa / 32 = p.1 / 32 := by
      by_contra hne
      rw [if_neg hne] at hsome
      cases hsome
    rw [← hsec] at hbyte
    refine Eq.trans hbyte ?_
    rw [mval, own]
    rfl
  have seen : ∃ w ∈ u.writes, w.vis.getLsbD core = true ∧ w.covers pa = true := by
    obtain ⟨w, hw, hr, hk⟩ := h.seen (recordIn bs (pa / 32)) ((mem_sectorWrites bs _).mpr ⟨(pa, v), hin, rfl⟩)
    obtain ⟨hlo, hhi⟩ := between hin rfl
    exact ⟨w, hw, hk core hcore, by rw [covers_eq, hr, recordIn_covers]; exact ⟨hlo, hhi, by rw [own]; rfl⟩⟩
  have one : (homePlain u' world pa 1).length = 1 := length_homePlain ..
  obtain ⟨b, hb⟩ := List.length_eq_one_iff.mp one
  rw [viewRead, hb, hwrites]
  show [overlay u.writes (fun x => x.vis.getLsbD core) (pa + 0) b] = [v]
  rw [Nat.add_zero, overlay_agree agree seen]

end

end Sys2Proof.Proofs.EngineWrites

namespace Sys2Proof.Proofs.BulkCredits

/-! BULK_STORE_SECTOR_CREDIT (O44): a source sector is moved in writes of its copy engine, which the cores of its team see, and credited. -/

open Sys2Proof Sys2Proof.Machine Sys2Proof.Laws Sys2Proof.Proofs.Facts Sys2Proof.Proofs.Barriers Sys2Proof.Proofs.Slot Sys2Proof.Proofs.Landings
open Sys2Proof.Proofs.EngineWrites

/-- A source sector of a bulk copy: its number, and for each of its bytes the place in the sector, the address and the fill. -/
abbrev Sector := Nat × List (Nat × Option Nat × Byte)

/-! ### The bytes that a store moves -/

/-- The bytes of a source sector that lie in memory, each at its address. -/
def sectorEntries (t : Team) (q : Sector) : List (Nat × Byte) :=
  q.2.filterMap (fun x => x.2.1.map (fun pa => (pa, (spBytes t (32 * q.1) 32).getD x.1 0#8)))

theorem mem_sectorEntries {t : Team} {q : Sector} {e : Nat × Byte} :
    e ∈ sectorEntries t q ↔ ∃ x ∈ q.2, x.2.1 = some e.1 ∧ e.2 = (spBytes t (32 * q.1) 32).getD x.1 0#8 := by
  obtain ⟨a, b⟩ := e
  simp [sectorEntries, eq_comm]

/-- Entries put one after another. -/
def putAll (es : List (Nat × Byte)) (m : SMap Byte) : SMap Byte := es.foldl (fun m e => mput m e.1 e.2) m

theorem storeBytes_eq (t : Team) (sectors : List Sector) : storeBytes t [] sectors = putAll (sectors.flatMap (sectorEntries t)) [] := by
  have inner (q : Sector) (xs : List (Nat × Option Nat × Byte)) (m : SMap Byte) : xs.foldl (fun (m : SMap Byte) (x : Nat × Option Nat × Byte) =>
      match x.2.1 with
      | some pa => mput m pa ((spBytes t (32 * q.1) 32).getD x.1 0#8)
      | none => m) m = putAll (xs.filterMap (fun x => x.2.1.map (fun pa => (pa, (spBytes t (32 * q.1) 32).getD x.1 0#8)))) m := by
    induction xs generalizing m with
    | nil => rfl
    | cons x xs ih =>
      obtain ⟨i, pa, fill⟩ := x
      cases pa <;> exact ih _
  have outer (qs : List Sector) (m : SMap Byte) : qs.foldl (fun (m : SMap Byte) (q : Sector) =>
      q.2.foldl (fun (m : SMap Byte) (x : Nat × Option Nat × Byte) =>
        match x.2.1 with
        | some pa => mput m pa ((spBytes t (32 * q.1) 32).getD x.1 0#8)
        | none => m) m) m = putAll (qs.flatMap (sectorEntries t)) m := by
    induction qs generalizing m with
    | nil => rfl
    | cons q qs ih =>
      rw [List.foldl_cons, inner, ih, List.flatMap_cons, putAll, putAll, putAll, List.foldl_append]
      rfl
  exact outer sectors []

theorem mget_putAll {es : List (Nat × Byte)} {a : Nat} {v : Byte} (hv : ∀ e ∈ es, e.1 = a → e.2 = v) (hs : ∃ e ∈ es, e.1 = a) (m : SMap Byte) :
    mget (putAll es m) a = some v := by
  induction es using List.reverseRecOn with
  | nil => obtain ⟨e, he, -⟩ := hs; cases he
  | append_singleton es e ih =>
    rw [putAll, List.foldl_append]
    show mget (mput (putAll es m) e.1 e.2) a = some v
    rw [mget_mput]
    split
    · next h => rw [hv e (by simp) h.symm]
    · next h =>
      refine ih (fun x hx => hv x (by simp [hx])) ?_
      obtain ⟨x, hx, hxa⟩ := hs
      rcases List.mem_append.mp hx with hx | hx
      · exact ⟨x, hx, hxa⟩
      · rw [List.mem_singleton.mp hx] at hxa
        exact absurd hxa.symm h

theorem mem_putAll {es : List (Nat × Byte)} {m : SMap Byte} {p : Nat × Byte} (h : p ∈ putAll es m) : p ∈ es ∨ p ∈ m := by
  induction es using List.reverseRecOn with
  | nil => exact .inr h
  | append_singleton es e ih =>
    rw [putAll, List.foldl_append] at h
    rcases mem_mput h with rfl | h
    · exact .inl (by simp)
    · exact (ih h).imp_left (by simp +contextual)

theorem pairwise_apart {α : Type} {R : α → α → Prop} {l : List α} (h : l.Pairwise R) (hs : ∀ a b, R a b → R b a) {a b : α} (ha : a ∈ l) (hb : b ∈ l)
    (hne : a ≠ b) : R a b := by
  have : Std.Symm R := ⟨hs⟩
  exact h.forall ha hb hne

/-- In sectors no two of whose bytes have one address, each address has one place. -/
theorem place_unique {sectors : List Sector} (h : ((sectors.flatMap (·.2)).filterMap (·.2.1)).Nodup) {p q : Sector} (hp : p ∈ sectors) (hq : q ∈ sectors)
    {x y : Nat × Option Nat × Byte} (hx : x ∈ p.2) (hy : y ∈ q.2) {pa : Nat} (hxa : x.2.1 = some pa) (hya : y.2.1 = some pa) : p = q ∧ x = y := by
  rw [List.filterMap_flatMap, List.nodup_flatMap] at h
  obtain ⟨each, apart⟩ := h
  have samePlace : p = q := by
    by_contra hne
    have hdis := pairwise_apart apart (fun a b h => List.Disjoint.symm h) hp hq hne
    exact hdis (List.mem_filterMap.mpr ⟨x, hx, hxa⟩) (List.mem_filterMap.mpr ⟨y, hy, hya⟩)
  subst samePlace
  refine ⟨rfl, ?_⟩
  by_contra hne
  have hpair := pairwise_apart (List.pairwise_filterMap.mp (each p hp)) (fun a b h c hc d hd => (h d hd c hc).symm) hx hy hne
  exact hpair pa hxa pa hya rfl

/-! ### The credit -/

/-- A credit of one sector, where no other sector that holds no byte in range is credited with it. -/
theorem creditSectors_one {s : State} {id sec : Nat} {c c' : Copy} {gid obj r off : Nat} {empty b : Bool} {k : List Nat} {secs : List Sector}
    (hcopy : mget s.copies id = some c') (hkind : c'.kind = .bulk gid obj b r off k secs)
    (hlast : secs.filter (fun q => q.1 != sec) = [] ∨ ∃ q ∈ secs.filter (fun q => q.1 != sec), creditSectors.skipped q = false) :
    creditSectors s id sec c gid obj true empty =
      takeImages (updateObj (dropSector (noteLanding s c.team id c sec [] gid none (some obj)) id sec) c.team obj (Barrier.credit 32)) := by
  have alone : (if (!empty && (secs.filter (fun q => q.1 != sec)).all creditSectors.skipped) = true then (secs.filter (fun q => q.1 != sec)).map (·.1) else []) =
      ([] : List Nat) := by
    rcases hlast with hnil | ⟨q, hq, hskip⟩
    · rw [hnil]; simp
    · have : (secs.filter (fun q => q.1 != sec)).all creditSectors.skipped = false := List.all_eq_false.mpr ⟨q, hq, by simp [hskip]⟩
      simp [this]
  unfold creditSectors
  simp only [hcopy, Option.map_some, hkind]
  rw [alone]
  rfl

/-! ### What moves with a sector -/

/-- The bytes of source sectors that move with a sector, and those that are left (R172). -/
def movedWith (q : Sector) (sectors : List Sector) : List Sector := (splitSectors (globalSectors q.2) sectors).1.filter (fun q => !q.2.isEmpty)
def leftOf (q : Sector) (sectors : List Sector) : List Sector := (splitSectors (globalSectors q.2) sectors).2

theorem mem_globalSectors {xs : List (Nat × Option Nat × Byte)} {n : Nat} : n ∈ globalSectors xs ↔ ∃ x ∈ xs, x.2.1.map (· / 32) = some n := by
  simp [globalSectors, List.mem_eraseDups]

theorem mem_movedWith {q m : Sector} {sectors : List Sector} (h : m ∈ movedWith q sectors) : ∃ p ∈ sectors, m.1 = p.1 ∧ ∀ y ∈ m.2, y ∈ p.2 := by
  obtain ⟨hm, -⟩ := List.mem_filter.mp h
  obtain ⟨p, hp, rfl⟩ := List.mem_map.mp hm
  exact ⟨p, hp, rfl, fun y hy => (List.mem_filter.mp hy).1⟩

theorem moves {q : Sector} {sectors : List Sector} (hq : q ∈ sectors) {x : Nat × Option Nat × Byte} (hx : x ∈ q.2) {pa : Nat} (hpa : x.2.1 = some pa) :
    ∃ m ∈ movedWith q sectors, m.1 = q.1 ∧ x ∈ m.2 := by
  have hin : pa / 32 ∈ globalSectors q.2 := mem_globalSectors.mpr ⟨x, hx, by rw [hpa]; rfl⟩
  refine ⟨_, List.mem_filter.mpr ⟨List.mem_map_of_mem hq, ?_⟩, rfl, ?here⟩
  case here => exact List.mem_filter.mpr ⟨hx, by simp [hpa, hin]⟩
  simp only [Bool.not_eq_true', List.isEmpty_eq_false_iff_exists_mem]
  exact ⟨x, List.mem_filter.mpr ⟨hx, by simp [hpa, hin]⟩⟩

theorem stays {p q : Sector} {sectors : List Sector} (hp : p ∈ sectors) {x : Nat × Option Nat × Byte} (hx : x ∈ p.2) {pa : Nat} (hpa : x.2.1 = some pa)
    (hout : pa / 32 ∉ globalSectors q.2) : ∃ m ∈ leftOf q sectors, m.1 = p.1 ∧ x ∈ m.2 :=
  ⟨_, List.mem_map_of_mem hp, rfl, List.mem_filter.mpr ⟨hx, by simp [hpa, hout]⟩⟩

/-- The bytes that move with a sector are bytes of the source sectors. -/
theorem mem_movedBytes {t : Team} {q : Sector} {sectors : List Sector} {e : Nat × Byte} (h : e ∈ (movedWith q sectors).flatMap (sectorEntries t)) :
    ∃ p ∈ sectors, ∃ x ∈ p.2, x.2.1 = some e.1 ∧ e.2 = (spBytes t (32 * p.1) 32).getD x.1 0#8 := by
  obtain ⟨m, hm, he⟩ := List.mem_flatMap.mp h
  obtain ⟨p, hp, hkey, hsub⟩ := mem_movedWith hm
  obtain ⟨x, hx, hxa, hxb⟩ := mem_sectorEntries.mp he
  exact ⟨p, hp, x, hsub x hx, hxa, by rw [← hkey]; exact hxb⟩

theorem spBytes_getD (t : Team) (o : Nat) {n i : Nat} (h : i < n) : (spBytes t o n).getD i 0#8 = memGet t.sp (o + i) := by
  unfold spBytes
  induction n generalizing o i with
  | zero => omega
  | succ n ih =>
    cases i with
    | zero => rfl
    | succ i =>
      rw [memGetBytes, List.getD_cons_succ, ih _ (by omega), Nat.add_right_comm, Nat.add_assoc]

/-- Each byte of a sector that is moved goes to its address. -/
theorem movedBytes_get {t : Team} {q : Sector} {sectors : List Sector} (hnodup : ((sectors.flatMap (·.2)).filterMap (·.2.1)).Nodup) (hq : q ∈ sectors)
    {x : Nat × Option Nat × Byte} (hx : x ∈ q.2) {pa : Nat} (hpa : x.2.1 = some pa) (hlt : x.1 < 32) :
    mget (storeBytes t [] (movedWith q sectors)) pa = some (memGet t.sp (32 * q.1 + x.1)) := by
  rw [storeBytes_eq]
  refine mget_putAll (fun e he hea => ?_) ?_ []
  · obtain ⟨p, hp, y, hy, hya, hyb⟩ := mem_movedBytes he
    obtain ⟨rfl, rfl⟩ := place_unique hnodup hp hq hy hx (hea ▸ hya) hpa
    rw [hyb, spBytes_getD t _ hlt]
  · obtain ⟨m, hm, hkey, hxm⟩ := moves hq hx hpa
    exact ⟨(pa, _), List.mem_flatMap.mpr ⟨m, hm, mem_sectorEntries.mpr ⟨x, hxm, hpa, rfl⟩⟩, rfl⟩

/-- A write of an engine begins where one of its bytes goes. -/
theorem movedBytes_addr {t : Team} {q : Sector} {sectors : List Sector} {P : Nat → Prop} (h : ∀ p ∈ sectors, ∀ x ∈ p.2, ∀ pa, x.2.1 = some pa → P pa)
    {rec : Nat × List Byte × List Nat} (hr : rec ∈ sectorWrites (storeBytes t [] (movedWith q sectors))) : P rec.1 := by
  obtain ⟨e, he, rfl⟩ := (mem_sectorWrites _ _).mp hr
  obtain ⟨f, hf, hlow⟩ := lowIn_mem he rfl
  rw [storeBytes_eq] at hf
  rcases mem_putAll hf with hf | hf
  · obtain ⟨p, hp, x, hx, hxa, -⟩ := mem_movedBytes hf
    show P (lowIn _ _)
    rw [← hlow]
    exact h p hp x hx _ hxa
  · cases hf

section
variable {s : State} {id sec : Nat} {c : Copy} {t : Team} {g : Group} {gid obj r off : Nat} {k : List Nat} {sectors : List Sector} {q : Sector}

/-- A copy whose bytes of a sector, and those that share its sectors of memory, have moved. -/
def movedCopy (c : Copy) (gid obj r off : Nat) (k : List Nat) (left : List Sector) : Copy := { c with kind := .bulk gid obj true r off k left }

/-- A slot without errors fails no source. -/
theorem sourceFails_none (hfailed : c.failed = []) (herrs : t.spErrs = []) (q : Sector) : sourceFails t c q = false := by
  simp [sourceFails, sourceBad, spBad, hfailed, herrs]

theorem creditStore_eq (hkind : c.kind = .bulk gid obj true r off k sectors) (hfailed : c.failed = []) (ht : mget s.teams c.team = some t)
    (hg : mget s.groups gid = some g) (hfind : sectors.find? (fun q => q.1 == sec) = some q) (habsent : t.absent = []) (herrs : t.spErrs = [])
    (hsingle : t.spSingle = []) :
    creditStore s id sec c t = creditSectors (engineWrite { s with copies := mput s.copies id (movedCopy c gid obj r off k (leftOf q sectors)) } g.core t.world
      (teamCores s t) (storeBytes t c.got (movedWith q sectors)) c.after) id sec (movedCopy c gid obj r off k (leftOf q sectors)) gid obj true
      (globalSectors q.2).isEmpty := by
  have noFail : (fun q => sourceFails t c q) = fun _ => false := funext (sourceFails_none hfailed herrs)
  have noWait (x : Nat) : sourceWaits t c x = false := by simp [sourceWaits, habsent]
  have sound (ms : List Sector) : ms.foldl (fun s q => correctScratch s c.team (32 * q.1) 32) s = s := by
    have step (n : Nat) : correctScratch s c.team n 32 = s := by simp [correctScratch, ht, hsingle]
    exact foldl_keeps (P := fun u => u = s) (fun u x hu => by rw [hu, step]) ms rfl
  unfold creditStore
  rw [hkind]
  dsimp only
  rw [hfind]
  dsimp only
  rw [if_neg (by rw [sourceFails_none hfailed herrs]; exact Bool.false_ne_true)]
  have keeps (ms : List Sector) : (ms.filter (fun q => !sourceFails t c q)) = ms := by
    rw [List.filter_eq_self]
    intro q _
    rw [sourceFails_none hfailed herrs]
    rfl
  have drops (ms : List Sector) : (ms.filter (fun q => sourceFails t c q)) = [] := by simp [noFail]
  rw [keeps, drops, if_neg (by simp [noWait]), sound]
  dsimp only [coreOfGroup]
  rw [hg]
  rfl

end

theorem bulkStoresAreCredited : Says.BulkStoresAreCredited := by
  intro s id sec c t g gid obj r off k sectors q hargs hcopy hkind hgot hfailed hplain hrels hg hfind hobj habsent herrs hsingle hbacked hwrites hcore
    hcores hnodup hother
  obtain ⟨ht, hroll, hnobody, himage⟩ := hplain
  have hq : q ∈ sectors := List.mem_of_find?_eq_some hfind
  have hsec : q.1 = sec := by simpa using List.find?_some hfind
  have hexec : exec .bulkStoreSectorCredit s = .next (creditStore s id sec c t) := by
    have found : ((sectors.flatMap (fun q => q.2)).filterMap (fun x => x.2.1)).find? (fun pa => !backed s pa) = none := by
      refine List.find?_eq_none.mpr fun pa hpa => ?_
      obtain ⟨x, hx, hxa⟩ := List.mem_filterMap.mp hpa
      obtain ⟨p, hp, hxp⟩ := List.mem_flatMap.mp hx
      simp [(hbacked p hp x hxp pa hxa).1]
    show execBulkStoreSectorCredit s = _
    unfold execBulkStoreSectorCredit
    simp only [hargs, hcopy, ht, hkind]
    rw [found]
  -- the engine's writes
  have hout : engineOut (g.core :: teamCores s t) (sectorWrites (storeBytes t [] (movedWith q sectors)))
      { s with copies := mput s.copies id (movedCopy c gid obj r off k (leftOf q sectors)) }
      (engineWrite { s with copies := mput s.copies id (movedCopy c gid obj r off k (leftOf q sectors)) } g.core t.world (teamCores s t)
        (storeBytes t [] (movedWith q sectors)) c.after) :=
    engineWrite_out (s := { s with copies := mput s.copies id (movedCopy c gid obj r off k (leftOf q sectors)) }) hwrites hcore hcores (fun rec hr => movedBytes_addr (fun p hp x hx pa hpa => (hbacked p hp x hx pa hpa).2) hr) c.after
  have hcredit := creditStore_eq (id := id) hkind hfailed ht hg hfind habsent herrs hsingle
  rw [hgot] at hcredit
  generalize engineWrite _ _ _ _ _ _ = u at hout hcredit
  have hteams : u.teams = s.teams := by rw [hout.access]
  have hcopies : u.copies = mput s.copies id (movedCopy c gid obj r off k (leftOf q sectors)) := by rw [hout.access]
  have hcopyu : mget u.copies id = some (movedCopy c gid obj r off k (leftOf q sectors)) := by rw [hcopies]; simp
  have hlast : (leftOf q sectors).filter (fun p => p.1 != sec) = [] ∨
      ∃ p ∈ (leftOf q sectors).filter (fun p => p.1 != sec), creditSectors.skipped p = false := by
    rcases hother with rfl | ⟨p, hp, hne, x, hx, pa, hpa, hapart⟩
    · exact .inl (by simp [leftOf, splitSectors, hsec])
    · have hout : pa / 32 ∉ globalSectors q.2 := fun hin => by
        obtain ⟨y, hy, hya⟩ := mem_globalSectors.mp hin
        exact hapart y hy hya
      obtain ⟨m, hm, hkey, hxm⟩ := stays hp hx hpa hout
      refine .inr ⟨m, List.mem_filter.mpr ⟨hm, by simp [hkey, hne]⟩, ?_⟩
      have held : m.2.all (fun x => x.2.1.isNone) = false := List.all_eq_false.mpr ⟨x, hxm, by simp [hpa]⟩
      simp [creditSectors.skipped, held]
  rw [creditSectors_one hcopyu rfl hlast, show (movedCopy c gid obj r off k (leftOf q sectors)).team = c.team from rfl] at hcredit
  -- the credit
  have hnote := noteLanding_step u c.team id (movedCopy c gid obj r off k (leftOf q sectors)) sec [] gid none (some obj)
  obtain ⟨t1, ht1, hsame⟩ := hnote.team t (by rw [hteams]; exact ht)
  obtain rfl := hsame hroll
  generalize noteLanding u c.team id (movedCopy c gid obj r off k (leftOf q sectors)) sec [] gid none (some obj) = u1 at hnote ht1 hcredit
  have hdrop := dropSector_rest u1 id sec
  have ht2 : mget (dropSector u1 id sec).teams c.team = some t1 := by rw [hdrop]; exact ht1
  have hfree2 : imageFree (dropSector u1 id sec) := by rw [hdrop]; exact hnote.noImage (imageFree_teams hteams himage)
  obtain ⟨ht3, hfree3, -⟩ := updateObj_spec (o := obj) (f := Barrier.credit 32) ht2 hroll hfree2
  have hquiet := updateObj_quiet (o := obj) (f := Barrier.credit 32) ht2 hroll hrels
  rw [takeImages_none hfree3] at hcredit
  refine ⟨_, _, hexec.trans (congrArg Host.Outcome.next hcredit), ht3, rfl, objAt_putObj_self hobj _, fun hone => ?_, fun x hx pa hpa hlt core hseer => ?_⟩
  · rw [hquiet]
    show mget (dropSector u1 id sec).copies id = none
    have hcopy1 : mget u1.copies id = some (movedCopy c gid obj r off k (leftOf q sectors)) := by rw [hnote.rest]; exact hcopyu
    have hnil : (leftOf q sectors).filter (fun p => p.1 != sec) = [] := by rw [hone]; simp [leftOf, splitSectors, hsec]
    simp [dropSector, hcopy1, movedCopy, hnil]
  · refine viewRead_engine hout ?_ ((movedBytes_get hnodup hq hx hpa hlt).trans (by rw [hsec])) ?_ t1.world
    · rw [hquiet, hdrop, hnote.rest]
    · rcases hseer with rfl | hseer
      · exact List.mem_cons_self
      · exact List.mem_cons_of_mem _ hseer

/-- Settles O44: landings in the slot, and what the cores of a team see of a bulk store. -/
theorem copiesLand : Obligations.CopiesLand := ⟨transfersLand, bulkSectorsLand, bulkStoresAreCredited⟩

end Sys2Proof.Proofs.BulkCredits

namespace Sys2Proof.Proofs.LoadWords

/-! The words that load (O17): what a load needs at issue, where a global load goes, and what a load of the slot writes. -/

open Sys2Proof Sys2Proof.Machine Sys2Proof.Laws Sys2Proof.Proofs.Facts Sys2Proof.Proofs.Issuing Sys2Proof.Proofs.Barriers Sys2Proof.Proofs.Access
open Sys2Proof.Proofs.Paging Sys2Proof.Proofs.Reads Sys2Proof.Proofs.Slot Sys2Proof.Proofs.SlotBytes Sys2Proof.Proofs.Performed

/-! ### The issue of a load -/

/-- A single execution answers for every lane of CL (R81): where its access is good, so is each of theirs. -/
theorem allOk_spread {once : Bool} {cl : Mask} {as : List (Nat × LaneAcc)} (h : Reading.allOk as) : Reading.allOk (spread once cl as) := by
  cases once with
  | false => exact h
  | true =>
    cases as with
    | nil => exact nofun
    | cons p as =>
      intro q hq
      obtain ⟨l, -, rfl⟩ := List.mem_map.mp hq
      exact h p List.mem_cons_self

/-- Good accesses fail nowhere. -/
theorem succeeds {as : List (Nat × LaneAcc)} (h : Reading.allOk as) : ¬ (!(accFailures as).isEmpty) = true := by simp [accFailures_ok h]

theorem readError_cachesOnly {s u : State} (h : cachesOnly s u) (w pa n : Nat) : readError u w pa n = readError s w pa n := by rw [h]; rfl

theorem unwritten_cachesOnly {s u : State} (h : cachesOnly s u) (pair : Nat) (trailing : Bool) (at_ : List (Bool × Nat × Nat)) :
    unwritten u pair trailing at_ = unwritten s pair trailing at_ := by rw [h]; rfl

/-- Where no entry of the team's pair is on the bytes of a load, it goes on. -/
theorem afterEntries_done {s : State} {g : Group} {t : Team} {at_ : List (Bool × Nat × Nat)}
    (h : t.twin ≠ 0 → unwritten s (pairId g t) (decide (t.twin = 2)) at_ = false) (c : Ctx) (k : State) : afterEntries s c g t at_ k = k := by
  refine if_neg fun hwaits => ?_
  obtain ⟨htw, hun⟩ := Bool.and_eq_true_iff.mp hwaits
  exact absurd (hun.symm.trans (h (by simpa using htw))) (by decide)

/-- The destination of a load (R178). -/
def loadDest (f : SForm) : Nat := if ud f then uni f f.d else f.d.toNat

/-- The addresses that a load needs translated (R160). -/
def loadVas (f : SForm) (g : Group) (t : Team) (spc n : Nat) (cl : Mask) : List Nat :=
  (whoNeeds (ud f) cl (Reading.accesses f g t (ud f) spc n cl)).flatMap (·.2)

/-- The group of an acquire counts it. -/
def acquired (acq : Option Nat) (g : Group) : Group := if acq.isSome then { g with acqCount := g.acqCount + 1 } else g

theorem acquired_eq (acq : Option Nat) (g : Group) : acquired acq g = { g with acqCount := if acq.isSome then g.acqCount + 1 else g.acqCount } := by
  unfold acquired
  split <;> rfl

/-- What a load puts out, with a number. -/
def loadFlight (f : SForm) (acq : Option Nat) (n : Nat) (c : Ctx) (g : Group) (t : Team) (tr : Nat → Nat × Nat) (as : List (Nat × LaneAcc)) (id : Nat) :
    Flight :=
  { Flight.blank with
    id := id, op := .load, dest := some (loadDest f), uniform := ud f, noWrite := f.nw, size := n, sx := memSx f, latch := g.latchId, acq := acq
    world := t.world, parts := Reading.partsOf tr as, lines := fillLines tr as, pc := c.pc, twin := if acq.isSome then acqKey g t else none
    interval := t.interval }

section
variable {s : State} {c : Ctx} {g : Group} {t : Team} {f : SForm} {acq : Option Nat} {spc n : Nat} (h : Issuing s c g t) (hq : Undisturbed s g)
  (hr : canRead g [Reading.addrOp f spc] .none) (hv : ud f = false → loadDest f + max 1 (n / 4) ≤ g.vcount) (hcl : clOf g c f.pg f.pn ≠ 0#32)
  (hok : Reading.allOk (Reading.accesses f g t (ud f) spc n (clOf g c f.pg f.pn)))
include hr hv

theorem load_meets (u : State) : issueCause u g t ((Reading.addrOp f spc).needs.and { vtop := if ud f then 0 else loadDest f + regsOf n }) = none :=
  issueCause_and (issueCause_operand hr (by simp)) (issueCause_vtop (by
    cases hu : ud f
    · exact hv hu
    · exact Nat.zero_le _))

include h hq hcl hok

/-- A load of mapped pages that meets no error goes out (R178). -/
theorem loadWord_launches (hspc : spc ≠ 1) (hm : Reading.allMapped s g t 1 (loadVas f g t spc n (clOf g c f.pg f.pn)))
    (hclean : Reading.allClean s t.world (Reading.partsOf (Reading.physOf s g t 1 (loadVas f g t spc n (clOf g c f.pg f.pn)))
      (Reading.accesses f g t (ud f) spc n (clOf g c f.pg f.pn))))
    (htwin : t.twin ≠ 0 → unwritten s (pairId g t) (decide (t.twin = 2)) (entryBytes (Reading.partsOf
      (Reading.physOf s g t 1 (loadVas f g t spc n (clOf g c f.pg f.pn))) (Reading.accesses f g t (ud f) spc n (clOf g c f.pg f.pn)))) = false) :
    loadWord f acq spc n s =
      launchFlight (endWord (putGroup (Reading.looked s g t 1 (loadVas f g t spc n (clOf g c f.pg f.pn))).1 c.gid g) c (acquired acq g) true []) c.gid
        (loadFlight f acq n c g t (Reading.physOf s g t 1 (loadVas f g t spc n (clOf g c f.pg f.pn)))
          (Reading.accesses f g t (ud f) spc n (clOf g c f.pg f.pn)) 0) := by
  have looked := pageStates_cachesOnly { s with cur := .idle } g t 1 (loadVas f g t spc n (clOf g c f.pg f.pn))
  have quiet {k : Nat} (hk : k ≠ 0) := fijEvent_quiet hq.noInjection k hk
  unfold loadWord
  refine (issueWord_issuing h hq.noError (load_meets hr hv _)).trans ?_
  refine (if_neg hcl).trans ((if_neg (succeeds (allOk_spread hok))).trans ((if_neg hspc).trans ?_))
  refine (withPages_mapped (s := { s with cur := .idle }) h.group h.team hm).trans ?_
  have counted : (if spc = 0 then fijEvent g 3 else (g, false)) = (g, false) := by rw [quiet (by decide), ite_self]
  have marked : (if ud f || f.nw then (g, false) else fijEvent g 2) = (g, false) := by rw [quiet (by decide), ite_self]
  refine (afterEntries_done (fun htw => (unwritten_cachesOnly looked ..).trans (htwin htw)) ..).trans ?_
  dsimp only
  rw [counted]
  refine (checkedRead_clean ?_ ..).trans ?_
  · exact fun p hp q hq => (readError_cachesOnly looked ..).trans (hclean p hp q hq)
  dsimp only
  rw [marked]
  rfl

end

/-- A group at the end of a word with a late result, or with none: its latch entry is pushed, and its lanes stand at the next word. -/
def ended (c : Ctx) (g : Group) (full : Bool) : Group := advance (pushLatch { g with susp := [], resume := none } full []) c.mask

theorem ended_advanced (c : Ctx) (g : Group) (full : Bool) : advanced c g (ended c g full) :=
  advance_lanes (pushLatch { g with susp := [], resume := none } full []) c.mask

theorem endWord_ended {s : State} {c : Ctx} {g : Group} (hl : g.latchLost = false) (hi : imageFree s) (full : Bool) :
    endWord s c g full [] = putGroup s c.gid (ended c g full) := endWord_put hl hi full []

/-- The group of a word that has put something out. -/
def launched (c : Ctx) (g : Group) (full : Bool) (x : Flight) : Group := { ended c g full with flights := x :: g.flights }

theorem launched_advanced (c : Ctx) (g : Group) (full : Bool) (x : Flight) : advanced c g (launched c g full x) := ended_advanced c g full

theorem launchFlight_eq {s : State} {gid : Nat} {g : Group} (hg : mget s.groups gid = some g) (x : Flight) :
    launchFlight s gid x =
      { s with fresh := s.fresh + 1, groups := mput s.groups gid { g with flights := { x with id := s.fresh } :: g.flights } } :=
  onGroup_some (s := { s with fresh := s.fresh + 1 }) hg (fun g => { g with flights := { x with id := s.fresh + 1 - 1 } :: g.flights })

/-- A word that puts something out ends, and it is out under the next number. -/
theorem launch_endWord {s : State} {c : Ctx} {g : Group} (hl : g.latchLost = false) (hi : imageFree s) (full : Bool) (x : Flight) :
    launchFlight (endWord s c g full []) c.gid x =
      { s with fresh := s.fresh + 1, groups := mput s.groups c.gid (launched c g full { x with id := s.fresh }) } := by
  rw [endWord_ended hl hi, launchFlight_eq ((putGroup_get ..).trans (if_pos rfl))]
  simp only [putGroup, mput_mput]
  rfl

theorem loadsGoOut : Says.LoadsGoOut := by
  intro s c g t f i acq h hq hi hspc n d cl as vas tr hr hv hcl hok hmapped hclean htwin
  have hexec : exec i s = .next (loadWord f acq (memSpc f) n s) := by
    rcases hi with ⟨rfl, rfl⟩ | ⟨rfl, rfl⟩ <;> rfl
  have looked := pageStates_cachesOnly { s with cur := .idle } g t 1 vas
  have himage : imageFree (putGroup (Reading.looked s g t 1 vas).1 c.gid g) :=
    imageFree_teams (s := s) (by show (Reading.looked s g t 1 vas).1.teams = _; unfold Reading.looked; rw [looked]) hq.noImage
  have hword := loadWord_launches (acq := acq) h hq hr hv hcl hok hspc hmapped hclean htwin
  have hend := launch_endWord (c := c) (g := acquired acq g) (by rw [acquired_eq]; exact hq.ownLatches) himage true (loadFlight f acq n c g t tr as 0)
  refine ⟨launched c (acquired acq g) true (loadFlight f acq n c g t tr as s.fresh), hexec.trans (congrArg Host.Outcome.next (hword.trans (hend.trans ?_))), ?_, ?_, ?_, ?_⟩
  · have same : (Reading.looked s g t 1 vas).1 = { s with cur := .idle, cores := (Reading.looked s g t 1 vas).1.cores, dies := (Reading.looked s g t 1 vas).1.dies } :=
      looked
    rw [same]
    simp only [putGroup, mput_mput]
    rfl
  · rw [acquired_eq]; rfl
  · have := launched_advanced c (acquired acq g) true (loadFlight f acq n c g t tr as s.fresh)
    rw [acquired_eq] at this ⊢
    exact this
  · rw [acquired_eq]; rfl
  · rw [acquired_eq]; rfl

end Sys2Proof.Proofs.LoadWords

namespace Sys2Proof.Proofs.SlotReads

/-! Reads of the scratchpad slot (R164, R196, R411): what a read changes of the machine, and what the value of a load enters. -/

open Sys2Proof Sys2Proof.Machine Sys2Proof.Laws Sys2Proof.Proofs.Facts Sys2Proof.Proofs.Barriers Sys2Proof.Proofs.Seen
open Sys2Proof.Proofs.MatrixEngine Sys2Proof.Proofs.FloatingPoint

/-! ### The memory side of a read -/

/-- A team but for its marks of single-bit errors. -/
def seenTeam (t t' : Team) : Prop := t' = { t with spSingle := t'.spSingle }

/-- What a read of a team's slot leaves of the machine: groups, and of the team all but marks of single-bit errors. -/
structure slotSeen (tid : Nat) (s u : State) : Prop where
  groups : u.groups = s.groups
  team : ∀ t, mget s.teams tid = some t → ∃ t', mget u.teams tid = some t' ∧ seenTeam t t'

theorem slotSeen_trans {tid : Nat} {s u v : State} (h1 : slotSeen tid s u) (h2 : slotSeen tid u v) : slotSeen tid s v := by
  refine ⟨h2.groups.trans h1.groups, fun t ht => ?_⟩
  obtain ⟨t1, ht1, e1⟩ := h1.team t ht
  obtain ⟨t2, ht2, e2⟩ := h2.team t1 ht1
  exact ⟨t2, ht2, by unfold seenTeam at *; rw [e2, e1]⟩

theorem slotSeen_of_sameSeats {tid : Nat} {s u : State} (h : sameSeats s u) : slotSeen tid s u := ⟨h.2, fun t ht => ⟨t, h.1 ▸ ht, rfl⟩⟩

theorem worldRecord_sameSeats (s : State) (w : Nat) (e : EvRec) : sameSeats s (worldRecord s w e) := by
  unfold worldRecord
  split
  · exact ⟨rfl, rfl⟩
  · dsimp only
    split
    · exact sameSeats_trans (sameSeats_of_homeOnly (homeOnly_trans (deviceWrite_homeOnly ..) (deviceWrite_homeOnly ..))) ⟨rfl, rfl⟩
    · exact ⟨rfl, rfl⟩

theorem report_sameSeats (s : State) (world : Option Nat) (cls kind index sub : Nat) : sameSeats s (report s world cls kind index sub) := by
  unfold report
  cases world with
  | some w => exact sameSeats_trans (t := { s with ctl := _ }) ⟨rfl, rfl⟩ (worldRecord_sameSeats ..)
  | none => exact ⟨rfl, rfl⟩

theorem noteCorrection_sameSeats (s : State) (world : Option Nat) (kind index sub : Nat) : sameSeats s (noteCorrection s world kind index sub) := by
  unfold noteCorrection
  dsimp only
  split
  · exact report_sameSeats ..
  · exact ⟨rfl, rfl⟩

theorem correctScratch_seen (s : State) (tid o n : Nat) : slotSeen tid s (correctScratch s tid o n) := by
  unfold correctScratch
  split
  · exact slotSeen_of_sameSeats ⟨rfl, rfl⟩
  · next t ht =>
    split
    · exact slotSeen_of_sameSeats ⟨rfl, rfl⟩
    · have corrected : slotSeen tid s (onTeam s tid (fun t => { t with spSingle := t.spSingle.filter (fun w => !meetsWord o n w) })) := by
        rw [onTeam_some ht]
        refine ⟨rfl, fun t' ht' => ?_⟩
        obtain rfl : t = t' := Option.some.inj (ht.symm.trans ht')
        exact ⟨_, (putTeam_get ..).trans (if_pos rfl), rfl⟩
      exact slotSeen_trans corrected (foldl_keeps (P := slotSeen tid _)
        (fun u w hu => slotSeen_trans hu (slotSeen_of_sameSeats (noteCorrection_sameSeats ..))) _ (slotSeen_of_sameSeats ⟨rfl, rfl⟩))

theorem acquireAt_sameSeats (s : State) (core world scope : Nat) : sameSeats s (acquireAt s core world scope) := by
  unfold acquireAt
  split <;> exact ⟨rfl, rfl⟩

theorem spRead_seen (s : State) (gid tid : Nat) (t : Team) (x : SpAccess) : slotSeen tid s (spRead s gid tid t x) := by
  unfold spRead
  split
  · exact slotSeen_of_sameSeats ⟨rfl, rfl⟩
  · have corrected (g : Group) := slotSeen_trans (slotSeen_of_sameSeats (tid := tid) (sameSeats_of_homeOnly (seeBefore_homeOnly s g.core (relsAt t x.off x.size))))
      (correctScratch_seen _ tid x.off x.size)
    dsimp only
    split
    · exact slotSeen_trans (corrected _) (slotSeen_of_sameSeats (acquireAt_sameSeats ..))
    · exact corrected _

/-- A plain read of a slot that no release has marked and that holds no single-bit error changes nothing. -/
theorem spRead_plain {s : State} {tid : Nat} {t : Team} {x : SpAccess} (ht : mget s.teams tid = some t) (hr : t.rels = []) (hs : t.spSingle = [])
    (ha : x.acq = none) (gid : Nat) : spRead s gid tid t x = s := by
  have unmarked (k : Nat) : seeBefore s k (relsAt t x.off x.size) = s := by simp [relsAt, hr, seeBefore]
  unfold spRead
  split
  · rfl
  · rw [ha, unmarked]
    exact correctScratch_clean ht hs ..

/-! ### Loaded values -/

/-- A group but for its registers and the values of its latch entries. -/
def valuesOnly (g g' : Group) : Prop := g' = { g with v := g'.v, u := g'.u, latches := g'.latches }

theorem valuesOnly_trans {a b c : Group} (h1 : valuesOnly a b) (h2 : valuesOnly b c) : valuesOnly a c := by
  unfold valuesOnly at *
  rw [h2, h1]

theorem plainRegs_valuesOnly {g g' : Group} (h : valuesOnly g g') (hp : plainRegs g) : plainRegs g' := by
  unfold valuesOnly at h
  rw [h]
  exact hp

/-- The value that a load's registers from `d` up take from a number. -/
def regPart (d cnt x r : Nat) : Option W32 := if d ≤ r ∧ r < d + cnt then some (BitVec.ofNat 32 (x / 2 ^ (32 * (r - d)))) else none

/-- Consecutive vector registers of a lane take the parts of a number. -/
theorem vectorParts {g : Group} (hp : plainRegs g) (d cnt l x : Nat) (hl : l < 32) :
    let g' := (List.range cnt).foldl (fun g i => vWrite g (d + i) l (BitVec.ofNat 32 (x / 2 ^ (32 * i)))) g
    g' = { g with v := g'.v } ∧ ∀ r j, j < 32 → vRaw g' r j = if j = l then (regPart d cnt x r).getD (vRaw g r j) else vRaw g r j := by
  induction cnt with
  | zero => exact ⟨rfl, fun r j _ => by simp [regPart, show ¬ (d ≤ r ∧ r < d) by omega]⟩
  | succ cnt ih =>
    obtain ⟨hrest, hregs⟩ := ih
    rw [List.range_succ, List.foldl_append]
    generalize (List.range cnt).foldl (fun g i => vWrite g (d + i) l (BitVec.ofNat 32 (x / 2 ^ (32 * i)))) g = y at hrest hregs
    have hy : plainRegs y := by rw [hrest]; exact hp
    dsimp only [List.foldl_cons, List.foldl_nil]
    rw [vWrite_closed hy.1 hy.2]
    refine ⟨by rw [hrest], fun r j hj => ?_⟩
    rw [vRaw_write _ _ _ _ _ _ hl hj, hregs r j hj]
    by_cases hjl : j = l
    · by_cases hr : r = d + cnt
      · subst hr hjl; simp [regPart]
      · have same : (d ≤ r ∧ r < d + (cnt + 1)) ↔ (d ≤ r ∧ r < d + cnt) := by omega
        simp [hjl, hr, regPart, same]
    · simp [hjl]

/-- Consecutive uniform registers take the parts of a number. -/
theorem uniformParts {g : Group} (hp : plainRegs g) (d cnt x : Nat) :
    let g' := (List.range cnt).foldl (fun g i => uWrite g (d + i) (BitVec.ofNat 32 (x / 2 ^ (32 * i)))) g
    g' = { g with u := g'.u } ∧ ∀ r, uRead g' r = (regPart d cnt x r).getD (uRead g r) := by
  induction cnt with
  | zero => exact ⟨rfl, fun r => by simp [regPart, show ¬ (d ≤ r ∧ r < d) by omega]⟩
  | succ cnt ih =>
    obtain ⟨hrest, hregs⟩ := ih
    rw [List.range_succ, List.foldl_append]
    generalize (List.range cnt).foldl (fun g i => uWrite g (d + i) (BitVec.ofNat 32 (x / 2 ^ (32 * i)))) g = y at hrest hregs
    have hy : plainRegs y := by rw [hrest]; exact hp
    dsimp only [List.foldl_cons, List.foldl_nil]
    refine ⟨by rw [uWrite_plain hy.2, hrest], fun r => ?_⟩
    rw [uRead_write, hregs r]
    by_cases hr : r = d + cnt
    · subst hr; simp [regPart]
    · have same : (d ≤ r ∧ r < d + (cnt + 1)) ↔ (d ≤ r ∧ r < d + cnt) := by omega
      simp [hr, regPart, same]

/-- The number that a load's bytes become gives its registers (R178, R179). -/
theorem regPart_extendLoad {n : Nat} (hn : n = 1 ∨ n = 2 ∨ n % 4 = 0 ∧ 0 < n) (sx : Bool) (d x r : Nat) :
    regPart d (max 1 (n / 4)) (extendLoad n sx x) r = Reading.loadedReg n sx d x r := by
  have short {m : Nat} (h0 : 0 < m) (hm : m ≤ 2) (h1 : max 1 (m / 4) = 1) (h2 : 8 * m < 32) :
      regPart d (max 1 (m / 4)) (extendLoad m sx x) r = Reading.loadedReg m sx d x r := by
    rw [h1]
    unfold regPart Reading.loadedReg extendLoad
    rw [if_pos hm, if_pos hm]
    by_cases hr : r = d
    · rw [if_pos hr, if_pos (by omega)]
      subst hr
      simp only [Nat.sub_self, Nat.mul_zero, Nat.pow_zero, Nat.div_one]
      cases sx with
      | true =>
        have signed : extInt true (8 * m) x = (BitVec.ofNat (8 * m) x).toInt := extInt_eq_int (by omega) true x
        simp only [if_true, wrap_eq_modw, Reading.modw, signed, BitVec.ofNat_toNat, BitVec.setWidth_eq]
        rfl
      | false =>
        refine congrArg some (BitVec.eq_of_toNat_eq ?_)
        simp
    · rw [if_neg hr, if_neg (by omega)]
  rcases hn with rfl | rfl | ⟨h4, hpos⟩
  · exact short (by omega) (by omega) (by omega) (by omega)
  · exact short (by omega) (by omega) (by omega) (by omega)
  · have hlong : ¬ n ≤ 2 := by omega
    have hcount : max 1 (n / 4) = n / 4 := by omega
    rw [hcount]
    unfold regPart Reading.loadedReg extendLoad
    rw [if_neg hlong, if_neg hlong]
    split
    · next hr =>
      congr 1
      have hk : 2 ^ (8 * n) = 2 ^ (32 * (r - d)) * 2 ^ (8 * n - 32 * (r - d)) := by rw [← Nat.pow_add]; congr 1; omega
      have h32 : 2 ^ 32 ∣ 2 ^ (8 * n - 32 * (r - d)) := Nat.pow_dvd_pow 2 (by omega)
      refine BitVec.eq_of_toNat_eq ?_
      rw [BitVec.toNat_ofNat, BitVec.toNat_ofNat, hk, Nat.mod_mul_right_div_self, Nat.mod_mod_of_dvd _ h32]
    · rfl

/-- The same late value of several lanes changes latch entries alone. -/
theorem latchFill_lanes (g : Group) (latch v : Nat) (ls : List Nat) :
    ∃ m, ls.foldl (fun g l => latchFill g latch l (BitVec.ofNat 64 v)) g = { g with latches := m } :=
  ⟨_, foldl_keeps (P := fun y : Group => y = { g with latches := y.latches }) (fun y l hy => by rw [hy]; rfl) ls rfl⟩

section
variable {g : Group} (hp : plainRegs g) {d n : Nat} (hn : n = 1 ∨ n = 2 ∨ n % 4 = 0 ∧ 0 < n) (nw sx : Bool) (latch x : Nat)
include hp hn

/-- A load's value enters the registers of a lane that has not exited. -/
theorem finishLoad_lane {l : Nat} (hl : l < 32) (hlive : (g.lane l).st = .active) :
    let g' := finishLoad g false nw sx (some d) n latch l x
    valuesOnly g g' ∧ g'.u = g.u ∧ ∀ r j, j < 32 →
      vRaw g' r j = if j = l ∧ nw = false then (Reading.loadedReg n sx d x r).getD (vRaw g r j) else vRaw g r j := by
  have alive : ((g.lane l).st == .exited) = false := by rw [hlive]; rfl
  obtain ⟨hrest, hregs⟩ := vectorParts hp d (max 1 (n / 4)) l (extendLoad n sx x) hl
  cases nw with
  | true => exact ⟨rfl, rfl, fun r j _ => by simp; rfl⟩
  | false =>
    have shape : finishLoad g false false sx (some d) n latch l x = latchFill (putLoad g false d n l (extendLoad n sx x)) latch l
        (BitVec.ofNat 64 (extendLoad n sx x)) := by
      unfold finishLoad
      simp [alive]
    rw [shape]
    dsimp only
    unfold putLoad
    simp only [Bool.false_eq_true, if_false]
    generalize (List.range (max 1 (n / 4))).foldl _ g = y at hrest hregs
    refine ⟨?_, ?_, fun r j hj => ?_⟩
    · unfold valuesOnly; rw [hrest]; rfl
    · rw [hrest]; rfl
    · rw [← regPart_extendLoad hn]
      exact (hregs r j hj).trans (by simp)

/-- A load's value enters the uniform registers. -/
theorem finishLoad_uniform (l : Nat) :
    let g' := finishLoad g true nw sx (some d) n latch l x
    valuesOnly g g' ∧ g'.v = g.v ∧ ∀ r, uRead g' r = if nw = false then (Reading.loadedReg n sx d x r).getD (uRead g r) else uRead g r := by
  obtain ⟨m, hm⟩ := latchFill_lanes (if nw then g else putLoad g true d n l (extendLoad n sx x)) latch (extendLoad n sx x) (List.range nLanes)
  have shape : finishLoad g true nw sx (some d) n latch l x = { (if nw then g else putLoad g true d n l (extendLoad n sx x)) with latches := m } := by
    rw [← hm]
    cases nw <;> rfl
  rw [shape]
  cases nw with
  | true => exact ⟨rfl, rfl, fun r => (if_neg (by decide)).symm⟩
  | false =>
    obtain ⟨hrest, hregs⟩ : putLoad g true d n l (extendLoad n sx x) = { g with u := (putLoad g true d n l (extendLoad n sx x)).u } ∧
        ∀ r, uRead (putLoad g true d n l (extendLoad n sx x)) r = (regPart d (max 1 (n / 4)) (extendLoad n sx x) r).getD (uRead g r) :=
      uniformParts hp d (max 1 (n / 4)) (extendLoad n sx x)
    dsimp only
    simp only [Bool.false_eq_true, if_false]
    generalize putLoad g true d n l (extendLoad n sx x) = y at hrest hregs
    refine ⟨?_, ?_, fun r => ?_⟩
    · unfold valuesOnly; rw [hrest]
    · rw [hrest]
    · rw [← regPart_extendLoad hn, if_pos trivial, ← hregs r]
      rfl

end

/-! ### Loads of the slot -/

/-- A load of present sectors whose result no twin gives. -/
structure SlotLoad (t : Team) (x : SpAccess) : Prop where
  op : x.op = .load
  key : x.key = none
  present : absentSector t x.off x.size = none

/-- What a load of the slot leaves of its group. -/
def loadResult (t : Team) (g : Group) (x : SpAccess) : Group := spResult g x x.sx x.size (x.lane.getD ((lanesOf x.mask).headD 0)) (spNum t x.off x.size)

theorem absentSector_seen {t t' : Team} (h : seenTeam t t') (o n : Nat) : absentSector t' o n = absentSector t o n := by rw [h]; rfl

theorem spNum_seen {t t' : Team} (h : seenTeam t t') (o n : Nat) : spNum t' o n = spNum t o n := by rw [h]; rfl

theorem spDo_load {s : State} {gid tid : Nat} {t : Team} {x : SpAccess} (ht : mget s.teams tid = some t) (hop : x.op = .load) (hkey : x.key = none) :
    spDo s gid tid x = onGroup (spRead s gid tid t x) gid (fun g => loadResult t g x) := by
  unfold spDo
  rw [ht, hop, hkey]
  rfl

/-- An access of a word whose sectors are present is performed. -/
theorem spRun_cons {s : State} {gid tid : Nat} {t : Team} {x : SpAccess} (ht : mget s.teams tid = some t) (hx : absentSector t x.off x.size = none)
    (xs : List SpAccess) : spRun s gid tid (x :: xs) = spRun (spDo s gid tid x) gid tid xs := by
  unfold spRun
  rw [List.foldl_cons]
  simp only [ht, hx]

/-- The loads of a word enter the registers of its group one after another. -/
theorem spRun_loads {t : Team} {gid tid : Nat} {G : SMap Group} {xs : List SpAccess} (hx : ∀ x ∈ xs, SlotLoad t x) {u : State} {g : Group} {t' : Team}
    (hgroups : u.groups = mput G gid g) (ht : mget u.teams tid = some t') (hseen : seenTeam t t') :
    (spRun u gid tid xs).groups = mput G gid (xs.foldl (loadResult t) g) := by
  induction xs generalizing u g t' with
  | nil => exact hgroups
  | cons x xs ih =>
    obtain ⟨hop, hkey, hpresent⟩ := hx x List.mem_cons_self
    have hread := spRead_seen u gid tid t' x
    obtain ⟨t1, ht1, hseen1⟩ := hread.team t' ht
    have hg : mget (spRead u gid tid t' x).groups gid = some g := by rw [hread.groups, hgroups]; simp
    have value : loadResult t' g x = loadResult t g x := by unfold loadResult; rw [spNum_seen hseen]
    rw [spRun_cons ht ((absentSector_seen hseen ..).trans hpresent), spDo_load ht hop hkey, onGroup_some hg, value]
    refine ih (fun y hy => hx y (List.mem_cons_of_mem _ hy)) ?_ ht1 (by unfold seenTeam at *; rw [hseen1, hseen])
    show mput (spRead u gid tid t' x).groups gid _ = _
    rw [hread.groups, hgroups, mput_mput]

/-- Plain loads of a slot that nothing has marked change nothing else. -/
theorem spRun_loads_plain {t : Team} {s : State} {gid tid : Nat} (ht : mget s.teams tid = some t) (hr : t.rels = []) (hs : t.spSingle = [])
    {xs : List SpAccess} (hx : ∀ x ∈ xs, SlotLoad t x ∧ x.acq = none) (g : Group) :
    spRun (putGroup s gid g) gid tid xs = putGroup s gid (xs.foldl (loadResult t) g) := by
  induction xs generalizing g with
  | nil => rfl
  | cons x xs ih =>
    obtain ⟨⟨hop, hkey, hpresent⟩, hacq⟩ := hx x List.mem_cons_self
    have ht' : mget (putGroup s gid g).teams tid = some t := ht
    rw [spRun_cons ht' hpresent, spDo_load ht' hop hkey, spRead_plain ht' hr hs hacq, onGroup_some ((putGroup_get ..).trans (if_pos rfl))]
    refine (congrArg (spRun · gid tid xs) ?_).trans (ih (fun y hy => hx y (List.mem_cons_of_mem _ hy)) (loadResult t g x))
    simp only [putGroup, mput_mput]

end Sys2Proof.Proofs.SlotReads

namespace Sys2Proof.Proofs.SlotLoads

/-! The words that load from the slot (O17). -/

open Sys2Proof Sys2Proof.Machine Sys2Proof.Laws Sys2Proof.Proofs.Facts Sys2Proof.Proofs.Issuing Sys2Proof.Proofs.Barriers Sys2Proof.Proofs.Access
open Sys2Proof.Proofs.LoadWords Sys2Proof.Proofs.SlotReads Sys2Proof.Proofs.CausesAtIssue

/-! ### Accesses of the slot -/

/-- A good access of the slot is one piece at its offset. -/
theorem scratchAcc_ok {t : Team} {o : Int} {n : Nat} {ps : List (Nat × Nat)} (h : scratchAcc t o n n = .ok ps) : ps = [(o.toNat, n)] := by
  by_cases ha : o % n = 0
  · by_cases hin : 0 ≤ o ∧ o + n ≤ t.scratch
    · rw [scratchAcc_inside ha hin] at h
      exact (LaneAcc.ok.inj h).symm
    · rw [scratchAcc_outside ha hin] at h
      cases h
  · rw [scratchAcc_misaligned t ha] at h
    cases h

/-- The offset in the slot of a lane's access (R156). -/
def slotOff (f : SForm) (g : Group) (l : Nat) : Nat := (((Reading.addrOp f 1).read g l % 2 ^ 32 : Nat) + offOf f : Int).toNat

/-- The accesses of some lanes, each a piece of the slot, are at the lanes' offsets. -/
theorem slotPieces {f : SForm} {g : Group} {t : Team} {n : Nat} {ls : List Nat}
    (h : Reading.allOk (ls.map (fun l => (l, laneAcc g t 1 l ((Reading.addrOp f 1).read g l) (offOf f) n)))) {l : Nat} (hl : l ∈ ls) :
    (laneAcc g t 1 l ((Reading.addrOp f 1).read g l) (offOf f) n).pieces = [(slotOff f g l, n)] := by
  obtain ⟨ps, hps⟩ := h _ (List.mem_map_of_mem hl)
  have one := scratchAcc_ok hps
  dsimp only at hps
  rw [hps, one]
  simp only [LaneAcc.pieces, slotOff]
  push_cast
  rfl

theorem zipIdx_map_left {α β : Type} (F : α → β) (l : List α) : l.zipIdx.map (fun p => F p.1) = l.map F := by
  refine (List.map_map (f := Prod.fst) (g := F) (l := l.zipIdx)).symm.trans ?_
  rw [List.zipIdx_map_fst]

/-- The access of the slot that a load makes in a lane, or once for all of CL (R164). -/
def slotLoad (f : SForm) (acq : Option Nat) (n : Nat) (c : Ctx) (g : Group) (t : Team) (cl : Mask) (p : Nat × Nat) : SpAccess :=
  { lane := if ud f then none else some p.1, mask := if ud f then cl else maskOf [p.1], by_ := maskOf [p.1], sec := 0
    off := p.2, size := n, op := .load, dest := some (loadDest f), uniform := ud f, noWrite := f.nw, sx := memSx f, latch := g.latchId
    pc := c.pc, key := none, inject := false, interval := t.interval, acq := acq, after := [] }

section
variable {s : State} {c : Ctx} {g : Group} {t : Team} {f : SForm} {acq : Option Nat} {n : Nat} (h : Issuing s c g t) (hq : Undisturbed s g) (htw : t.twin = 0)
  (hr : canRead g [Reading.addrOp f 1] .none) (hv : ud f = false → loadDest f + max 1 (n / 4) ≤ g.vcount) (hcl : clOf g c f.pg f.pn ≠ 0#32)
  (hok : Reading.allOk (Reading.accesses f g t (ud f) 1 n (clOf g c f.pg f.pn)))
  (hpres : ∀ p ∈ Reading.accesses f g t (ud f) 1 n (clOf g c f.pg f.pn), ∀ q ∈ p.2.pieces, absentSector t q.1 n = none ∧ spBad t q.1 n = false)
include h hq htw hr hv hcl hok hpres

/-- A load of present sectors of the slot is performed as its word ends. -/
theorem loadWord_slot : loadWord f acq 1 n s =
    spRun (putGroup { s with cur := .idle } c.gid (ended c (acquired acq g) true)) c.gid g.team
      ((addrLanes (ud f) (clOf g c f.pg f.pn)).map (fun l => slotLoad f acq n c g t (clOf g c f.pg f.pn) (l, slotOff f g l))) := by
  have quiet {k : Nat} (hk : k ≠ 0) := fijEvent_quiet hq.noInjection k hk
  have offs : (Reading.accesses f g t (ud f) 1 n (clOf g c f.pg f.pn)).map (fun p => (p.1, (p.2.pieces.headD (0, 0)).1)) =
      (addrLanes (ud f) (clOf g c f.pg f.pn)).map (fun l => (l, slotOff f g l)) := by
    refine (List.map_map ..).trans (List.map_congr_left fun l hl => ?_)
    have := slotPieces hok hl
    simp only [Function.comp_apply, this]
    rfl
  have clean : ((addrLanes (ud f) (clOf g c f.pg f.pn)).map (fun l => (l, slotOff f g l))).filter
      (fun p => (absentSector t p.2 n).isNone && spBad t p.2 n) = [] := by
    rw [List.filter_eq_nil_iff]
    intro p hp
    obtain ⟨l, hl, rfl⟩ := List.mem_map.mp hp
    have := (hpres _ (List.mem_map_of_mem hl) (slotOff f g l, n) (by rw [slotPieces hok hl]; exact List.mem_singleton.mpr rfl)).2
    simp [this]
  have nokey : (if acq.isSome then acqKey g t else none) = none := by
    rw [acqKey, if_pos htw, ite_self]
  have unmarked : (if ud f || f.nw then (g, false) else fijEvent g 2) = (g, false) := by rw [quiet (by decide), ite_self]
  unfold loadWord
  refine (issueWord_issuing h hq.noError (load_meets hr hv _)).trans ?_
  refine (if_neg hcl).trans ((if_neg (succeeds (allOk_spread hok))).trans ((if_pos rfl).trans ?_))
  unfold loadScratch
  rw [nokey]
  refine (if_neg (by simp [resultHold])).trans ?_
  refine (afterEntries_done (fun h => absurd htw h) ..).trans ?_
  rw [quiet (by decide)]
  erw [offs]
  dsimp only
  rw [clean, unmarked]
  have ends : endWord (putGroup { s with cur := .idle } c.gid g) c (acquired acq g) true [] =
      putGroup { s with cur := .idle } c.gid (ended c (acquired acq g) true) := by
    rw [endWord_ended (s := putGroup { s with cur := .idle } c.gid g) (by rw [acquired_eq]; exact hq.ownLatches) hq.noImage]
    simp only [putGroup, mput_mput]
  refine (if_neg Bool.false_ne_true).trans ?_
  have sameTeam : (acquired acq g).team = g.team := by rw [acquired_eq]
  have sameLoad : slotLoad f acq n c (acquired acq g) t (clOf g c f.pg f.pn) = slotLoad f acq n c g t (clOf g c f.pg f.pn) := by rw [acquired_eq]; rfl
  show spRun (endWord (putGroup { s with cur := .idle } c.gid g) c (acquired acq g) true []) c.gid (acquired acq g).team
    (List.map (fun p => slotLoad f acq n c (acquired acq g) t (clOf g c f.pg f.pn) p.1) (List.zipIdx _)) = _
  rw [ends, sameTeam, sameLoad, zipIdx_map_left, List.map_map]
  rfl

end

/-! ### What the registers hold -/

/-- Loads of some lanes that have not exited enter those lanes' registers. -/
theorem lanesLoaded {n d : Nat} (hn : n = 1 ∨ n = 2 ∨ n % 4 = 0 ∧ 0 < n) (nw sx : Bool) (latch : Nat) (x : Nat → Nat) {ls : List Nat} {g : Group}
    (hp : plainRegs g) (hls : ∀ l ∈ ls, l < 32 ∧ (g.lane l).st = .active) (hnodup : ls.Nodup) :
    let g' := ls.foldl (fun g l => finishLoad g false nw sx (some d) n latch l (x l)) g
    valuesOnly g g' ∧ g'.u = g.u ∧ ∀ r j, j < 32 →
      vRaw g' r j = if j ∈ ls ∧ nw = false then (Reading.loadedReg n sx d (x j) r).getD (vRaw g r j) else vRaw g r j := by
  induction ls generalizing g with
  | nil => exact ⟨rfl, rfl, fun r j _ => by simp⟩
  | cons l ls ih =>
    obtain ⟨hl, hlive⟩ := hls l List.mem_cons_self
    obtain ⟨hfresh, hrestNodup⟩ := List.nodup_cons.mp hnodup
    obtain ⟨hvalues, hu, hregs⟩ := finishLoad_lane hp hn nw sx latch (x l) hl hlive
    rw [List.foldl_cons]
    generalize finishLoad g false nw sx (some d) n latch l (x l) = y at hvalues hu hregs
    obtain ⟨ihvalues, ihu, ihregs⟩ := ih (plainRegs_valuesOnly hvalues hp) (fun k hk => by
      unfold valuesOnly at hvalues
      rw [hvalues]
      exact hls k (List.mem_cons_of_mem _ hk)) hrestNodup
    refine ⟨valuesOnly_trans hvalues ihvalues, ihu.trans hu, fun r j hj => ?_⟩
    rw [ihregs r j hj, hregs r j hj]
    by_cases hjl : j = l
    · subst hjl
      simp [hfresh]
    · simp [hjl]

theorem ended_lane_st (c : Ctx) (g : Group) (full : Bool) (l : Nat) : ((ended c g full).lane l).st = (g.lane l).st := by
  obtain ⟨hlen, hlanes⟩ := ended_advanced c g full
  by_cases hl : l < g.lanes.length
  · rw [hlanes l hl]
    split <;> rfl
  · simp [Group.lane, List.getD_eq_getElem?_getD, hl, hlen]

theorem loadBytes_cases {f : SForm} {n : Nat} (h : n = szBytes f ∨ n = 4 * 2 ^ memSz f) : n = 1 ∨ n = 2 ∨ n % 4 = 0 ∧ 0 < n := by
  have pos (k : Nat) : 0 < 2 ^ k := Nat.pow_pos (by decide)
  rcases h with rfl | rfl
  · unfold szBytes
    match memSz f with
    | 0 => exact .inl rfl
    | 1 => exact .inr (.inl rfl)
    | k + 2 =>
      have := pos k
      rw [Nat.pow_add]
      omega
  · have := pos (memSz f)
    omega

/-- What a load of the slot writes in a lane, and once for all of CL. -/
theorem loadResult_slotLoad (f : SForm) (acq : Option Nat) (n : Nat) (c : Ctx) (g : Group) (t : Team) (cl : Mask) (p : Nat × Nat) (y : Group) :
    loadResult t y (slotLoad f acq n c g t cl p) =
      finishLoad y (ud f) f.nw (memSx f) (some (loadDest f)) n g.latchId (if ud f then (lanesOf cl).headD 0 else p.1) (spNum t p.2 n) := by
  have lane : (if ud f then none else some p.1).getD ((lanesOf (if ud f then cl else maskOf [p.1])).headD 0) =
      if ud f then (lanesOf cl).headD 0 else p.1 := by cases ud f <;> rfl
  simp only [loadResult, slotLoad, spResult, lane, Bool.false_eq_true, if_false]

section
variable {f : SForm} {n : Nat} (hn : n = 1 ∨ n = 2 ∨ n % 4 = 0 ∧ 0 < n) (acq : Option Nat) (c : Ctx) (g : Group) (t : Team) {cl : Mask} {y : Group}
  (hp : plainRegs y) (hlive : ∀ l, has cl l = true → (y.lane l).st = .active)

/-- The group after the loads of a word. -/
def afterLoads (f : SForm) (n : Nat) (acq : Option Nat) (c : Ctx) (g : Group) (t : Team) (cl : Mask) (y : Group) : Group :=
  ((addrLanes (ud f) cl).map (fun l => slotLoad f acq n c g t cl (l, slotOff f g l))).foldl (loadResult t) y

include hn hp in
/-- A single load fills uniform registers. -/
theorem afterLoads_uniform (hu : ud f = true) (hcl : cl ≠ 0#32) :
    valuesOnly y (afterLoads f n acq c g t cl y) ∧ (afterLoads f n acq c g t cl y).v = y.v ∧ ∀ r, uRead (afterLoads f n acq c g t cl y) r =
      if f.nw = false then (Reading.loadedReg n (memSx f) (loadDest f) (spNum t (slotOff f g ((lanesOf cl).headD 0)) n) r).getD (uRead y r) else uRead y r := by
  have shape : afterLoads f n acq c g t cl y = finishLoad y true f.nw (memSx f) (some (loadDest f)) n g.latchId ((lanesOf cl).headD 0)
      (spNum t (slotOff f g ((lanesOf cl).headD 0)) n) := by
    unfold afterLoads
    rw [hu]
    cases h : lanesOf cl with
    | nil => exact absurd (lanesOf_eq_nil.mp h) hcl
    | cons l ls =>
      have single : addrLanes true cl = [l] := by simp [addrLanes, h]
      rw [single]
      refine (loadResult_slotLoad ..).trans ?_
      rw [hu, h]
      rfl
  rw [shape]
  exact finishLoad_uniform hp hn f.nw (memSx f) ..

include hn hp hlive in
/-- Each lane's load fills vector registers of the lane. -/
theorem afterLoads_lanes (hu : ud f = false) :
    valuesOnly y (afterLoads f n acq c g t cl y) ∧ (afterLoads f n acq c g t cl y).u = y.u ∧ ∀ r l, l < 32 → vRaw (afterLoads f n acq c g t cl y) r l =
      if l ∈ lanesOf cl ∧ f.nw = false then (Reading.loadedReg n (memSx f) (loadDest f) (spNum t (slotOff f g l) n) r).getD (vRaw y r l)
      else vRaw y r l := by
  have shape : afterLoads f n acq c g t cl y = (lanesOf cl).foldl (fun y l => finishLoad y false f.nw (memSx f) (some (loadDest f)) n g.latchId l
      (spNum t (slotOff f g l) n)) y := by
    unfold afterLoads
    rw [hu, List.foldl_map]
    refine congrArg (fun F => (lanesOf cl).foldl F y) (funext fun y => funext fun l => ?_)
    refine (loadResult_slotLoad ..).trans ?_
    rw [hu]
    rfl
  rw [shape]
  exact lanesLoaded hn f.nw (memSx f) g.latchId (fun l => spNum t (slotOff f g l) n) hp
    (fun l hl => ⟨lt_of_mem_lanesOf hl, hlive l ((mem_lanesOf ..).mp hl)⟩) (nodup_lanesOf cl)

include hn hp hlive in
/-- The registers after the loads of a word: those of each lane, or the uniform ones once. -/
theorem afterLoads_registers (hcl : cl ≠ 0#32) :
    valuesOnly y (afterLoads f n acq c g t cl y) ∧
      (∀ r l, l < 32 → vRaw (afterLoads f n acq c g t cl y) r l = if has cl l && !f.nw && !ud f then
        (Reading.loadedReg n (memSx f) (loadDest f) (spNum t (slotOff f g l) n) r).getD (vRaw y r l) else vRaw y r l) ∧
      ∀ r, uRead (afterLoads f n acq c g t cl y) r = if ud f && !f.nw then
        (Reading.loadedReg n (memSx f) (loadDest f) (spNum t (slotOff f g ((lanesOf cl).headD 0)) n) r).getD (uRead y r) else uRead y r := by
  cases hu : ud f with
  | true =>
    obtain ⟨hvalues, hv', hu'⟩ := afterLoads_uniform hn acq c g t hp hu hcl
    refine ⟨hvalues, fun r l _ => ?_, fun r => (hu' r).trans (if_congr ?_ rfl rfl)⟩
    · unfold valuesOnly at hvalues
      rw [Bool.not_true, Bool.and_false, if_neg Bool.false_ne_true, hvalues, hv']
      rfl
    · simp
  | false =>
    obtain ⟨hvalues, hu', hv'⟩ := afterLoads_lanes hn acq c g t hp hlive hu
    refine ⟨hvalues, fun r l hl => (hv' r l hl).trans (if_congr ?_ rfl rfl), fun r => ?_⟩
    · simp [mem_lanesOf]
    · rw [Bool.false_and, if_neg Bool.false_ne_true, uRead, hu']
      rfl

end

theorem scratchLoadsReadTheSlot : Says.ScratchLoadsReadTheSlot := by
  intro s c g t f i n h hq htw hi hw d cl as o low hr hv hcl hlive hok hpres
  have hn : n = 1 ∨ n = 2 ∨ n % 4 = 0 ∧ 0 < n := loadBytes_cases (f := f) (hi.imp (fun h => h.2.2) (fun h => h.2))
  obtain ⟨acq, hexec, hacq⟩ : ∃ acq, exec i s = .next (loadWord f acq 1 n s) ∧ (i ≠ .lda f → acq = none) := by
    rcases hi with ⟨rfl | rfl, hspc, rfl⟩ | ⟨rfl, rfl⟩
    · exact ⟨none, by rw [← hspc]; rfl, fun _ => rfl⟩
    · exact ⟨some (memScope f), by rw [← hspc]; rfl, fun h => absurd rfl h⟩
    · exact ⟨none, rfl, fun _ => rfl⟩
  have hword := loadWord_slot (acq := acq) h hq htw hr hv hcl hok hpres
  set G := ended c (acquired acq g) true with hG
  have hloads : ∀ x ∈ (addrLanes (ud f) cl).map (fun l => slotLoad f acq n c g t cl (l, slotOff f g l)), SlotLoad t x ∧ x.acq = acq := by
    intro x hx
    obtain ⟨l, hl, rfl⟩ := List.mem_map.mp hx
    exact ⟨⟨rfl, rfl, (hpres _ (List.mem_map_of_mem hl) (slotOff f g l, n) (by rw [slotPieces hok hl]; exact List.mem_singleton.mpr rfl)).1⟩, rfl⟩
  have hgroups := spRun_loads (u := putGroup { s with cur := .idle } c.gid G) (gid := c.gid) (fun x hx => (hloads x hx).1) rfl h.team rfl
  have hadvanced : advanced c g G := by
    have := ended_advanced c (acquired acq g) true
    rw [hG]
    rw [acquired_eq] at this ⊢
    exact this
  have hplain : plainRegs G := by rw [hG, acquired_eq]; exact ⟨hq.noWindow, hq.noError⟩
  have hGrest : G = { g with lanes := G.lanes, latches := G.latches, latchId := g.latchId + 1, susp := [], resume := none, acqCount := G.acqCount } := by
    rw [hG, acquired_eq]; rfl
  have hGlive (l : Nat) (hl : has cl l = true) : (G.lane l).st = .active := by
    rw [hG, ended_lane_st, acquired_eq]
    exact hlive l (clOf_issue hl)
  obtain ⟨hvalues, hvreg, hureg⟩ := afterLoads_registers hn acq c g t hplain hGlive hcl
  refine ⟨_, afterLoads f n acq c g t cl G, hexec.trans (congrArg Host.Outcome.next hword), ?_, ?_, ?_, ?_, ?_, ?_⟩
  · rw [hgroups]
    exact (mget_mput ..).trans (if_pos rfl)
  · unfold valuesOnly at hvalues
    rw [hvalues]
    exact hadvanced
  · intro hrels hsingle hld
    exact spRun_loads_plain (s := { s with cur := .idle }) h.team hrels hsingle (fun x hx => ⟨(hloads x hx).1, (hloads x hx).2.trans (hacq hld)⟩) G
  · intro r l hl
    rw [hvreg r l hl, hGrest]
    rfl
  · intro r
    rw [hureg r, hGrest]
    rfl
  · unfold valuesOnly at hvalues
    rw [hvalues, hGrest]

/-- Settles O17: a global load is put out as its word ends, and the loads of the slot enter registers lane by lane, or once. -/
theorem loads : Obligations.Loads := ⟨Proofs.LoadWords.loadsGoOut, scratchLoadsReadTheSlot⟩

end Sys2Proof.Proofs.SlotLoads

namespace Sys2Proof.Proofs.StoreWords

/-! The words that store (O18): what a store needs at issue, and the writes that a global store puts out. -/

open Sys2Proof Sys2Proof.Machine Sys2Proof.Laws Sys2Proof.Proofs.Facts Sys2Proof.Proofs.Issuing Sys2Proof.Proofs.Barriers Sys2Proof.Proofs.Access
open Sys2Proof.Proofs.Paging Sys2Proof.Proofs.Performed Sys2Proof.Proofs.Visibility Sys2Proof.Proofs.LoadWords Sys2Proof.Proofs.BulkWords

/-! ### Writes one after another -/

/-- Writes of a core, each of a lane with its bytes, one after another (R172, R180). -/
def putWrites (s : State) (core world : Nat) (after : Nat → Before) (ws : List (Nat × Nat × List Byte)) : State :=
  ws.foldl (fun s w => storeWrite s core world w.2.1 w.2.2 (after w.1)) s

/-- The writes that are out after them. -/
def outWrites (n core world : Nat) (after : Nat → Before) (ws : List (Nat × Nat × List Byte)) : List MWrite :=
  ws.zipIdx.map (fun w => ⟨n + w.2, w.1.2.1, w.1.2.2, world, some core, false, 1#193 <<< core, after w.1.1, []⟩)

theorem outWrites_cons (n core world : Nat) (after : Nat → Before) (w : Nat × Nat × List Byte) (ws : List (Nat × Nat × List Byte)) :
    outWrites n core world after (w :: ws) =
      ⟨n, w.2.1, w.2.2, world, some core, false, 1#193 <<< core, after w.1, []⟩ :: outWrites (n + 1) core world after ws := by
  simp only [outWrites, List.zipIdx_cons, List.map_cons, Nat.add_zero, Nat.zero_add]
  rw [List.zipIdx_succ, List.map_map]
  refine congrArg _ (List.map_congr_left fun p _ => ?_)
  simp only [Function.comp_apply, Nat.add_left_comm, Nat.add_comm]

/-- What the writes of a core leave of the machine: its caches and what is out. -/
structure wrote (core : Nat) (ws : List MWrite) (s u : State) : Prop where
  rest : u = { s with writes := s.writes ++ ws, fresh := s.fresh + ws.length, cores := u.cores }
  cores : ∀ k, k ≠ core → mget u.cores k = mget s.cores k

theorem wrote_storeWrite {s : State} {pa : Nat} (h : inDoor s pa = false) (core world : Nat) (bs : List Byte) (after : Before) :
    wrote core [storedWrite s core world pa bs after] s (storeWrite s core world pa bs after) := by
  rw [storeWrite_eq h]
  exact ⟨rfl, fun k hk => mget_mupd_ne hk⟩

theorem wrote_trans {core : Nat} {ws xs : List MWrite} {s u v : State} (h1 : wrote core ws s u) (h2 : wrote core xs u v) : wrote core (ws ++ xs) s v := by
  refine ⟨?_, fun k hk => (h2.cores k hk).trans (h1.cores k hk)⟩
  have e := h2.rest
  rw [h1.rest] at e
  rw [e, List.length_append, ← Nat.add_assoc, ← List.append_assoc]

theorem wrote.inDoor {core : Nat} {ws : List MWrite} {s u : State} (h : wrote core ws s u) (pa : Nat) : inDoor u pa = inDoor s pa := by
  rw [h.rest]
  rfl

theorem putWrites_wrote {core world : Nat} {after : Nat → Before} {ws : List (Nat × Nat × List Byte)} {s : State}
    (h : ∀ w ∈ ws, inDoor s w.2.1 = false) : wrote core (outWrites s.fresh core world after ws) s (putWrites s core world after ws) := by
  induction ws generalizing s with
  | nil => exact ⟨by simp [putWrites, outWrites], fun _ _ => rfl⟩
  | cons w ws ih =>
    have first := wrote_storeWrite (h w List.mem_cons_self) core world w.2.2 (after w.1)
    have rest := ih (s := storeWrite s core world w.2.1 w.2.2 (after w.1)) fun x hx => (first.inDoor x.2.1).trans (h x (List.mem_cons_of_mem _ hx))
    have hfresh : (storeWrite s core world w.2.1 w.2.2 (after w.1)).fresh = s.fresh + 1 := by rw [first.rest]; rfl
    rw [hfresh] at rest
    rw [outWrites_cons]
    exact wrote_trans first rest

theorem putWrites_append (s : State) (core world : Nat) (after : Nat → Before) (xs ws : List (Nat × Nat × List Byte)) :
    putWrites s core world after (xs ++ ws) = putWrites (putWrites s core world after xs) core world after ws := List.foldl_append ..

/-- The pieces of a lane's store, at cached pages, are its writes (R172). -/
theorem foldl_pieces (core world lane : Nat) (after : Nat → Before) (bs : List Byte) {uncached : Nat → Bool} {ps : List (Nat × Nat × Nat)}
    (h : ∀ p ∈ ps, uncached p.1 = false) (s : State) (k : Nat) :
    (ps.foldl (fun (x : State × Nat) p =>
      (storeOne x.1 core world (uncached p.1) p.2.1 ((bs.drop x.2).take p.2.2) (after lane), x.2 + p.2.2)) (s, k)).1 =
    putWrites s core world after ((Reading.pieceWrites (bs.drop k) ps).map (fun w => (lane, w.1, w.2))) := by
  induction ps generalizing s k with
  | nil => rfl
  | cons p ps ih =>
    rw [List.foldl_cons, h p List.mem_cons_self]
    refine (ih (fun q hq => h q (List.mem_cons_of_mem _ hq)) _ _).trans ?_
    rw [Reading.pieceWrites, List.drop_drop]
    rfl

/-- A lane's store outside doorbell frames, at cached pages. -/
theorem storePieces_plain {s : State} {core world lane : Nat} {plain : Bool} {uncached : Nat → Bool} {after : Nat → Before} {bs : List Byte}
    {ps : List (Nat × Nat × Nat)} (hdoor : ∀ q ∈ ps, inDoor s q.2.1 = false) (h : ∀ p ∈ halfPieces ps, uncached p.1 = false) :
    storePieces s core world plain uncached (after lane) bs ps =
      putWrites s core world after ((Reading.pieceWrites bs (halfPieces ps)).map (fun w => (lane, w.1, w.2))) := by
  have outside : ¬ ps.any (fun p => inDoor s p.2.1) = true := by
    rw [List.any_eq_true]
    rintro ⟨q, hq, hin⟩
    rw [hdoor q hq] at hin
    cases hin
  exact (if_neg outside).trans (foldl_pieces core world lane after bs h s 0)

/-! ### The data of a store (R180) -/

theorem storeData_eq {f : SForm} (h : memSz f ≤ 4) (g : Group) (l : Nat) :
    storeData f g (szBytes f) l = leBytes (szBytes f) (Reading.storeNat f g (szBytes f) l) := by
  unfold storeData
  refine congrArg (leBytes (szBytes f)) ?_
  unfold Reading.storeNat szBytes regsOf
  obtain h | h | h | h | h : memSz f = 0 ∨ memSz f = 1 ∨ memSz f = 2 ∨ memSz f = 3 ∨ memSz f = 4 := by omega
  all_goals
    rw [h]
    cases hu : ud f <;> simp [List.range_succ]

/-- The addresses of a piece's writes. -/
theorem pieceWrites_addr {bs : List Byte} {ps : List (Nat × Nat × Nat)} {w : Nat × List Byte} (h : w ∈ Reading.pieceWrites bs ps) : ∃ p ∈ ps, w.1 = p.2.1 := by
  induction ps generalizing bs with
  | nil => cases h
  | cons p ps ih =>
    rcases List.mem_cons.mp h with rfl | h
    · exact ⟨p, List.mem_cons_self, rfl⟩
    · obtain ⟨q, hq, e⟩ := ih h
      exact ⟨q, List.mem_cons_of_mem _ hq, e⟩

theorem storeWrites_addr {f : SForm} {g : Group} {n : Nat} {parts : List LanePart} {w : Nat × Nat × List Byte} (h : w ∈ Reading.storeWrites f g n parts) :
    ∃ p ∈ parts, ∃ q ∈ halfPieces p.pieces, w.2.1 = q.2.1 := by
  obtain ⟨p, hp, hw⟩ := List.mem_flatMap.mp h
  obtain ⟨x, hx, rfl⟩ := List.mem_map.mp hw
  obtain ⟨q, hq, e⟩ := pieceWrites_addr hx
  exact ⟨p, hp, q, hq, e⟩

/-- The stores of some lanes, in ascending order, are their writes. -/
theorem foldl_storePieces {f : SForm} (hsz : memSz f ≤ 4) (g : Group) {core world : Nat} {plain : Bool} {uncached : Nat → Bool} {after : Nat → Before}
    {parts : List LanePart} {s : State} (hdoor : Reading.noDoor s parts) (hcached : ∀ p ∈ parts, ∀ q ∈ halfPieces p.pieces, uncached q.1 = false) :
    parts.foldl (fun s p => storePieces s core world plain uncached (after p.lane) (storeData f g (szBytes f) p.lane) p.pieces) s =
      putWrites s core world after (Reading.storeWrites f g (szBytes f) parts) := by
  induction parts generalizing s with
  | nil => rfl
  | cons p parts ih =>
    obtain ⟨hp, hhalf⟩ := hdoor p List.mem_cons_self
    rw [List.foldl_cons, storePieces_plain hp (hcached p List.mem_cons_self), storeData_eq hsz]
    have lanes := putWrites_wrote (s := s) (core := core) (world := world) (after := after)
      (ws := (Reading.pieceWrites (leBytes (szBytes f) (Reading.storeNat f g (szBytes f) p.lane)) (halfPieces p.pieces)).map (fun w => (p.lane, w.1, w.2)))
      (fun w hw => by
        obtain ⟨x, hx, rfl⟩ := List.mem_map.mp hw
        obtain ⟨q, hq, e⟩ := pieceWrites_addr hx
        exact (congrArg (inDoor s) e).trans (hhalf q hq))
    rw [ih (fun q hq => ?_) fun q hq => hcached q (List.mem_cons_of_mem _ hq)]
    · exact (putWrites_append ..).symm
    · obtain ⟨h1, h2⟩ := hdoor q (List.mem_cons_of_mem _ hq)
      exact ⟨fun r hr => (lanes.inDoor _).trans (h1 r hr), fun r hr => (lanes.inDoor _).trans (h2 r hr)⟩

/-! ### The word -/

/-- What comes before the writes of a store: a release's, or the performance of what overlaps them (R194, R196). -/
def storeBase (rel : Option Nat) (S : State) (c : Ctx) (g : Group) (t : Team) (cl : Mask) (parts : List LanePart) : State :=
  if rel.isSome then beforeRelease S c.gid g t cl else performOverlapping S c.gid (parts.flatMap (·.pieces))

/-- What a store's writes are put behind. -/
def storeBefore (rel : Option Nat) (base : State) (g : Group) (t : Team) : Before :=
  match rel with
  | some sc => (visibleTo base g.core).map (fun id => (id, scopeAgents base g t sc))
  | none => []

/-- The stores of the lanes, in a state, by the group `g`. -/
def storeLanes (f : SForm) (rel : Option Nat) (world : Nat) (g : Group) (uncached : Nat → Bool) (before : Before) (parts : List LanePart) (s : State) : State :=
  parts.foldl (fun s p => storePieces s g.core world rel.isNone uncached (before ++ (g.lane p.lane).fence) (storeData f g (szBytes f) p.lane) p.pieces) s

/-- The end of a store's word. -/
def storeEnd (rel : Option Nat) (c : Ctx) (g g1 : Group) (t : Team) (u : State) : State :=
  endWord (if rel.isSome || (decide (PairRole.alone = .alone) && decide (t.flags % 2 = 0)) then escape u g.team else u) c ((mget u.groups c.gid).getD g1) false []

/-- The physical pieces of some lanes. -/
def lanePieces (tr : Nat → Nat × Nat) (as : List (Nat × LaneAcc)) : List (Nat × List (Nat × Nat × Nat)) := as.map (fun p => (p.1, physPieces tr p.2.pieces))

theorem partsOf_eq (tr : Nat → Nat × Nat) (as : List (Nat × LaneAcc)) :
    Reading.partsOf tr as = (lanePieces tr as).map (fun p => (⟨p.1, p.2⟩ : LanePart)) := by
  rw [lanePieces, List.map_map]
  rfl

/-- A store's word, from what comes before its writes. -/
def storeTail (f : SForm) (rel : Option Nat) (c : Ctx) (g : Group) (t : Team) (tr : Nat → Nat × Nat) (ps : List (Nat × List (Nat × Nat × Nat)))
    (x : State × Before) : State :=
  let g1 := (mget x.1.groups c.gid).getD g
  storeEnd rel c g g1 t (ps.foldl (fun s p => storePieces s g1.core t.world rel.isNone (fun va => (tr va).2.testBit 5)
    (x.2 ++ (g1.lane p.1).fence) (storeData f g1 (szBytes f) p.1) p.2) x.1)

theorem storeTail_eq {f : SForm} {rel : Option Nat} {c : Ctx} {g g1 : Group} {t : Team} {tr : Nat → Nat × Nat} {as : List (Nat × LaneAcc)} {base : State}
    {before : Before} (hg1 : mget base.groups c.gid = some g1) : storeTail f rel c g t tr (lanePieces tr as) (base, before) =
      storeEnd rel c g g1 t (storeLanes f rel t.world g1 (fun va => (tr va).2.testBit 5) before (Reading.partsOf tr as) base) := by
  unfold storeTail storeLanes
  rw [hg1, partsOf_eq, List.foldl_map]
  rfl

section
variable {s : State} {c : Ctx} {g : Group} {t : Team} {f : SForm} {rel : Option Nat} (h : Issuing s c g t) (hq : Undisturbed s g) (htw : t.twin = 0)
  (hr : canRead g [Reading.addrOp f (memSpc f)] .none) (hv : ud f = false → f.d.toNat + max 1 (szBytes f / 4) ≤ g.vcount)
  (hcl : clOf g c f.pg f.pn ≠ 0#32)
  (hok : Reading.allOk (Reading.accesses f g t false (memSpc f) (szBytes f) (clOf g c f.pg f.pn)))
include hr hv

theorem store_meets (u : State) : issueCause u g t ((Reading.addrOp f (memSpc f)).needs.and { vtop := if ud f then 0 else f.d.toNat + regsOf (szBytes f) }) =
    none :=
  issueCause_and (issueCause_operand hr (by simp)) (issueCause_vtop (by
    cases hu : ud f
    · exact hv hu
    · exact Nat.zero_le _))

include h hq htw hcl hok

/-- A store to mapped pages ends after the stores of its lanes. -/
theorem storeWord_pages (hspc : memSpc f ≠ 1)
    (hm : Reading.allMapped s g t 2 (Reading.vasOf (Reading.accesses f g t false (memSpc f) (szBytes f) (clOf g c f.pg f.pn)))) {base : State} {g1 : Group}
    {parts : List LanePart} {tr : Nat → Nat × Nat}
    (htr : tr = Reading.physOf s g t 2 (Reading.vasOf (Reading.accesses f g t false (memSpc f) (szBytes f) (clOf g c f.pg f.pn))))
    (hparts : parts = Reading.partsOf tr (Reading.accesses f g t false (memSpc f) (szBytes f) (clOf g c f.pg f.pn)))
    (hbase : base = storeBase rel (Reading.looked s g t 2 (Reading.vasOf (Reading.accesses f g t false (memSpc f) (szBytes f) (clOf g c f.pg f.pn)))).1
      c g t (clOf g c f.pg f.pn) parts) (hg1 : mget base.groups c.gid = some g1) :
    storeWord f rel s = storeEnd rel c g g1 t (storeLanes f rel t.world g1 (fun va => (tr va).2.testBit 5) (storeBefore rel base g t) parts base) := by
  have pieces : (lanePieces tr (Reading.accesses f g t false (memSpc f) (szBytes f) (clOf g c f.pg f.pn))).flatMap (·.2) = parts.flatMap (·.pieces) := by
    rw [hparts, partsOf_eq, List.flatMap_map]
  subst htr
  have same : (lanesOf (clOf g c f.pg f.pn)).map (fun l =>
      (l, laneAcc g t (memSpc f) l ((opnd f f.a (fnBit f 9) (lqA f) (memSpc f == 0)).read g l) (offOf f) (szBytes f))) =
      Reading.accesses f g t false (memSpc f) (szBytes f) (clOf g c f.pg f.pn) := rfl
  unfold storeWord
  refine (issueWord_issuing h hq.noError (store_meets hr hv _)).trans ?_
  refine (if_neg hcl).trans ((if_neg (succeeds hok)).trans ((if_neg hspc).trans ?_))
  rw [same]
  generalize Reading.accesses f g t false (memSpc f) (szBytes f) (clOf g c f.pg f.pn) = as at *
  refine (withPages_mapped (s := { s with cur := .idle }) h.group h.team (by rw [whoNeeds_lanes]; exact hm)).trans ?_
  rw [whoNeeds_lanes]
  refine (pairOp_alone htw).trans ?_
  refine (if_neg (by decide)).trans ?_
  unfold Reading.looked at hbase
  unfold Reading.physOf Reading.looked at hparts pieces ⊢
  generalize pageStates { s with cur := .idle } g t 2 (Reading.vasOf as) = x at *
  have grouped : as.map (fun p => (p.1, physPieces (pagesMap x.2) p.2.pieces)) = lanePieces (pagesMap x.2) as := rfl
  have follows : ¬ PairRole.alone = .leading := by decide
  rw [hparts]
  cases rel with
  | none =>
    dsimp only
    have hb : performOverlapping x.1 c.gid ((lanePieces (pagesMap x.2) as).flatMap (fun p => p.2)) = base := by rw [hbase, pieces]; rfl
    rw [if_neg follows, grouped, hb]
    exact storeTail_eq hg1
  | some sc =>
    dsimp only
    have hb : releaseAt x.1 c g t (clOf g c f.pg f.pn) sc = (base, storeBefore (some sc) base g t) := by rw [hbase]; rfl
    rw [if_neg follows, grouped, hb]
    exact storeTail_eq hg1

end

theorem storeBase_performed (rel : Option Nat) (S : State) (c : Ctx) (g : Group) (t : Team) (cl : Mask) (parts : List LanePart) :
    performed c.gid { S with copies := (storeBase rel S c g t cl parts).copies } (storeBase rel S c g t cl parts) := by
  cases rel with
  | none =>
    have h := performOverlapping_performed S c.gid (parts.flatMap (·.pieces))
    show performed c.gid { S with copies := (performOverlapping S c.gid (parts.flatMap (·.pieces))).copies } (performOverlapping S c.gid (parts.flatMap (·.pieces)))
    rw [h.copies]
    exact h
  | some sc => exact beforeRelease_performed ..

/-- What a store's lanes hold does not depend on what its group has out. -/
theorem storeWrites_flights {g g1 : Group} (h : flightsChange g g1) (f : SForm) (n : Nat) (parts : List LanePart) :
    Reading.storeWrites f g1 n parts = Reading.storeWrites f g n parts := by
  unfold flightsChange at h
  rw [h]
  rfl

theorem memSz_le_of_storeOk {f : SForm} {rel : Bool} (h : storeOk f rel = true) : memSz f ≤ 4 := by
  simp only [storeOk, Bool.and_eq_true, decide_eq_true_eq] at h
  obtain ⟨⟨⟨⟨⟨⟨⟨⟨-, hsz⟩, -⟩, -⟩, -⟩, -⟩, -⟩, -⟩, -⟩ := h
  split at hsz <;> omega

theorem memSz_le {f : SForm} {i : Instr} (hi : i = .st f ∨ i = .strel f) (hw : i.wellFormed = true) : memSz f ≤ 4 := by
  rcases hi with rfl | rfl
  · exact memSz_le_of_storeOk (rel := false) hw
  · exact memSz_le_of_storeOk (rel := true) hw

/-- The word of a store ends in a state in which it has put its writes out. -/
theorem storeEnd_wrote {rel : Option Nat} {c : Ctx} {g g1 : Group} {t : Team} {core : Nat} {ws : List MWrite} {base u : State} (hw : wrote core ws base u)
    (hg1 : mget base.groups c.gid = some g1) (ht : mget base.teams g.team = some t) (hl : g1.latchLost = false) (hi : imageFree base) :
    ∃ s', storeEnd rel c g g1 t u = s' ∧ s'.writes = base.writes ++ ws ∧ s'.groups = mput base.groups c.gid (finished c g1) ∧
      s' = { base with writes := s'.writes, fresh := s'.fresh, groups := s'.groups, teams := s'.teams, cores := s'.cores } ∧
      (∀ k, k ≠ core → mget s'.cores k = mget base.cores k) ∧
      ∀ k, mget s'.teams k = if k = g.team ∧ (rel.isSome ∨ t.flags % 2 = 0) then some { t with escaped := true } else mget base.teams k := by
  have hrest := hw.rest
  have hgroups : u.groups = base.groups := by rw [hrest]
  have hteams : u.teams = base.teams := by rw [hrest]
  have hwrites : u.writes = base.writes ++ ws := by rw [hrest]
  have hgroup : mget u.groups c.gid = some g1 := by rw [hgroups]; exact hg1
  have hteam : mget u.teams g.team = some t := by rw [hteams]; exact ht
  unfold storeEnd
  rw [hgroup, Option.getD_some]
  by_cases hesc : rel.isSome ∨ t.flags % 2 = 0
  · have hif : (rel.isSome || (decide (PairRole.alone = .alone) && decide (t.flags % 2 = 0))) = true := by simpa using hesc
    rw [if_pos hif, escape, onTeam_some hteam]
    refine ⟨_, endWord_put hl (imageFree_putTeam (t := { t with escaped := true }) (imageFree_teams hteams hi) (hi _ (mem_of_mget ht))) false [],
      hwrites, ?_, ?_, hw.cores, fun k => ?_⟩
    · exact congrArg (mput · c.gid (finished c g1)) hgroups
    · unfold putGroup putTeam
      rw [hrest]
    · refine (mget_mput ..).trans ?_
      by_cases hk : k = g.team
      · simp [hk, hesc]
      · simp [hk, hteams]
  · have hif : ¬ (rel.isSome || (decide (PairRole.alone = .alone) && decide (t.flags % 2 = 0))) = true := by simpa using hesc
    rw [if_neg hif]
    refine ⟨_, endWord_put hl (imageFree_teams hteams hi) false [], hwrites, ?_, ?_, hw.cores, fun k => ?_⟩
    · exact congrArg (mput · c.gid (finished c g1)) hgroups
    · unfold putGroup
      rw [hrest]
    · rw [if_neg fun h => hesc h.2, ← hteams]
      rfl

theorem storesGoOut : Says.StoresGoOut := by
  intro s c g t f i rel h hq htw hi hspc hw n cl as vas tr parts hr hv hcl hok hmapped hdoor hcached s1 base before
  have hexec : exec i s = .next (storeWord f rel s) := by
    rcases hi with ⟨rfl, rfl⟩ | ⟨rfl, rfl⟩ <;> rfl
  have hsz : memSz f ≤ 4 := memSz_le (hi.imp And.left And.left) hw
  have looked : cachesOnly { s with cur := .idle } s1 := pageStates_cachesOnly ..
  have hbase : base = storeBase rel s1 c g t cl parts := rfl
  have hperf := storeBase_performed rel s1 c g t cl parts
  rw [← hbase] at hperf
  have hgroups : s1.groups = s.groups := by rw [looked]
  have hteams : base.teams = s.teams := hperf.teams.trans (by rw [looked])
  have hdoors (pa : Nat) : inDoor base pa = inDoor s pa := (hperf.inDoor pa).trans (by rw [looked]; rfl)
  obtain ⟨g1, hg1, hflights⟩ := hperf.group (g := g) (by rw [← h.group]; exact congrArg (mget · c.gid) hgroups)
  have hword := storeWord_pages (rel := rel) (c := c) h hq htw hr hv hcl hok hspc hmapped rfl rfl hbase hg1
  have hlanes : storeLanes f rel t.world g1 (fun va => (tr va).2.testBit 5) before parts base =
      putWrites base g.core t.world (fun l => before ++ (g.lane l).fence) (Reading.storeWrites f g n parts) := by
    refine (foldl_storePieces (after := fun l => before ++ (g1.lane l).fence) hsz g1 ?_ hcached).trans ?_
    · exact fun p hp => ⟨fun q hq => (hdoors _).trans ((hdoor p hp).1 q hq), fun q hq => (hdoors _).trans ((hdoor p hp).2 q hq)⟩
    · rw [storeWrites_flights hflights]
      unfold flightsChange at hflights
      rw [hflights]
      rfl
  have hwrote := putWrites_wrote (s := base) (core := g.core) (world := t.world) (after := fun l => before ++ (g.lane l).fence)
    (ws := Reading.storeWrites f g n parts)
    (fun w hw => by
      obtain ⟨p, hp, q, hq, e⟩ := storeWrites_addr hw
      rw [e]
      exact (hdoors _).trans ((hdoor p hp).2 q hq))
  obtain ⟨s', hend, hwrites, hgroups', hrest, hcores, hteams'⟩ := storeEnd_wrote (rel := rel) (c := c) hwrote hg1 (by rw [hteams]; exact h.team)
    (by rw [hflights]; exact hq.ownLatches) (imageFree_teams hteams hq.noImage)
  refine ⟨s', g1, finished c g1, hexec.trans (congrArg Host.Outcome.next (hword.trans ?_)), hg1, hwrites, hgroups', finished_advanced c g1, ?_, hrest, hcores,
    fun k => (hteams' k).trans (by rw [hteams])⟩
  · exact (congrArg (storeEnd rel c g g1 t) hlanes).trans hend
  · exact finished_latches c g1

end Sys2Proof.Proofs.StoreWords

namespace Sys2Proof.Proofs.UncachedStores

/-! Stores through uncached pages (O18): each write has its place at the home as soon as it is out (R170). -/

open Sys2Proof Sys2Proof.Machine Sys2Proof.Laws Sys2Proof.Proofs.Facts Sys2Proof.Proofs.Issuing Sys2Proof.Proofs.Barriers Sys2Proof.Proofs.Access
open Sys2Proof.Proofs.Paging Sys2Proof.Proofs.Performed Sys2Proof.Proofs.Visibility Sys2Proof.Proofs.LoadWords Sys2Proof.Proofs.StoreWords

/-! ### Writes that take their place -/

theorem mem_insertHome {w x : MWrite} {ws : List MWrite} (h : x ∈ insertHome w ws) : x = w ∨ x ∈ ws := by
  induction ws with
  | nil => exact .inl (List.mem_singleton.mp h)
  | cons y ws ih =>
    unfold insertHome at h
    split at h
    · rcases List.mem_cons.mp h with rfl | h
      · exact .inr List.mem_cons_self
      · exact (ih h).imp_right (List.mem_cons_of_mem _)
    · exact List.mem_cons.mp h

/-- Each write of a list is one of another, which may since have taken its place. -/
def comesFrom (ws ws' : List MWrite) : Prop := ∀ x ∈ ws', ∃ y ∈ ws, x.id = y.id ∧ (y.home = true → x.home = true)

theorem comesFrom_refl (ws : List MWrite) : comesFrom ws ws := fun x hx => ⟨x, hx, rfl, id⟩

theorem comesFrom_trans {a b c : List MWrite} (h1 : comesFrom a b) (h2 : comesFrom b c) : comesFrom a c := by
  intro x hx
  obtain ⟨y, hy, hid, hhome⟩ := h2 x hx
  obtain ⟨z, hz, hid', hhome'⟩ := h1 y hy
  exact ⟨z, hz, hid.trans hid', fun h => hhome (hhome' h)⟩

/-- The state of the caches when a write takes its place. -/
def atHome (s : State) (w : MWrite) : State :=
  match w.core with
  | some k => dirtyOn s (k / 24) w.pa
  | none => s

theorem atHome_writes (s : State) (w : MWrite) : (atHome s w).writes = s.writes := by
  unfold atHome
  split <;> rfl

theorem drainGo_succ (fuel : Nat) (s : State) (id : Nat) : drainGo (fuel + 1) s id =
    match s.writes.find? (fun x => x.id == id && !x.home) with
    | none => s
    | some w =>
      let u := atHome ((drainFirst s.writes w).foldl (drainGo fuel) (requestLines s w.core w.pa w.bytes.length)) w
      { u with writes := insertHome { w with home := true } (u.writes.filter (fun x => x.id != id)) } := rfl

theorem requestLines_writes (s : State) (agent : Option Nat) (pa n : Nat) : (requestLines s agent pa n).writes = s.writes := by
  rw [EngineWrites.cachesOnly_requestLines s agent pa n]

theorem drainGo_comesFrom (fuel : Nat) (s : State) (id : Nat) : comesFrom s.writes (drainGo fuel s id).writes := by
  induction fuel generalizing s id with
  | zero => exact comesFrom_refl _
  | succ fuel ih =>
    rw [drainGo_succ]
    split
    · exact comesFrom_refl _
    · next w hw =>
      have earlier : comesFrom s.writes ((drainFirst s.writes w).foldl (drainGo fuel) (requestLines s w.core w.pa w.bytes.length)).writes :=
        foldl_keeps (P := fun u => comesFrom s.writes u.writes) (fun u k hu => comesFrom_trans hu (ih u k)) _
          (by rw [requestLines_writes]; exact comesFrom_refl _)
      intro x hx
      rcases mem_insertHome hx with rfl | hx
      · exact ⟨w, List.mem_of_find?_eq_some hw, rfl, fun _ => rfl⟩
      · rw [atHome_writes] at hx
        exact earlier x (List.mem_filter.mp hx).1

/-- A write that is drained has its place. -/
theorem drain_home (s : State) (id : Nat) : ∀ x ∈ (drain s id).writes, x.id = id → x.home = true := by
  intro x hx hid
  unfold drain at hx
  rw [drainGo_succ] at hx
  split at hx
  · next hnone =>
    have := List.find?_eq_none.mp hnone x hx
    simpa [hid] using this
  · next w hw =>
    rcases mem_insertHome hx with rfl | hx
    · rfl
    · have := (List.mem_filter.mp hx).2
      simp [hid] at this

theorem settleList_writes (ws : List MWrite) (s : State) : ∀ x ∈ (settleList ws s).writes, x ∈ ws := by
  induction ws generalizing s with
  | nil => exact fun x hx => hx
  | cons w ws ih =>
    intro x hx
    unfold settleList at hx
    split at hx
    · exact List.mem_cons_of_mem _ (ih _ x hx)
    · exact hx

/-! ### Stores that are performed at once -/

/-- Every write numbered from `n` on has its place, and numbers are still free. -/
structure placedFrom (n : Nat) (s : State) : Prop where
  free : n ≤ s.fresh
  below : ∀ w ∈ s.writes, w.id < s.fresh
  home : ∀ w ∈ s.writes, n ≤ w.id → w.home = true

theorem placedFrom_comesFrom {n : Nat} {s u : State} (h : placedFrom n s) (hw : comesFrom s.writes u.writes) (hf : u.fresh = s.fresh) : placedFrom n u := by
  obtain ⟨hfree, hbelow, hhome⟩ := h
  refine ⟨hf ▸ hfree, fun w hx => ?_, fun w hx hn => ?_⟩
  · obtain ⟨y, hy, hid, -⟩ := hw w hx
    rw [hid, hf]
    exact hbelow y hy
  · obtain ⟨y, hy, hid, hh⟩ := hw w hx
    exact hh (hhome y hy (hid ▸ hn))

theorem settled_fresh (s : State) (id : Nat) : (settle (drain s id)).fresh = s.fresh := by
  rw [homeOnly_trans (drain_homeOnly s id) (settle_homeOnly _)]

theorem storeWrite_accessOnly (s : State) (core world pa : Nat) (bs : List Byte) (after : Before) : accessOnly s (storeWrite s core world pa bs after) := by
  unfold storeWrite
  split <;> rfl

theorem storeOne_accessOnly (s : State) (core world : Nat) (uncached : Bool) (pa : Nat) (bs : List Byte) (after : Before) :
    accessOnly s (storeOne s core world uncached pa bs after) := by
  unfold storeOne
  dsimp only
  split
  · exact accessOnly_trans (storeWrite_accessOnly ..) (accessOnly_of_homeOnly (homeOnly_trans (drain_homeOnly ..) (settle_homeOnly _)))
  · exact storeWrite_accessOnly ..

/-- A store through an uncached page is performed at once. -/
theorem storeOne_placed {n : Nat} {s : State} (h : placedFrom n s) (core world pa : Nat) (bs : List Byte) (after : Before) :
    placedFrom n (storeOne s core world true pa bs after) := by
  have retired (u : State) : comesFrom (drain u s.fresh).writes (settle (drain u s.fresh)).writes := fun x hx => ⟨x, settleList_writes _ _ x hx, rfl, id⟩
  show placedFrom n (settle (drain (storeWrite s core world pa bs after) s.fresh))
  cases hd : inDoor s pa with
  | true =>
    have hs : storeWrite s core world pa bs after = toDoor s ⟨world, pa, bs.length, false, false, []⟩ := if_pos hd
    rw [hs]
    exact placedFrom_comesFrom h (comesFrom_trans (drainGo_comesFrom _ (toDoor s _) _) (retired _)) (settled_fresh ..)
  | false =>
    obtain ⟨hfree, hbelow, hhome⟩ := h
    have hfresh : (settle (drain (storeWrite s core world pa bs after) s.fresh)).fresh = s.fresh + 1 := by rw [settled_fresh, storeWrite_eq hd]
    have origin (x : MWrite) (hx : x ∈ (settle (drain (storeWrite s core world pa bs after) s.fresh)).writes) :
        (x.id = s.fresh ∧ x.home = true) ∨ ∃ y ∈ s.writes, x.id = y.id ∧ (y.home = true → x.home = true) := by
      have hx' := settleList_writes _ _ x hx
      obtain ⟨y, hy, hid, hh⟩ := drainGo_comesFrom _ _ _ x hx'
      rw [storeWrite_eq hd] at hy
      rcases List.mem_append.mp hy with hy | hy
      · exact .inr ⟨y, hy, hid, hh⟩
      · have hnew : x.id = s.fresh := by rw [hid, List.mem_singleton.mp hy]; rfl
        exact .inl ⟨hnew, drain_home _ _ x hx' hnew⟩
    refine ⟨by rw [hfresh]; omega, fun x hx => ?_, fun x hx hn => ?_⟩
    · rw [hfresh]
      rcases origin x hx with ⟨hid, -⟩ | ⟨y, hy, hid, -⟩
      · omega
      · have := hbelow y hy
        omega
    · rcases origin x hx with ⟨-, hh⟩ | ⟨y, hy, hid, hh⟩
      · exact hh
      · exact hh (hhome y hy (hid ▸ hn))

theorem storePieces_placed {n : Nat} {s : State} (h : placedFrom n s) {core world : Nat} {plain : Bool} {uncached : Nat → Bool} {after : Before}
    {bs : List Byte} {ps : List (Nat × Nat × Nat)} (hu : ∀ q ∈ halfPieces ps, uncached q.1 = true) :
    placedFrom n (storePieces s core world plain uncached after bs ps) := by
  unfold storePieces
  split
  · exact foldl_keeps (P := placedFrom n) (fun u p hu => placedFrom_comesFrom (u := toDoor u _) hu (comesFrom_refl _) rfl) ps h
  · have pieces : ∀ qs : List (Nat × Nat × Nat), (∀ q ∈ qs, uncached q.1 = true) → ∀ x : State × Nat, placedFrom n x.1 →
        placedFrom n (qs.foldl (fun (x : State × Nat) p =>
          (storeOne x.1 core world (uncached p.1) p.2.1 ((bs.drop x.2).take p.2.2) after, x.2 + p.2.2)) x).1 := by
      intro qs
      induction qs with
      | nil => exact fun _ x hx => hx
      | cons q qs ih =>
        intro hq x hx
        rw [List.foldl_cons, hq q List.mem_cons_self]
        exact ih (fun r hr => hq r (List.mem_cons_of_mem _ hr)) _ (storeOne_placed hx ..)
    exact pieces _ hu (s, 0) h

theorem storePieces_accessOnly (s : State) (core world : Nat) (plain : Bool) (uncached : Nat → Bool) (after : Before) (bs : List Byte)
    (ps : List (Nat × Nat × Nat)) : accessOnly s (storePieces s core world plain uncached after bs ps) := by
  unfold storePieces
  split
  · exact foldl_keeps (P := accessOnly s) (fun u p hu => accessOnly_trans hu (toDoor_accessOnly ..)) ps (accessOnly_refl s)
  · exact foldl_keeps (P := fun x : State × Nat => accessOnly s x.1) (fun x p hx => accessOnly_trans hx (storeOne_accessOnly ..)) _ (accessOnly_refl s)

section
variable {f : SForm} {rel : Option Nat} {world : Nat} {g : Group} {uncached : Nat → Bool} {before : Before} {parts : List LanePart}

theorem storeLanes_accessOnly (s : State) : accessOnly s (storeLanes f rel world g uncached before parts s) :=
  foldl_keeps (P := accessOnly s) (fun _ _ hu => accessOnly_trans hu (storePieces_accessOnly ..)) parts (accessOnly_refl s)

theorem storeLanes_placed (hu : ∀ p ∈ parts, ∀ q ∈ halfPieces p.pieces, uncached q.1 = true) {n : Nat} {s : State} (h : placedFrom n s) :
    placedFrom n (storeLanes f rel world g uncached before parts s) := by
  unfold storeLanes
  induction parts generalizing s with
  | nil => exact h
  | cons p ps ih =>
    rw [List.foldl_cons]
    exact ih (fun q hq => hu q (List.mem_cons_of_mem _ hq)) (storePieces_placed h (hu p List.mem_cons_self))

end

/-- With nothing of the group outstanding, nothing is performed before a store. -/
theorem storeBase_writes {rel : Option Nat} {S : State} {c : Ctx} {g : Group} (hg : mget S.groups c.gid = some g) (hf : g.flights = []) (t : Team)
    (cl : Mask) (parts : List LanePart) : (storeBase rel S c g t cl parts).writes = S.writes ∧ (storeBase rel S c g t cl parts).fresh = S.fresh := by
  unfold storeBase
  split
  · have none : performAll S c.gid = S := performWhere_none hg hf _
    unfold beforeRelease captureCopies
    rw [none]
    split <;> exact ⟨rfl, rfl⟩
  · rw [BulkWords.performOverlapping_none hg hf]
    exact ⟨rfl, rfl⟩

/-- The word of a store is done. -/
theorem storeEnd_done {rel : Option Nat} {c : Ctx} {g g1 : Group} {t : Team} {base u : State} (hu : accessOnly base u) (hf : flightsChange g g1)
    (hg1 : mget base.groups c.gid = some g1) (ht : mget base.teams g.team = some t) (hl : g.latchLost = false) (hi : imageFree base) :
    wordDone c g (storeEnd rel c g g1 t u) ∧ (storeEnd rel c g g1 t u).writes = u.writes := by
  have hgroups : u.groups = base.groups := by rw [hu]
  have hteams : u.teams = base.teams := by rw [hu]
  have hgroup : mget u.groups c.gid = some g1 := by rw [hgroups]; exact hg1
  have hteam : mget u.teams g.team = some t := by rw [hteams]; exact ht
  have hfree : imageFree u := imageFree_teams hteams hi
  unfold flightsChange at hf
  have done {v : State} (hv : imageFree v) (e : v.groups = u.groups) (hw : v.writes = u.writes) :
      wordDone c g (endWord v c g1 false []) ∧ (endWord v c g1 false []).writes = u.writes := by
    rw [endWord_put (by rw [hf]; exact hl) hv]
    refine ⟨⟨finished c g1, (putGroup_get ..).trans (if_pos rfl), ?_, ?_⟩, hw⟩
    · rw [hf]; exact finished_advanced c { g with flights := g1.flights, acqVals := g1.acqVals }
    · rw [hf]; rfl
  unfold storeEnd
  rw [hgroup, Option.getD_some]
  split
  · rw [escape, onTeam_some hteam]
    exact done (imageFree_putTeam (t := { t with escaped := true }) hfree (hi _ (mem_of_mget ht))) rfl rfl
  · exact done hfree rfl rfl

theorem uncachedStoresArePerformed : Says.UncachedStoresArePerformed := by
  intro s c g t f i h hq htw hi hspc hw hflights hbelow n cl as vas tr hr hv hcl hok hmapped huncached
  obtain ⟨rel, hexec⟩ : ∃ rel, exec i s = .next (storeWord f rel s) := by
    rcases hi with rfl | rfl
    · exact ⟨none, rfl⟩
    · exact ⟨some (memScope f), rfl⟩
  have looked : cachesOnly { s with cur := .idle } (Reading.looked s g t 2 vas).1 := pageStates_cachesOnly ..
  have hgroup : mget (Reading.looked s g t 2 vas).1.groups c.gid = some g := by rw [looked]; exact h.group
  have hperf := storeBase_performed rel (Reading.looked s g t 2 vas).1 c g t cl (Reading.partsOf tr as)
  obtain ⟨hwrites, hfresh⟩ := storeBase_writes (rel := rel) hgroup hflights t cl (Reading.partsOf tr as)
  generalize hbase : storeBase rel (Reading.looked s g t 2 vas).1 c g t cl (Reading.partsOf tr as) = base at hperf hwrites hfresh
  obtain ⟨g1, hg1, hf⟩ := hperf.group (g := g) hgroup
  have hteams : base.teams = s.teams := hperf.teams.trans (by rw [looked])
  have hword := storeWord_pages (rel := rel) (c := c) h hq htw hr hv hcl hok hspc hmapped rfl rfl hbase.symm hg1
  have hplaced : placedFrom s.fresh base := by
    have hw0 : base.writes = s.writes := hwrites.trans (by rw [looked])
    have hf0 : base.fresh = s.fresh := hfresh.trans (by rw [looked])
    refine ⟨hf0.ge, fun w hw => ?_, fun w hw hn => ?_⟩
    · rw [hf0]
      exact hbelow w (hw0 ▸ hw)
    · exact absurd hn (Nat.not_le.mpr (hbelow w (hw0 ▸ hw)))
  obtain ⟨hdone, hlast⟩ := storeEnd_done (rel := rel) (c := c) (g1 := g1) (t := t) (storeLanes_accessOnly (f := f) (rel := rel) (world := t.world) (g := g1)
    (uncached := fun va => (tr va).2.testBit 5) (before := storeBefore rel base g t) (parts := Reading.partsOf tr as) base) hf hg1
    (by rw [hteams]; exact h.team) hq.ownLatches (imageFree_teams hteams hq.noImage)
  refine ⟨_, hexec.trans (congrArg Host.Outcome.next hword), hdone, fun w hw hn => ?_⟩
  rw [hlast] at hw
  exact (storeLanes_placed huncached hplaced).home w hw hn

end Sys2Proof.Proofs.UncachedStores

namespace Sys2Proof.Proofs.SlotStores

/-! The words that store to the slot (O18): each lane's store changes the bytes that it covers, in ascending order of lanes. -/

open Sys2Proof Sys2Proof.Machine Sys2Proof.Laws Sys2Proof.Proofs.Facts Sys2Proof.Proofs.Issuing Sys2Proof.Proofs.Barriers Sys2Proof.Proofs.Access
open Sys2Proof.Proofs.Performed Sys2Proof.Proofs.Slot Sys2Proof.Proofs.SlotBytes Sys2Proof.Proofs.LoadWords Sys2Proof.Proofs.SlotReads
open Sys2Proof.Proofs.SlotLoads Sys2Proof.Proofs.StoreWords Sys2Proof.Proofs.BulkWords

/-! ### Stores of a word -/

/-- Bytes of a slot after some stores. -/
def slotAfter (m : List Host.Cell) (ws : List (Nat × List Byte)) : List Host.Cell := ws.foldl (fun m w => memPutBytes m w.1 w.2) m

/-- A team's slot after some stores, with what else a store changes of the team. -/
def slotStored (ws : List (Nat × List Byte)) (t t' : Team) : Prop :=
  t' = { t with undo := t'.undo, escaped := t'.escaped, sp := slotAfter t.sp ws, spErrs := t'.spErrs, spSingle := t'.spSingle
                spClock := t'.spClock, rels := t'.rels, spRecent := t'.spRecent }

theorem slotStored_cons (w : Nat × List Byte) (ws : List (Nat × List Byte)) (a b c : Team) (h1 : slotStored [w] a b) (h2 : slotStored ws b c) :
    slotStored (w :: ws) a c := by
  unfold slotStored at *
  rw [h2, h1]
  rfl

theorem addRel_spWrite_step (s : State) (by_ : Option (Nat × Mask)) (tid o n : Nat) (bs : List Byte) (after : Before) :
    slotStep (slotStored [(o, bs)]) tid s (addRel (spWrite s by_ tid o bs) tid o n after) :=
  slotStep_trans (spWrite_step ..) (slotStep_of_teamStep (addRel_step ..)) fun a b c h1 h2 => by
    unfold written at h1
    unfold marked at h2
    unfold slotStored
    rw [h2, h1]
    rfl

/-- A store of present sectors. -/
structure SlotStore (t : Team) (x : SpAccess) (bs : List Byte) : Prop where
  op : x.op = .store bs
  present : absentSector t x.off x.size = none

/-- The stores of a word change the slot one after another. -/
theorem spRun_stores {gid tid : Nat} {t : Team} {bs : SpAccess → List Byte} {xs : List SpAccess} (hx : ∀ x ∈ xs, SlotStore t x (bs x)) {u : State} {t' : Team}
    (ht : mget u.teams tid = some t') (hsame : t'.absent = t.absent) :
    slotStep (slotStored (xs.map (fun x => (x.off, bs x)))) tid u (spRun u gid tid xs) := by
  induction xs generalizing u t' with
  | nil => exact slotStep_of_teamStep (teamStep_refl (R := slotStored []) (fun _ => rfl) ..)
  | cons x xs ih =>
    obtain ⟨hop, hpresent⟩ := hx x List.mem_cons_self
    have here : absentSector t' x.off x.size = none := by
      unfold absentSector at hpresent ⊢
      rw [hsame]
      exact hpresent
    have first : slotStep (slotStored [(x.off, bs x)]) tid u (spDo u gid tid x) := by
      unfold spDo
      rw [ht, hop]
      exact addRel_spWrite_step ..
    obtain ⟨t1, ht1, hstored⟩ := first.team t' ht
    rw [spRun_cons ht here]
    refine slotStep_trans first (ih (fun y hy => hx y (List.mem_cons_of_mem _ hy)) ht1 ?_) fun a b c => slotStored_cons _ _ a b c
    rw [hstored]
    exact hsame

/-- A change of a slot leaves global memory. -/
theorem slotStep_memory {R : Team → Team → Prop} {tid : Nat} {s u : State} (h : slotStep R tid s u) : u.mem = s.mem ∧ u.writes = s.writes := by
  rw [h.rest]
  exact ⟨rfl, rfl⟩

/-- A byte of the slot after some stores is that of the last store that covers it. -/
theorem memGet_slotAfter (ws : List (Nat × List Byte)) (m : List Host.Cell) (a : Nat) : memGet (slotAfter m ws) a =
    ws.foldl (fun b w => if w.1 ≤ a ∧ a < w.1 + w.2.length then w.2.getD (a - w.1) 0#8 else b) (memGet m a) := by
  induction ws generalizing m with
  | nil => rfl
  | cons w ws ih => exact (ih _).trans (by rw [memGet_memPutBytes]; rfl)

/-! ### The word -/

/-- The store that a word makes in a lane. -/
def slotStore (f : SForm) (n : Nat) (c : Ctx) (g : Group) (t : Team) (before : Before) (p : Nat × Nat) : SpAccess :=
  { lane := some p.1, mask := if t.twin = 0 then maskOf [p.1] else 0#32, by_ := maskOf [p.1], sec := 0, off := p.2, size := n, op := .store (storeData f g n p.1), dest := none
    uniform := false, noWrite := true, sx := false, latch := 0, pc := c.pc, key := none, inject := false, interval := t.interval, acq := none
    after := before ++ (g.lane p.1).fence }

/-- What comes before the stores of a word to the slot: a release's, or nothing. -/
def slotBase (rel : Option Nat) (S : State) (c : Ctx) (g : Group) (t : Team) (cl : Mask) : State := if rel.isSome then beforeRelease S c.gid g t cl else S

theorem slotBase_performed (rel : Option Nat) (S : State) (c : Ctx) (g : Group) (t : Team) (cl : Mask) :
    performed c.gid { S with copies := (slotBase rel S c g t cl).copies } (slotBase rel S c g t cl) := by
  cases rel with
  | none => exact performed_refl ..
  | some sc => exact beforeRelease_performed ..

section
variable {s : State} {c : Ctx} {g : Group} {t : Team} {f : SForm} {rel : Option Nat} (h : Issuing s c g t) (hq : Undisturbed s g) (htw : t.twin = 0)
  (hspc : memSpc f = 1) (hr : canRead g [Reading.addrOp f 1] .none) (hv : ud f = false → f.d.toNat + max 1 (szBytes f / 4) ≤ g.vcount)
  (hcl : clOf g c f.pg f.pn ≠ 0#32) (hok : Reading.allOk (Reading.accesses f g t false 1 (szBytes f) (clOf g c f.pg f.pn)))
include h hq htw hspc hr hv hcl hok

/-- A store of the slot is performed as its word ends. -/
theorem storeWord_slot {base : State} {g1 : Group} (hbase : base = slotBase rel { s with cur := .idle } c g t (clOf g c f.pg f.pn))
    (hg1 : mget base.groups c.gid = some g1) : storeWord f rel s =
    spRun (endWord base c g1 false []) c.gid g1.team
      ((lanesOf (clOf g c f.pg f.pn)).map (fun l => slotStore f (szBytes f) c g1 t (storeBefore rel base g t) (l, slotOff f g l))) := by
  have same : (lanesOf (clOf g c f.pg f.pn)).map (fun l =>
      (l, laneAcc g t (memSpc f) l ((opnd f f.a (fnBit f 9) (lqA f) (memSpc f == 0)).read g l) (offOf f) (szBytes f))) =
      Reading.accesses f g t false 1 (szBytes f) (clOf g c f.pg f.pn) := by rw [hspc]; rfl
  have stores (g1 : Group) (before : Before) : (Reading.accesses f g t false 1 (szBytes f) (clOf g c f.pg f.pn)).map (fun p =>
      slotStore f (szBytes f) c g1 t before (p.1, (p.2.pieces.headD (0, 0)).1)) =
      (lanesOf (clOf g c f.pg f.pn)).map (fun l => slotStore f (szBytes f) c g1 t before (l, slotOff f g l)) := by
    refine (List.map_map ..).trans (List.map_congr_left fun l hl => ?_)
    have := slotPieces hok hl
    simp only [Function.comp_apply, this]
    rfl
  unfold storeWord
  refine (issueWord_issuing h hq.noError (store_meets (by rw [hspc]; exact hr) hv _)).trans ?_
  rw [same]
  refine (if_neg hcl).trans ((if_neg (succeeds hok)).trans ((if_pos hspc).trans ?_))
  refine (pairOp_alone htw).trans ?_
  cases rel with
  | none =>
    dsimp only
    have hb : base = { s with cur := .idle } := hbase
    have hs : mget s.groups c.gid = some g1 := by rw [← hg1, hb]
    rw [← hb, hs, Option.getD_some]
    exact congrArg (spRun _ c.gid g1.team) (stores g1 [])
  | some sc =>
    dsimp only
    have hb : releaseAt { s with cur := .idle } c g t (clOf g c f.pg f.pn) sc = (base, storeBefore (some sc) base g t) := by rw [hbase]; rfl
    rw [hb]
    dsimp only
    rw [hg1, Option.getD_some]
    exact congrArg (spRun _ c.gid g1.team) (stores g1 (storeBefore (some sc) base g t))

end

theorem length_leBytes (n x : Nat) : (leBytes n x).length = n := by
  induction n generalizing x with
  | zero => rfl
  | succ n ih => rw [leBytes, List.length_cons, ih]

theorem storeData_flights {g g1 : Group} (h : flightsChange g g1) (f : SForm) (n l : Nat) : storeData f g1 n l = storeData f g n l := by
  unfold flightsChange at h
  rw [h]
  rfl

theorem scratchStoresWriteTheSlot : Says.ScratchStoresWriteTheSlot := by
  intro s c g t f i h hq htw hi hspc hw n cl as o hr hv hcl hok hpres
  obtain ⟨rel, hexec, hplain⟩ : ∃ rel, exec i s = .next (storeWord f rel s) ∧ (i = .st f → rel = none) := by
    rcases hi with rfl | rfl
    · exact ⟨none, rfl, fun _ => rfl⟩
    · exact ⟨some (memScope f), rfl, nofun⟩
  have hsz : memSz f ≤ 4 := memSz_le hi hw
  have hperf := slotBase_performed rel { s with cur := .idle } c g t cl
  generalize hbase : slotBase rel { s with cur := .idle } c g t cl = base at hperf
  obtain ⟨g1, hg1, hf⟩ := hperf.group (g := g) h.group
  have hteams : base.teams = s.teams := hperf.teams
  have hword := storeWord_slot (rel := rel) h hq htw hspc hr hv hcl hok hbase.symm hg1
  have hend := endWord_put (s := base) (c := c) (g := g1) (by rw [hf]; exact hq.ownLatches) (imageFree_teams hteams hq.noImage) false []
  have hteam1 : g1.team = g.team := by rw [hf]
  rw [hteam1, hend] at hword
  have hruns := spRun_stores (gid := c.gid) (tid := g.team) (t := t) (bs := fun x => storeData f g n ((x.lane).getD 0))
    (xs := (lanesOf cl).map (fun l => slotStore f n c g1 t (storeBefore rel base g t) (l, slotOff f g l)))
    (u := putGroup base c.gid (finished c g1)) (fun x hx => by
      obtain ⟨l, hl, rfl⟩ := List.mem_map.mp hx
      exact ⟨congrArg SpOp.store (storeData_flights hf ..), hpres _ (List.mem_map_of_mem hl) (slotOff f g l, n) (by rw [slotPieces hok hl]; exact List.mem_singleton.mpr rfl)⟩)
    (by rw [← h.team]; exact congrArg (mget · g.team) hteams) rfl
  obtain ⟨t', ht', hstored⟩ := hruns.team t (by rw [← h.team]; exact congrArg (mget · g.team) hteams)
  obtain ⟨g', hg', -, hclosed⟩ := hruns.group (gid := c.gid) (g := finished c g1) ((putGroup_get ..).trans (if_pos rfl))
  have hg'' : g' = finished c g1 := hclosed (by rw [hf]; exact hq.noWindow)
  refine ⟨_, t', g1, g', hexec.trans (congrArg Host.Outcome.next hword), ht', hg', fun a => ?_, ?_, hf, fun hst => ?_⟩
  · rw [hstored]
    refine (memGet_slotAfter ..).trans ?_
    rw [List.map_map, List.foldl_map]
    refine congrArg (fun F => (lanesOf cl).foldl F (memGet t.sp a)) (funext fun b => funext fun l => ?_)
    show (if slotOff f g l ≤ a ∧ a < slotOff f g l + (storeData f g (szBytes f) l).length then (storeData f g (szBytes f) l).getD (a - slotOff f g l) 0#8 else b) = _
    rw [storeData_eq hsz, length_leBytes]
    rfl
  · rw [hg'', hf]
    rfl
  · obtain rfl := hplain hst
    have hb : base = { s with cur := .idle } := hbase.symm
    have hg : mget s.groups c.gid = some g1 := by rw [← hg1, hb]
    refine ⟨?_, ?_, Option.some.inj (hg.symm.trans h.group)⟩
    · exact (slotStep_memory hruns).1.trans (show base.mem = s.mem by rw [hb])
    · exact (slotStep_memory hruns).2.trans (show base.writes = s.writes by rw [hb])

/-- Settles O18: a global store's writes are put out behind what is out already, or performed at once, and those of the slot change its bytes. -/
theorem stores : Obligations.Stores := ⟨Proofs.StoreWords.storesGoOut, Proofs.UncachedStores.uncachedStoresArePerformed, scratchStoresWriteTheSlot⟩

end Sys2Proof.Proofs.SlotStores

namespace Sys2Proof.Proofs.AtomicOps

/-! What an atomic makes of a value (R183, R184), and an atomic performed at the home of its bytes (O19). -/

open Sys2Proof Sys2Proof.Machine Sys2Proof.Laws Sys2Proof.Proofs.Facts Sys2Proof.Proofs.Issuing Sys2Proof.Proofs.Barriers Sys2Proof.Proofs.PairWords
open Sys2Proof.Proofs.Performed Sys2Proof.Proofs.Visibility Sys2Proof.Proofs.EngineWrites Sys2Proof.Proofs.Reads Sys2Proof.Proofs.SlotStores

/-! ### Values -/

section
variable {w old b : Nat} (hw : 0 < w) (ho : old < 2 ^ w) (hb : b < 2 ^ w)
include hw ho hb

theorem extInt_le_bits (s : Bool) : extInt s w old ≤ extInt s w b ↔ (if s then (Reading.bits w old).sle (Reading.bits w b)
    else (Reading.bits w old).ule (Reading.bits w b)) = true := by
  have h := extInt_le hw s (Reading.bits w old) (Reading.bits w b)
  simpa [Reading.bits, Nat.mod_eq_of_lt ho, Nat.mod_eq_of_lt hb] using h

theorem opImin_eq (s : Bool) : opImin w s old b = Reading.imin w s old b := if_congr (extInt_le_bits hw ho hb s) rfl rfl

theorem opImax_eq (s : Bool) : opImax w s old b = Reading.imax w s old b := if_congr (extInt_le_bits hw hb ho s) rfl rfl

omit hw in
theorem imin_unsigned : Reading.imin w false old b = min old b := by
  simp [Reading.imin, Reading.bits, BitVec.ule_eq_decide, Nat.mod_eq_of_lt ho, Nat.mod_eq_of_lt hb, Nat.min_def]

omit hw in
theorem imax_unsigned : Reading.imax w false old b = max old b := by
  simp only [Reading.imax, Reading.bits, BitVec.ule_eq_decide, BitVec.toNat_ofNat, Nat.mod_eq_of_lt ho, Nat.mod_eq_of_lt hb, Bool.false_eq_true, if_false,
    decide_eq_true_eq]
  split <;> omega

/-- The new value of AOP. -/
theorem aopNew_eq (aop : Nat) : aopNew (fpAdd fp32 0 false) w aop old b = Reading.aopResult w aop old b := by
  have low (x : Nat) (hx : x < 2 ^ w) : (Reading.bits w x).toNat = x := by simp [Reading.bits, Nat.mod_eq_of_lt hx]
  match aop with
  | 0 => rfl
  | 1 => exact opImin_eq hw ho hb true
  | 2 => exact opImax_eq hw ho hb true
  | 3 => exact (opImin_eq hw ho hb false).trans (imin_unsigned ho hb)
  | 4 => exact (opImax_eq hw ho hb false).trans (imax_unsigned ho hb)
  | 5 => simp [aopNew, Reading.aopResult, low old ho, low b hb]
  | 6 => simp [aopNew, Reading.aopResult, low old ho, low b hb]
  | 7 => simp [aopNew, Reading.aopResult, low old ho, low b hb]
  | 8 => rfl
  | 9 => rfl
  | 10 => rfl
  | n + 11 => simp [aopNew, Reading.aopResult]

end

theorem leNat_leBytes (n x : Nat) : leNat (leBytes n x) = x % 2 ^ (8 * n) := by
  induction n generalizing x with
  | zero => simp [leBytes, leNat, Nat.mod_one]
  | succ n ih =>
    have hp : 2 ^ (8 * (n + 1)) = 256 * 2 ^ (8 * n) := by rw [Nat.mul_succ, Nat.pow_add, Nat.mul_comm]
    rw [leBytes, leNat, ih, BitVec.toNat_ofNat, hp, Nat.mod_mul]

theorem leNat_lt (bs : List Byte) : leNat bs < 2 ^ (8 * bs.length) := by
  induction bs with
  | nil => exact Nat.one_pos
  | cons b bs ih =>
    have hp : 2 ^ (8 * (bs.length + 1)) = 256 * 2 ^ (8 * bs.length) := by rw [Nat.mul_succ, Nat.pow_add, Nat.mul_comm]
    have := b.isLt
    rw [leNat, List.length_cons, hp]
    omega

/-- What an atomic makes of an old value: nothing for a compare that fails. -/
theorem atomicNew_eq {w : Nat} {op : SpOp} {old b c : Nat} {wide : Bool} (hw : w = wOf wide) (ho : old < 2 ^ w) (hb : b < 2 ^ w) {B C : W64}
    (hB : B.toNat = b) (hC : C.toNat = c) (x : Bool) (aop : Nat) (hop : op = if x then .atomicX wide B C else .atomic aop wide B) {new : Nat}
    (hnew : new = if x then (if old = b then c % 2 ^ w else old) else Reading.aopResult w aop old b) :
    atomicNew op old = some new ∨ (atomicNew op old = none ∧ new = old) := by
  have hpos : 0 < w := by rw [hw]; unfold wOf; split <;> decide
  subst hop hnew hB hC
  cases x with
  | false =>
    refine .inl ?_
    simp only [Bool.false_eq_true, if_false, atomicNew]
    rw [← hw, aopNew_eq hpos ho hb]
  | true =>
    simp only [if_true, atomicNew]
    rw [← hw, Nat.mod_eq_of_lt hb]
    split
    · exact .inl rfl
    · exact .inr ⟨rfl, rfl⟩

/-! ### Home memory under a new write -/

/-- Bytes at the home after one more write that has its place. -/
theorem homeRead_append {s u : State} {w : MWrite} (hplain : ∀ v a n, homePlain u v a n = homePlain s v a n) (hws : u.writes = s.writes ++ [w])
    (hhome : w.home = true) (v a n : Nat) : homeRead u v a n = (homePlain s v a n).zipIdx.map (fun p =>
      if w.covers (a + p.2) then w.bytes.getD (a + p.2 - w.pa) 0#8 else overlay s.writes (fun x => x.home) (a + p.2) p.1) := by
  unfold homeRead
  rw [hplain, hws]
  simp only [overlay_append, hhome, Bool.true_and]

section
variable {s u : State} {w : MWrite} (hplain : ∀ v a n, homePlain u v a n = homePlain s v a n) (hws : u.writes = s.writes ++ [w]) (hhome : w.home = true)
  (hskip : w.skip = [])
include hplain hws hhome hskip

/-- The bytes of the write itself. -/
theorem homeRead_written (v : Nat) : homeRead u v w.pa w.bytes.length = w.bytes := by
  rw [homeRead_append hplain hws hhome]
  refine List.ext_getElem (by simp [length_homePlain]) fun i hi _ => ?_
  have hb : i < w.bytes.length := by simpa [length_homePlain] using hi
  simp [MWrite.covers, hskip, hb]

omit hskip in
/-- A byte beside the write is as it was. -/
theorem homeRead_beside (v : Nat) {a : Nat} (h : a < w.pa ∨ w.pa + w.bytes.length ≤ a) : homeRead u v a 1 = homeRead s v a 1 := by
  rw [homeRead_append hplain hws hhome]
  refine List.map_congr_left fun p hp => if_neg ?_
  have hp0 : p.2 = 0 := by
    have := List.snd_lt_of_mem_zipIdx hp
    rw [length_homePlain] at this
    omega
  simp only [MWrite.covers, hp0, Bool.and_eq_true, decide_eq_true_eq]
  omega

end

/-- The values of a flight with one more. -/
def keepVal (s : State) (gid : Nat) (x : Flight) (l old : Nat) : State :=
  onFlight s gid x.id (fun x => { x with vals := mput x.vals l (BitVec.ofNat 128 old) })

theorem keepVal_group {s : State} {gid : Nat} {g : Group} {x : Flight} (hg : mget s.groups gid = some g) (hx : x ∈ g.flights) (l old : Nat) :
    ∃ g', mget (keepVal s gid x l old).groups gid = some g' ∧ ∃ y ∈ g'.flights, y.id = x.id ∧ mget y.vals l = some (BitVec.ofNat 128 old) := by
  unfold keepVal onFlight
  rw [onGroup_some hg]
  exact ⟨_, (putGroup_get ..).trans (if_pos rfl), _, List.mem_map.mpr ⟨x, hx, if_pos rfl⟩, rfl, by simp⟩

/-- An atomic at its home, where every write has its place and its bytes can be read: it keeps the old value, and writes the new one. -/
theorem atomicLane_reads {s : State} {gid core : Nat} {x : Flight} {l va pa n : Nat} (hval : mget x.vals l = none)
    (hpart : x.parts.find? (fun p => p.lane == l) = some ⟨l, [(va, pa, n)]⟩) (hdoor : inDoor s pa = false) (hplaced : placed s.writes)
    (hsound : readError s x.world pa n ≠ .uncorrectable) (hwhole : readError s x.world pa n ≠ .integrity) :
    (∀ v, atomicNew (flightOp x l) (leNat (homeRead s x.world pa n)) = some v →
      atomicLane s gid core x l = homeWrite (keepVal s gid x l (leNat (homeRead s x.world pa n))) core x.world pa (leBytes n v) x.after) ∧
    (atomicNew (flightOp x l) (leNat (homeRead s x.world pa n)) = none →
      atomicLane s gid core x l = keepVal s gid x l (leNat (homeRead s x.world pa n))) := by
  have noneWaits : s.writes.filter (fun w => !w.home && w.core == some core && w.overlaps pa n) = [] :=
    List.filter_eq_nil_iff.mpr fun w hw => by simp [hplaced w hw]
  have clean : pieceError s x.world [(0, pa, n)] = (.clean, 0) := pieceError_readable fun q hq => by
    rw [List.mem_singleton.mp hq]
    exact ⟨hsound, hwhole⟩
  unfold atomicLane
  rw [hval, hpart]
  dsimp only [Option.isSome_none, Option.bind_some, List.head?_cons]
  rw [if_neg Bool.false_ne_true, if_neg (by rw [hdoor]; exact Bool.false_ne_true), noneWaits, List.foldl_nil, clean]
  refine ⟨fun v hv => ?_, fun hv => ?_⟩
  all_goals
    refine (if_neg (not_not.mpr rfl)).trans ?_
    unfold latest
    rw [hv]
    rfl

theorem atomicsAct : Says.AtomicsAct := by
  intro s gid core g x l va pa n hg hx hone hval hpart hdoor hplaced hop hn hb hsound hwhole old b new s'
  obtain ⟨hnew, hnone⟩ := atomicLane_reads (gid := gid) (core := core) hval hpart hdoor hplaced hsound hwhole
  have hold : old < 2 ^ (8 * n) := by
    have := leNat_lt (homeRead s x.world pa n)
    rwa [show (homeRead s x.world pa n).length = n by simp [homeRead, length_homePlain]] at this
  have hw : 8 * n = wOf (n == 8) := by rcases hn with rfl | rfl <;> rfl
  obtain ⟨g', hg', hkept⟩ := keepVal_group hg hx l old
  have hcases : atomicNew (flightOp x l) old = some new ∨ (atomicNew (flightOp x l) old = none ∧ new = old) := by
    rcases hop with ⟨aop, -, hop⟩ | hop
    · exact atomicNew_eq (C := 0#64) hw hold hb rfl rfl false aop (by unfold flightOp; rw [hop]; rfl) (by simp only [new, hop]; rfl)
    · exact atomicNew_eq (C := mval x.opsC 0#64 l) hw hold hb rfl rfl true 0 (by unfold flightOp; rw [hop]; rfl) (by simp only [new, hop]; rfl)
  have samePlain (v a k : Nat) : homePlain (keepVal s gid x l old) v a k = homePlain s v a k := rfl
  have sameRead (v a k : Nat) : homeRead (keepVal s gid x l old) v a k = homeRead s v a k := rfl
  rcases hcases with h | ⟨h, hsame⟩
  · have hs' : s' = homeWrite (keepVal s gid x l old) core x.world pa (leBytes n new) x.after := hnew new h
    obtain ⟨v, hv, hwrote⟩ := homeWriteSkip_placed (s := keepVal s gid x l old) (r := (pa, leBytes n new, [])) hplaced hdoor core x.world x.after
    have hs : s' = _ := hs'.trans hwrote
    have hgroups : s'.groups = (keepVal s gid x l old).groups := by rw [hs, hv]
    have hwrites : s'.writes = s.writes ++ [engineRecord (keepVal s gid x l old) core x.world (pa, leBytes n new, []) x.after] := by rw [hs]; rfl
    have hplain (w a k : Nat) : homePlain s' w a k = homePlain s w a k := by rw [hs, hv]; rfl
    refine ⟨⟨g', by rw [hgroups]; exact hg', hkept⟩, ?_, fun a ha => ?_, ?_⟩
    · have read : homeRead s' x.world pa (leBytes n new).length = leBytes n new := homeRead_written hplain hwrites rfl rfl x.world
      rw [length_leBytes] at read
      rw [read, leNat_leBytes]
    · exact homeRead_beside hplain hwrites rfl x.world (by simpa [engineRecord, length_leBytes] using ha)
    · rw [hs, hv]; rfl
  · have hs' : s' = keepVal s gid x l old := hnone h
    rw [hs']
    refine ⟨⟨g', hg', hkept⟩, ?_, fun a _ => sameRead .., rfl⟩
    rw [sameRead, hsame, Nat.mod_eq_of_lt hold]

end Sys2Proof.Proofs.AtomicOps

namespace Sys2Proof.Proofs.AtomicWords

/-! The words of atomics (O19): what they need at issue, and the operation that one of global memory puts out. -/

open Sys2Proof Sys2Proof.Machine Sys2Proof.Laws Sys2Proof.Proofs.Facts Sys2Proof.Proofs.Issuing Sys2Proof.Proofs.Barriers Sys2Proof.Proofs.Access
open Sys2Proof.Proofs.Paging Sys2Proof.Proofs.Reads Sys2Proof.Proofs.Performed Sys2Proof.Proofs.LoadWords Sys2Proof.Proofs.StoreWords
open Sys2Proof.Proofs.BulkWords Sys2Proof.Proofs.SlotStores Sys2Proof.Proofs.Seen Sys2Proof.Proofs.EngineWrites

/-- The three words of atomics. -/
def atomicInstr (i : Instr) (f : SForm) (x red : Bool) : Prop :=
  (i = .atom f ∧ x = false ∧ red = false) ∨ (i = .atomx f ∧ x = true ∧ red = false) ∨ (i = .red f ∧ x = false ∧ red = true)

theorem exec_atomic {i : Instr} {f : SForm} {x red : Bool} (h : atomicInstr i f x red) (s : State) : exec i s = .next (atomicWord f x red s) := by
  rcases h with ⟨rfl, rfl, rfl⟩ | ⟨rfl, rfl, rfl⟩ | ⟨rfl, rfl, rfl⟩ <;> rfl

/-- The destination of an atomic (R182). -/
def atomDest (f : SForm) (red : Bool) : Dest := if red then .none else .v f.d.toNat (fnBit f 7)

theorem atomDest_isReg (f : SForm) (red : Bool) : (atomDest f red).isReg = !red := by cases red <;> rfl

/-- The bytes of an atomic's operands. -/
def atomSize (f : SForm) : Nat := if fnBit f 7 then 8 else 4

/-- The orderings that release (R185, R196). -/
theorem releases_iff (f : SForm) : ordOf f / 2 = 1 ↔ ordOf f = 2 ∨ ordOf f = 3 := by omega

/-- What comes before an atomic: a release's, or nothing. -/
def atomBase (f : SForm) (S : State) (c : Ctx) (g : Group) (t : Team) (cl : Mask) : State :=
  if ordOf f = 2 ∨ ordOf f = 3 then beforeRelease S c.gid g t cl else S

/-- What an atomic is put behind. -/
def atomBefore (f : SForm) (base : State) (g : Group) (t : Team) : Before :=
  if ordOf f = 2 ∨ ordOf f = 3 then beforeFor base g.core (scopeAgents base g t (atomScope f)) else []

theorem atomBase_eq (f : SForm) (S : State) (c : Ctx) (g : Group) (t : Team) (cl : Mask) :
    (if ordOf f / 2 = 1 then releaseAt S c g t cl (atomScope f) else (S, [])) =
      (atomBase f S c g t cl, atomBefore f (atomBase f S c g t cl) g t) := by
  unfold atomBase atomBefore
  by_cases h : ordOf f = 2 ∨ ordOf f = 3
  · rw [if_pos ((releases_iff f).mpr h), if_pos h, if_pos h]
    rfl
  · rw [if_neg (fun e => h ((releases_iff f).mp e)), if_neg h, if_neg h]

theorem atomBase_performed (f : SForm) (S : State) (c : Ctx) (g : Group) (t : Team) (cl : Mask) :
    performed c.gid { S with copies := (atomBase f S c g t cl).copies } (atomBase f S c g t cl) := by
  unfold atomBase
  split
  · exact beforeRelease_performed ..
  · exact performed_refl ..

/-- The values of an operand in some lanes. -/
def laneVals (o : Opnd) (g : Group) (cl : Mask) : SMap W64 := (lanesOf cl).map (fun l => (l, BitVec.ofNat 64 (o.read g l)))

theorem mval_laneVals (o : Opnd) (g : Group) {cl : Mask} {l : Nat} (h : has cl l = true) :
    mval (laneVals o g cl) 0#64 l = BitVec.ofNat 64 (o.read g l) := by
  unfold mval laneVals
  rw [mget_map, if_pos ((mem_lanesOf ..).mpr h), Option.getD_some]

/-- What an atomic of global memory puts out, of the group `g1` after what comes before it. -/
def atomFlight (f : SForm) (x red : Bool) (c : Ctx) (g g1 : Group) (t : Team) (cl : Mask) (tr : Nat → Nat × Nat) (as : List (Nat × LaneAcc))
    (before : Before) (id : Nat) : Flight :=
  { Flight.blank with
    id := id, op := if x then .atomicX (fnBit f 7) else .atomic f.c.toNat (fnBit f 7), dest := if red then none else some f.d.toNat
    noWrite := f.nw || red, size := atomSize f, latch := g1.latchId, acq := if ordOf f % 2 = 1 then some (atomScope f) else none
    world := t.world, parts := Reading.partsOf tr as, lines := fillLines tr as, opsB := laneVals (Reading.atomB f) g cl
    opsC := laneVals (Reading.atomC f x) g cl, pc := c.pc, twin := pairKey g t, interval := t.interval
    after := before ++ (lanesOf cl).flatMap (fun l => (g1.lane l).fence) }

section
variable {s : State} {c : Ctx} {g : Group} {t : Team} {f : SForm} {x red : Bool} (h : Issuing s c g t) (hq : Undisturbed s g) (htw : t.twin = 0)
  (hr : canRead g [Reading.atomA f, Reading.atomB f, Reading.atomC f x] (atomDest f red)) (hcl : clOf g c f.pg f.pn ≠ 0#32)
  (hok : Reading.allOk (Reading.atomAccesses f g t (clOf g c f.pg f.pn)))
include hr

theorem atomic_meets (u : State) : issueCause u g t ((((Reading.atomA f).needs.and (Reading.atomB f).needs).and (Reading.atomC f x).needs).and
    (atomDest f red).needs) = none :=
  issueCause_and (issueCause_and (issueCause_and (issueCause_operand hr (by simp)) (issueCause_operand hr (by simp))) (issueCause_operand hr (by simp)))
    (issueCause_dest hr)

include h hq htw hcl hok

/-- An atomic of mapped pages that meets no error goes out, and is placed. -/
theorem atomicWord_global (hsp : fnBit f 8 = false)
    (hm : Reading.allMapped s g t 0xB (Reading.vasOf (Reading.atomAccesses f g t (clOf g c f.pg f.pn)))) {base : State} {g1 : Group}
    {tr : Nat → Nat × Nat} (htr : tr = Reading.physOf s g t 0xB (Reading.vasOf (Reading.atomAccesses f g t (clOf g c f.pg f.pn))))
    (hclean : Reading.allClean s t.world (Reading.partsOf tr (Reading.atomAccesses f g t (clOf g c f.pg f.pn))))
    (hbase : base = atomBase f (Reading.looked s g t 0xB (Reading.vasOf (Reading.atomAccesses f g t (clOf g c f.pg f.pn)))).1 c g t (clOf g c f.pg f.pn))
    (hg1 : mget base.groups c.gid = some g1) (hquiet : ∀ k, k ≠ 0 → fijEvent g1 k = (g1, false)) :
    atomicWord f x red s = placeAtomic (launchFlight (escape (endWord base c g1 (!red) []) g1.team) c.gid
        (atomFlight f x red c g g1 t (clOf g c f.pg f.pn) tr (Reading.atomAccesses f g t (clOf g c f.pg f.pn)) (atomBefore f base g t) 0))
      c.gid g1.core base.fresh (fillLines tr (Reading.atomAccesses f g t (clOf g c f.pg f.pn)))
      (Reading.partsOf tr (Reading.atomAccesses f g t (clOf g c f.pg f.pn))) := by
  have looked := pageStates_cachesOnly { s with cur := .idle } g t 0xB (Reading.vasOf (Reading.atomAccesses f g t (clOf g c f.pg f.pn)))
  have same : (lanesOf (clOf g c f.pg f.pn)).map (fun l =>
      (l, if fnBit f 8 then scratchAcc t (((opnd f f.a (fnBit f 10) (lqA f) (!fnBit f 8)).read g l % 2 ^ 32 : Nat))
          (if fnBit f 7 then 8 else 4) (if fnBit f 7 then 8 else 4)
        else globalAcc (BitVec.ofNat 64 ((opnd f f.a (fnBit f 10) (lqA f) (!fnBit f 8)).read g l)) (if fnBit f 7 then 8 else 4))) =
      Reading.atomAccesses f g t (clOf g c f.pg f.pn) := rfl
  subst htr
  unfold atomicWord
  refine (issueWord_issuing h hq.noError (atomic_meets hr _)).trans ?_
  refine (if_neg hcl).trans ?_
  dsimp only
  rw [same]
  generalize Reading.atomAccesses f g t (clOf g c f.pg f.pn) = as at *
  refine ((if_neg (succeeds hok)).trans ((if_neg (by rw [hsp]; decide)).trans ?_))
  refine (withPages_mapped (s := { s with cur := .idle }) h.group h.team (by rw [whoNeeds_lanes]; exact hm)).trans ?_
  rw [whoNeeds_lanes]
  refine (checkedRead_clean (fun p hp q hq => (readError_cachesOnly looked ..).trans (hclean p hp q hq)) ..).trans ?_
  refine (pairOp_alone htw).trans ?_
  unfold Reading.looked at hbase
  unfold Reading.physOf Reading.looked
  generalize pageStates { s with cur := .idle } g t 0xB (Reading.vasOf as) = X at *
  have hb := atomBase_eq f X.1 c g t (clOf g c f.pg f.pn)
  rw [← hbase] at hb
  rw [hb]
  have unmarked : (if red || f.nw then (g1, false) else fijEvent g1 2) = (g1, false) := by rw [hquiet 2 (by decide), ite_self]
  dsimp only
  rw [hg1, Option.getD_some, unmarked]
  have follows : ¬ PairRole.alone = .trailing := by decide
  rw [if_neg follows]
  have := atomDest_isReg f red
  unfold atomDest at this
  rw [this]
  rfl

end

/-! ### Where it goes -/

/-- Placing an atomic changes no group and no team. -/
theorem placeAtomic_sameSeats (s : State) (gid core flight : Nat) (cached : List Nat) (parts : List LanePart) :
    sameSeats s (placeAtomic s gid core flight cached parts) := by
  refine foldl_keeps (P := sameSeats s) (fun u p hu => sameSeats_trans hu ?_) parts ⟨rfl, rfl⟩
  dsimp only
  split
  · have lines := cachesOnly_requestLines u (some core) (128 * ((p.pieces.headD (0, 0, 0)).2.1 / 128)) 128
    exact ⟨by rw [lines]; rfl, by rw [lines]; rfl⟩
  · exact ⟨rfl, rfl⟩

/-- The end of an atomic's word, before it goes out or is performed. -/
theorem escape_endWord {s : State} {c : Ctx} {g : Group} {t : Team} (hl : g.latchLost = false) (hi : imageFree s) (ht : mget s.teams g.team = some t)
    (full : Bool) : escape (endWord s c g full []) g.team = putTeam (putGroup s c.gid (ended c g full)) g.team { t with escaped := true } := by
  rw [endWord_ended hl hi, escape, onTeam_some (s := putGroup s c.gid (ended c g full)) ht]

/-- A word that puts an atomic out ends, its interval is escaped, and the atomic is out under the next number. -/
theorem launch_escaped {s : State} {c : Ctx} {g : Group} {t : Team} (hl : g.latchLost = false) (hi : imageFree s) (ht : mget s.teams g.team = some t)
    (full : Bool) (x : Flight) : launchFlight (escape (endWord s c g full []) g.team) c.gid x =
      { s with fresh := s.fresh + 1, groups := mput s.groups c.gid (launched c g full { x with id := s.fresh })
               teams := mput s.teams g.team { t with escaped := true } } := by
  rw [escape_endWord hl hi ht]
  refine (launchFlight_eq (s := putTeam (putGroup s c.gid (ended c g full)) g.team { t with escaped := true }) ((putGroup_get ..).trans (if_pos rfl)) x).trans ?_
  simp only [putGroup, putTeam, mput_mput]
  rfl

theorem atomicsGoOut : Says.AtomicsGoOut := by
  intro s c g t f i x red h hq htw hi hsp hw cl as vas tr parts d hr hcl hok hmapped hclean s1 release base
  have looked : cachesOnly { s with cur := .idle } s1 := pageStates_cachesOnly ..
  have hperf : performed c.gid { s1 with copies := base.copies } base := atomBase_performed f s1 c g t cl
  have hgroups : s1.groups = s.groups := by rw [looked]
  have hteams : base.teams = s.teams := hperf.teams.trans (by rw [looked])
  obtain ⟨g1, hg1, hflights⟩ := hperf.group (g := g) (by rw [← h.group]; exact congrArg (mget · c.gid) hgroups)
  have hquiet (k : Nat) (hk : k ≠ 0) : fijEvent g1 k = (g1, false) := fijEvent_quiet (by rw [hflights]; exact hq.noInjection) k hk
  have hword := atomicWord_global (x := x) h hq htw hr hcl hok hsp hmapped (tr := tr) rfl hclean (base := base) rfl hg1 hquiet
  have hteam1 : g1.team = g.team := by rw [hflights]
  have hlatch : g1.latchId = g.latchId := by rw [hflights]
  have hend := launch_escaped (c := c) (g := g1) (by rw [hflights]; exact hq.ownLatches) (imageFree_teams hteams hq.noImage)
    (by rw [hteam1, hteams]; exact h.team) (!red) (atomFlight f x red c g g1 t cl tr as (atomBefore f base g t) 0)
  refine ⟨g1, launched c g1 (!red) (atomFlight f x red c g g1 t cl tr as (atomBefore f base g t) base.fresh),
    atomFlight f x red c g g1 t cl tr as (atomBefore f base g t) base.fresh, ?_, hg1, rfl, launched_advanced .., ?_, ?_, rfl, rfl, rfl, rfl, rfl, rfl, rfl, rfl,
    hlatch, rfl, fun l hl => ⟨mval_laneVals _ g hl, mval_laneVals _ g hl⟩, fun hrel w hw hvis => ?_⟩
  · refine (exec_atomic hi s).trans (congrArg Host.Outcome.next (hword.trans ?_))
    rw [hend, hteam1]
    rfl
  · show _ = (⟨g.latchId, _, _⟩ :: g.latches).take 4
    rw [hflights]
    rfl
  · rw [← hlatch]
    rfl
  · refine List.mem_append.mpr (.inl ?_)
    unfold atomBefore
    rw [if_pos hrel]
    exact List.mem_map.mpr ⟨w.id, List.mem_map.mpr ⟨w, List.mem_filter.mpr ⟨hw, hvis⟩, rfl⟩, rfl⟩

end Sys2Proof.Proofs.AtomicWords

namespace Sys2Proof.Proofs.SlotAtomics

/-! An atomic of the slot (O19): a read of its bytes, and a store of the new value unless a compare fails (R164, R173, R183, R184). -/

open Sys2Proof Sys2Proof.Machine Sys2Proof.Laws Sys2Proof.Proofs.Facts Sys2Proof.Proofs.Barriers Sys2Proof.Proofs.Slot Sys2Proof.Proofs.SlotBytes
open Sys2Proof.Proofs.SlotReads Sys2Proof.Proofs.SlotStores

/-! ### An escape stays -/

/-- An interval that is escaped stays so. -/
def staysEscaped (t t' : Team) : Prop := t.escaped = true → t'.escaped = true

theorem staysEscaped_trans (a b c : Team) (h1 : staysEscaped a b) (h2 : staysEscaped b c) : staysEscaped a c := fun h => h2 (h1 h)

theorem logEntry_staysEscaped (s : State) (tid : Nat) (e : UndoEntry) : teamStep staysEscaped tid s (logEntry s tid e) := by
  unfold logEntry
  split
  · exact teamStep_refl (fun _ => id) ..
  · split
    · exact teamStep_refl (fun _ => id) ..
    · split
      · exact onTeam_step (fun _ => id) (fun _ => by rfl) ..
      · exact onTeam_step (fun _ _ => rfl) (fun _ => by rfl) ..

theorem logSlot_staysEscaped (s : State) (tid sec : Nat) : teamStep staysEscaped tid s (logSlot s tid sec) := by
  unfold logSlot
  split
  · exact teamStep_refl (fun _ => id) ..
  · split
    · exact teamStep_refl (fun _ => id) ..
    · exact logEntry_staysEscaped ..

theorem spChange_staysEscaped (s : State) (landing : Bool) (by_ : Option (Nat × Mask)) (tid o : Nat) (bs : List Byte) :
    slotStep staysEscaped tid s (spChange s landing by_ tid o bs) := by
  have same (t t' : Team) (h : t' = t) : staysEscaped t t' := by rw [h]; exact id
  unfold spChange
  split
  · exact slotStep_of_teamStep (teamStep_refl (fun _ => id) ..)
  · have logs := slotStep_of_teamStep (teamStep_foldl (R := fun _ => staysEscaped) (tid := tid) (f := fun s sec => logSlot s tid sec) (fun _ => id)
      (fun s sec => logSlot_staysEscaped s tid sec) (fun _ _ => staysEscaped_trans)
      ((List.range ((o + bs.length - 1) / 32 - o / 32 + 1)).map (· + o / 32)) s)
    have marks := slotStep_trans (P := staysEscaped) logs (markReaders_step _ ((List.range bs.length).map (· + o)) landing tid)
      (fun a b c h1 h2 => staysEscaped_trans a b c h1 (same b c h2))
    exact slotStep_trans (P := staysEscaped) (slotStep_trans (P := staysEscaped) marks (spoilReaders_step _ ((List.range bs.length).map (· + o)) tid _)
      (fun a b c h1 h2 => staysEscaped_trans a b c h1 (same b c h2))) (slotStep_of_teamStep (onTeam_step (fun _ => id) (fun _ => by rfl) ..)) staysEscaped_trans

theorem addRel_spWrite_staysEscaped (s : State) (by_ : Option (Nat × Mask)) (tid o n : Nat) (bs : List Byte) (after : Before) :
    slotStep staysEscaped tid s (addRel (spWrite s by_ tid o bs) tid o n after) := by
  refine slotStep_trans (R := staysEscaped) (Q := staysEscaped) (slotStep_trans (R := staysEscaped) (Q := staysEscaped)
    (slotStep_of_teamStep (onTeam_step (fun _ => id) (fun _ => by rfl) ..)) (spChange_staysEscaped ..) staysEscaped_trans)
    (slotStep_of_teamStep (teamStep_mono (addRel_step ..) fun a b h => ?_)) staysEscaped_trans
  unfold marked at h
  rw [h]
  exact id

/-! ### One atomic -/

/-- An atomic operation on the slot. -/
def isAtomic (op : SpOp) : Prop := (∃ aop wide b, op = .atomic aop wide b) ∨ ∃ wide b c, op = .atomicX wide b c

/-- What an atomic stores of the slot. -/
def atomicStores (x : SpAccess) (old : Nat) : List (Nat × List Byte) :=
  match atomicNew x.op old with
  | some v => [(x.off, leBytes x.size v)]
  | none => []

/-- The stores of an atomic. -/
def storeAtomic (s : State) (gid tid : Nat) (x : SpAccess) (old : Nat) : State :=
  match atomicNew x.op old with
  | some v => addRel (spWrite s (some (gid, x.by_)) tid x.off (leBytes x.size v)) tid x.off x.size x.after
  | none => s

theorem storeAtomic_step (s : State) (gid tid : Nat) (x : SpAccess) (old : Nat) :
    slotStep (slotStored (atomicStores x old)) tid s (storeAtomic s gid tid x old) ∧ slotStep staysEscaped tid s (storeAtomic s gid tid x old) := by
  unfold atomicStores storeAtomic
  split
  · exact ⟨addRel_spWrite_step .., addRel_spWrite_staysEscaped ..⟩
  · exact ⟨slotStep_of_teamStep (teamStep_refl (R := slotStored []) (fun _ => rfl) ..), slotStep_of_teamStep (teamStep_refl (fun _ => id) ..)⟩

theorem spNum_lt (t : Team) (o n : Nat) : spNum t o n < 2 ^ (8 * n) := by
  have := Proofs.AtomicOps.leNat_lt (spBytes t o n)
  rwa [show (spBytes t o n).length = n from memGetBytes_length ..] at this

section
variable {s : State} {gid tid : Nat} {t : Team} {x : SpAccess} (ht : mget s.teams tid = some t) (hop : isAtomic x.op) (hkey : x.key = none)
  (hsize : x.size ≤ 16)
include ht hop hkey hsize

theorem spDo_atomic_eq : spDo s gid tid x = onGroup (storeAtomic (spRead s gid tid t x) gid tid x (spNum t x.off x.size)) gid
    (fun g => spResult g x false x.size (x.lane.getD ((lanesOf x.mask).headD 0)) (spNum t x.off x.size)) := by
  have low : (BitVec.ofNat 128 (spNum t x.off x.size)).toNat = spNum t x.off x.size := by
    rw [BitVec.toNat_ofNat]
    exact Nat.mod_eq_of_lt (Nat.lt_of_lt_of_le (spNum_lt ..) (Nat.pow_le_pow_right (by decide) (by omega)))
  have shape : spDo s gid tid x = onGroup (storeAtomic (spRead s gid tid t x) gid tid x (spNum t x.off x.size)) gid
      (fun g => spResult g x false x.size (x.lane.getD ((lanesOf x.mask).headD 0)) (BitVec.ofNat 128 (spNum t x.off x.size)).toNat) := by
    unfold spDo storeAtomic
    rw [ht, hkey]
    rcases hop with ⟨aop, wide, b, hop⟩ | ⟨wide, b, c, hop⟩ <;> rw [hop] <;> rfl
  rw [shape, low]

/-- An atomic of the slot stores its new value, and its old value enters its group's registers. -/
theorem spDo_atomic {y : Group} (hy : mget s.groups gid = some y) (hw : y.windows = []) :
    ∃ t', mget (spDo s gid tid x).teams tid = some t' ∧ slotStored (atomicStores x (spNum t x.off x.size)) t t' ∧ staysEscaped t t' ∧
      mget (spDo s gid tid x).groups gid =
        some (spResult y x false x.size (x.lane.getD ((lanesOf x.mask).headD 0)) (spNum t x.off x.size)) := by
  have hread := spRead_seen s gid tid t x
  obtain ⟨t1, ht1, hseen⟩ := hread.team t ht
  obtain ⟨hstep, hesc⟩ := storeAtomic_step (spRead s gid tid t x) gid tid x (spNum t x.off x.size)
  obtain ⟨t2, ht2, hstored⟩ := hstep.team t1 ht1
  obtain ⟨t3, ht3, hstays⟩ := hesc.team t1 ht1
  obtain rfl : t2 = t3 := Option.some.inj (ht2.symm.trans ht3)
  obtain ⟨y', hy', -, hclosed⟩ := hstep.group (by rw [hread.groups]; exact hy)
  rw [hclosed hw] at hy'
  rw [spDo_atomic_eq ht hop hkey hsize, onGroup_some hy']
  refine ⟨t2, ht2, ?_, ?_, (putGroup_get ..).trans (if_pos rfl)⟩
  · unfold slotStored seenTeam at *
    rw [hstored, hseen]
  · unfold seenTeam at hseen
    intro h
    exact hstays (by rw [hseen]; exact h)

end

/-- A value that enters a lane's registers changes registers and latch entries alone. -/
theorem finishLoad_valuesOnly {g : Group} (hp : plainRegs g) (nw sx : Bool) (d : Option Nat) (n latch l x : Nat) :
    valuesOnly g (finishLoad g false nw sx d n latch l x) := by
  have put (r x : Nat) : plainRegs (putLoad g false r n l x) ∧ valuesOnly g (putLoad g false r n l x) :=
    foldl_keeps (P := fun y => plainRegs y ∧ valuesOnly g y) (fun y i hy => by
      obtain ⟨hplain, hvalues⟩ := hy
      dsimp only
      rw [if_neg Bool.false_ne_true, vWrite_closed hplain.1 hplain.2]
      exact ⟨hplain, valuesOnly_trans hvalues rfl⟩) _ ⟨hp, rfl⟩
  cases d with
  | none => rfl
  | some r =>
    unfold finishLoad
    dsimp only
    rw [if_neg Bool.false_ne_true]
    split
    · rfl
    · exact valuesOnly_trans (put r _).2 rfl

/-- An atomic of a word, of present sectors, that no twin repeats. -/
structure WordAtomic (t : Team) (x : SpAccess) : Prop where
  op : isAtomic x.op
  key : x.key = none
  size : x.size ≤ 16
  uniform : x.uniform = false
  inject : x.inject = false
  present : absentSector t x.off x.size = none

theorem spResult_atomic {t : Team} {x : SpAccess} (h : WordAtomic t x) (y : Group) (l v : Nat) :
    spResult y x false x.size l v = finishLoad y false x.noWrite false x.dest x.size x.latch l v := by
  unfold spResult
  rw [h.inject, h.uniform]
  rfl

/-- The atomics of a word change, of their group, registers and latch entries alone; an escaped interval stays so. -/
theorem spRun_atomics {gid tid : Nat} {t : Team} {xs : List SpAccess} (hx : ∀ x ∈ xs, WordAtomic t x) {s : State} {t1 : Team} {y : Group}
    (ht : mget s.teams tid = some t1) (hsame : t1.absent = t.absent) (hesc : t1.escaped = true) (hy : mget s.groups gid = some y) (hp : plainRegs y) :
    ∃ t' y', mget (spRun s gid tid xs).teams tid = some t' ∧ t'.escaped = true ∧ mget (spRun s gid tid xs).groups gid = some y' ∧ valuesOnly y y' := by
  induction xs generalizing s t1 y with
  | nil => exact ⟨t1, y, ht, hesc, hy, rfl⟩
  | cons x xs ih =>
    have here := hx x List.mem_cons_self
    obtain ⟨t2, ht2, hstored, hstays, hy2⟩ := spDo_atomic ht here.op here.key here.size hy hp.1
    rw [spResult_atomic here] at hy2
    have values := finishLoad_valuesOnly hp x.noWrite false x.dest x.size x.latch (x.lane.getD ((lanesOf x.mask).headD 0)) (spNum t1 x.off x.size)
    have present : absentSector t1 x.off x.size = none := by
      have := here.present
      unfold absentSector at this ⊢
      rw [hsame]
      exact this
    rw [spRun_cons ht present]
    obtain ⟨t', y', ht', hesc', hy', hvalues⟩ := ih (fun z hz => hx z (List.mem_cons_of_mem _ hz)) ht2 (by rw [hstored]; exact hsame) (hstays hesc) hy2
      (plainRegs_valuesOnly values hp)
    exact ⟨t', y', ht', hesc', hy', valuesOnly_trans values hvalues⟩

end Sys2Proof.Proofs.SlotAtomics

namespace Sys2Proof.Proofs.AtomicEnds

/-! How the words of atomics end (O19): those of the slot are performed at once, and every one of them escapes its interval. -/

open Sys2Proof Sys2Proof.Machine Sys2Proof.Laws Sys2Proof.Proofs.Facts Sys2Proof.Proofs.Issuing Sys2Proof.Proofs.Barriers Sys2Proof.Proofs.Seen
open Sys2Proof.Proofs.Performed Sys2Proof.Proofs.LoadWords Sys2Proof.Proofs.SlotReads Sys2Proof.Proofs.SlotLoads Sys2Proof.Proofs.BulkWords
open Sys2Proof.Proofs.SlotBytes Sys2Proof.Proofs.SlotStores Sys2Proof.Proofs.AtomicOps Sys2Proof.Proofs.AtomicWords Sys2Proof.Proofs.SlotAtomics
open Sys2Proof.Proofs.BulkCredits Sys2Proof.Proofs.Paging Sys2Proof.Proofs.FloatingPoint

/-- The offset in the slot of a lane's atomic (R156). -/
def atomOff (f : SForm) (g : Group) (l : Nat) : Nat := (Reading.atomA f).read g l % 2 ^ 32

/-- The access of a lane's atomic. -/
def atomAcc (f : SForm) (g : Group) (t : Team) (l : Nat) : LaneAcc :=
  if fnBit f 8 then scratchAcc t (((Reading.atomA f).read g l % 2 ^ 32 : Nat) : Int) (atomSize f) (atomSize f)
  else globalAcc (BitVec.ofNat 64 ((Reading.atomA f).read g l)) (atomSize f)

theorem atomAccesses_eq (f : SForm) (g : Group) (t : Team) (cl : Mask) :
    Reading.atomAccesses f g t cl = (lanesOf cl).map (fun l => (l, atomAcc f g t l)) := rfl

/-- The access of the slot that an atomic makes in a lane. -/
def slotAtomic (f : SForm) (x red : Bool) (c : Ctx) (g g1 : Group) (t : Team) (cl : Mask) (before : Before) (p : Nat × Nat) : SpAccess :=
  { lane := some p.1, mask := maskOf [p.1], by_ := maskOf [p.1], sec := 0, off := p.2, size := atomSize f
    op := if x then .atomicX (fnBit f 7) (mval (laneVals (Reading.atomB f) g cl) 0#64 p.1) (mval (laneVals (Reading.atomC f x) g cl) 0#64 p.1)
      else .atomic f.c.toNat (fnBit f 7) (mval (laneVals (Reading.atomB f) g cl) 0#64 p.1)
    dest := if red then none else some f.d.toNat, uniform := false, noWrite := f.nw, sx := false, latch := g1.latchId
    pc := c.pc, key := pairKey g t, inject := false, interval := t.interval
    acq := if ordOf f % 2 = 1 then some (atomScope f) else none, after := before ++ (g1.lane p.1).fence }

section
variable {s : State} {c : Ctx} {g : Group} {t : Team} {f : SForm} {x red : Bool} (h : Issuing s c g t) (hq : Undisturbed s g) (htw : t.twin = 0)
  (hsp : fnBit f 8 = true) (hr : canRead g [Reading.atomA f, Reading.atomB f, Reading.atomC f x] (atomDest f red)) (hcl : clOf g c f.pg f.pn ≠ 0#32)
  (hok : Reading.allOk (Reading.atomAccesses f g t (clOf g c f.pg f.pn)))

include hsp hok

/-- Good atomics of the slot are at their lanes' offsets. -/
theorem atomAcc_slot {l : Nat} (hl : l ∈ lanesOf (clOf g c f.pg f.pn)) : atomAcc f g t l = .ok [(atomOff f g l, atomSize f)] := by
  have shape : atomAcc f g t l = scratchAcc t (((Reading.atomA f).read g l % 2 ^ 32 : Nat) : Int) (atomSize f) (atomSize f) := if_pos hsp
  obtain ⟨ps, hps⟩ := hok (l, atomAcc f g t l) (List.mem_map_of_mem (f := fun l => (l, atomAcc f g t l)) hl)
  dsimp only at hps
  rw [hps]
  rw [shape] at hps
  exact congrArg LaneAcc.ok (scratchAcc_ok hps)

theorem atomOffs : (Reading.atomAccesses f g t (clOf g c f.pg f.pn)).map (fun p => (p.1, (p.2.pieces.headD (0, 0)).1)) =
    (lanesOf (clOf g c f.pg f.pn)).map (fun l => (l, atomOff f g l)) := by
  refine (List.map_map (f := fun l => (l, atomAcc f g t l)) ..).trans (List.map_congr_left fun l hl => ?_)
  rw [Function.comp_apply, atomAcc_slot hsp hok hl]
  rfl

include h hq htw hr hcl

/-- An atomic of present sectors of the slot, free of errors, is performed as its word ends. -/
theorem atomicWord_slot (hpres : ∀ l ∈ lanesOf (clOf g c f.pg f.pn), spBad t (atomOff f g l) (atomSize f) = false) {base : State} {g1 : Group}
    (hbase : base = atomBase f (putGroup { s with cur := .idle } c.gid g) c g t (clOf g c f.pg f.pn)) (hg1 : mget base.groups c.gid = some g1)
    (hquiet : ∀ k, k ≠ 0 → fijEvent g1 k = (g1, false)) :
    atomicWord f x red s = spRun (escape (endWord base c g1 (!red) []) g1.team) c.gid g1.team
      ((lanesOf (clOf g c f.pg f.pn)).map (fun l => slotAtomic f x red c g g1 t (clOf g c f.pg f.pn) (atomBefore f base g t) (l, atomOff f g l))) := by
  have quiet {k : Nat} (hk : k ≠ 0) := fijEvent_quiet hq.noInjection k hk
  have same : (lanesOf (clOf g c f.pg f.pn)).map (fun l =>
      (l, if fnBit f 8 then scratchAcc t (((opnd f f.a (fnBit f 10) (lqA f) (!fnBit f 8)).read g l % 2 ^ 32 : Nat))
          (if fnBit f 7 then 8 else 4) (if fnBit f 7 then 8 else 4)
        else globalAcc (BitVec.ofNat 64 ((opnd f f.a (fnBit f 10) (lqA f) (!fnBit f 8)).read g l)) (if fnBit f 7 then 8 else 4))) =
      Reading.atomAccesses f g t (clOf g c f.pg f.pn) := rfl
  have clean : ((lanesOf (clOf g c f.pg f.pn)).map (fun l => (l, atomOff f g l))).filter
      (fun p => (absentSector t p.2 (if fnBit f 7 then 8 else 4)).isNone && spBad t p.2 (if fnBit f 7 then 8 else 4)) = [] := by
    rw [List.filter_eq_nil_iff]
    intro p hp
    obtain ⟨l, hl, rfl⟩ := List.mem_map.mp hp
    have := hpres l hl
    unfold atomSize at this
    simp [this]
  unfold atomicWord
  refine (issueWord_issuing h hq.noError (atomic_meets hr _)).trans ?_
  refine (if_neg hcl).trans ?_
  dsimp only
  rw [same]
  refine ((if_neg (succeeds hok)).trans ((if_pos hsp).trans ?_))
  refine (pairOp_alone htw).trans ?_
  rw [quiet (by decide), atomOffs hsp hok]
  dsimp only
  rw [clean]
  refine (if_neg Bool.false_ne_true).trans ?_
  dsimp only
  have hb := atomBase_eq f (putGroup { s with cur := .idle } c.gid g) c g t (clOf g c f.pg f.pn)
  rw [← hbase] at hb
  unfold putGroup at hb
  rw [hb]
  have unmarked : (if red || f.nw then (g1, false) else fijEvent g1 2) = (g1, false) := by rw [hquiet 2 (by decide), ite_self]
  dsimp only
  rw [hg1, Option.getD_some, unmarked]
  have := atomDest_isReg f red
  unfold atomDest at this
  dsimp only
  rw [this]
  show spRun _ c.gid g1.team (List.map (fun p => slotAtomic f x red c g g1 t (clOf g c f.pg f.pn) (atomBefore f base g t) p.1) (List.zipIdx _)) = _
  rw [zipIdx_map_left, List.map_map]
  rfl

end

theorem slotAtomic_isAtomic (f : SForm) (x red : Bool) (c : Ctx) (g g1 : Group) (t : Team) (cl : Mask) (before : Before) (p : Nat × Nat) :
    isAtomic (slotAtomic f x red c g g1 t cl before p).op := by
  cases x with
  | false => exact .inl ⟨_, _, _, rfl⟩
  | true => exact .inr ⟨_, _, _, rfl⟩

theorem atomSize_cases (f : SForm) : atomSize f = 4 ∨ atomSize f = 8 := by
  unfold atomSize
  split
  · exact .inr rfl
  · exact .inl rfl

theorem slotAtomic_ok {f : SForm} {t : Team} {p : Nat × Nat} (htw : t.twin = 0) (hpres : absentSector t p.2 (atomSize f) = none) (x red : Bool) (c : Ctx)
    (g g1 : Group) (cl : Mask) (before : Before) : WordAtomic t (slotAtomic f x red c g g1 t cl before p) :=
  ⟨slotAtomic_isAtomic .., if_pos htw, by have := atomSize_cases f; show atomSize f ≤ 16; omega, rfl, rfl, hpres⟩

/-- A group at the end of a word, whatever it has out. -/
theorem ended_flights {g g1 : Group} (h : flightsChange g g1) (c : Ctx) (full : Bool) : advanced c g (ended c g1 full) ∧ (ended c g1 full).latchId = g.latchId + 1 := by
  have := ended_advanced c g1 full
  unfold flightsChange at h
  rw [h] at this ⊢
  exact ⟨this, rfl⟩

theorem ended_plain {s : State} {g g1 : Group} (hq : Undisturbed s g) (h : flightsChange g g1) (c : Ctx) (full : Bool) : plainRegs (ended c g1 full) := by
  unfold flightsChange at h
  rw [h]
  exact ⟨hq.noWindow, hq.noError⟩

section
variable {s : State} {c : Ctx} {g : Group} {t : Team} {f : SForm} {x red : Bool} (h : Issuing s c g t) (hq : Undisturbed s g) (htw : t.twin = 0)
  (hsp : fnBit f 8 = true) (hr : canRead g [Reading.atomA f, Reading.atomB f, Reading.atomC f x] (atomDest f red)) (hcl : clOf g c f.pg f.pn ≠ 0#32)
  (hok : Reading.allOk (Reading.atomAccesses f g t (clOf g c f.pg f.pn)))
include h hq htw hsp hr hcl hok

/-- An atomic of the slot acts on a machine in which its word has ended and its interval is escaped. -/
theorem atomicWord_ends (hsound : ∀ l ∈ lanesOf (clOf g c f.pg f.pn), spBad t (atomOff f g l) (atomSize f) = false) :
    ∃ base g1, flightsChange g g1 ∧ base.teams = s.teams ∧ atomicWord f x red s =
      spRun (putTeam (putGroup base c.gid (ended c g1 (!red))) g.team { t with escaped := true }) c.gid g.team
        ((lanesOf (clOf g c f.pg f.pn)).map (fun l => slotAtomic f x red c g g1 t (clOf g c f.pg f.pn) (atomBefore f base g t) (l, atomOff f g l))) := by
  have hperf := atomBase_performed f (putGroup { s with cur := .idle } c.gid g) c g t (clOf g c f.pg f.pn)
  generalize hbase : atomBase f (putGroup { s with cur := .idle } c.gid g) c g t (clOf g c f.pg f.pn) = base at hperf
  obtain ⟨g1, hg1, hflights⟩ := hperf.group (g := g) ((putGroup_get ..).trans (if_pos rfl))
  have hteams : base.teams = s.teams := hperf.teams
  have hteam1 : g1.team = g.team := by rw [hflights]
  have hword := atomicWord_slot h hq htw hsp hr hcl hok hsound hbase.symm hg1
    (fun k hk => fijEvent_quiet (by rw [hflights]; exact hq.noInjection) k hk)
  rw [escape_endWord (t := t) (by rw [hflights]; exact hq.ownLatches) (imageFree_teams hteams hq.noImage) (by rw [hteam1, hteams]; exact h.team), hteam1] at hword
  exact ⟨base, g1, hflights, hteams, hword⟩

end

theorem atomicsComplete : Says.AtomicsComplete := by
  intro s c g t f i x red h hq htw hi hw n as vas hr hcl hok hglobal hslot
  cases hsp : fnBit f 8 with
  | false =>
    obtain ⟨hm, hclean⟩ := hglobal hsp
    obtain ⟨g1, g', fl, hexec, hg1, -, hadv, -, hrest, -⟩ := atomicsGoOut s c g t f i x red h hq htw hi hsp hw hr hcl hok hm hclean
    have looked : cachesOnly { s with cur := .idle } (Reading.looked s g t 0xB vas).1 := pageStates_cachesOnly ..
    have hgroups : (Reading.looked s g t 0xB vas).1.groups = s.groups := by rw [looked]
    obtain ⟨g2, hg2, hflights⟩ := (atomBase_performed f (Reading.looked s g t 0xB vas).1 c g t (clOf g c f.pg f.pn)).group (g := g)
      (by rw [← h.group]; exact congrArg (mget · c.gid) hgroups)
    obtain rfl : g1 = g2 := Option.some.inj (hg1.symm.trans hg2)
    refine ⟨_, hexec, ⟨g', ?_, ?_, by rw [hrest]⟩, ?_⟩
    · exact (congrArg (mget · c.gid) (placeAtomic_sameSeats ..).2).trans ((mget_mput ..).trans (if_pos rfl))
    · unfold flightsChange at hflights
      rw [hflights] at hadv
      exact hadv
    · refine (congrArg (fun m => (mget m g.team).map (·.escaped)) (placeAtomic_sameSeats ..).1).trans ?_
      exact congrArg (Option.map Team.escaped) ((mget_mput ..).trans (if_pos rfl))
  | true =>
    have hok' : Reading.allOk (Reading.atomAccesses f g t (clOf g c f.pg f.pn)) := hok
    have here {l : Nat} (hl : l ∈ lanesOf (clOf g c f.pg f.pn)) : absentSector t (atomOff f g l) (atomSize f) = none ∧ spBad t (atomOff f g l) (atomSize f) = false :=
      hslot hsp (l, atomAcc f g t l) (List.mem_map_of_mem (f := fun l => (l, atomAcc f g t l)) hl) (atomOff f g l, atomSize f)
        (by rw [atomAcc_slot hsp hok' hl]; exact List.mem_singleton.mpr rfl)
    obtain ⟨base, g1, hflights, hteams, hword⟩ := atomicWord_ends h hq htw hsp hr hcl hok' fun l hl => (here hl).2
    obtain ⟨t', y', ht', hesc, hy', hvalues⟩ := spRun_atomics (gid := c.gid) (t := t) (t1 := { t with escaped := true })
      (s := putTeam (putGroup base c.gid (ended c g1 (!red))) g.team { t with escaped := true })
      (xs := (lanesOf (clOf g c f.pg f.pn)).map (fun l => slotAtomic f x red c g g1 t (clOf g c f.pg f.pn) (atomBefore f base g t) (l, atomOff f g l)))
      (fun z hz => by
        obtain ⟨l, hl, rfl⟩ := List.mem_map.mp hz
        exact slotAtomic_ok htw (here hl).1 ..)
      ((putTeam_get ..).trans (if_pos rfl)) rfl rfl ((putGroup_get ..).trans (if_pos rfl)) (ended_plain hq hflights c (!red))
    obtain ⟨hadv, hlatch⟩ := ended_flights hflights c (!red)
    unfold valuesOnly at hvalues
    refine ⟨_, (exec_atomic hi s).trans (congrArg Host.Outcome.next hword), ⟨y', hy', ?_, ?_⟩, ?_⟩
    · rw [hvalues]
      exact hadv
    · rw [hvalues]
      exact hlatch
    · rw [ht']
      exact congrArg some hesc

/-! ### One lane's atomic of the slot -/

theorem spBytes_stored {o : Nat} {bs : List Byte} {t t' : Team} (h : slotStored [(o, bs)] t t') : spBytes t' o bs.length = bs := by
  refine List.ext_getElem (memGetBytes_length ..) fun i hi hb => ?_
  have byte := spBytes_getD t' o hb
  rw [List.getD_eq_getElem _ _ hi] at byte
  rw [byte, h]
  refine (memGet_memPutBytes ..).trans ((if_pos ⟨Nat.le_add_right .., Nat.add_lt_add_left hb o⟩).trans ?_)
  rw [Nat.add_sub_cancel_left, List.getD_eq_getElem _ _ hb]

/-- The slot after an atomic holds its new value, and every other byte is as it was. -/
theorem atomicStores_value {x : SpAccess} {new : Nat} {t t' : Team}
    (hnew : atomicNew x.op (spNum t x.off x.size) = some new ∨ (atomicNew x.op (spNum t x.off x.size) = none ∧ new = spNum t x.off x.size))
    (h : slotStored (atomicStores x (spNum t x.off x.size)) t t') :
    spNum t' x.off x.size = new % 2 ^ (8 * x.size) ∧ ∀ a, a < x.off ∨ x.off + x.size ≤ a → memGet t'.sp a = memGet t.sp a := by
  unfold atomicStores at h
  rcases hnew with hv | ⟨hv, hsame⟩
  · rw [hv] at h
    have bytes := spBytes_stored h
    rw [length_leBytes] at bytes
    refine ⟨?_, fun a ha => ?_⟩
    · rw [spNum, bytes, leNat_leBytes]
    · rw [h]
      refine (memGet_memPutBytes ..).trans (if_neg ?_)
      rw [length_leBytes]
      omega
  · rw [hv] at h
    rw [h]
    exact ⟨by rw [hsame, Nat.mod_eq_of_lt (spNum_lt ..)]; rfl, fun a _ => rfl⟩

/-- The registers of an atomic are those of a load of its size. -/
theorem loadedReg_vpart (f : SForm) (x r : Nat) : Reading.loadedReg (atomSize f) false f.d.toNat x r = vpart (.v f.d.toNat (fnBit f 7)) r x := by
  unfold atomSize Reading.loadedReg vpart
  cases fnBit f 7 with
  | false =>
    by_cases hr : r = f.d.toNat
    · simp [hr]
    · simp [hr]
      omega
  | true =>
    by_cases hr : r = f.d.toNat
    · simp [hr]
    · by_cases hr1 : r = f.d.toNat + 1
      · simp [hr1]
      · have out : ¬ (f.d.toNat ≤ r ∧ r < f.d.toNat + 2) := by omega
        simp [hr, hr1, out]

/-- The old value enters the registers of the lane, but those of RED. -/
theorem atomicResult {y : Group} (hp : plainRegs y) (f : SForm) (red : Bool) (latch old : Nat) {l : Nat} (hl : l < 32) (hlive : (y.lane l).st = .active) :
    let y' := finishLoad y false f.nw false (if red then none else some f.d.toNat) (atomSize f) latch l old
    valuesOnly y y' ∧ y'.u = y.u ∧ ∀ r j, j < 32 →
      vRaw y' r j = if j = l ∧ red = false ∧ f.nw = false then (vpart (atomDest f red) r old).getD (vRaw y r j) else vRaw y r j := by
  cases red with
  | true => exact ⟨rfl, rfl, fun r j _ => (if_neg (by simp)).symm⟩
  | false =>
    obtain ⟨hvalues, hu, hregs⟩ := finishLoad_lane (d := f.d.toNat) (n := atomSize f) hp (by have := atomSize_cases f; omega) f.nw false latch old hl hlive
    refine ⟨hvalues, hu, fun r j hj => (hregs r j hj).trans ?_⟩
    rw [loadedReg_vpart]
    exact if_congr (by simp) rfl rfl

/-- The number that an atomic's operand B is (R182). -/
theorem atomB_value (f : SForm) (g : Group) (l : Nat) :
    (BitVec.ofNat 64 ((Reading.atomB f).read g l)).toNat = (Reading.atomB f).read g l % 2 ^ (8 * atomSize f) := by
  rw [BitVec.toNat_ofNat]
  unfold Reading.atomB atomSize
  cases fnBit f 7 with
  | true => rfl
  | false =>
    have := read_lt (f := f) f.b (fnBit f 9) (lqB f) g l
    rw [if_neg Bool.false_ne_true]
    omega

/-- The new value of a lane's atomic (R183, R184). -/
def atomNew (f : SForm) (x : Bool) (g : Group) (l old : Nat) : Nat :=
  let b := (Reading.atomB f).read g l % 2 ^ (8 * atomSize f)
  if x then if old = b then (Reading.atomC f x).read g l % 2 ^ (8 * atomSize f) else old else Reading.aopResult (8 * atomSize f) f.c.toNat old b

theorem slotAtomic_new {f : SForm} {g : Group} {cl : Mask} {l old : Nat} (hin : has cl l = true) (hold : old < 2 ^ (8 * atomSize f)) (x red : Bool) (c : Ctx)
    (g1 : Group) (t : Team) (before : Before) (o : Nat) :
    atomicNew (slotAtomic f x red c g g1 t cl before (l, o)).op old = some (atomNew f x g l old) ∨
      (atomicNew (slotAtomic f x red c g g1 t cl before (l, o)).op old = none ∧ atomNew f x g l old = old) := by
  have hB : (mval (laneVals (Reading.atomB f) g cl) 0#64 l).toNat = (Reading.atomB f).read g l % 2 ^ (8 * atomSize f) := by
    rw [mval_laneVals _ g hin]
    exact atomB_value f g l
  have hC : (mval (laneVals (Reading.atomC f x) g cl) 0#64 l).toNat % 2 ^ (8 * atomSize f) = (Reading.atomC f x).read g l % 2 ^ (8 * atomSize f) := by
    rw [mval_laneVals _ g hin, BitVec.toNat_ofNat]
    exact Nat.mod_mod_of_dvd _ (Nat.pow_dvd_pow 2 (by have := atomSize_cases f; omega))
  have hw : 8 * atomSize f = wOf (fnBit f 7) := by unfold atomSize; cases fnBit f 7 <;> rfl
  refine atomicNew_eq hw hold (Nat.mod_lt _ (Nat.pow_pos (by decide))) hB rfl x f.c.toNat rfl ?_
  rw [hC]
  rfl

theorem lanesOf_one : ∀ l < 32, lanesOf (1#32 <<< l) = [l] := by decide

theorem scratchAtomicsAct : Says.ScratchAtomicsAct := by
  intro s c g t f i x red l h hq htw hi hsp hw hlive hcl hl n o d hr hacc hpres hsound old b new
  have hone : lanesOf (clOf g c f.pg f.pn) = [l] := by rw [hcl]; exact lanesOf_one l hl
  have hin : has (clOf g c f.pg f.pn) l = true := (mem_lanesOf ..).mp (by rw [hone]; exact List.mem_singleton.mpr rfl)
  have hsome : clOf g c f.pg f.pn ≠ 0#32 := fun e => by rw [lanesOf_eq_nil.mpr e] at hone; cases hone
  have hok : Reading.allOk (Reading.atomAccesses f g t (clOf g c f.pg f.pn)) := by
    rw [atomAccesses_eq, hone]
    intro p hp
    rw [List.mem_singleton.mp hp]
    exact ⟨[(o, n)], (if_pos hsp).trans hacc⟩
  obtain ⟨base, g1, hflights, -, hword⟩ := atomicWord_ends (x := x) h hq htw hsp hr hsome hok fun k hk => by
    rw [hone, List.mem_singleton] at hk
    rw [hk]
    exact hsound
  set acc := slotAtomic f x red c g g1 t (clOf g c f.pg f.pn) (atomBefore f base g t) (l, atomOff f g l)
  have hacc' : WordAtomic t acc := slotAtomic_ok (p := (l, atomOff f g l)) htw hpres ..
  have hplain := ended_plain hq hflights c (!red)
  obtain ⟨t', ht', hstored, hstays, hy⟩ := spDo_atomic (s := putTeam (putGroup base c.gid (ended c g1 (!red))) g.team { t with escaped := true })
    (gid := c.gid) (tid := g.team) (t := { t with escaped := true }) (x := acc) (y := ended c g1 (!red))
    ((putTeam_get ..).trans (if_pos rfl)) hacc'.op hacc'.key hacc'.size ((putGroup_get ..).trans (if_pos rfl)) hplain.1
  rw [spResult_atomic hacc'] at hy
  replace hy : _ = some (finishLoad (ended c g1 (!red)) false f.nw false (if red then none else some f.d.toNat) (atomSize f) g1.latchId l old) := hy
  obtain ⟨hvalue, hbeside⟩ := atomicStores_value (x := acc) (new := new) (t := { t with escaped := true })
    (slotAtomic_new hin (spNum_lt t o n) x red c g1 t (atomBefore f base g t) o) hstored
  have hactive : ((ended c g1 (!red)).lane l).st = .active := by
    rw [ended_lane_st, hflights]
    exact hlive l (clOf_issue hin)
  obtain ⟨hvalues, hu, hregs⟩ := atomicResult hplain f red g1.latchId old hl hactive
  generalize finishLoad (ended c g1 (!red)) false f.nw false (if red then none else some f.d.toNat) (atomSize f) g1.latchId l old = y at hy hvalues hu hregs
  have hrun : atomicWord f x red s = spDo (putTeam (putGroup base c.gid (ended c g1 (!red))) g.team { t with escaped := true }) c.gid g.team acc := by
    rw [hword, hone]
    exact spRun_cons (t := { t with escaped := true }) ((putTeam_get ..).trans (if_pos rfl)) hacc'.present []
  refine ⟨_, t', g1, y, (exec_atomic hi s).trans (congrArg Host.Outcome.next hrun), ht', hy, hstays rfl, hvalue, hbeside, hflights, ?_, ?_, ?_⟩
  · unfold valuesOnly at hvalues
    rw [hvalues]
    exact (ended_flights hflights c (!red)).1
  · intro r j hj
    refine (hregs r j hj).trans ?_
    rw [hflights]
    rfl
  · have hlatch : g1.latchId = g.latchId := by rw [hflights]
    unfold valuesOnly at hvalues
    rw [hvalues, hu, ← hlatch]
    rfl

/-- Settles O19: an atomic goes out to be performed, is performed whole at its home, and one of the slot is performed as its word ends. -/
theorem atomics : Obligations.Atomics := ⟨atomicsComplete, atomicsGoOut, Proofs.AtomicOps.atomicsAct, scratchAtomicsAct⟩

end Sys2Proof.Proofs.AtomicEnds
